-- ==== Sys2Proof/Word.lean ====
section
/-! DEFINITION. Word.lean: the word types of the HF8 (00 R5: bit 0 is least significant) and their plainest
arithmetic. Nothing here is specific to an instruction. -/

namespace Sys2Proof

abbrev Byte := BitVec 8
abbrev W16 := BitVec 16
abbrev W32 := BitVec 32
abbrev W64 := BitVec 64
/-- A tensor handle register (04 R87). -/
abbrev Handle := BitVec 256

/-- A WAIT or SIGNAL pair as the command word carries it (02 R35, R36). -/
structure Tok where
  wait : BitVec 8
  sig : BitVec 8
  deriving DecidableEq, Repr

/-- The four streams of a sequencer (01 R16). -/
inductive Stream where
  | ct | ld | cp | sd
  deriving DecidableEq, Repr

/-- The stream index of 01 R16. -/
def Stream.index : Stream → Nat
  | .ct => 0
  | .ld => 1
  | .cp => 2
  | .sd => 3

/-- The stream of an index of 01 R16, modulo four. -/
def Stream.ofIndex (n : Nat) : Stream :=
  match n % 4 with
  | 0 => .ct
  | 1 => .ld
  | 2 => .cp
  | _ => .sd

end Sys2Proof
end

