-- ==== Sys2Proof/Machine/Store.lean ====
section
/-! DEFINITION. Store.lean: sparse maps from numbers to values in one canonical form (keys strictly rising, no entry equal to
the default), which every memory, register file and table of the machine uses, so that equal contents are equal data. -/

namespace Sys2Proof.Machine

/-- A sparse map: unlisted keys hold a default that the accessor names. `SMap Byte` is a list of `Host.Cell`. -/
abbrev SMap (α : Type) := List (Nat × α)

/-- The value at a key. -/
def sget {α : Type} (d : α) (k : Nat) : SMap α → α
  | [] => d
  | (a, v) :: r => if a = k then v else sget d k r

/-- Writes a value at a key, keeping the canonical form. -/
def sset {α : Type} [DecidableEq α] (d : α) (k : Nat) (v : α) : SMap α → SMap α
  | [] => if v = d then [] else [(k, v)]
  | (a, w) :: r =>
    if k < a then (if v = d then (a, w) :: r else (k, v) :: (a, w) :: r)
    else if k = a then (if v = d then r else (k, v) :: r)
    else (a, w) :: sset d k v r

/-- The keys rise strictly. -/
def keysRise {α : Type} : SMap α → Bool
  | [] => true
  | (_, _) :: [] => true
  | (a, _) :: (b, w) :: r => decide (a < b) && keysRise ((b, w) :: r)

/-- The canonical form: keys strictly rising, no entry equal to the default. -/
def swf {α : Type} [DecidableEq α] (d : α) (m : SMap α) : Bool := keysRise m && m.all (fun x => decide (x.2 ≠ d))

/-- Memory: bytes by physical key (see `Space`); an unlisted byte reads 0 (DESIGN CHOICE, log entry 2). -/
abbrev Memory := List Host.Cell

/-- The canonical form of memory. -/
def Memory.wf (m : Memory) : Bool := swf (0 : Byte) m

def readByte (m : Memory) (k : Nat) : Byte := sget 0 k m
def writeByte (m : Memory) (k : Nat) (v : Byte) : Memory := sset 0 k v m

/-- n bytes from key k upward. -/
def readBytes (m : Memory) (k : Nat) : Nat → List Byte
  | 0 => []
  | n + 1 => readByte m k :: readBytes m (k + 1) n

/-- Writes bytes from key k upward. -/
def writeBytes (m : Memory) (k : Nat) : List Byte → Memory
  | [] => m
  | b :: r => writeBytes (writeByte m k b) (k + 1) r

/-- Little-endian value of bytes (02 R35, 03 R68). -/
def leNat : List Byte → Nat
  | [] => 0
  | b :: r => b.toNat + 256 * leNat r

/-- The n little-endian bytes of a value. -/
def leBytes (v : Nat) : Nat → List Byte
  | 0 => []
  | n + 1 => BitVec.ofNat 8 v :: leBytes (v / 256) n

/-- A little-endian unsigned value of n bytes in memory. -/
def readLe (m : Memory) (k n : Nat) : Nat := leNat (readBytes m k n)
def writeLe (m : Memory) (k v n : Nat) : Memory := writeBytes m k (leBytes v n)

/-- Writes a value at a key without dropping defaults: for tables of structures. -/
def sput {α : Type} (k : Nat) (v : α) : SMap α → SMap α
  | [] => [(k, v)]
  | (a, w) :: r => if k < a then (k, v) :: (a, w) :: r else if k = a then (k, v) :: r else (a, w) :: sput k v r

/-- The granules of bytes [a, a + n), with the first byte of the access in each. -/
def granulesOf (a n : Nat) : List Nat :=
  (List.range ((a % 64 + n + 63) / 64)).map fun k => if k = 0 then a else a / 64 * 64 + 64 * k

/-- Keys of physical memory: each tier's 48-bit addresses (08 R192) and the scratchpad planes. -/
def hbmKey (pa : Nat) : Nat := pa
def ddrKey (pa : Nat) : Nat := 2 ^ 48 + pa
/-- Byte `off` of the live plane of plot `q` of die `d` (08 R189). -/
def liveKey (d q off : Nat) : Nat := 2 * 2 ^ 48 + (d * 16 + q) * 2 ^ 23 + off
/-- The same byte of the shadow plane (08 R191). -/
def shadowKey (d q off : Nat) : Nat := 3 * 2 ^ 48 + (d * 16 + q) * 2 ^ 23 + off
/-- Host memory by the I/O virtual address of partition p's virtual function (08 R192; DESIGN CHOICE, log entry 4). -/
def hostKey (p io : Nat) : Nat := (1024 + p) * 2 ^ 57 + io
/-- The copy of a host line that the L2 holds (09 R225). -/
def hostL2Key (p io : Nat) : Nat := (2048 + p) * 2 ^ 57 + io

/-- Replaces element n of a list. -/
def lset {α : Type} (l : List α) (n : Nat) (v : α) : List α := l.set n v

/-- Unsigned bits hi to lo of a number (00 R7). -/
def nbits (x hi lo : Nat) : Nat := x / 2 ^ lo % 2 ^ (hi + 1 - lo)

/-- Two's-complement reading of the low n bits. -/
def sint (n : Nat) (x : Nat) : Int := if x % 2 ^ n < 2 ^ (n - 1) then (x % 2 ^ n : Nat) else ((x % 2 ^ n : Nat) : Int) - 2 ^ n

end Sys2Proof.Machine
end

