-- ==== Sys2Proof/Machine/Num.lean ====
section
/-! DEFINITION. Num.lean: the number formats and their arithmetic (chapter 03): exact dyadic values, one rounding to nearest
even, conversion (R78), MX quantisation (R79), and the correctly rounded functions of 06 R138. A function that can raise
NSTAT bits answers them beside its result, as the number of 03 R83. -/

namespace Sys2Proof.Machine

/-! ## NSTAT bits (03 R83) -/
def flagNV : Nat := 1
def flagOF : Nat := 2
def flagSA : Nat := 4
def flagDZ : Nat := 8
def flagNX : Nat := 16

/-! ## Formats (03 R63, R64) -/

/-- A floating-point element format: exponent bits, fraction bits, bias, code of the largest finite magnitude, whether it
has infinities and NaNs, and its canonical NaN. -/
structure FpFmt where
  eb : Nat
  fb : Nat
  bias : Nat
  maxMag : Nat
  hasInf : Bool
  hasNan : Bool
  canon : Nat
  deriving DecidableEq, Repr

def fp32 : FpFmt := ⟨8, 23, 127, 0x7F7FFFFF, true, true, 0x7FC00000⟩
def bf16 : FpFmt := ⟨8, 7, 127, 0x7F7F, true, true, 0x7FC0⟩
def fp16 : FpFmt := ⟨5, 10, 15, 0x7BFF, true, true, 0x7E00⟩
def e4m3 : FpFmt := ⟨4, 3, 7, 0x7E, false, true, 0x7F⟩
def e5m2 : FpFmt := ⟨5, 2, 15, 0x7B, true, true, 0x7E⟩
def e2m1 : FpFmt := ⟨2, 1, 1, 0x7, false, false, 0⟩

/-- The floating element format of a format code; none for the integer formats, CB4 and INT4G. -/
def fpOf (code : Nat) : Option FpFmt :=
  match code with
  | 0x01 => some fp32 | 0x02 => some bf16 | 0x03 => some fp16 | 0x04 => some e4m3 | 0x05 => some e5m2
  | 0x06 => some e4m3 | 0x07 => some e2m1 | _ => none

/-- Element width in bits (03 R63); 0 for a reserved code. -/
def fmtWidth (code : Nat) : Nat :=
  match code with
  | 0x01 => 32 | 0x02 => 16 | 0x03 => 16 | 0x04 => 8 | 0x05 => 8 | 0x06 => 8 | 0x07 => 4 | 0x08 => 4 | 0x09 => 8
  | 0x0A => 4 | 0x0B => 32 | 0x0C => 8 | _ => 0

/-- A defined format code (03 R63). -/
def fmtDefined (code : Nat) : Bool := 1 ≤ code && code ≤ 0x0C

/-- A decoded value: NaN, an infinity, or (−1)^neg × m × 2^e. -/
inductive Fv where
  | nan
  | inf (neg : Bool)
  | fin (neg : Bool) (m : Nat) (e : Int)
  deriving DecidableEq, Repr

/-- Decodes an element (03 R64). -/
def decF (f : FpFmt) (bits : Nat) : Fv :=
  let mag := bits % 2 ^ (f.eb + f.fb)
  let neg := bits / 2 ^ (f.eb + f.fb) % 2 = 1
  let ex := mag / 2 ^ f.fb
  let fr := mag % 2 ^ f.fb
  if f.maxMag < mag then
    if f.hasInf && ex = 2 ^ f.eb - 1 && fr = 0 then .inf neg else .nan
  else if ex = 0 then .fin neg fr (1 - (f.bias : Int) - f.fb)
  else .fin neg (2 ^ f.fb + fr) ((ex : Int) - f.bias - f.fb)

/-- Divides by 2^s, rounding to nearest with ties to even. -/
def rneShift (m s : Nat) : Nat :=
  let q := m / 2 ^ s
  let r := m % 2 ^ s
  if 2 * r > 2 ^ s || (2 * r = 2 ^ s && q % 2 = 1) then q + 1 else q

/-- Bits needed for m. -/
def bitLen (m : Nat) : Nat := if m = 0 then 0 else Nat.log2 m + 1

/-- The magnitude code of m × 2^e rounded once to nearest even on the grid of f, with no upper bound on the exponent
(03 R78): a code above `maxMag` is an overflow. -/
def rneMag (f : FpFmt) (m : Nat) (e : Int) : Nat :=
  if m = 0 then 0
  else
    let emin : Int := 1 - (f.bias : Int)
    let msb : Int := e + (bitLen m : Int) - 1
    let lsb : Int := max msb emin - f.fb
    let r := if e < lsb then rneShift m (lsb - e).toNat else m * 2 ^ (e - lsb).toNat
    -- exponent field of lsb's binade times 2^fb, plus the rounded significand less its leading bit where normal
    let bexp : Int := lsb + f.fb + f.bias
    if r < 2 ^ f.fb then r else (bexp.toNat - 1) * 2 ^ f.fb + r

def withSign (f : FpFmt) (neg : Bool) (mag : Nat) : Nat := if neg then 2 ^ (f.eb + f.fb) + mag else mag

/-- The code of an infinity of f. -/
def infCode (f : FpFmt) (neg : Bool) : Nat := withSign f neg ((2 ^ f.eb - 1) * 2 ^ f.fb)

/-- rne32 of an exact value, with OF when a finite value gives an infinity. -/
def rne32 (neg : Bool) (m : Nat) (e : Int) : W32 × Nat :=
  let mag := rneMag fp32 m e
  if fp32.maxMag < mag then (BitVec.ofNat 32 (infCode fp32 neg), flagOF)
  else (BitVec.ofNat 32 (withSign fp32 neg mag), 0)

def nan32 : W32 := 0x7FC00000
def inf32 (neg : Bool) : W32 := if neg then 0xFF800000 else 0x7F800000
def dec32 (x : W32) : Fv := decF fp32 x.toNat
def isNan32 (x : W32) : Bool := dec32 x = .nan

/-! ## Conversion (03 R78) -/

/-- The signed value of an exact finite number rounded to the nearest integer, ties to even. -/
def rneInt (neg : Bool) (m : Nat) (e : Int) : Int :=
  let a : Nat := if e < 0 then rneShift m (-e).toNat else m * 2 ^ e.toNat
  if neg then -(a : Int) else a

/-- Range of an integer format code. -/
def intRange (code : Nat) : Int × Int :=
  match code with
  | 0x09 => (-128, 127)
  | 0x0C => (0, 255)
  | _ => (-2147483648, 2147483647)

def clampInt (x lo hi : Int) : Int := if x < lo then lo else if hi < x then hi else x

/-- The low w bits of an integer. -/
def wrapInt (w : Nat) (x : Int) : Nat := (x % (2 ^ w : Nat)).toNat

/-- Conversion into a floating format. -/
def cvtToFp (f : FpFmt) (x : Fv) (sat : Bool) : Nat × Nat :=
  match x with
  | .nan => (if f.hasNan then f.canon else 0, 0)
  | .inf neg => if sat || !f.hasInf then (withSign f neg f.maxMag, flagSA) else (infCode f neg, 0)
  | .fin neg m e =>
    let mag := rneMag f m e
    if f.maxMag < mag then
      if sat || !f.hasInf then (withSign f neg f.maxMag, flagSA) else (infCode f neg, flagOF)
    else (withSign f neg mag, 0)

/-- Conversion into an integer format. -/
def cvtToInt (code : Nat) (x : Fv) (sat : Bool) : Nat × Nat :=
  let (lo, hi) := intRange code
  let w := fmtWidth code
  match x with
  | .nan => (0, flagNV)
  | .inf neg => (wrapInt w (if neg then lo else hi), flagNV)
  | .fin neg m e =>
    let n := rneInt neg m e
    if n < lo || hi < n then
      if sat then (wrapInt w (clampInt n lo hi), flagSA) else (wrapInt w n, flagOF)
    else (wrapInt w n, 0)

/-- The exact value of an element of a format code (03 R64, R67): an integer format gives its integer. -/
def decCode (code bits : Nat) : Fv :=
  match fpOf code with
  | some f => decF f bits
  | none =>
    let v : Int := match code with
      | 0x09 => sint 8 bits
      | 0x0C => (bits % 256 : Nat)
      | 0x0A => sint 4 bits
      | _ => sint 32 bits
    .fin (v < 0) v.natAbs 0

/-- `cvt(x, to, sat)` of 03 R78, with the NSTAT bits it sets. -/
def cvt (x : Fv) (dst : Nat) (sat : Bool) : Nat × Nat :=
  match fpOf dst with
  | some f => cvtToFp f x sat
  | none => cvtToInt dst x sat

/-! ## Exact sums and products -/

/-- Σ of signed dyadic terms, as an integer times 2^e for the least e. -/
def sumTerms (ts : List (Bool × Nat × Int)) : Int × Int :=
  let e := ts.foldl (fun a t => min a t.2.2) (match ts with | [] => 0 | t :: _ => t.2.2)
  (ts.foldl (fun acc t => let v : Int := (t.2.1 * 2 ^ (t.2.2 - e).toNat : Nat); if t.1 then acc - v else acc + v) 0, e)

/-- rne32 of an exact sum; an exact zero is −0 only when every term is a zero of negative sign (06 R136). -/
def rneSum (ts : List (Bool × Nat × Int)) : W32 × Nat :=
  let (s, e) := sumTerms ts
  if s = 0 then (if ts.all (fun t => t.1 && t.2.1 = 0) then 0x80000000 else 0, 0)
  else rne32 (s < 0) s.natAbs e

/-- FP32 product a × b + c with one rounding (06 R136); `none` for c means the product alone. -/
def fmaV (a b : Fv) (c : Option Fv) : W32 × Nat :=
  match a, b, c with
  | .nan, _, _ => (nan32, 0)
  | _, .nan, _ => (nan32, 0)
  | _, _, some .nan => (nan32, 0)
  | _, _, _ =>
    -- the exact product: an infinity, a finite value, or invalid
    let prod : Option Fv := match a, b with
      | .inf s, .inf t => some (.inf (s != t))
      | .inf s, .fin t m _ => if m = 0 then none else some (.inf (s != t))
      | .fin s m _, .inf t => if m = 0 then none else some (.inf (s != t))
      | .fin s m e, .fin t n d => some (.fin (s != t) (m * n) (e + d))
      | _, _ => none
    match prod, c with
    | none, _ => (nan32, flagNV)
    | some (.inf s), some (.inf t) => if s = t then (inf32 s, 0) else (nan32, flagNV)
    | some (.inf s), _ => (inf32 s, 0)
    | some (.fin _ _ _), some (.inf t) => (inf32 t, 0)
    | some (.fin s m e), some (.fin t n d) => rneSum [(s, m, e), (t, n, d)]
    | some (.fin s m e), _ => if m = 0 then (if s then 0x80000000 else 0, 0) else rne32 s m e
    | some .nan, _ => (nan32, 0)

/-- Exact 1.0. -/
def oneV : Fv := .fin false 1 0

def negV : Fv → Fv
  | .nan => .nan
  | .inf s => .inf (!s)
  | .fin s m e => .fin (!s) m e

def fadd (a b : W32) : W32 × Nat := fmaV (dec32 a) oneV (some (dec32 b))
def fsub (a b : W32) : W32 × Nat := fmaV (dec32 a) oneV (some (negV (dec32 b)))
def fmul (a b : W32) : W32 × Nat := fmaV (dec32 a) (dec32 b) none
def ffma (a b c : W32) : W32 × Nat := fmaV (dec32 a) (dec32 b) (some (dec32 c))
def ffms (a b c : W32) : W32 × Nat := fmaV (dec32 a) (dec32 b) (some (negV (dec32 c)))
def ffnma (a b c : W32) : W32 × Nat := fmaV (negV (dec32 a)) (dec32 b) (some (dec32 c))

/-- A number whose integer order is the FP32 order with −0 below +0 (06 R137), for codes that are no NaN. -/
def orderKey (x : W32) : Int := if x.getLsbD 31 then -1 - ((x.toNat % 2 ^ 31 : Nat) : Int) else (x.toNat : Nat)

def fmin (a b : W32) : W32 := if isNan32 a || isNan32 b then nan32 else if orderKey a ≤ orderKey b then a else b
def fmax (a b : W32) : W32 := if isNan32 a || isNan32 b then nan32 else if orderKey a ≤ orderKey b then b else a
def fabs (a : W32) : W32 := if isNan32 a then nan32 else a &&& 0x7FFFFFFF
def fneg (a : W32) : W32 := if isNan32 a then nan32 else a ^^^ 0x80000000

/-- −1, 0 or 1 as a compares with b in value, −0 equal to +0 (06 R141); for codes that are no NaN. -/
def fcmp (a b : W32) : Int :=
  let ka := if a.toNat % 2 ^ 31 = 0 then 0 else orderKey a
  let kb := if b.toNat % 2 ^ 31 = 0 then 0 else orderKey b
  if ka < kb then -1 else if ka = kb then 0 else 1

/-! ## Division, roots, exponential and logarithm (06 R138): rne32 of the exact value -/

/-- a/b of finite values, b nonzero, as a significand with a sticky bit. -/
def divRne (neg : Bool) (m : Nat) (e : Int) (n : Nat) (d : Int) : W32 × Nat :=
  let q := m * 2 ^ 80 / n
  let st := if m * 2 ^ 80 % n = 0 then 0 else 1
  rne32 neg (2 * q + st) (e - d - 81)

def fdiv (a b : W32) : W32 × Nat :=
  match dec32 a, dec32 b with
  | .nan, _ => (nan32, 0)
  | _, .nan => (nan32, 0)
  | .inf _, .inf _ => (nan32, flagNV)
  | .inf s, .fin t _ _ => (inf32 (s != t), 0)
  | .fin s _ _, .inf t => (if s != t then 0x80000000 else 0, 0)
  | .fin s m e, .fin t n d =>
    if n = 0 then (if m = 0 then (nan32, flagNV) else (inf32 (s != t), 0))
    else if m = 0 then (if s != t then 0x80000000 else 0, 0)
    else divRne (s != t) m e n d

/-- Integer square root by bits: the result below 2^k. -/
def isqrtBits (n : Nat) : Nat → Nat → Nat
  | 0, acc => acc
  | k + 1, acc => let c := acc + 2 ^ k; isqrtBits n k (if c * c ≤ n then c else acc)

def fsqrt (a : W32) : W32 × Nat :=
  match dec32 a with
  | .nan => (nan32, 0)
  | .inf s => if s then (nan32, flagNV) else (inf32 false, 0)
  | .fin s m e =>
    if m = 0 then (a, 0)
    else if s then (nan32, flagNV)
    else
      let (m, e) := if e % 2 = 0 then (m, e) else (2 * m, e - 1)
      let r := isqrtBits (m * 2 ^ 80) 56 0
      rne32 false (2 * r + if r * r = m * 2 ^ 80 then 0 else 1) (e / 2 - 41)

def frcp (a : W32) : W32 × Nat :=
  match dec32 a with
  | .nan => (nan32, 0)
  | .inf s => (if s then 0x80000000 else 0, 0)
  | .fin s m e => if m = 0 then (inf32 s, 0) else divRne s 1 0 m e

def frsq (a : W32) : W32 × Nat :=
  match dec32 a with
  | .nan => (nan32, 0)
  | .inf s => if s then (nan32, flagNV) else (0, 0)
  | .fin s m e =>
    if m = 0 then (inf32 s, 0)
    else if s then (nan32, flagNV)
    else
      let (m, e) := if e % 2 = 0 then (m, e) else (2 * m, e - 1)
      let r := isqrtBits (2 ^ 128 / m) 66 0
      rne32 false (2 * r + if r * r * m = 2 ^ 128 then 0 else 1) (-(e / 2) - 65)

/-- Working precision of the exponential and the logarithm (DEDUCED, log entry 12). -/
def expPrec : Nat := 192

/-- Π over the set bits of a binary fraction of 2^(2^-i), scaled by 2^expPrec: `c` is the current root of 2, `f` the
fraction's remaining bits below 2^k. -/
def exp2Bits (f : Nat) : Nat → Nat → Nat → Nat
  | 0, _, p => p
  | k + 1, c, p =>
    let c' := isqrtBits (c * 2 ^ expPrec) (expPrec + 1) 0
    exp2Bits f k c' (if f / 2 ^ k % 2 = 1 then p * c' / 2 ^ expPrec else p)

def fexp2 (a : W32) : W32 × Nat :=
  match dec32 a with
  | .nan => (nan32, 0)
  | .inf s => (if s then 0 else inf32 false, 0)
  | .fin s m e =>
    let v : Int := if s then -(m : Int) else m
    if 0 ≤ e then
      let n := clampInt (v * 2 ^ e.toNat) (-400) 400
      rne32 false 1 n
    else
      let k := (-e).toNat
      let n := v / (2 ^ k : Nat)
      let f := (v % (2 ^ k : Nat)).toNat
      if f = 0 then rne32 false 1 (clampInt n (-400) 400)
      else
        let p := exp2Bits f k (2 * 2 ^ expPrec) (2 ^ expPrec)
        rne32 false (2 * p + 1) (clampInt n (-400) 400 - expPrec - 1)

/-- k bits of log2 of y / 2^expPrec, y in [2^expPrec, 2^(expPrec+1)). -/
def log2Bits : Nat → Nat → Nat → Nat
  | 0, _, acc => acc
  | k + 1, y, acc =>
    let y2 := y * y / 2 ^ expPrec
    if 2 ^ (expPrec + 1) ≤ y2 then log2Bits k (y2 / 2) (2 * acc + 1) else log2Bits k y2 (2 * acc)

def flog2 (a : W32) : W32 × Nat :=
  match dec32 a with
  | .nan => (nan32, 0)
  | .inf s => if s then (nan32, flagNV) else (inf32 false, 0)
  | .fin s m e =>
    if m = 0 then (inf32 true, 0)
    else if s then (nan32, flagNV)
    else
      let l := bitLen m - 1
      let n : Int := e + l
      if m = 2 ^ l then (if n = 0 then (0, 0) else rne32 (n < 0) n.natAbs 0)
      else
        let f := log2Bits 120 (m * 2 ^ expPrec / 2 ^ l) 0
        let v : Int := n * 2 ^ 121 + (2 * f + 1 : Nat)
        rne32 (v < 0) v.natAbs (-121)

/-- rne32(A × 2^k) (06 R139). -/
def fscale (a : W32) (k : Int) : W32 × Nat :=
  match dec32 a with
  | .nan => (nan32, 0)
  | .inf _ => (a, 0)
  | .fin s m e => if m = 0 then (a, 0) else rne32 s m (e + k)

/-! ## Activation tables (07 R176) -/

/-- ⌊(x − LO) / 2^WEXP⌋ clamped to 0–63, for finite x and LO. -/
def segment (sx : Bool) (m : Nat) (e : Int) (lo : Fv) (wexp : Int) : Nat :=
  match lo with
  | .fin sl n d =>
    let (v, e') := sumTerms [(sx, m, e), (!sl, n, d)]
    let sh := e' - wexp
    let q : Int := if 0 ≤ sh then (if v = 0 then 0 else if 64 < sh then (if v < 0 then -1 else 64) else v * 2 ^ sh.toNat)
      else v / (2 ^ (-sh).toNat : Nat)
    (clampInt q 0 63).toNat
  | _ => 0

def tableEval (lo : W32) (wexp : Int) (coef : Nat → W32 × W32) (x : W32) : W32 × Nat :=
  match dec32 x with
  | .nan => (nan32, 0)
  | .inf neg =>
    let (a, b) := coef (if neg then 0 else 63)
    match dec32 a with
    | .nan => (nan32, flagNV)
    | .fin _ 0 _ => if isNan32 b then (nan32, flagNV) else (b, 0)
    | .fin sa _ _ => if isNan32 b then (nan32, flagNV) else (inf32 (sa != neg), 0)
    | .inf sa => if isNan32 b then (nan32, flagNV) else (inf32 (sa != neg), 0)
  | .fin s m e =>
    let (a, b) := coef (segment s m e (dec32 lo) wexp)
    if isNan32 a || isNan32 b then (nan32, flagNV)
    else
      let (y, fl) := ffma a x b
      (y, fl ||| (if y.toNat % 2 ^ 31 = 0x7F800000 then flagOF else 0))

/-! ## MX blocks (03 R66, R79; 06 R146) -/

/-- The element format of MXFP8 (0x06) or MXFP4 (0x07). -/
def mxElem (code : Nat) : FpFmt := if code = 0x07 then e2m1 else e4m3

/-- Quantises one block: its scale byte, its element codes and flags. -/
def mxQuant (code : Nat) (xs : List W32) : Nat × List Nat × Nat :=
  let f := mxElem code
  let vs := xs.map dec32
  let conv (sc : Nat) : List Nat × Nat :=
    let rs := vs.map fun v => match v with
      | .fin s m e => cvtToFp f (.fin s m (e - ((sc : Int) - 127))) true
      | v => cvtToFp f v true
    (rs.map (·.1), rs.foldl (fun a r => a ||| r.2) 0)
  if vs.any (· = .nan) then (0xFF, vs.map (fun _ => 0), 0)
  else if vs.any (fun v => match v with | .inf _ => true | _ => false) then
    let (es, fl) := conv 0xFE
    (0xFE, es, fl ||| flagSA)
  else
    -- the largest magnitude's binary exponent
    let ex := vs.filterMap fun v => match v with
      | .fin _ m e => if m = 0 then none else some (e + (bitLen m : Int) - 1)
      | _ => none
    match ex with
    | [] => (0x7F, vs.map (fun _ => 0), 0)
    | a :: r =>
      let e := r.foldl max a - (if code = 0x07 then 2 else 8) + 127
      let sc := (clampInt e 0 0xFE).toNat
      let (es, fl) := conv sc
      (sc, es, fl ||| (if e = sc then 0 else flagSA))

/-- One element back to FP32 (06 R146). -/
def mxDequant (code sc bits : Nat) : W32 × Nat :=
  if sc = 0xFF then (nan32, 0)
  else match decF (mxElem code) bits with
    | .nan => (nan32, 0)
    | .inf s => (inf32 s, 0)
    | .fin s m e => if m = 0 then (if s then 0x80000000 else 0, 0) else rne32 s m (e + (sc : Int) - 127)

/-! ## INT4G dequantisation (03 R71, R72) -/

/-- Weight (q − z) × s as BF16, with NX, OF and NV. -/
def int4gDequant (q z : Int) (s : Nat) : Nat × Nat :=
  match decF bf16 s with
  | .nan => (0x7FC0, 0)
  | .inf neg => if q = z then (0x7FC0, flagNV) else (infCode bf16 (neg != (decide (q < z))), flagOF)
  | .fin neg m e =>
    let d := q - z
    let sn := neg != (decide (d < 0))
    let p := d.natAbs * m
    let mag := rneMag bf16 p e
    let above (c : Nat) : Int := match decF bf16 c with
      | .fin _ m' e' => (sumTerms [(false, p, e), (true, m', e')]).1
      | _ => 1
    let ovf := if 0 < above bf16.maxMag then flagOF else 0
    if p = 0 then (0, 0)
    else if bf16.maxMag < mag then (infCode bf16 sn, flagNX ||| ovf)
    else (withSign bf16 sn mag, (if above mag = 0 then 0 else flagNX) ||| ovf)

/-! ## Array sums (03 R74-R77) -/

/-- rne32(psum + a × w) with exact product: the processing element's step. -/
def peStep (psum : W32) (a w : Fv) : W32 × Nat := fmaV a w (some (dec32 psum))

/-- A block's exact dot product, scaled and rounded once (03 R76). -/
def blockDot (fa fw : FpFmt) (as ws : List Nat) (sa sw : Nat) : W32 × Nat :=
  let va := as.map (decF fa)
  let vw := ws.map (decF fw)
  if sa = 0xFF || sw = 0xFF || va.any (· = .nan) || vw.any (· = .nan) then (nan32, 0)
  else
    let ts := (va.zip vw).map fun x => match x with
      | (.fin s m e, .fin t n d) => (s != t, m * n, e + d)
      | _ => (false, 0, 0)
    let (v, e) := sumTerms ts
    if v = 0 then (0, 0) else rne32 (v < 0) v.natAbs (e + (sa : Int) - 127 + (sw : Int) - 127)

/-- MXLUT's partial sum t[g][c] with one rounding (03 R77). -/
def lutSum (as : List Fv) (c : Nat) : W32 × Nat :=
  let signed := as.mapIdx fun i v => if c / 2 ^ i % 2 = 1 then negV v else v
  if signed.any (· = .nan) then (nan32, 0)
  else
    let infs := signed.filterMap fun v => match v with | .inf s => some s | _ => none
    match infs with
    | s :: r => if r.all (· = s) then (inf32 s, 0) else (nan32, flagNV)
    | [] => rneSum (signed.filterMap fun v => match v with | .fin s m e => some (s, m, e) | _ => none)

end Sys2Proof.Machine
end

