-- ==== Sys2Proof/Config.lean ====
section
/-! DEFINITION. Config.lean: what an implementation fixes and what the spec leaves open. Every constant here is opaque: nothing
can be proved of its value, so a statement holds for every value of it. -/

namespace Sys2Proof.Config

/-- By how many mc a die's copy of the datum counter lags (14 R339: two copies read in one mc differ by at most 1). DESIGN CHOICE, log entry 8. -/
opaque datumLag : Nat → Bool

/-- The set of a shared TLB, or of a bridge die's access counters, in which a page of a partition stands: by the die, the
partition and the page (08 R202, R206: the associativity is given, the index is not). DESIGN CHOICE, log entry 5. -/
opaque setOf : Nat → Nat → Nat → Nat

/-- Which entry of a full set, TLB, L2 slice or instruction cache makes room, numbered by the counter `State.free` (08 R187, R202,
R206: the sizes are given, the replacement is not). DESIGN CHOICE, log entry 5. -/
opaque victim : Nat → Nat

/-- How many UALink switches the route from one package of the pod to another crosses (09 R229, 17 R392: the pod's switches are not
the package's). DESIGN CHOICE, log entry 82. -/
opaque switches : Nat → Nat → Nat

/-- The byte at an offset of a granule that was stored under another key load than the reader's (08 R204): a function of the 64
stored bytes, which are one XTS data unit, the two key loads, the granule and the offset. DESIGN CHOICE, log entry 3. -/
opaque wrongKeyByte : List Byte → Nat → Nat → Nat → Nat → Byte

/-- The requests of SPDM 1.3 that physical function 0 answers (17 R391). -/
inductive Spdm where
  | getVersion | getCapabilities | negotiateAlgorithms | getDigests | getCertificate | challenge | getMeasurements | keyExchange | finish
  deriving DecidableEq, Repr, Inhabited

/-- A DOE object (17 R388, R391): an SPDM request, with the measurement index that a GET_MEASUREMENTS names (0 its count, 255 all), an
IDE_KM request that programs the key of a stream (0 link IDE, 1-8 selective), or another. -/
inductive DoeObject where
  | spdm (r : Spdm) (index : Nat)
  | ideKey (stream key : Nat)
  | other
  deriving DecidableEq, Repr, Inhabited

/-- What a request is: the protocols' encodings are not the spec's (17 R391). DESIGN CHOICE, log entry 9. -/
opaque doeObject : List Byte → DoeObject

/-- The parts of a response beside its signatures and measurements, nonces and certificates among them. DESIGN CHOICE, log entry 9. -/
opaque doeResponse : Nat → List Byte → List Byte

/-- SHA-384, RSASSA-3072 and SLH-DSA-SHA2-192s with the package's keys (17 R391): the spec names them and does not define them. DESIGN
CHOICE, log entry 9. -/
opaque sha384 : List Byte → List Byte
opaque rsaSign : List Byte → List Byte
opaque slhSign : List Byte → List Byte

/-- The bytes of the thing that a measurement index names, from what it says: 1 the boot ROMs, 2 and 3 Olsum images, 4 the unit map, 5 the
package configuration, 6 the fabric grant (17 R391: their formats are not given). DESIGN CHOICE, log entry 9. -/
opaque recordBytes : Nat → List Nat → List Byte

/-- Whether both signatures of what boot n uses verify: 0 the images of Olsum A, 1 those of B, 2 the records (17 R401). DESIGN CHOICE, log
entry 109. -/
opaque verified : Nat → Nat → Bool

/-- Whether the configuration of boot n names Olsum B active, and the DDR-5 channels that its training leaves (17 R396, R401). DESIGN
CHOICE, log entry 109. -/
opaque namesB : Nat → Bool
opaque ddrTrained : Nat → W16

/-- Key loads and record contents that firmware brings at a partition reset (17 R403). DESIGN CHOICE, log entry 3. -/
opaque freshKey : Nat → Nat

/-- A free 64-bit value, numbered by the counter `State.free`. DESIGN CHOICE, log entry 7. -/
opaque freeWord : Nat → W64

/-- A free byte, numbered by the counter `State.free`. DESIGN CHOICE, log entry 7. -/
opaque freeByte : Nat → Byte

/-- A byte of the health record of a die from offset 0xC8 on, by what that part of the record holds (17 R405: what is held is given, its
format is not). DESIGN CHOICE, log entry 10. -/
opaque healthByte : Nat → Nat → List Nat → Byte

/-- The mc a module takes to retrain, for the n-th retrain; the machine bounds it by 24,000 (17 R399). DESIGN CHOICE, log entry 11. -/
opaque retrainTime : Nat → Nat

/-- KiB of the sections of an image's parcel other than its lane groups and its window, beyond two, by its lane groups and granted
rows (16 R385: the sections' contents are listed, their layout is not). DESIGN CHOICE, log entry 24. -/
opaque sectionKib : Nat → Nat → Nat

/-- The 64-byte line of an image's parcel at which its footprint table stands, by its lane groups and granted rows (16 R385: the
section is named, the place is not). DESIGN CHOICE, log entry 24. -/
opaque footprintLine : Nat → Nat → Nat

end Sys2Proof.Config
end

