-- ==== Sys2Proof/Syntax.lean ====
section
/-! DEFINITION. Syntax.lean: the instructions and events of the HF8, one constructor for each row of
spec/opcode_table.json: in the table's order the command words and the activities of the device's own engines, then the rows
without operands and those that firmware or an outside party causes. A command word (02 R35) is a constructor whose first argument is its WAIT and
SIGNAL bytes and whose other arguments are the fields of its format that the instruction reads (02 R42, R46, R48); a field
that must be zero is no argument. A row that the spec gives no command word (an event of the hardware, of firmware or of an
outside party, 95) names what the event acts on: a lease number `l`, a partition `p`, a ring, queue or unit number. -/

namespace Sys2Proof

inductive Instr where
  /-- NOP: 05 R128. -/
  | ctNop (t : Tok)
  /-- ADD: 05 R101. -/
  | add (t : Tok) (d a b : BitVec 5)
  /-- SUB: 05 R101. -/
  | sub (t : Tok) (d a b : BitVec 5)
  /-- MUL: 05 R101. -/
  | mul (t : Tok) (d a b : BitVec 5)
  /-- MULH: 05 R101. -/
  | mulh (t : Tok) (d a b : BitVec 5)
  /-- MULHU: 05 R101. -/
  | mulhu (t : Tok) (d a b : BitVec 5)
  /-- DIV: 05 R101. -/
  | div (t : Tok) (d a b : BitVec 5)
  /-- DIVU: 05 R101. -/
  | divu (t : Tok) (d a b : BitVec 5)
  /-- REM: 05 R101. -/
  | rem (t : Tok) (d a b : BitVec 5)
  /-- REMU: 05 R101. -/
  | remu (t : Tok) (d a b : BitVec 5)
  /-- AND: 05 R101. -/
  | and (t : Tok) (d a b : BitVec 5)
  /-- OR: 05 R101. -/
  | or (t : Tok) (d a b : BitVec 5)
  /-- XOR: 05 R101. -/
  | xor (t : Tok) (d a b : BitVec 5)
  /-- SHL: 05 R101. -/
  | shl (t : Tok) (d a b : BitVec 5)
  /-- SHR: 05 R101. -/
  | shr (t : Tok) (d a b : BitVec 5)
  /-- SRA: 05 R101. -/
  | sra (t : Tok) (d a b : BitVec 5)
  /-- MIN: 05 R101. -/
  | min (t : Tok) (d a b : BitVec 5)
  /-- MAX: 05 R101. -/
  | max (t : Tok) (d a b : BitVec 5)
  /-- SLT: 05 R101. -/
  | slt (t : Tok) (d a b : BitVec 5)
  /-- SLTU: 05 R101. -/
  | sltu (t : Tok) (d a b : BitVec 5)
  /-- CLZ: 05 R102. -/
  | clz (t : Tok) (d a : BitVec 5)
  /-- POPC: 05 R102. -/
  | popc (t : Tok) (d a : BitVec 5)
  /-- SEXT: 05 R102. -/
  | sext (t : Tok) (d a : BitVec 5) (w : BitVec 30)
  /-- ZEXT: 05 R102. -/
  | zext (t : Tok) (d a : BitVec 5) (w : BitVec 30)
  /-- ADDI: 05 R103. -/
  | addi (t : Tok) (d a : BitVec 5) (imm : BitVec 30)
  /-- ANDI: 05 R103. -/
  | andi (t : Tok) (d a : BitVec 5) (imm : BitVec 30)
  /-- ORI: 05 R103. -/
  | ori (t : Tok) (d a : BitVec 5) (imm : BitVec 30)
  /-- XORI: 05 R103. -/
  | xori (t : Tok) (d a : BitVec 5) (imm : BitVec 30)
  /-- SHLI: 05 R103. -/
  | shli (t : Tok) (d a : BitVec 5) (imm : BitVec 30)
  /-- SHRI: 05 R103. -/
  | shri (t : Tok) (d a : BitVec 5) (imm : BitVec 30)
  /-- SRAI: 05 R103. -/
  | srai (t : Tok) (d a : BitVec 5) (imm : BitVec 30)
  /-- SLTI: 05 R103. -/
  | slti (t : Tok) (d a : BitVec 5) (imm : BitVec 30)
  /-- LI: 05 R104. -/
  | li (t : Tok) (d : BitVec 5) (imm : BitVec 32)
  /-- LIW_LO: 05 R104, HI = 0. -/
  | liwLo (t : Tok) (d : BitVec 5) (imm : BitVec 32)
  /-- LIW_HI: 05 R104, HI = 1. -/
  | liwHi (t : Tok) (d : BitVec 5) (imm : BitVec 32)
  /-- BEQ: 05 R106. -/
  | beq (t : Tok) (a b : BitVec 5) (off : BitVec 30)
  /-- BNE: 05 R106. -/
  | bne (t : Tok) (a b : BitVec 5) (off : BitVec 30)
  /-- BLT: 05 R106. -/
  | blt (t : Tok) (a b : BitVec 5) (off : BitVec 30)
  /-- BGE: 05 R106. -/
  | bge (t : Tok) (a b : BitVec 5) (off : BitVec 30)
  /-- BLTU: 05 R106. -/
  | bltu (t : Tok) (a b : BitVec 5) (off : BitVec 30)
  /-- BGEU: 05 R106. -/
  | bgeu (t : Tok) (a b : BitVec 5) (off : BitVec 30)
  /-- JMP: 05 R107. -/
  | jmp (t : Tok) (off : BitVec 30)
  /-- JAL: 05 R107. -/
  | jal (t : Tok) (d : BitVec 5) (off : BitVec 30)
  /-- JR: 05 R107. -/
  | jr (t : Tok) (d a : BitVec 5) (imm : BitVec 30)
  /-- BRQ: 05 R108. -/
  | brq (t : Tok) (q : BitVec 2) (sense : BitVec 1) (off : BitVec 30)
  /-- LOOP: 14 R345. -/
  | loop (t : Tok) (i a : BitVec 5) (step : BitVec 12) (body : BitVec 18)
  /-- ENDL: 14 R346. -/
  | endl (t : Tok)
  /-- LDS: 05 R111; c = SZ, SX, SCOPE of R43. -/
  | lds (t : Tok) (d a : BitVec 5) (c : BitVec 5) (imm : BitVec 16)
  /-- STS: 05 R111. -/
  | sts (t : Tok) (a b : BitVec 5) (c : BitVec 5) (imm : BitVec 16)
  /-- AMO: 05 R112. -/
  | amo (t : Tok) (d a b : BitVec 5) (c : BitVec 5) (m : BitVec 4) (imm : BitVec 16)
  /-- CAS: 05 R113. -/
  | cas (t : Tok) (d a b : BitVec 5) (c : BitVec 5) (imm : BitVec 16)
  /-- HSET: 05 R115; d names a handle, 16-31 refused. -/
  | hset (t : Tok) (d a : BitVec 5) (q : BitVec 2)
  /-- HGET: 05 R115; a names a handle. -/
  | hget (t : Tok) (d a : BitVec 5) (q : BitVec 2)
  /-- HMOV: 05 R115; both name handles. -/
  | hmov (t : Tok) (d a : BitVec 5)
  /-- HADV: 05 R116. -/
  | hadv (t : Tok) (d a : BitVec 5) (axis : BitVec 2)
  /-- HVIEW: 05 R117. -/
  | hview (t : Tok) (d a b : BitVec 5) (sel : BitVec 2)
  /-- HCLR: 05 R115. -/
  | hclr (t : Tok) (d : BitVec 5)
  /-- ISSUE: 05 R118. -/
  | issue (t : Tok) (tgt : BitVec 2) (n : BitVec 12)
  /-- ISSUER: 05 R119. -/
  | issuer (t : Tok) (tgt : BitVec 2) (a : BitVec 5)
  /-- RINGSET: 11 R263. -/
  | ringset (t : Tok) (tgt : BitVec 2) (a b : BitVec 5)
  /-- ACQ: 10 R243. -/
  | acq (t : Tok) (a : BitVec 5) (scope : BitVec 2) (m : BitVec 4)
  /-- ACQ_GRANT: 10 R243: the request that lease k of partition p sent. -/
  | acqGrant (p k : Nat)
  /-- REL: 10 R244. -/
  | rel (t : Tok) (a : BitVec 5) (scope : BitVec 2) (m : BitVec 4)
  /-- FENCE: 10 R246. -/
  | fence (t : Tok) (scope : BitVec 2) (m : BitVec 4)
  /-- BARG: 10 R247. -/
  | barg (t : Tok) (a : BitVec 5) (scope : BitVec 2) (m : BitVec 4)
  /-- BARG_ARRIVAL: 10 R247: the arrival of lease k of partition p reaches the home. -/
  | bargArrival (p k : Nat)
  /-- BARG_COMPLETE: 10 R247: the instance of partition p that lease k opened completes. -/
  | bargComplete (p k : Nat)
  /-- BIND: 12 R312. -/
  | bind (t : Tok) (a b c : BitVec 5) (m : BitVec 4) (idx : BitVec 12)
  /-- UNBIND: 12 R313. -/
  | unbind (t : Tok) (m : BitVec 4) (idx : BitVec 12)
  /-- SPLIT: 12 R302 R304. -/
  | split (t : Tok) (shape : BitVec 4) (ori : BitVec 1) (acc : BitVec 3)
  /-- SPLIT_CHANGE: 12 R304. -/
  | splitChange (l : Nat)
  /-- FUSE: 12 R302 R305. -/
  | fuse (t : Tok) (dy dx : BitVec 3) (shape : BitVec 4) (ori : BitVec 1) (acc : BitVec 3)
  /-- FUSE_CHANGE: 12 R305. -/
  | fuseChange (l : Nat)
  /-- CHAIN: 12 R302 R308. -/
  | chain (t : Tok) (dy dx : BitVec 3) (shape : BitVec 4) (ori : BitVec 1)
  /-- CHAIN_CHANGE: 12 R308. -/
  | chainChange (l : Nat)
  /-- UNCHAIN: 12 R302 R309. -/
  | unchain (t : Tok) (dy dx : BitVec 3) (shape : BitVec 4) (ori : BitVec 1)
  /-- UNCHAIN_CHANGE: 12 R309. -/
  | unchainChange (l : Nat)
  /-- ORIENT: 12 R302 R307. -/
  | orient (t : Tok) (ori : BitVec 1) (acc : BitVec 3)
  /-- ORIENT_CHANGE: 12 R307. -/
  | orientChange (l : Nat)
  /-- SPAWN: 12 R293. -/
  | spawn (t : Tok) (d a b : BitVec 5) (n : BitVec 16)
  /-- JOIN: 12 R294. -/
  | join (t : Tok) (d a : BitVec 5)
  /-- JOIN_COMPLETE: 12 R294. -/
  | joinComplete (l : Nat)
  /-- KILL: 12 R295, M = 0. -/
  | kill (t : Tok) (a : BitVec 5)
  /-- KILL_SELF: 12 R295, M = 1. -/
  | killSelf (t : Tok)
  /-- KILL_COMPLETE: 12 R295. -/
  | killComplete (l : Nat)
  /-- QUIES: 11 R277. -/
  | quies (t : Tok) (d a : BitVec 5)
  /-- QUIES_COMPLETE: 11 R277. -/
  | quiesComplete (l : Nat)
  /-- CBLD: 13 R318; a slot above 31 is refused. -/
  | cbld (t : Tok) (a : BitVec 5) (slot : BitVec 16)
  /-- XLOAD: 13 R323. -/
  | xload (t : Tok) (a : BitVec 5) (slot : BitVec 16)
  /-- XUNLD: 13 R323. -/
  | xunld (t : Tok) (slot : BitVec 16)
  /-- BUPD: 13 R328; a names a handle. -/
  | bupd (t : Tok) (a b : BitVec 5)
  /-- AFFP: 13 R338; pf above 1 is refused. -/
  | affp (t : Tok) (a b : BitVec 5) (pf : BitVec 16)
  /-- RDCYC: 14 R348. -/
  | rdcyc (t : Tok) (d : BitVec 5)
  /-- RDVC: 14 R348. -/
  | rdvc (t : Tok) (d : BitVec 5)
  /-- PCSEL: 14 R351. -/
  | pcsel (t : Tok) (m : BitVec 4)
  /-- PCRD: 14 R351. -/
  | pcrd (t : Tok) (d : BitVec 5) (idx : BitVec 16)
  /-- CLKRD: 14 R349; IMM16[3:0]. -/
  | clkrd (t : Tok) (d a : BitVec 5) (sel : BitVec 4)
  /-- TRAP: 05 R121. -/
  | trap (t : Tok) (imm : BitVec 16)
  /-- ERET: 05 R123. -/
  | eret (t : Tok)
  /-- TREN: 05 R123. -/
  | tren (t : Tok)
  /-- UIRET: 05 R124. -/
  | uiret (t : Tok)
  /-- CSRR: 05 R125. -/
  | csrr (t : Tok) (d : BitVec 5) (num : BitVec 16)
  /-- CSRW: 05 R125. -/
  | csrw (t : Tok) (a : BitVec 5) (num : BitVec 16)
  /-- YIELD: 05 R126. -/
  | yield (t : Tok)
  /-- END: 05 R127. -/
  | endTask (t : Tok)
  /-- TASK_RETIRE: 05 R127, 12 R306. -/
  | taskRetire (l : Nat)
  /-- TMARK: 15 R363. -/
  | tmark (t : Tok) (tag : BitVec 16)
  /-- LGO: 11 R283. -/
  | lgo (t : Tok)
  /-- LCANCEL: 11 R283. -/
  | lcancel (t : Tok)
  /-- LREPEAT: 11 R283. -/
  | lrepeat (t : Tok)
  /-- LS_NOP: 09 R233. -/
  | lsNop (t : Tok)
  /-- COPY: 09 R220, DQ = 0. -/
  | copy (t : Tok) (dh sh : BitVec 4) (scope : BitVec 2)
  /-- COPY_DQ: 09 R221, DQ = 1. -/
  | copyDq (t : Tok) (dh sh : BitVec 4) (scope : BitVec 2)
  /-- COPYP: 09 R223. -/
  | copyp (t : Tok) (dh sh xh : BitVec 4) (dq : BitVec 1) (scope : BitVec 2)
  /-- GATH: 09 R224. -/
  | gath (t : Tok) (dh sh xh : BitVec 4) (dq : BitVec 1) (scope : BitVec 2) (m : BitVec 4)
  /-- SCAT: 09 R224. -/
  | scat (t : Tok) (dh sh xh : BitVec 4) (dq : BitVec 1) (scope : BitVec 2)
  /-- PREF: 09 R225 R226. -/
  | pref (t : Tok) (sh : BitVec 4) (scope : BitVec 2)
  /-- FLUSH: 09 R225 R226. -/
  | flush (t : Tok) (sh : BitVec 4) (scope : BitVec 2)
  /-- INVAL: 09 R225 R226. -/
  | inval (t : Tok) (sh : BitVec 4) (scope : BitVec 2)
  /-- DCMPF: 09 R225 R226. -/
  | dcmpf (t : Tok) (sh : BitVec 4) (scope : BitVec 2)
  /-- ATOMV: 09 R227. -/
  | atomv (t : Tok) (dh sh : BitVec 4) (dq : BitVec 1) (scope : BitVec 2) (m : BitVec 4)
  /-- RREAD: 09 R229. -/
  | rread (t : Tok) (dh sh : BitVec 4) (dq : BitVec 1) (scope : BitVec 2)
  /-- RWRITE: 09 R229, M = 0. -/
  | rwrite (t : Tok) (dh sh : BitVec 4) (dq : BitVec 1) (scope : BitVec 2)
  /-- RWRITE_WIN: 09 R229, M = 1. -/
  | rwriteWin (t : Tok) (dh sh : BitVec 4) (dq : BitVec 1) (scope : BitVec 2)
  /-- RATOM: 09 R228. -/
  | ratom (t : Tok) (dh sh xh : BitVec 4) (scope : BitVec 2) (m : BitVec 4) (same w64 fetch : BitVec 1)
  /-- KVGET: 09 R230. -/
  | kvget (t : Tok) (xh : BitVec 4) (scope : BitVec 2) (m : BitVec 4) (peer : BitVec 12)
  /-- KVPUT: 09 R230. -/
  | kvput (t : Tok) (xh : BitVec 4) (scope : BitVec 2) (m : BitVec 4) (peer : BitVec 12)
  /-- JOB: 09 R232; n outside 1-64 is refused. -/
  | job (t : Tok) (sh : BitVec 4) (scope : BitVec 2) (n : BitVec 20)
  /-- LS_REP: 09 R234. -/
  | lsRep (t : Tok) (cnt : BitVec 16) (len : BitVec 8)
  /-- OUTQ: 11 R268. -/
  | outq (t : Tok) (sh : BitVec 4) (scope : BitVec 2) (m : BitVec 4) (imm : BitVec 20)
  /-- WLAPP: 11 R273. -/
  | wlapp (t : Tok) (dh sh : BitVec 4) (scope : BitVec 2) (m : BitVec 4)
  /-- WLTAKE: 11 R274. -/
  | wltake (t : Tok) (dh sh : BitVec 4) (scope : BitVec 2) (m : BitVec 4) (max : BitVec 8) (list : BitVec 12)
  /-- WLSEAL: 11 R275. -/
  | wlseal (t : Tok) (sh : BitVec 4) (scope : BitVec 2) (stream : BitVec 2)
  /-- LS_TMARK: 15 R363. -/
  | lsTmark (t : Tok) (tag : BitVec 20)
  /-- CP_NOP: 06 R159. -/
  | cpNop (t : Tok)
  /-- MXLD: 07 R172. -/
  | mxld (t : Tok) (g : BitVec 4) (pro sgn : BitVec 1)
  /-- MXLD_ROW_ARRIVAL: 07 R172: row j of lease l's load arrives. -/
  | mxldRowArrival (l j : Nat)
  /-- MXSWAP: 07 R174. -/
  | mxswap (t : Tok)
  /-- MXMUL: 07 R177; f and imm as R170. -/
  | mxmul (t : Tok) (h g acc : BitVec 4) (f : BitVec 8) (imm : BitVec 20)
  /-- MXLUT: 07 R178. -/
  | mxlut (t : Tok) (h g acc : BitVec 4) (f : BitVec 8) (imm : BitVec 20)
  /-- MXCFG: 07 R175. -/
  | mxcfg (t : Tok) (h : BitVec 4) (imm : BitVec 20)
  /-- MXBS: 07 R179. -/
  | mxbs (t : Tok) (h g acc : BitVec 4) (f : BitVec 8) (imm : BitVec 20)
  /-- MXDRAIN: 07 R180. -/
  | mxdrain (t : Tok) (g acc : BitVec 4) (f : BitVec 8) (imm : BitVec 20)
  /-- MXZERO: 07 R181. -/
  | mxzero (t : Tok) (acc : BitVec 4)
  /-- MXRD: 07 R182. -/
  | mxrd (t : Tok) (acc : BitVec 4) (v : BitVec 8) (r : BitVec 9)
  /-- MXWR: 07 R182. -/
  | mxwr (t : Tok) (acc : BitVec 4) (v : BitVec 8) (r : BitVec 9)
  /-- CHAIN_ROW_ENTER: 07 R183. -/
  | chainRowEnter (l : Nat)
  /-- AT: 14 R343. -/
  | atPin (t : Tok) (rel : BitVec 1) (target : BitVec 39)
  /-- SCHEDULE_MISS: 14 R344. -/
  | scheduleMiss (l : Nat)
  /-- CP_REP: 14 R347. -/
  | cpRep (t : Tok) (cnt : BitVec 16) (len : BitVec 8)
  /-- SELK: 13 R327. -/
  | selk (t : Tok) (h g : BitVec 4) (k : BitVec 5) (cnt : BitVec 1)
  /-- CP_TMARK: 15 R363. -/
  | cpTmark (t : Tok) (tag : BitVec 20)
  /-- VADD: 06 R136. -/
  | vadd (t : Tok) (d a b : BitVec 8)
  /-- VSUB: 06 R136. -/
  | vsub (t : Tok) (d a b : BitVec 8)
  /-- VMUL: 06 R136. -/
  | vmul (t : Tok) (d a b : BitVec 8)
  /-- VFMA: 06 R136. -/
  | vfma (t : Tok) (d a b c : BitVec 8)
  /-- VFMS: 06 R136. -/
  | vfms (t : Tok) (d a b c : BitVec 8)
  /-- VFNMA: 06 R136. -/
  | vfnma (t : Tok) (d a b c : BitVec 8)
  /-- VMIN: 06 R137. -/
  | vmin (t : Tok) (d a b : BitVec 8)
  /-- VMAX: 06 R137. -/
  | vmax (t : Tok) (d a b : BitVec 8)
  /-- VABS: 06 R137. -/
  | vabs (t : Tok) (d a : BitVec 8)
  /-- VNEG: 06 R137. -/
  | vneg (t : Tok) (d a : BitVec 8)
  /-- VDIV: 06 R138. -/
  | vdiv (t : Tok) (d a b m : BitVec 8)
  /-- VSQRT: 06 R138. -/
  | vsqrt (t : Tok) (d a : BitVec 8)
  /-- VRCP: 06 R138. -/
  | vrcp (t : Tok) (d a : BitVec 8)
  /-- VRSQ: 06 R138. -/
  | vrsq (t : Tok) (d a : BitVec 8)
  /-- VEXP2: 06 R138. -/
  | vexp2 (t : Tok) (d a : BitVec 8)
  /-- VLOG2: 06 R138. -/
  | vlog2 (t : Tok) (d a : BitVec 8)
  /-- VTAB: 06 R139. -/
  | vtab (t : Tok) (d a : BitVec 8) (tab : BitVec 2)
  /-- VSCALE: 06 R139. -/
  | vscale (t : Tok) (d a : BitVec 8) (k : BitVec 9)
  /-- VIADD: 06 R140. -/
  | viadd (t : Tok) (d a b m : BitVec 8)
  /-- VISUB: 06 R140. -/
  | visub (t : Tok) (d a b m : BitVec 8)
  /-- VIMUL: 06 R140. -/
  | vimul (t : Tok) (d a b m : BitVec 8)
  /-- VIMAD: 06 R140. -/
  | vimad (t : Tok) (d a b c : BitVec 8)
  /-- VAND: 06 R140. -/
  | vand (t : Tok) (d a b : BitVec 8)
  /-- VOR: 06 R140. -/
  | vor (t : Tok) (d a b : BitVec 8)
  /-- VXOR: 06 R140. -/
  | vxor (t : Tok) (d a b : BitVec 8)
  /-- VNOT: 06 R140. -/
  | vnot (t : Tok) (d a : BitVec 8)
  /-- VSHL: 06 R140. -/
  | vshl (t : Tok) (d a b : BitVec 8)
  /-- VSHR: 06 R140. -/
  | vshr (t : Tok) (d a b : BitVec 8)
  /-- VSRA: 06 R140. -/
  | vsra (t : Tok) (d a b : BitVec 8)
  /-- VIMIN: 06 R140. -/
  | vimin (t : Tok) (d a b m : BitVec 8)
  /-- VIMAX: 06 R140. -/
  | vimax (t : Tok) (d a b m : BitVec 8)
  /-- VCMP: 06 R141. -/
  | vcmp (t : Tok) (d a b m : BitVec 8)
  /-- VSEL: 06 R142. -/
  | vsel (t : Tok) (d a b c : BitVec 8)
  /-- VCLASS: 06 R142. -/
  | vclass (t : Tok) (d a : BitVec 8)
  /-- VCVT: 06 R144. -/
  | vcvt (t : Tok) (d a : BitVec 8) (fa fb : BitVec 6) (sat : BitVec 1)
  /-- VPACK: 06 R145. -/
  | vpack (t : Tok) (d a b : BitVec 8) (fa fb : BitVec 6) (sat : BitVec 1)
  /-- VUNPK: 06 R145; b is the part. -/
  | vunpk (t : Tok) (d a b : BitVec 8) (fa fb : BitVec 6) (sat : BitVec 1)
  /-- VQNT: 06 R146. -/
  | vqnt (t : Tok) (d a : BitVec 8) (fa fb : BitVec 6) (sat : BitVec 1)
  /-- VDEQ: 06 R146. -/
  | vdeq (t : Tok) (d a : BitVec 8) (fa fb : BitVec 6) (sat : BitVec 1)
  /-- VRED: 06 R148 R149. -/
  | vred (t : Tok) (d a m : BitVec 8)
  /-- VSCAN: 06 R148 R149. -/
  | vscan (t : Tok) (d a m : BitVec 8)
  /-- VPERM: 06 R150. -/
  | vperm (t : Tok) (d a b : BitVec 8) (g : BitVec 1)
  /-- VROT: 06 R150. -/
  | vrot (t : Tok) (d a : BitVec 8) (g : BitVec 1) (k : BitVec 12)
  /-- VBCAST: 06 R150. -/
  | vbcast (t : Tok) (d a : BitVec 8) (g : BitVec 1) (n : BitVec 11)
  /-- VSLIDE: 06 R150. -/
  | vslide (t : Tok) (d a : BitVec 8) (g : BitVec 1) (k : BitVec 12)
  /-- VIDX: 06 R143. -/
  | vidx (t : Tok) (d a : BitVec 8) (g : BitVec 1) (step : BitVec 16)
  /-- VPART: 06 R151. -/
  | vpart (t : Tok) (d a b : BitVec 8) (g : BitVec 1) (kind : BitVec 2)
  /-- VMOV: 06 R143. -/
  | vmov (t : Tok) (d a : BitVec 8)
  /-- VLI: 06 R143, A = 0x00. -/
  | vli (t : Tok) (d : BitVec 8) (imm : BitVec 24)
  /-- VLI_HI: 06 R143, A = 0x01. -/
  | vliHi (t : Tok) (d : BitVec 8) (imm : BitVec 24)
  /-- VTOS: 06 R156. -/
  | vtos (t : Tok) (d : BitVec 8) (m : BitVec 4) (lane : BitVec 11)
  /-- VFRS: 06 R154. -/
  | vfrs (t : Tok) (d : BitVec 8) (h : BitVec 4) (imm : BitVec 24)
  /-- VPOP: 06 R155. -/
  | vpop (t : Tok) (d : BitVec 8)
  /-- VPUSH: 06 R155. -/
  | vpush (t : Tok) (d : BitVec 8)
  /-- VOUT: 06 R157. -/
  | vout (t : Tok) (d : BitVec 8) (m : BitVec 4) (imm : BitVec 24)
  /-- VLD: 06 R153. -/
  | vld (t : Tok) (d : BitVec 8) (h m : BitVec 4) (imm : BitVec 24)
  /-- VST: 06 R153. -/
  | vst (t : Tok) (d : BitVec 8) (h m : BitVec 4) (imm : BitVec 24)
  /-- CP_WLAPP: 06 R158. -/
  | cpWlapp (t : Tok) (d : BitVec 8) (h m : BitVec 4) (base : BitVec 24)
  /-- XOP: 06 R160. -/
  | xop (t : Tok) (slot : BitVec 5) (d a b c e : BitVec 8)
  /-- VECTOR_WRITEBACK: 06 R134. -/
  | vectorWriteback (l : Nat)
  /-- COMPLETION: 01 R18. -/
  | completion (l : Nat)
  /-- SLOT_TABLE_CYCLE: 12 R314: kind 0 copy engine, 1 slice operators, 2 launch core; unit is the die. -/
  | slotTableCycle (kind unit : Nat)
  /-- COPY_SEGMENT: 09 R217: command with sequence number k of lease l. -/
  | copySegment (l k : Nat)
  /-- HOME_ACCESS: 08 R196: the request with number k arrives. -/
  | homeAccess (k : Nat)
  /-- TRAP_ENTRY: 05 R122, 16 R369. -/
  | trapEntry (l : Nat)
  /-- UIRQ_DELIVERY: 05 R124. -/
  | uirqDelivery (l : Nat)
  /-- FAULT_ENTRY_WRITE: 11 R285. -/
  | faultEntryWrite (p : Nat)
  /-- WATCHDOG_EXPIRY: 16 R373. -/
  | watchdogExpiry (l : Nat)
  /-- ENGINE_HALT_STOP: 16 R375 R376: the k-th engine that still has to stop. -/
  | engineHaltStop (p k : Nat)
  /-- PREEMPTION: 16 R379. -/
  | preemption (l : Nat)
  /-- CONTEXT_SAVE: 16 R382. -/
  | contextSave (l : Nat)
  /-- IMAGE_DRAIN: 16 R383. -/
  | imageDrain (l : Nat)
  /-- IMAGE_RESTORE: 16 R387. -/
  | imageRestore (l : Nat)
  /-- LAUNCH_PACKET: 11 R282. -/
  | launchPacket (p r : Nat)
  /-- NOP_PACKET: 11 R279. -/
  | nopPacket (p r : Nat)
  /-- INVALID_PACKET: 11 R279. -/
  | invalidPacket (p r : Nat)
  /-- PROLOGUE_WATCHDOG: 11 R284. -/
  | prologueWatchdog (l : Nat)
  /-- PROLOGUE_REPEAT: 11 R283. -/
  | prologueRepeat (p r : Nat)
  /-- DATA_FLIT_RECEIVE: 17 R398. -/
  | dataFlitReceive (m : Nat) (toB : Bool) (hdr : BitVec 32) (payload : List (BitVec 8)) (crc : BitVec 32)
  /-- NAK_RECEIVE: 17 R398. The header and the CRC of bytes 0 to 63. -/
  | nakReceive (m : Nat) (toB : Bool) (hdr : BitVec 32 × BitVec 32)
  /-- IDLE_FLIT: 17 R398. The header and the CRC of bytes 0 to 63. -/
  | idleFlit (m : Nat) (toB : Bool) (hdr : BitVec 32 × BitVec 32)
  /-- REPLAY_TIMER_EXPIRY: 21 R417. -/
  | replayTimerExpiry (m : Nat) (atB : Bool)
  /-- RETRAIN_COMPLETE: 17 R399. -/
  | retrainComplete (m : Nat)
  /-- RATOM_REQUEST_ARRIVAL: 17 R400. -/
  | ratomRequestArrival (k : Nat)
  /-- RATOM_RESULT_ARRIVAL: 21 R416. -/
  | ratomResultArrival (k : Nat)
  /-- RATOM_RESEND_TIMER: 21 R416. -/
  | ratomResendTimer (k : Nat)
  /-- WINDOW_CLOSE: 17 R400. -/
  | windowClose (k : Nat)
  /-- WINDOW_RETRY: 17 R400. -/
  | windowRetry (k : Nat)
  /-- WORKLIST_ITEM: 11 R272: the oldest item handed to die d's compaction unit. -/
  | worklistItem (d : Nat)
  /-- WORKLIST_SEAL_APPLY: 11 R275. -/
  | worklistSealApply (d : Nat)
  /-- WORKLIST_TAKE_APPLY: 11 R274. -/
  | worklistTakeApply (d : Nat)
  /-- WORKLIST_QUIESCENCE: 11 R276. -/
  | worklistQuiescence (p : Nat) (desc : BitVec 64)
  /-- LEASE_GRANT: 12 R299. -/
  | leaseGrant
  /-- PACKAGE_RESET: 17 R403. -/
  | packageReset
  /-- LINK_HOT_RESET: 17 R403. -/
  | linkHotReset
  /-- HEARTBEAT: 17 R402. -/
  | heartbeat
  /-- STANDBY_TAKEOVER: 17 R402. -/
  | standbyTakeover
  /-- MAIN_CLOCK_TICK: 14 R339. -/
  | mainClockTick
  /-- RING_PLACEMENT: 05 R120: event of lease l. -/
  | ringPlacement (l : Nat)
  /-- GEN_SWEEP: 10 R248. -/
  | genSweep (p : Nat)
  /-- PAGE_MIGRATION: 08 R207: the next step of the migration of va's page. -/
  | pageMigration (p : Nat) (va newEntry : BitVec 64)
  /-- FQRES: 11 R287. -/
  | fqres (p : Nat) (v : BitVec 64)
  /-- HALT_LINE_RISE: 16 R372. -/
  | haltLineRise (p : Nat) (cause : BitVec 6)
  /-- HRDB: 11 R278. -/
  | hrdb (p r : Nat)
  /-- HRCTL_ENABLE: 11 R278. -/
  | hrctlEnable (p r : Nat) (v : BitVec 64)
  /-- HRCTL_DISABLE: 11 R278. -/
  | hrctlDisable (p r : Nat) (v : BitVec 64)
  /-- EQCTL_ENABLE: 11 R285. -/
  | eqctlEnable (p q : Nat) (v : BitVec 64)
  /-- TLBINV_PAGE: 08 R203. -/
  | tlbinvPage (p : Nat) (v : BitVec 64)
  /-- TLBINV_ALL: 08 R203. -/
  | tlbinvAll (p : Nat)
  /-- TLBINV_DONE: 08 R203. -/
  | tlbinvDone (p : Nat)
  /-- TLBINVSTAT_READ: 08 R203. -/
  | tlbinvstatRead (p : Nat)
  /-- ATS_RESPONSE: 17 R389. -/
  | atsResponse (p k : Nat) (present : Bool) (pa : BitVec 64)
  /-- PRI_RESPONSE: 17 R389. -/
  | priResponse (p k : Nat) (success : Bool)
  /-- DETOUR_FIXED: 17 R420. -/
  | detourFixed (a b : Nat) (path : List Nat)
  /-- BATCH_STEP: 13 R335. -/
  | batchStep (p b : Nat)
  /-- BATCH_STEP_FAIL: 13 R335. -/
  | batchStepFail (p b : Nat)
  /-- BCDB: 13 R331. -/
  | bcdb (p b : Nat)
  /-- BCCTL_ENABLE: 13 R331. -/
  | bcctlEnable (p b : Nat)
  /-- BCCTL_DISABLE: 13 R331. -/
  | bcctlDisable (p b : Nat)
  /-- DBGCMD_STOP: 15 R356. -/
  | dbgcmdStop (p : Nat)
  /-- DBGCMD_RESUME: 15 R359. -/
  | dbgcmdResume (p : Nat)
  /-- DBGCMD_BITMAP_SYNC: 15 R360. -/
  | dbgcmdBitmapSync (p : Nat)
  /-- DBGSTAT_READ: 15 R354. -/
  | dbgstatRead (p : Nat)
  /-- DBGREPLAY: 15 R364. -/
  | dbgreplay (p : Nat) (addr : BitVec 64)
  /-- STOP_EDGE: 15 R355. -/
  | stopEdge (p : Nat)
  /-- STOP_VC_REACHED: 15 R356. -/
  | stopVcReached (p : Nat)
  /-- SAMPLE_RECORD: 15 R362. -/
  | sampleRecord (p : Nat)
  /-- REPLAY_END: 15 R364. -/
  | replayEnd (p : Nat)
  /-- PHALT: 16 R377. -/
  | phalt (p : Nat)
  /-- PREEMPT_WRITE: 16 R378. -/
  | preemptWrite (p : Nat) (rcb : BitVec 64)
  /-- RESTORE_WRITE: 16 R386. -/
  | restoreWrite (p : Nat) (rcb : BitVec 64)
  /-- RCBKILL: 12 R298. -/
  | rcbkill (p : Nat) (rcb : BitVec 64)
  /-- RCBKSTAT_READ: 12 R298. -/
  | rcbkstatRead (p : Nat)
  /-- PARTITION_RESET: 17 R403. -/
  | partitionReset (p : Nat)
  /-- LIVE_UPDATE: 17 R402. -/
  | liveUpdate (sigOk versionOk : Bool) (image : BitVec 64)
  /-- STATE_TABLE_APPLY: 17 R402. -/
  | stateTableApply (n : Nat)
  /-- THERMAL_THROTTLE: 17 R404. -/
  | thermalThrottle (powerOver : Bool) (tj : Nat)
  /-- THERMAL_HALT: 17 R404. -/
  | thermalHalt (tj : Nat)
  /-- AGEING_UPDATE: 14 R352. -/
  | ageingUpdate (d plot : Nat) (v : BitVec 64)
  /-- PLOT_ABSENT_MARK: 12 R316. -/
  | plotAbsentMark (d plot : Nat)
  /-- SCRUB_PASS: 08 R208: keys of the uncorrectable granules found. -/
  | scrubPass (errors : List Nat)
  /-- HEALTH_REFRESH: 17 R405. -/
  | healthRefresh (d : Nat)
  /-- REGISTER_WRITE: 00 R6, 17 R390. -/
  | registerWrite (p off : Nat) (v : BitVec 64)
  /-- HOST_BAR_ACCESS: 16 R374, 17 R388: kind 0 read, 1 write, 2 fetch-add, 3 swap, 4 cas. -/
  | hostBarAccess (p : Nat) (va : BitVec 64) (kind size : Nat) (data cmp : BitVec 64)
  /-- ATS_INVALIDATION: 17 R389. -/
  | atsInvalidation (p : Nat) (va : BitVec 64)
  /-- DOE_REQUEST: 17 R391. -/
  | doeRequest (req : List (BitVec 8))
  /-- FABRIC_REQUEST_RECEIVE: 17 R394. -/
  | fabricRequestReceive (pkg rpart p aid kind req : Nat) (va data cmp : BitVec 64) (bytes : List (BitVec 8))
  /-- UE_MESSAGE_RECEIVE: 17 R395. -/
  | ueMessageReceive (pkg rpart p aid kind req page : Nat) (bytes : List (BitVec 8))
  /-- UALINK_STATION_LOSS: 17 R392. -/
  | ualinkStationLoss (station : Nat) (up : Bool)
  /-- UE_PORT_LOSS: 17 R395. -/
  | uePortLoss (port : Nat) (up : Bool)
  /-- DDR_CHANNEL_REMOVAL: 17 R396. -/
  | ddrChannelRemoval (channel : Nat)
  /-- HEALTH_POLICY_RETRAIN: 17 R399. -/
  | healthPolicyRetrain (m : Nat)
  deriving DecidableEq, Repr

end Sys2Proof
end

