-- ==== Sys2Proof/WellFormed.lean ====
section
/-! DEFINITION. WellFormed.lean: the cause codes of 16 R366 and the checks of a word's field VALUES that 02 R51 and R52 place
at decode (a CT word) or at push (a ring word): FORMAT_INVALID, REG_BOUNDS, ILLEGAL_OPERAND and SHAPE_INVALID, in that order.
ILLEGAL_OPCODE, PRIVILEGED and RESERVED_FIELD concern bits that no constructor of `Instr` holds: `Decode` raises them. -/

namespace Sys2Proof

/-- The causes the device raises (16 R366); the software codes are never raised and have no constructor. -/
inductive Cause where
  | none | illegalOpcode | reservedField | illegalOperand | regBounds | handleInvalid | formatInvalid | privileged
  | breakpoint | trapInstr | fetchBound | misaligned | divideByZero | hostHalt | pageNotPresent | pagePermission
  | writeBlocked | tierUnavailable | scratchBounds | remoteUnreachable | isolation | patternInvalid
  | raceWW | raceRW | raceWR | raceScope | raceReadOverflow | releaseNotHeld | clockFold | forwardWait | queueOverflow
  | shapeInvalid | xopUnloaded | xopGraphInvalid | rcbInvalid | leaseLimit | scheduleMiss
  | uncorrectable | haltPropagated | watchdog | doubleTrap
  deriving DecidableEq, Repr

/-- The 6-bit code of 16 R366. -/
def Cause.code : Cause → Nat
  | .none => 0x00 | .illegalOpcode => 0x01 | .reservedField => 0x02 | .illegalOperand => 0x03 | .regBounds => 0x04
  | .handleInvalid => 0x05 | .formatInvalid => 0x06 | .privileged => 0x07 | .breakpoint => 0x08 | .trapInstr => 0x09
  | .fetchBound => 0x0A | .misaligned => 0x0B | .divideByZero => 0x0C | .hostHalt => 0x0F | .pageNotPresent => 0x10
  | .pagePermission => 0x11 | .writeBlocked => 0x12 | .tierUnavailable => 0x13 | .scratchBounds => 0x14
  | .remoteUnreachable => 0x15 | .isolation => 0x16 | .patternInvalid => 0x18 | .raceWW => 0x20 | .raceRW => 0x21
  | .raceWR => 0x22 | .raceScope => 0x23 | .raceReadOverflow => 0x24 | .releaseNotHeld => 0x26 | .clockFold => 0x27
  | .forwardWait => 0x28 | .queueOverflow => 0x29 | .shapeInvalid => 0x30 | .xopUnloaded => 0x31
  | .xopGraphInvalid => 0x32 | .rcbInvalid => 0x33 | .leaseLimit => 0x34 | .scheduleMiss => 0x38
  | .uncorrectable => 0x3C | .haltPropagated => 0x3D | .watchdog => 0x3E | .doubleTrap => 0x3F

/-- The classes of 16 R365 that the device raises. -/
inductive CauseClass where
  | handled | recoverable | fatal | software
  deriving DecidableEq, Repr

/-- The class column of 16 R366. -/
def Cause.cls : Cause → CauseClass
  | .none => .software
  | .hostHalt | .isolation | .uncorrectable | .haltPropagated | .watchdog | .doubleTrap => .fatal
  | .pageNotPresent | .writeBlocked | .tierUnavailable => .recoverable
  | _ => .handled

/-- The race causes of 16 R366, whose TRAPINFO holds a race record (R368). -/
def Cause.isRace : Cause → Bool
  | .raceWW | .raceRW | .raceWR | .raceScope | .raceReadOverflow | .clockFold => true
  | _ => false

namespace WellFormed

/-- A designator of 02 R40 lies inside its file, for a lease granted `vregs` main registers. -/
def desigInFile (vregs : Nat) (x : BitVec 8) : Bool :=
  let i := x.toNat % 64
  match x.toNat / 64 with
  | 0 => i < vregs
  | 1 => i < 8
  | 2 => i < 4
  | _ => true

/-- A designator of class 0b10 or 0b11, refused in a destination position (02 R40). -/
def readOnlyDesig (x : BitVec 8) : Bool := 128 ≤ x.toNat

/-- The vector designators of a word: each with whether it stands in a destination position (02 R40, R50; 06 R134;
07 R182). An XOP field other than D that holds 0x00 is not listed (R50). -/
def desigs : Instr → List (BitVec 8 × Bool)
  | .vadd _ d a b | .vsub _ d a b | .vmul _ d a b | .vmin _ d a b | .vmax _ d a b
  | .vand _ d a b | .vor _ d a b | .vxor _ d a b | .vshl _ d a b | .vshr _ d a b | .vsra _ d a b => [(d, true), (a, false), (b, false)]
  | .vdiv _ d a b _ | .viadd _ d a b _ | .visub _ d a b _ | .vimul _ d a b _ | .vimin _ d a b _ | .vimax _ d a b _
  | .vcmp _ d a b _ => [(d, true), (a, false), (b, false)]
  | .vfma _ d a b c | .vfms _ d a b c | .vfnma _ d a b c | .vimad _ d a b c | .vsel _ d a b c =>
      [(d, true), (a, false), (b, false), (c, false)]
  | .vabs _ d a | .vneg _ d a | .vsqrt _ d a | .vrcp _ d a | .vrsq _ d a | .vexp2 _ d a | .vlog2 _ d a | .vnot _ d a
  | .vclass _ d a | .vmov _ d a => [(d, true), (a, false)]
  | .vtab _ d a _ | .vscale _ d a _ | .vred _ d a _ | .vscan _ d a _ => [(d, true), (a, false)]
  | .vcvt _ d a _ _ _ | .vqnt _ d a _ _ _ | .vdeq _ d a _ _ _ | .vunpk _ d a _ _ _ _ => [(d, true), (a, false)]
  | .vpack _ d a b _ _ _ => [(d, true), (a, false), (b, false)]
  | .vperm _ d a b _ => [(d, true), (a, false), (b, false)]
  | .vrot _ d a _ _ | .vslide _ d a _ _ => [(d, true), (a, false)]
  | .vbcast _ d a _ _ => [(d, true), (a, false)]
  | .vidx _ d a _ _ => [(d, true), (a, false)]
  | .vpart _ d a b _ k => if k.toNat % 2 = 1 then [(d, true), (a, false), (b, false)] else [(d, true), (a, false)]
  | .vli _ d _ | .vliHi _ d _ => [(d, true)]
  | .vtos _ d _ _ | .vout _ d _ _ => [(d, false)]
  | .vfrs _ d _ _ => [(d, true)]
  | .vpop _ d => [(d, true)]
  | .vpush _ d => [(d, false)]
  | .vld _ d _ _ _ => [(d, true)]
  | .vst _ d _ _ _ | .cpWlapp _ d _ _ _ => [(d, false)]
  | .mxrd _ _ v _ => [(v, true)]
  | .mxwr _ _ v _ => [(v, false)]
  | .xop _ _ d a b c e => (d, true) :: ([(a, false), (b, false), (c, false), (e, true)].filter fun x => x.1 ≠ 0)
  | _ => []

/-- The formats a VCVT operand may name (06 R144). -/
def cvtFormat (f : BitVec 6) : Bool := f.toNat ∈ [0x01, 0x02, 0x03, 0x04, 0x05, 0x09, 0x0B, 0x0C]
/-- The packed side of VPACK and VUNPK (06 R145). -/
def packedFormat (f : BitVec 6) : Bool := f.toNat ∈ [0x02, 0x03, 0x04, 0x05, 0x09, 0x0C]
/-- The lane side of VPACK and VUNPK (06 R145). -/
def laneFormat (f : BitVec 6) : Bool := f.toNat ∈ [0x01, 0x0B]
/-- MXFP8 or MXFP4 (06 R146). -/
def mxFormat (f : BitVec 6) : Bool := f.toNat ∈ [0x06, 0x07]

/-- FORMAT_INVALID for a format code in the word (02 R51; 06 R144-R146; 07 R175). -/
def formatBad : Instr → Bool
  | .vcvt _ _ _ fa fb _ => !(cvtFormat fa && cvtFormat fb)
  | .vpack _ _ _ _ fa fb _ => !(laneFormat fa && packedFormat fb)
  | .vunpk _ _ _ _ fa fb _ => !(packedFormat fa && laneFormat fb)
  | .vqnt _ _ _ fa fb _ => !(fa.toNat = 0x01 && mxFormat fb)
  | .vdeq _ _ _ fa fb _ => !(mxFormat fa && fb.toNat = 0x01)
  | .mxcfg _ _ imm => (imm.toNat >>> 16 = 3) && !(cvtFormat (imm.extractLsb' 0 6))
  | _ => false

/-- The C field of CT's memory forms (02 R43). -/
def memSz (c : BitVec 5) : Nat := c.toNat / 8
def memSx (c : BitVec 5) : Bool := c.getLsbD 2
def memScope (c : BitVec 5) : BitVec 2 := c.extractLsb' 0 2

/-- A handle number field of a CT word holds 0-15 (05 R115, 13 R328). -/
def badHandle (x : BitVec 5) : Bool := 16 ≤ x.toNat

/-- The value ranges of the array products' F and IMM20 fields (07 R170): DST 0b11, and MCNT = 0. -/
def badProduct (f : BitVec 8) (imm : BitVec 20) : Bool :=
  (f.extractLsb' 1 2).toNat = 3 || imm.toNat % 2048 = 0

/-- WAIT pops, SIGNAL pushes and UIRQ all zero, as END requires (05 R127). -/
def Tok.endOk (t : Tok) : Bool := t.wait.toNat % 64 = 0 && t.sig.toNat % 128 = 0

/-- ILLEGAL_OPERAND for a field value outside its stated range, at decode or push (02 R51 and each entry). -/
def operandBad (i : Instr) : Bool :=
  match i with
  | .sext _ _ _ w | .zext _ _ _ w => w.toNat = 0 || 64 ≤ w.toNat
  | .shli _ _ _ n | .shri _ _ _ n | .srai _ _ _ n => 64 ≤ n.toNat
  | .brq _ q _ _ => q = 0
  | .loop _ _ _ step body => step = 0 || body = 0
  | .lds _ _ _ c _ => memSz c = 3 && memSx c
  | .sts _ _ _ c _ => memSx c
  | .amo _ _ _ _ c m _ => memSz c < 2 || 9 ≤ m.toNat
  | .cas _ _ _ _ c _ => memSz c < 2
  | .hset _ d _ _ => badHandle d
  | .hget _ _ a _ => badHandle a
  | .hmov _ d a => badHandle d || badHandle a
  | .hadv _ d _ axis => badHandle d || axis.toNat = 3
  | .hview _ d a _ _ => badHandle d || badHandle a
  | .hclr _ d => badHandle d
  | .issue _ tgt n => tgt = 0 || n = 0
  | .issuer _ tgt _ => tgt = 0
  | .ringset _ tgt _ _ => tgt = 0
  | .acq _ _ _ m | .rel _ _ _ m | .fence _ _ m => 2 ≤ m.toNat
  | .barg _ _ scope m => 3 ≤ m.toNat || scope.toNat < (if m = 0 then 1 else 2)
  | .bind _ _ _ _ m _ | .unbind _ m _ => 2 ≤ m.toNat
  | .split _ _ _ acc | .fuse _ _ _ _ _ acc | .orient _ _ acc => 4 ≤ acc.toNat
  | .spawn _ _ _ _ n => n.toNat = 0 || 1024 < n.toNat
  | .cbld _ _ slot | .xload _ _ slot | .xunld _ slot => 32 ≤ slot.toNat
  | .bupd _ a _ => badHandle a
  | .affp _ _ _ pf => 2 ≤ pf.toNat
  | .pcsel _ m => 2 ≤ m.toNat
  | .pcrd _ _ idx =>
      let n := idx.toNat
      !(n ≤ 0x1C || (0x20 ≤ n && n ≤ 0x2B) || (0x30 ≤ n && n ≤ 0x3B) || (0x40 ≤ n && n ≤ 0x4B))
  | .clkrd _ _ _ sel => sel.toNat % 4 = 3
  | .endTask t => !Tok.endOk t
  | .gath _ _ _ _ _ _ m => 2 ≤ m.toNat
  | .atomv _ _ _ _ _ m => 11 ≤ m.toNat
  | .ratom _ _ _ _ _ m _ _ _ => 10 ≤ m.toNat
  | .kvget _ _ _ m _ | .kvput _ _ _ m _ => 2 ≤ m.toNat
  | .job _ _ _ n => n.toNat = 0 || 64 < n.toNat
  | .lsRep _ _ len | .cpRep _ _ len => len = 0
  | .outq _ _ _ m _ => 3 ≤ m.toNat
  | .wlapp _ _ _ _ m => 2 ≤ m.toNat
  | .wltake _ _ _ _ m max _ => 2 ≤ m.toNat || max = 0
  | .mxld _ _ pro sgn => pro = 1 && sgn = 1
  | .mxmul _ _ _ _ f imm | .mxlut _ _ _ _ f imm => badProduct f imm
  | .mxcfg _ _ imm => 4 ≤ imm.toNat >>> 16
  | .mxbs _ _ g _ f _ => !f.getLsbD 7 || !f.getLsbD 6 || (f.extractLsb' 1 2).toNat = 3 || 14 ≤ g.toNat
  | .mxdrain _ _ _ f imm => !f.getLsbD 6 || badProduct f imm
  | .atPin t _ _ => t.wait ≠ 0 || t.sig ≠ 0
  | .selk _ _ g k _ => k.toNat = 0 || 16 < k.toNat || g = 15
  | .vdiv _ _ _ _ m | .viadd _ _ _ _ m | .visub _ _ _ _ m | .vimul _ _ _ _ m => 3 ≤ m.toNat
  | .vimin _ _ _ _ m | .vimax _ _ _ _ m => 2 ≤ m.toNat
  | .vcmp _ _ _ _ m =>
      let ty := m.toNat / 8 % 4
      let pred := m.toNat % 8
      ty = 3 || pred = 7 || (pred = 6 && ty ≠ 0)
  | .vunpk _ _ _ p _ _ _ => 2 ≤ p.toNat
  | .vqnt _ _ _ _ _ sat => sat = 0
  | .vdeq _ _ _ _ _ sat => sat = 1
  | .vred _ _ _ m => 10 ≤ m.toNat % 16
  | .vscan _ _ _ m => 6 ≤ m.toNat % 16
  | .vbcast _ _ _ g n => g = 0 && 128 ≤ n.toNat
  | .vtos _ _ m _ => 2 ≤ m.toNat
  | .vout _ _ m _ => 3 ≤ m.toNat
  | .vld _ _ _ m _ => 5 ≤ m.toNat
  | .vst _ _ _ m _ => 4 ≤ m.toNat
  | .cpWlapp _ _ _ m _ => 2 ≤ m.toNat
  | _ => false

/-- A SHAPE code of 9-15 in a field the instruction reads (02 R45, 12 R302). -/
def shapeBad : Instr → Bool
  | .split _ shape _ _ | .fuse _ _ _ shape _ _ | .chain _ _ _ shape _ | .unchain _ _ _ shape _ => 9 ≤ shape.toNat
  | _ => false

/-- The first value check of 02 R52 that the word fails, for a lease granted `vregs` main registers. -/
def check (vregs : Nat) (i : Instr) : Option Cause :=
  if formatBad i then some .formatInvalid
  else if (desigs i).any (fun x => !desigInFile vregs x.1) then some .regBounds
  else if operandBad i || (desigs i).any (fun x => x.2 && readOnlyDesig x.1) then some .illegalOperand
  else if shapeBad i then some .shapeInvalid
  else none

end WellFormed

/-- A word whose values pass every check of 02 R52 for a lease granted all 64 main registers. -/
abbrev Instr.WF (i : Instr) : Prop := WellFormed.check 64 i = none

end Sys2Proof
end

