-- ==== Sys2Proof/Decode.lean ====
section
/-! DEFINITION. Decode.lean: from a 64-bit command word to an instruction or a cause, for each of the three opcode spaces
(02 R44, R47, R49), and after it the encoder written from the same tables. Decoding refuses with ILLEGAL_OPCODE, PRIVILEGED
or RESERVED_FIELD; the value checks of `WellFormed.check` follow it in `decodeChecked` (02 R52). -/

namespace Sys2Proof

/-! ## Fields (02 R35, R42, R46, R48) -/

/-- Bits lo to lo + n - 1 of a word. -/
def fld (w : W64) (lo n : Nat) : BitVec n := w.extractLsb' lo n

/-- Bits lo to lo + n - 1 of a word are all zero. -/
def zf (w : W64) (lo n : Nat) : Bool := w.extractLsb' lo n = 0

def opcodeOf (w : W64) : Nat := (fld w 40 8).toNat
def tokOf (w : W64) : Tok := ⟨fld w 56 8, fld w 48 8⟩

/-- The instruction when the fields that must be zero are zero, RESERVED_FIELD otherwise (02 R39). -/
def rsv (zero : Bool) (i : Instr) : Except Cause Instr := if zero then .ok i else .error .reservedField

/-- The unused fields of format CX are zero: a flag is true when the instruction reads the field. -/
def zCx (w : W64) (d a b c m imm : Bool) : Bool :=
  (d || zf w 35 5) && (a || zf w 30 5) && (b || zf w 25 5) && (c || zf w 20 5) && (m || zf w 16 4) && (imm || zf w 0 16)

/-- The unused fields of format LM are zero (02 R46, 09 R210). -/
def zLm (w : W64) (dh sh x dq m imm : Bool) : Bool :=
  (dh || zf w 36 4) && (sh || zf w 32 4) && (x || zf w 27 5) && (dq || zf w 26 1) && (m || zf w 20 4) && (imm || zf w 0 20)

/-- The unused fields of format VV are zero. -/
def zVv (w : W64) (b c m : Bool) : Bool := (b || zf w 16 8) && (c || zf w 8 8) && (m || zf w 0 8)

/-- The unused fields of format MX are zero. -/
def zMx (w : W64) (h g acc f imm : Bool) : Bool :=
  (h || zf w 36 4) && (g || zf w 32 4) && (acc || zf w 28 4) && (f || zf w 20 8) && (imm || zf w 0 20)

/-- LGO, LCANCEL and LREPEAT are PRIVILEGED outside a prologue (02 R51). -/
def proOnly (pro : Bool) (r : Except Cause Instr) : Except Cause Instr := if pro then r else .error .privileged

/-! ## The CT map (02 R44) -/

/-- A CT word. `pro` is true for a word of a launch prologue. -/
def decodeCt (pro : Bool) (w : W64) : Except Cause Instr :=
  let t := tokOf w
  let d : BitVec 5 := fld w 35 5
  let a : BitVec 5 := fld w 30 5
  let b : BitVec 5 := fld w 25 5
  let c : BitVec 5 := fld w 20 5
  let m : BitVec 4 := fld w 16 4
  let imm : BitVec 16 := fld w 0 16
  let imm30 : BitVec 30 := fld w 0 30
  let scope : BitVec 2 := fld w 20 2
  let off : BitVec 30 := fld w 0 30
  let ba : BitVec 5 := fld w 35 5
  let bb : BitVec 5 := fld w 30 5
  let tgt : BitVec 2 := fld w 38 2
  let sa : BitVec 5 := fld w 33 5
  let sb : BitVec 5 := fld w 28 5
  match opcodeOf w with
  | 0x00 => rsv (zCx w false false false false false false) (.ctNop t)
  | 0x01 => rsv (zCx w true true true false false false) (.add t d a b)
  | 0x02 => rsv (zCx w true true true false false false) (.sub t d a b)
  | 0x03 => rsv (zCx w true true true false false false) (.mul t d a b)
  | 0x04 => rsv (zCx w true true true false false false) (.mulh t d a b)
  | 0x05 => rsv (zCx w true true true false false false) (.mulhu t d a b)
  | 0x06 => rsv (zCx w true true true false false false) (.div t d a b)
  | 0x07 => rsv (zCx w true true true false false false) (.divu t d a b)
  | 0x08 => rsv (zCx w true true true false false false) (.rem t d a b)
  | 0x09 => rsv (zCx w true true true false false false) (.remu t d a b)
  | 0x0A => rsv (zCx w true true true false false false) (.and t d a b)
  | 0x0B => rsv (zCx w true true true false false false) (.or t d a b)
  | 0x0C => rsv (zCx w true true true false false false) (.xor t d a b)
  | 0x0D => rsv (zCx w true true true false false false) (.shl t d a b)
  | 0x0E => rsv (zCx w true true true false false false) (.shr t d a b)
  | 0x0F => rsv (zCx w true true true false false false) (.sra t d a b)
  | 0x10 => rsv (zCx w true true true false false false) (.min t d a b)
  | 0x11 => rsv (zCx w true true true false false false) (.max t d a b)
  | 0x12 => rsv (zCx w true true true false false false) (.slt t d a b)
  | 0x13 => rsv (zCx w true true true false false false) (.sltu t d a b)
  | 0x14 => rsv (zCx w true true false false false false) (.clz t d a)
  | 0x15 => rsv (zCx w true true false false false false) (.popc t d a)
  | 0x16 => .ok (.sext t d a imm30)
  | 0x17 => .ok (.zext t d a imm30)
  | 0x18 => .ok (.addi t d a imm30)
  | 0x19 => .ok (.andi t d a imm30)
  | 0x1A => .ok (.ori t d a imm30)
  | 0x1B => .ok (.xori t d a imm30)
  | 0x1C => .ok (.shli t d a imm30)
  | 0x1D => .ok (.shri t d a imm30)
  | 0x1E => .ok (.srai t d a imm30)
  | 0x1F => .ok (.slti t d a imm30)
  | 0x20 => if !zf w 33 2 then .error .reservedField else if zf w 32 1 then .ok (.li t d (fld w 0 32)) else .error .illegalOperand
  | 0x21 => rsv (zf w 33 2) (if zf w 32 1 then .liwLo t d (fld w 0 32) else .liwHi t d (fld w 0 32))
  | 0x22 => .ok (.beq t ba bb off)
  | 0x23 => .ok (.bne t ba bb off)
  | 0x24 => .ok (.blt t ba bb off)
  | 0x25 => .ok (.bge t ba bb off)
  | 0x26 => .ok (.bltu t ba bb off)
  | 0x27 => .ok (.bgeu t ba bb off)
  | 0x28 => rsv (zf w 30 10) (.jmp t imm30)
  | 0x29 => rsv (zf w 30 5) (.jal t d imm30)
  | 0x2A => .ok (.jr t d a imm30)
  | 0x2B => rsv (zf w 30 7) (.brq t (fld w 38 2) (fld w 37 1) off)
  | 0x2C => .ok (.loop t d a (fld w 18 12) (fld w 0 18))
  | 0x2D => rsv (zCx w false false false false false false) (.endl t)
  | 0x2E => rsv (zCx w true true false true false true) (.lds t d a c imm)
  | 0x2F => rsv (zCx w false true true true false true) (.sts t a b c imm)
  | 0x30 => .ok (.amo t d a b c m imm)
  | 0x31 => rsv (zCx w true true true true false true) (.cas t d a b c imm)
  | 0x32 => rsv (zCx w true true false false false true && zf w 2 14) (.hset t d a (fld w 0 2))
  | 0x33 => rsv (zCx w true true false false false true && zf w 2 14) (.hget t d a (fld w 0 2))
  | 0x34 => rsv (zCx w true true false false false false) (.hmov t d a)
  | 0x35 => rsv (zCx w true true false false false true && zf w 2 14) (.hadv t d a (fld w 0 2))
  | 0x36 => rsv (zCx w true true true false false true && zf w 2 14) (.hview t d a b (fld w 0 2))
  | 0x37 => rsv (zCx w true false false false false false) (.hclr t d)
  | 0x38 => rsv (zf w 12 26) (.issue t tgt (fld w 0 12))
  | 0x39 => rsv (zf w 0 33) (.issuer t tgt sa)
  | 0x3A => rsv (zf w 0 28) (.ringset t tgt sa sb)
  | 0x3B => rsv (zCx w false true false true true false && zf w 22 3) (.acq t a scope m)
  | 0x3C => rsv (zCx w false true false true true false && zf w 22 3) (.rel t a scope m)
  | 0x3D => rsv (zCx w false false false true true false && zf w 22 3) (.fence t scope m)
  | 0x3E => rsv (zCx w false true false true true false && zf w 22 3 && (m ≠ 0 || a = 0)) (.barg t a scope m)
  | 0x3F => rsv (zCx w false true true true true true && zf w 12 4) (.bind t a b c m (fld w 0 12))
  | 0x40 => rsv (zCx w false false false false true true && zf w 12 4) (.unbind t m (fld w 0 12))
  | 0x41 => rsv (zCx w false false false false false true && zf w 0 2 && zf w 10 6) (.split t (fld w 6 4) (fld w 5 1) (fld w 2 3))
  | 0x42 => rsv (zCx w false false false false false true && zf w 0 2) (.fuse t (fld w 13 3) (fld w 10 3) (fld w 6 4) (fld w 5 1) (fld w 2 3))
  | 0x43 => rsv (zCx w false false false false false true && zf w 0 2 && zf w 2 3) (.chain t (fld w 13 3) (fld w 10 3) (fld w 6 4) (fld w 5 1))
  | 0x44 => rsv (zCx w false false false false false true && zf w 0 2 && zf w 2 3) (.unchain t (fld w 13 3) (fld w 10 3) (fld w 6 4) (fld w 5 1))
  | 0x45 => rsv (zCx w false false false false false true && zf w 0 2 && zf w 6 10) (.orient t (fld w 5 1) (fld w 2 3))
  | 0x46 => rsv (zCx w true true true false false true) (.spawn t d a b imm)
  | 0x47 => rsv (zCx w true true false false false false) (.join t d a)
  | 0x48 => if !zCx w false true false false true false then .error .reservedField else if m = 0 then .ok (.kill t a) else if m = 1 then rsv (a = 0) (.killSelf t) else .error .illegalOperand
  | 0x49 => rsv (zCx w true true false false false false) (.quies t d a)
  | 0x4A => rsv (zCx w false true false false false true) (.cbld t a imm)
  | 0x4B => rsv (zCx w false true false false false true) (.xload t a imm)
  | 0x4C => rsv (zCx w false false false false false true) (.xunld t imm)
  | 0x4D => rsv (zCx w false true true false false false) (.bupd t a b)
  | 0x4E => rsv (zCx w false true true false false true) (.affp t a b imm)
  | 0x4F => rsv (zCx w true false false false false false) (.rdcyc t d)
  | 0x50 => rsv (zCx w true false false false false false) (.rdvc t d)
  | 0x51 => rsv (zCx w false false false false true false) (.pcsel t m)
  | 0x52 => rsv (zCx w true false false false false true) (.pcrd t d imm)
  | 0x53 => rsv (zCx w true true false false false true && zf w 4 12) (.clkrd t d a (fld w 0 4))
  | 0x54 => rsv (zCx w false false false false false true) (.trap t imm)
  | 0x55 => rsv (zCx w false false false false false false) (.eret t)
  | 0x56 => rsv (zCx w false false false false false false) (.tren t)
  | 0x57 => rsv (zCx w false false false false false false) (.uiret t)
  | 0x58 => rsv (zCx w true false false false false true) (.csrr t d imm)
  | 0x59 => rsv (zCx w false true false false false true) (.csrw t a imm)
  | 0x5A => rsv (zCx w false false false false false false) (.yield t)
  | 0x5B => rsv (zCx w false false false false false false) (.endTask t)
  | 0x5C => rsv (zCx w false false false false false true) (.tmark t imm)
  | 0x5D => proOnly pro (rsv (zCx w false false false false false false) (.lgo t))
  | 0x5E => proOnly pro (rsv (zCx w false false false false false false) (.lcancel t))
  | 0x5F => proOnly pro (rsv (zCx w false false false false false false) (.lrepeat t))
  | _ => .error .illegalOpcode

/-- The opcodes a launch prologue may execute (02 R53). -/
def prologueOpcode (n : Nat) : Bool :=
  n ≤ 0x2A || (0x2C ≤ n && n ≤ 0x31) || n = 0x4F || n = 0x54 || n = 0x5C || (0x5D ≤ n && n ≤ 0x5F)

/-- A decoded word whose field values pass the checks of 02 R52, for `vregs` main registers. -/
def checkValues (vregs : Nat) (r : Except Cause Instr) : Except Cause Instr :=
  match r with
  | .error c => .error c
  | .ok i => match WellFormed.check vregs i with
    | some c => .error c
    | none => .ok i

/-- A word of a launch prologue: the subset of 02 R53, with WAIT and SIGNAL bytes of zero, and the value checks of every CT word
(02 R51, R52). -/
def decodePrologue (w : W64) : Except Cause Instr :=
  if !prologueOpcode (opcodeOf w) then .error .illegalOpcode
  else if !(zf w 48 16) then .error .reservedField
  else checkValues 0 (decodeCt true w)

/-! ## The LD and SD map (02 R47) -/

/-- The handle of a data-queue side must be 0 (09 R221): DH in LD, SH in SD. -/
def dqZero (st : Stream) (w : W64) : Bool :=
  zf w 26 1 || (if st = .ld then zf w 36 4 else zf w 32 4)

/-- An opcode listed with XV = 1 that carries XV = 0 is ILLEGAL_OPERAND, after RESERVED_FIELD (02 R47, R52). -/
def needXv (w : W64) (r : Except Cause Instr) : Except Cause Instr :=
  match r with
  | .error e => .error e
  | .ok i => if zf w 27 1 then .error .illegalOperand else .ok i

/-- A word of stream LD or SD. -/
def decodeLs (st : Stream) (w : W64) : Except Cause Instr :=
  let t := tokOf w
  let dh : BitVec 4 := fld w 36 4
  let sh : BitVec 4 := fld w 32 4
  let xh : BitVec 4 := fld w 28 4
  let dq : BitVec 1 := fld w 26 1
  let sc : BitVec 2 := fld w 24 2
  let m : BitVec 4 := fld w 20 4
  let imm : BitVec 20 := fld w 0 20
  let only (s : Stream) (r : Except Cause Instr) : Except Cause Instr := if st = s then r else .error .illegalOpcode
  match opcodeOf w with
  | 0x00 => rsv (zf w 0 40) (.lsNop t)
  | 0x01 => if zf w 26 1 then rsv (zLm w true true false true false false) (.copy t dh sh sc) else rsv (zLm w true true false true false false && dqZero st w) (.copyDq t dh sh sc)
  | 0x02 => needXv w (rsv (zLm w true true true true false false && dqZero st w) (.copyp t dh sh xh dq sc))
  | 0x03 => only .ld (needXv w (rsv (zLm w true true true true true false && dqZero st w) (.gath t dh sh xh dq sc m)))
  | 0x04 => only .sd (needXv w (rsv (zLm w true true true true false false && dqZero st w) (.scat t dh sh xh dq sc)))
  | 0x05 => only .ld (rsv (zLm w false true false false false false) (.pref t sh sc))
  | 0x06 => rsv (zLm w false true false false false false) (.flush t sh sc)
  | 0x07 => rsv (zLm w false true false false false false) (.inval t sh sc)
  | 0x08 => rsv (zLm w false true false false false false) (.dcmpf t sh sc)
  | 0x09 => only .sd (rsv (zLm w true true false true true false && dqZero st w) (.atomv t dh sh dq sc m))
  | 0x0A => only .ld (rsv (zLm w true true false true false false && dqZero st w) (.rread t dh sh dq sc))
  | 0x0B => only .sd (if !(zLm w true true false true true false && dqZero st w) then .error .reservedField else if m = 0 then .ok (.rwrite t dh sh dq sc) else if m = 1 then .ok (.rwriteWin t dh sh dq sc) else .error .illegalOperand)
  | 0x0C => needXv w (rsv (zLm w true true true false true true && zf w 3 17 && (!zf w 0 1 || zf w 36 4)) (.ratom t dh sh xh sc m (fld w 2 1) (fld w 1 1) (fld w 0 1)))
  | 0x0D => only .ld (needXv w (rsv (zLm w false false true false true true && zf w 12 8) (.kvget t xh sc m (fld w 0 12))))
  | 0x0E => only .sd (needXv w (rsv (zLm w false false true false true true && zf w 12 8) (.kvput t xh sc m (fld w 0 12))))
  | 0x0F => rsv (zLm w false true false false false true && zf w 7 13) (.job t sh sc imm)
  | 0x10 => rsv (zf w 0 16) (.lsRep t (fld w 24 16) (fld w 16 8))
  | 0x11 => rsv (zLm w false true false false true true && (if m = 0 then zf w 1 19 && zf w 32 4 else zf w 0 20)) (.outq t sh sc m imm)
  | 0x12 => rsv (zLm w true true false false true false) (.wlapp t dh sh sc m)
  | 0x13 => rsv (zLm w true true false false true true) (.wltake t dh sh sc m (fld w 12 8) (fld w 0 12))
  | 0x14 => rsv (zLm w false true false false false true && zf w 2 18) (.wlseal t sh sc (fld w 0 2))
  | 0x15 => rsv (zf w 20 20) (.lsTmark t (fld w 0 20))
  | _ => .error .illegalOpcode

/-! ## The CP map (02 R49) -/

/-- The fields of an array product that must be zero (07 R170): F[0], IMM20[16:11]; with OUT = 0 also BIAS, ACT, RQ, DST and TAB,
and G except in MXBS; with OUT = 1 also a G that DST chain or data queue leaves unused, except in MXBS. -/
def zProduct (w : W64) (bs : Bool) : Bool :=
  zf w 20 1 && zf w 11 6 &&
    (if zf w 26 1 then zf w 21 5 && zf w 17 2 && (bs || zf w 32 4)
     else bs || (fld w 21 2 ≠ (1 : BitVec 2) && fld w 21 2 ≠ (2 : BitVec 2)) || zf w 32 4)

/-- An entry that lists M = 0 alone and refuses any other M with ILLEGAL_OPERAND (06 R140), after RESERVED_FIELD (02 R52). -/
def onlyM0 (w : W64) (r : Except Cause Instr) : Except Cause Instr :=
  match r with
  | .error e => .error e
  | .ok i => if zf w 0 8 then .ok i else .error .illegalOperand

/-- The fields of MXCFG that must be zero, item by item (07 R175). -/
def zCfg (w : W64) : Bool :=
  match (fld w 16 4).toNat with
  | 0 => zf w 0 16
  | 1 => zf w 0 16
  | 2 => zf w 2 14
  | 3 => zf w 7 9 && zf w 36 4
  | _ => true

/-- A word of stream CP. MXBS takes its rows from H, so FIN is a field it does not use: a word with FIN = 1 is RESERVED_FIELD; its
DST selects where rows go as in MXMUL (07 R170, R179; DEDUCED, log entry 69). -/
def decodeCp (w : W64) : Except Cause Instr :=
  let t := tokOf w
  let d : BitVec 8 := fld w 32 8
  let a : BitVec 8 := fld w 24 8
  let b : BitVec 8 := fld w 16 8
  let c : BitVec 8 := fld w 8 8
  let m : BitVec 8 := fld w 0 8
  let fa : BitVec 6 := fld w 10 6
  let fb : BitVec 6 := fld w 4 6
  let sat : BitVec 1 := fld w 3 1
  let vh : BitVec 4 := fld w 28 4
  let vm : BitVec 4 := fld w 24 4
  let imm : BitVec 24 := fld w 0 24
  let h : BitVec 4 := fld w 36 4
  let g : BitVec 4 := fld w 32 4
  let acc : BitVec 4 := fld w 28 4
  let f : BitVec 8 := fld w 20 8
  let i20 : BitVec 20 := fld w 0 20
  let gb : BitVec 1 := fld w 23 1
  match opcodeOf w with
  | 0x00 => rsv (zf w 0 40) (.cpNop t)
  | 0x01 => rsv (zMx w false true false true false && zf w 22 6) (.mxld t g (fld w 20 1) (fld w 21 1))
  | 0x02 => rsv (zf w 0 40) (.mxswap t)
  | 0x03 => rsv (zProduct w false) (.mxmul t h g acc f i20)
  | 0x04 => rsv (zProduct w false) (.mxlut t h g acc f i20)
  | 0x05 => rsv (zMx w true false false false true && zCfg w) (.mxcfg t h i20)
  | 0x06 => rsv (zProduct w true && zf w 0 11 && zf w 19 1) (.mxbs t h g acc f i20)
  | 0x07 => rsv (zProduct w false && zf w 36 4 && zf w 19 1) (.mxdrain t g acc f i20)
  | 0x08 => rsv (zMx w false false true false false) (.mxzero t acc)
  | 0x09 => rsv (zMx w false false true true true && zf w 9 11) (.mxrd t acc f (fld w 0 9))
  | 0x0A => rsv (zMx w false false true true true && zf w 9 11) (.mxwr t acc f (fld w 0 9))
  | 0x0B => .ok (.atPin t (fld w 39 1) (fld w 0 39))
  | 0x0C => rsv (zf w 0 16) (.cpRep t (fld w 24 16) (fld w 16 8))
  | 0x0D => rsv (zf w 28 4 && zf w 25 3 && zf w 1 19) (.selk t h g (fld w 20 5) (fld w 0 1))
  | 0x0E => rsv (zf w 20 20) (.cpTmark t (fld w 0 20))
  | 0x10 => rsv (zVv w true false false) (.vadd t d a b)
  | 0x11 => rsv (zVv w true false false) (.vsub t d a b)
  | 0x12 => rsv (zVv w true false false) (.vmul t d a b)
  | 0x13 => rsv (zVv w true true false) (.vfma t d a b c)
  | 0x14 => rsv (zVv w true true false) (.vfms t d a b c)
  | 0x15 => rsv (zVv w true true false) (.vfnma t d a b c)
  | 0x16 => rsv (zVv w true false false) (.vmin t d a b)
  | 0x17 => rsv (zVv w true false false) (.vmax t d a b)
  | 0x18 => rsv (zVv w false false false) (.vabs t d a)
  | 0x19 => rsv (zVv w false false false) (.vneg t d a)
  | 0x1A => rsv (zVv w true false true) (.vdiv t d a b m)
  | 0x1B => rsv (zVv w false false false) (.vsqrt t d a)
  | 0x1C => rsv (zVv w false false false) (.vrcp t d a)
  | 0x1D => rsv (zVv w false false false) (.vrsq t d a)
  | 0x1E => rsv (zVv w false false false) (.vexp2 t d a)
  | 0x1F => rsv (zVv w false false false) (.vlog2 t d a)
  | 0x20 => rsv (zf w 2 22) (.vtab t d a (fld w 0 2))
  | 0x21 => rsv (zf w 9 15) (.vscale t d a (fld w 0 9))
  | 0x22 => rsv (zVv w true false true) (.viadd t d a b m)
  | 0x23 => rsv (zVv w true false true) (.visub t d a b m)
  | 0x24 => rsv (zVv w true false true) (.vimul t d a b m)
  | 0x25 => onlyM0 w (rsv (zVv w true true true) (.vimad t d a b c))
  | 0x26 => onlyM0 w (rsv (zVv w true false true) (.vand t d a b))
  | 0x27 => onlyM0 w (rsv (zVv w true false true) (.vor t d a b))
  | 0x28 => onlyM0 w (rsv (zVv w true false true) (.vxor t d a b))
  | 0x29 => onlyM0 w (rsv (zVv w false false true) (.vnot t d a))
  | 0x2A => onlyM0 w (rsv (zVv w true false true) (.vshl t d a b))
  | 0x2B => onlyM0 w (rsv (zVv w true false true) (.vshr t d a b))
  | 0x2C => onlyM0 w (rsv (zVv w true false true) (.vsra t d a b))
  | 0x2D => rsv (zVv w true false true) (.vimin t d a b m)
  | 0x2E => rsv (zVv w true false true) (.vimax t d a b m)
  | 0x2F => rsv (zVv w true false true && zf w 5 3) (.vcmp t d a b m)
  | 0x30 => rsv (zVv w true true false) (.vsel t d a b c)
  | 0x31 => rsv (zVv w false false false) (.vclass t d a)
  | 0x32 => rsv (zf w 0 3 && zf w 16 8) (.vcvt t d a fa fb sat)
  | 0x33 => rsv (zf w 0 3) (.vpack t d a b fa fb sat)
  | 0x34 => rsv (zf w 0 3) (.vunpk t d a b fa fb sat)
  | 0x35 => rsv (zf w 0 3 && zf w 16 8) (.vqnt t d a fa fb sat)
  | 0x36 => rsv (zf w 0 3 && zf w 16 8) (.vdeq t d a fa fb sat)
  | 0x37 => rsv (zVv w false false true && zf w 5 3) (.vred t d a m)
  | 0x38 => rsv (zVv w false false true && zf w 6 2) (.vscan t d a m)
  | 0x39 => rsv (zVv w true false true && zf w 5 3 && zf w 0 4) (.vperm t d a b (fld w 4 1))
  | 0x3A => rsv (zf w 12 11) (.vrot t d a gb (fld w 0 12))
  | 0x3B => rsv (zf w 11 12) (.vbcast t d a gb (fld w 0 11))
  | 0x3C => rsv (zf w 12 11) (.vslide t d a gb (fld w 0 12))
  | 0x3D => rsv (zf w 16 7) (.vidx t d a gb (fld w 0 16))
  | 0x3E => rsv (zVv w true false true && zf w 5 3 && zf w 2 2 && (!zf w 0 1 || zf w 16 8)) (.vpart t d a b (fld w 4 1) (fld w 0 2))
  | 0x3F => rsv (zVv w false false false) (.vmov t d a)
  | 0x40 => if a = 0 then .ok (.vli t d imm) else if a = 1 then .ok (.vliHi t d imm) else .error .illegalOperand
  | 0x41 => rsv (zf w 28 4 && zf w 11 13) (.vtos t d vm (fld w 0 11))
  | 0x42 => rsv (zf w 24 4) (.vfrs t d vh imm)
  | 0x43 => rsv (zf w 0 32) (.vpop t d)
  | 0x44 => rsv (zf w 0 32) (.vpush t d)
  | 0x45 => rsv (zf w 28 4 && (if vm.toNat < 2 then zf w 0 24 else vm ≠ 2 || zf w 11 13)) (.vout t d vm imm)
  | 0x46 => .ok (.vld t d vh vm imm)
  | 0x47 => .ok (.vst t d vh vm imm)
  | 0x48 => .ok (.cpWlapp t d vh vm imm)
  | n => if 0xE0 ≤ n then .ok (.xop t (fld w 40 5) d a b c m) else .error .illegalOpcode

/-- A word fetched by a stream, by that stream's opcode map (02 R51). -/
def decode (st : Stream) (w : W64) : Except Cause Instr :=
  match st with
  | .ct => decodeCt false w
  | .ld => decodeLs .ld w
  | .cp => decodeCp w
  | .sd => decodeLs .sd w

/-- The word with the mode cleared that its entry lists no value for: A of VLI, M of the others (06 R140, R143). -/
def modeCleared (w : W64) : W64 := if opcodeOf w = 0x40 then w &&& ~~~(0xFF#64 <<< 24) else w &&& ~~~0xFF#64

/-- The cause of a word that decoding refuses with c: an unlisted mode of a CP word is ILLEGAL_OPERAND only where its designators
lie in their files (02 R52). -/
def decodeCause (vregs : Nat) (st : Stream) (w : W64) (c : Cause) : Cause :=
  if st = .cp && c = .illegalOperand then
    match decodeCp (modeCleared w) with
    | .ok i => if (WellFormed.desigs i).any fun x => !WellFormed.desigInFile vregs x.1 then .regBounds else c
    | .error _ => c
  else c

/-- Decoding with the value checks after it (02 R52), for a lease granted `vregs` main registers. -/
def decodeChecked (vregs : Nat) (st : Stream) (w : W64) : Except Cause Instr :=
  match decode st w with
  | .error c => .error (decodeCause vregs st w c)
  | .ok i => checkValues vregs (.ok i)

/-- The decoder on a table word: bits 63 to 0 are the command word, bits 71 to 64 (zero in a 64-bit word) the index of the
stream that fetches it (01 R16). The events of the table have no word (DESIGN CHOICE, log entry 1). -/
def decodeTableWord (nbits w : Nat) : Option Instr :=
  let word := BitVec.ofNat 64 w
  let r := if nbits ≤ 64 then decodeChecked 64 .ct word else decodeChecked 64 (Stream.ofIndex (w >>> 64)) word
  match r with
  | .ok i => some i
  | .error _ => none

/-! ## The encoder -/

/-- Which stream's opcode space a word belongs to; `ls` is shared by LD and SD (02 R47). -/
inductive WordSpace where
  | ct | ls | cp
  deriving DecidableEq, Repr

def enc (t : Tok) (op : BitVec 8) (operands : BitVec 40) : W64 := t.wait ++ t.sig ++ op ++ operands
def encCx (t : Tok) (op : BitVec 8) (d a b c : BitVec 5) (m : BitVec 4) (imm : BitVec 16) : W64 :=
  enc t op (d ++ a ++ b ++ c ++ m ++ imm)
def encCi (t : Tok) (op : BitVec 8) (d a : BitVec 5) (imm : BitVec 30) : W64 := enc t op (d ++ a ++ imm)
def encCl (t : Tok) (op : BitVec 8) (d : BitVec 5) (hi : BitVec 1) (imm : BitVec 32) : W64 :=
  enc t op (d ++ (0 : BitVec 2) ++ hi ++ imm)
def encCs (t : Tok) (op : BitVec 8) (tgt : BitVec 2) (a b : BitVec 5) (n : BitVec 12) : W64 :=
  enc t op (tgt ++ a ++ b ++ (0 : BitVec 16) ++ n)
def encShape (t : Tok) (op : BitVec 8) (dy dx : BitVec 3) (shape : BitVec 4) (ori : BitVec 1) (acc : BitVec 3) : W64 :=
  encCx t op 0 0 0 0 0 (dy ++ dx ++ shape ++ ori ++ acc ++ (0 : BitVec 2))
def encLm (t : Tok) (op : BitVec 8) (dh sh xh : BitVec 4) (xv dq : BitVec 1) (sc : BitVec 2) (m : BitVec 4)
    (imm : BitVec 20) : W64 := enc t op (dh ++ sh ++ xh ++ xv ++ dq ++ sc ++ m ++ imm)
def encLr (t : Tok) (op : BitVec 8) (cnt : BitVec 16) (len : BitVec 8) : W64 := enc t op (cnt ++ len ++ (0 : BitVec 16))
def encPn (t : Tok) (op : BitVec 8) (imm : BitVec 20) : W64 := enc t op ((0 : BitVec 20) ++ imm)
def encVv (t : Tok) (op : BitVec 8) (d a b c m : BitVec 8) : W64 := enc t op (d ++ a ++ b ++ c ++ m)
def encVf (t : Tok) (op : BitVec 8) (d a b : BitVec 8) (fa fb : BitVec 6) (sat : BitVec 1) : W64 :=
  enc t op (d ++ a ++ b ++ fa ++ fb ++ sat ++ (0 : BitVec 3))
def encVi (t : Tok) (op : BitVec 8) (d a : BitVec 8) (imm : BitVec 24) : W64 := enc t op (d ++ a ++ imm)
def encVm (t : Tok) (op : BitVec 8) (d : BitVec 8) (h m : BitVec 4) (imm : BitVec 24) : W64 := enc t op (d ++ h ++ m ++ imm)
def encMx (t : Tok) (op : BitVec 8) (h g acc : BitVec 4) (f : BitVec 8) (imm : BitVec 20) : W64 :=
  enc t op (h ++ g ++ acc ++ f ++ imm)

/-- The word of an instruction and the opcode space it belongs to; an event of the table has no word (DESIGN CHOICE, log entry 1). -/
def encode : Instr → Option (WordSpace × W64)
  | .ctNop t => some (.ct, encCx t 0x00 0 0 0 0 0 0)
  | .add t d a b => some (.ct, encCx t 0x01 d a b 0 0 0)
  | .sub t d a b => some (.ct, encCx t 0x02 d a b 0 0 0)
  | .mul t d a b => some (.ct, encCx t 0x03 d a b 0 0 0)
  | .mulh t d a b => some (.ct, encCx t 0x04 d a b 0 0 0)
  | .mulhu t d a b => some (.ct, encCx t 0x05 d a b 0 0 0)
  | .div t d a b => some (.ct, encCx t 0x06 d a b 0 0 0)
  | .divu t d a b => some (.ct, encCx t 0x07 d a b 0 0 0)
  | .rem t d a b => some (.ct, encCx t 0x08 d a b 0 0 0)
  | .remu t d a b => some (.ct, encCx t 0x09 d a b 0 0 0)
  | .and t d a b => some (.ct, encCx t 0x0A d a b 0 0 0)
  | .or t d a b => some (.ct, encCx t 0x0B d a b 0 0 0)
  | .xor t d a b => some (.ct, encCx t 0x0C d a b 0 0 0)
  | .shl t d a b => some (.ct, encCx t 0x0D d a b 0 0 0)
  | .shr t d a b => some (.ct, encCx t 0x0E d a b 0 0 0)
  | .sra t d a b => some (.ct, encCx t 0x0F d a b 0 0 0)
  | .min t d a b => some (.ct, encCx t 0x10 d a b 0 0 0)
  | .max t d a b => some (.ct, encCx t 0x11 d a b 0 0 0)
  | .slt t d a b => some (.ct, encCx t 0x12 d a b 0 0 0)
  | .sltu t d a b => some (.ct, encCx t 0x13 d a b 0 0 0)
  | .clz t d a => some (.ct, encCx t 0x14 d a 0 0 0 0)
  | .popc t d a => some (.ct, encCx t 0x15 d a 0 0 0 0)
  | .sext t d a i => some (.ct, encCi t 0x16 d a i)
  | .zext t d a i => some (.ct, encCi t 0x17 d a i)
  | .addi t d a i => some (.ct, encCi t 0x18 d a i)
  | .andi t d a i => some (.ct, encCi t 0x19 d a i)
  | .ori t d a i => some (.ct, encCi t 0x1A d a i)
  | .xori t d a i => some (.ct, encCi t 0x1B d a i)
  | .shli t d a i => some (.ct, encCi t 0x1C d a i)
  | .shri t d a i => some (.ct, encCi t 0x1D d a i)
  | .srai t d a i => some (.ct, encCi t 0x1E d a i)
  | .slti t d a i => some (.ct, encCi t 0x1F d a i)
  | .li t d i => some (.ct, encCl t 0x20 d 0 i)
  | .liwLo t d i => some (.ct, encCl t 0x21 d 0 i)
  | .liwHi t d i => some (.ct, encCl t 0x21 d 1 i)
  | .beq t a b o => some (.ct, encCi t 0x22 a b o)
  | .bne t a b o => some (.ct, encCi t 0x23 a b o)
  | .blt t a b o => some (.ct, encCi t 0x24 a b o)
  | .bge t a b o => some (.ct, encCi t 0x25 a b o)
  | .bltu t a b o => some (.ct, encCi t 0x26 a b o)
  | .bgeu t a b o => some (.ct, encCi t 0x27 a b o)
  | .jmp t o => some (.ct, encCi t 0x28 0 0 o)
  | .jal t d o => some (.ct, encCi t 0x29 d 0 o)
  | .jr t d a i => some (.ct, encCi t 0x2A d a i)
  | .brq t q s o => some (.ct, enc t 0x2B (q ++ s ++ (0 : BitVec 7) ++ o))
  | .loop t i a s b => some (.ct, enc t 0x2C (i ++ a ++ s ++ b))
  | .endl t => some (.ct, encCx t 0x2D 0 0 0 0 0 0)
  | .lds t d a c i => some (.ct, encCx t 0x2E d a 0 c 0 i)
  | .sts t a b c i => some (.ct, encCx t 0x2F 0 a b c 0 i)
  | .amo t d a b c m i => some (.ct, encCx t 0x30 d a b c m i)
  | .cas t d a b c i => some (.ct, encCx t 0x31 d a b c 0 i)
  | .hset t d a q => some (.ct, encCx t 0x32 d a 0 0 0 ((0 : BitVec 14) ++ q))
  | .hget t d a q => some (.ct, encCx t 0x33 d a 0 0 0 ((0 : BitVec 14) ++ q))
  | .hmov t d a => some (.ct, encCx t 0x34 d a 0 0 0 0)
  | .hadv t d a q => some (.ct, encCx t 0x35 d a 0 0 0 ((0 : BitVec 14) ++ q))
  | .hview t d a b q => some (.ct, encCx t 0x36 d a b 0 0 ((0 : BitVec 14) ++ q))
  | .hclr t d => some (.ct, encCx t 0x37 d 0 0 0 0 0)
  | .issue t g n => some (.ct, encCs t 0x38 g 0 0 n)
  | .issuer t g a => some (.ct, encCs t 0x39 g a 0 0)
  | .ringset t g a b => some (.ct, encCs t 0x3A g a b 0)
  | .acq t a sc m => some (.ct, encCx t 0x3B 0 a 0 ((0 : BitVec 3) ++ sc) m 0)
  | .rel t a sc m => some (.ct, encCx t 0x3C 0 a 0 ((0 : BitVec 3) ++ sc) m 0)
  | .fence t sc m => some (.ct, encCx t 0x3D 0 0 0 ((0 : BitVec 3) ++ sc) m 0)
  | .barg t a sc m => some (.ct, encCx t 0x3E 0 a 0 ((0 : BitVec 3) ++ sc) m 0)
  | .bind t a b c m i => some (.ct, encCx t 0x3F 0 a b c m ((0 : BitVec 4) ++ i))
  | .unbind t m i => some (.ct, encCx t 0x40 0 0 0 0 m ((0 : BitVec 4) ++ i))
  | .split t s o a => some (.ct, encShape t 0x41 0 0 s o a)
  | .fuse t y x s o a => some (.ct, encShape t 0x42 y x s o a)
  | .chain t y x s o => some (.ct, encShape t 0x43 y x s o 0)
  | .unchain t y x s o => some (.ct, encShape t 0x44 y x s o 0)
  | .orient t o a => some (.ct, encShape t 0x45 0 0 0 o a)
  | .spawn t d a b n => some (.ct, encCx t 0x46 d a b 0 0 n)
  | .join t d a => some (.ct, encCx t 0x47 d a 0 0 0 0)
  | .kill t a => some (.ct, encCx t 0x48 0 a 0 0 0 0)
  | .killSelf t => some (.ct, encCx t 0x48 0 0 0 0 1 0)
  | .quies t d a => some (.ct, encCx t 0x49 d a 0 0 0 0)
  | .cbld t a i => some (.ct, encCx t 0x4A 0 a 0 0 0 i)
  | .xload t a i => some (.ct, encCx t 0x4B 0 a 0 0 0 i)
  | .xunld t i => some (.ct, encCx t 0x4C 0 0 0 0 0 i)
  | .bupd t a b => some (.ct, encCx t 0x4D 0 a b 0 0 0)
  | .affp t a b i => some (.ct, encCx t 0x4E 0 a b 0 0 i)
  | .rdcyc t d => some (.ct, encCx t 0x4F d 0 0 0 0 0)
  | .rdvc t d => some (.ct, encCx t 0x50 d 0 0 0 0 0)
  | .pcsel t m => some (.ct, encCx t 0x51 0 0 0 0 m 0)
  | .pcrd t d i => some (.ct, encCx t 0x52 d 0 0 0 0 i)
  | .clkrd t d a s => some (.ct, encCx t 0x53 d a 0 0 0 ((0 : BitVec 12) ++ s))
  | .trap t i => some (.ct, encCx t 0x54 0 0 0 0 0 i)
  | .eret t => some (.ct, encCx t 0x55 0 0 0 0 0 0)
  | .tren t => some (.ct, encCx t 0x56 0 0 0 0 0 0)
  | .uiret t => some (.ct, encCx t 0x57 0 0 0 0 0 0)
  | .csrr t d i => some (.ct, encCx t 0x58 d 0 0 0 0 i)
  | .csrw t a i => some (.ct, encCx t 0x59 0 a 0 0 0 i)
  | .yield t => some (.ct, encCx t 0x5A 0 0 0 0 0 0)
  | .endTask t => some (.ct, encCx t 0x5B 0 0 0 0 0 0)
  | .tmark t i => some (.ct, encCx t 0x5C 0 0 0 0 0 i)
  | .lgo t => some (.ct, encCx t 0x5D 0 0 0 0 0 0)
  | .lcancel t => some (.ct, encCx t 0x5E 0 0 0 0 0 0)
  | .lrepeat t => some (.ct, encCx t 0x5F 0 0 0 0 0 0)
  | .lsNop t => some (.ls, encPn t 0x00 0)
  | .copy t d s c => some (.ls, encLm t 0x01 d s 0 0 0 c 0 0)
  | .copyDq t d s c => some (.ls, encLm t 0x01 d s 0 0 1 c 0 0)
  | .copyp t d s x q c => some (.ls, encLm t 0x02 d s x 1 q c 0 0)
  | .gath t d s x q c m => some (.ls, encLm t 0x03 d s x 1 q c m 0)
  | .scat t d s x q c => some (.ls, encLm t 0x04 d s x 1 q c 0 0)
  | .pref t s c => some (.ls, encLm t 0x05 0 s 0 0 0 c 0 0)
  | .flush t s c => some (.ls, encLm t 0x06 0 s 0 0 0 c 0 0)
  | .inval t s c => some (.ls, encLm t 0x07 0 s 0 0 0 c 0 0)
  | .dcmpf t s c => some (.ls, encLm t 0x08 0 s 0 0 0 c 0 0)
  | .atomv t d s q c m => some (.ls, encLm t 0x09 d s 0 0 q c m 0)
  | .rread t d s q c => some (.ls, encLm t 0x0A d s 0 0 q c 0 0)
  | .rwrite t d s q c => some (.ls, encLm t 0x0B d s 0 0 q c 0 0)
  | .rwriteWin t d s q c => some (.ls, encLm t 0x0B d s 0 0 q c 1 0)
  | .ratom t d s x c m sa w f => some (.ls, encLm t 0x0C d s x 1 0 c m ((0 : BitVec 17) ++ sa ++ w ++ f))
  | .kvget t x c m p => some (.ls, encLm t 0x0D 0 0 x 1 0 c m ((0 : BitVec 8) ++ p))
  | .kvput t x c m p => some (.ls, encLm t 0x0E 0 0 x 1 0 c m ((0 : BitVec 8) ++ p))
  | .job t s c n => some (.ls, encLm t 0x0F 0 s 0 0 0 c 0 n)
  | .lsRep t c l => some (.ls, encLr t 0x10 c l)
  | .outq t s c m i => some (.ls, encLm t 0x11 0 s 0 0 0 c m i)
  | .wlapp t d s c m => some (.ls, encLm t 0x12 d s 0 0 0 c m 0)
  | .wltake t d s c m x l => some (.ls, encLm t 0x13 d s 0 0 0 c m (x ++ l))
  | .wlseal t s c st => some (.ls, encLm t 0x14 0 s 0 0 0 c 0 ((0 : BitVec 18) ++ st))
  | .lsTmark t i => some (.ls, encPn t 0x15 i)
  | .cpNop t => some (.cp, encPn t 0x00 0)
  | .mxld t g p s => some (.cp, encMx t 0x01 0 g 0 ((0 : BitVec 6) ++ s ++ p) 0)
  | .mxswap t => some (.cp, encMx t 0x02 0 0 0 0 0)
  | .mxmul t h g a f i => some (.cp, encMx t 0x03 h g a f i)
  | .mxlut t h g a f i => some (.cp, encMx t 0x04 h g a f i)
  | .mxcfg t h i => some (.cp, encMx t 0x05 h 0 0 0 i)
  | .mxbs t h g a f i => some (.cp, encMx t 0x06 h g a f i)
  | .mxdrain t g a f i => some (.cp, encMx t 0x07 0 g a f i)
  | .mxzero t a => some (.cp, encMx t 0x08 0 0 a 0 0)
  | .mxrd t a v r => some (.cp, encMx t 0x09 0 0 a v ((0 : BitVec 11) ++ r))
  | .mxwr t a v r => some (.cp, encMx t 0x0A 0 0 a v ((0 : BitVec 11) ++ r))
  | .atPin t r x => some (.cp, enc t 0x0B (r ++ x))
  | .cpRep t c l => some (.cp, encLr t 0x0C c l)
  | .selk t h g k c => some (.cp, encMx t 0x0D h g 0 ((0 : BitVec 3) ++ k) ((0 : BitVec 19) ++ c))
  | .cpTmark t i => some (.cp, encPn t 0x0E i)
  | .vadd t d a b => some (.cp, encVv t 0x10 d a b 0 0)
  | .vsub t d a b => some (.cp, encVv t 0x11 d a b 0 0)
  | .vmul t d a b => some (.cp, encVv t 0x12 d a b 0 0)
  | .vfma t d a b c => some (.cp, encVv t 0x13 d a b c 0)
  | .vfms t d a b c => some (.cp, encVv t 0x14 d a b c 0)
  | .vfnma t d a b c => some (.cp, encVv t 0x15 d a b c 0)
  | .vmin t d a b => some (.cp, encVv t 0x16 d a b 0 0)
  | .vmax t d a b => some (.cp, encVv t 0x17 d a b 0 0)
  | .vabs t d a => some (.cp, encVv t 0x18 d a 0 0 0)
  | .vneg t d a => some (.cp, encVv t 0x19 d a 0 0 0)
  | .vdiv t d a b m => some (.cp, encVv t 0x1A d a b 0 m)
  | .vsqrt t d a => some (.cp, encVv t 0x1B d a 0 0 0)
  | .vrcp t d a => some (.cp, encVv t 0x1C d a 0 0 0)
  | .vrsq t d a => some (.cp, encVv t 0x1D d a 0 0 0)
  | .vexp2 t d a => some (.cp, encVv t 0x1E d a 0 0 0)
  | .vlog2 t d a => some (.cp, encVv t 0x1F d a 0 0 0)
  | .vtab t d a n => some (.cp, encVi t 0x20 d a ((0 : BitVec 22) ++ n))
  | .vscale t d a k => some (.cp, encVi t 0x21 d a ((0 : BitVec 15) ++ k))
  | .viadd t d a b m => some (.cp, encVv t 0x22 d a b 0 m)
  | .visub t d a b m => some (.cp, encVv t 0x23 d a b 0 m)
  | .vimul t d a b m => some (.cp, encVv t 0x24 d a b 0 m)
  | .vimad t d a b c => some (.cp, encVv t 0x25 d a b c 0)
  | .vand t d a b => some (.cp, encVv t 0x26 d a b 0 0)
  | .vor t d a b => some (.cp, encVv t 0x27 d a b 0 0)
  | .vxor t d a b => some (.cp, encVv t 0x28 d a b 0 0)
  | .vnot t d a => some (.cp, encVv t 0x29 d a 0 0 0)
  | .vshl t d a b => some (.cp, encVv t 0x2A d a b 0 0)
  | .vshr t d a b => some (.cp, encVv t 0x2B d a b 0 0)
  | .vsra t d a b => some (.cp, encVv t 0x2C d a b 0 0)
  | .vimin t d a b m => some (.cp, encVv t 0x2D d a b 0 m)
  | .vimax t d a b m => some (.cp, encVv t 0x2E d a b 0 m)
  | .vcmp t d a b m => some (.cp, encVv t 0x2F d a b 0 m)
  | .vsel t d a b c => some (.cp, encVv t 0x30 d a b c 0)
  | .vclass t d a => some (.cp, encVv t 0x31 d a 0 0 0)
  | .vcvt t d a fa fb s => some (.cp, encVf t 0x32 d a 0 fa fb s)
  | .vpack t d a b fa fb s => some (.cp, encVf t 0x33 d a b fa fb s)
  | .vunpk t d a b fa fb s => some (.cp, encVf t 0x34 d a b fa fb s)
  | .vqnt t d a fa fb s => some (.cp, encVf t 0x35 d a 0 fa fb s)
  | .vdeq t d a fa fb s => some (.cp, encVf t 0x36 d a 0 fa fb s)
  | .vred t d a m => some (.cp, encVv t 0x37 d a 0 0 m)
  | .vscan t d a m => some (.cp, encVv t 0x38 d a 0 0 m)
  | .vperm t d a b g => some (.cp, encVv t 0x39 d a b 0 ((0 : BitVec 3) ++ g ++ (0 : BitVec 4)))
  | .vrot t d a g k => some (.cp, encVi t 0x3A d a (g ++ (0 : BitVec 11) ++ k))
  | .vbcast t d a g n => some (.cp, encVi t 0x3B d a (g ++ (0 : BitVec 12) ++ n))
  | .vslide t d a g k => some (.cp, encVi t 0x3C d a (g ++ (0 : BitVec 11) ++ k))
  | .vidx t d a g s => some (.cp, encVi t 0x3D d a (g ++ (0 : BitVec 7) ++ s))
  | .vpart t d a b g k => some (.cp, encVv t 0x3E d a b 0 ((0 : BitVec 3) ++ g ++ (0 : BitVec 2) ++ k))
  | .vmov t d a => some (.cp, encVv t 0x3F d a 0 0 0)
  | .vli t d i => some (.cp, encVi t 0x40 d 0 i)
  | .vliHi t d i => some (.cp, encVi t 0x40 d 1 i)
  | .vtos t d m n => some (.cp, encVm t 0x41 d 0 m ((0 : BitVec 13) ++ n))
  | .vfrs t d h i => some (.cp, encVm t 0x42 d h 0 i)
  | .vpop t d => some (.cp, encVm t 0x43 d 0 0 0)
  | .vpush t d => some (.cp, encVm t 0x44 d 0 0 0)
  | .vout t d m i => some (.cp, encVm t 0x45 d 0 m i)
  | .vld t d h m i => some (.cp, encVm t 0x46 d h m i)
  | .vst t d h m i => some (.cp, encVm t 0x47 d h m i)
  | .cpWlapp t d h m i => some (.cp, encVm t 0x48 d h m i)
  | .xop t s d a b c e => some (.cp, encVv t ((7 : BitVec 3) ++ s) d a b c e)
  | _ => none

end Sys2Proof
end

