-- ==== Sys2Proof/Machine/State.lean ====
section
/-! DEFINITION. State.lean: every piece of state the spec gives the package, as plain data, the reasons a step can stop, and
the state after package reset (17 R403). The lease in execution stands in `cur`, the others in `rest`; `inbox` holds what
outside parties and firmware do next and `turn` what the device's own engines do in the current mc (DESIGN CHOICE, log entry 1). -/

namespace Sys2Proof.Machine

/-- Reasons a step stops the whole model: there is none. A trap, a park, a halt of a partition or a failed packet is a next
state, as the spec describes it. Safe. -/
inductive Fault where
  deriving DecidableEq, Repr

/-- Refusals of the model. -/
inductive Refusal where
  /-- An instruction whose arm gives no meaning yet. Safe. -/
  | notModelled (mnemonic : String)
  deriving DecidableEq, Repr

/-- A clock vector: entries [31:16] GEN, [15:0] count by AID (10 R251). -/
abbrev Vec := SMap W32

/-- The 128 lanes of one lane group's register, or one accumulator bank row. -/
abbrev Lanes := List W32

/-- The clock state of an agent (10 R251, R256). -/
structure Agent where
  count : Nat := 0
  dirty : Bool := false
  folded : Bool := false
  know : Vec := []
  deriving DecidableEq, Repr

/-- An entry of the loop stack (14 R345). -/
structure LoopEntry where
  idx : BitVec 5
  step : Int
  start : Int
  trips : Nat
  done : Nat
  body : Nat
  endOff : Nat
  deriving DecidableEq, Repr

/-- What a CT word waits for in step 5, beyond re-checking its condition (05 R98, 16 R369). -/
inductive CtWait where
  | none
  /-- A request or arrival is on its way or queued (ACQ, BARG, JOIN, QUIES, KILL, END, a shape instruction's first arrival). -/
  | sent
  /-- The change of a shape instruction falls due at this mc (12 R304-R309). -/
  | change (at_ : Nat)
  /-- BUPD: the counts that it reads from memory are here at this mc (13 R328). -/
  | counts (at_ : Nat) (cnt : List Nat)
  /-- BUPD: the flip falls due at this mc, with the snapshot counts and the old generation (13 R328). -/
  | flip (at_ : Nat) (gen : Nat) (cnt : List Nat)
  /-- LDS, STS, AMO, CAS: the walk of their page ends at this mc (18 R406). -/
  | walk (until_ : Nat)
  /-- JOIN: merges end at this mc (12 R294). -/
  | merging (at_ : Nat)
  deriving DecidableEq, Repr

/-- A word of a register whose stored copy has an error (04 R96): the file (0 main, 1 operand and last-result, 2 scalar, 3 shadow, 4
handle, 5 control, 6 accumulator row), the register, whether the error stands in the duplicate, or for an accumulator row is a double-bit
error, and the word: the lane by lane group of 128, or the column of an accumulator row; 0 in a scalar, handle or control register. -/
structure RegBad where
  file : Nat
  reg : Nat
  dup : Bool
  word : Nat := 0
  deriving DecidableEq, Repr

/-- CT's registers and the progress of the word in execution (04 R85-R87, R93; 05 R98-R100). -/
structure Ct where
  sregs : SMap W64 := []
  shadow : SMap W64 := []
  handles : SMap Handle := []
  pc : Nat := 0
  accd : Bool := false
  wdone : Bool := false
  idx : Nat := 0
  wait : CtWait := .none
  /-- The word at PC has been fetched: CT no longer stands between two words. -/
  begun : Bool := false
  /-- A synchronous trap whose entry waits for scalar results in flight, with TRAPINFO0-3 (05 R122). -/
  trapDue : Option (Cause × List W64) := none
  ir : W64 := 0
  loops : List LoopEntry := []
  trapCause : W64 := 0
  trapPc : W64 := 0
  trapCtl : W64 := 1
  info0 : W64 := 0
  info1 : W64 := 0
  info2 : W64 := 0
  info3 : W64 := 0
  uivec : W64 := 0
  uipc : W64 := 0
  vcmode : W64 := 0
  nstat : W64 := 0
  /-- NSTAT bits set in this mc (03 R83). -/
  nstatNow : W64 := 0
  cerr : W64 := 0
  bad : List RegBad := []
  accwin : SMap W64 := []
  ready : SMap Nat := []
  divFree : Nat := 0
  nextMc : Nat := 0
  /-- One more than the mc in which CT last performed a word or placed one (14 R350). -/
  did : Nat := 0
  /-- The mc up to which a miss of the instruction cache is outstanding (14 R350). -/
  missTo : Nat := 0
  deriving DecidableEq, Repr

/-- A REP in execution (09 R234, 14 R347): its body's first slot and length, the repetitions left and the next body word. -/
structure Rep where
  first : Nat
  len : Nat
  left : Nat
  pos : Nat
  deriving DecidableEq, Repr

/-- A ring (11 R262): slot numbers HEAD and TAIL and the words between them; the words lie in the window. -/
structure Ring where
  base : Nat := 0
  slots : Nat := 256
  head : Nat := 0
  tail : Nat := 0
  count : Nat := 0
  brk : SMap Bool := []
  bodyLeft : Nat := 0
  rep : Option Rep := none
  deriving DecidableEq, Repr

/-- A refusal that stopped a ring stream (02 R51, 09 R219, 16 R369). `late` is after issue; `entered` once CT took it. -/
structure StopRec where
  cause : Cause
  i0 : W64 := 0
  i1 : W64 := 0
  i2 : W64 := 0
  i3 : W64 := 0
  mc : Nat := 0
  late : Bool := false
  entered : Bool := false
  loader : Bool := false
  deriving DecidableEq, Repr

/-- A ring stream: its ring, its stop, its GRP count (02 R38), the command in its retry register and the mc of its next
issue. -/
structure StreamState where
  ring : Ring := {}
  stop : Option StopRec := none
  retry : Option Nat := none
  grp : Nat := 0
  nextMc : Nat := 0
  broken : Bool := false
  deriving DecidableEq, Repr

/-- One range of a footprint entry (09 R213). -/
structure FpRange where
  space : Nat
  gran : Nat
  ng : Nat
  written : Bool
  deriving DecidableEq, Repr

/-- What an LD or SD command in flight does (chapter 09, 11). -/
inductive CmdKind where
  | copy | copyIn | copyOut | pattern | patternIn | patternOut | gath | gathIn | scat | scatOut
  | pref | flush | inval | dcmpf | atomv | atomvOut | rread | rreadIn | rwrite | rwriteOut | rwin | rwinOut
  | ratom | kvget | kvput | job | card | outq | wlapp | wltake | wlseal | rep | nothing
  deriving DecidableEq, Repr

/-- A command of LD or SD, or a job card, from issue to completion (09 R209-R219, R231). -/
structure Cmd where
  seq : Nat
  stream : Stream
  slot : Nat := 0
  word : W64 := 0
  kind : CmdKind
  dst : Handle := 0
  src : Handle := 0
  aux : Handle := 0
  scope : Nat := 0
  m : Nat := 0
  imm : Nat := 0
  idxs : List Int := []
  pat : List Int := []
  card : Nat := 0
  parent : Nat := 0
  offset : Nat := 0
  total : Nat := 0
  deps : List Nat := []
  fp : List FpRange := []
  sig : BitVec 8 := 0
  op : Nat := 0
  ready : Nat := 0
  bit : Option Bool := none
  parked : Bool := false
  sent : Nat := 0
  nextReq : Option Nat := none
  buf : List Byte := []
  flags : Nat := 0
  /-- SEQ of its footprint entry (09 R213). -/
  mseq : Nat := 0
  /-- How far it had come as it last made progress, and for how many mc it has made none though it could (16 R373). -/
  seen : Nat × Nat × Nat := (0, 0, 0)
  still : Nat := 0
  /-- The read of its next bytes was lost on the host link (17 R403). -/
  lost : Bool := false
  deriving DecidableEq, Repr

/-- A value that a vector command sends to a queue at its completion (06 R155-R157). -/
inductive PendQ where
  | none
  | vpush (v : Lanes)
  | vtos (v : W64)
  | vout (b : Bool)
  deriving DecidableEq, Repr

/-- A REP that has not completed: its own signals, and the command numbers of its body, open while the body still issues
(09 R234). -/
structure RepWait where
  stream : Stream
  sig : BitVec 8
  slot : Nat
  op : Nat
  first : Nat
  last : Option Nat := none
  due : Nat
  deriving DecidableEq, Repr

/-- A result issued but not yet written (15 R358, 06 R134): its writeback vc, path, destinations and flags. -/
structure Pend where
  seq : Nat := 0
  due : Nat
  path : Nat
  slot : Nat := 0
  op : Nat := 0
  sig : BitVec 8 := 0
  writes : List (Nat × Lanes) := []
  last : Option (Nat × Lanes) := none
  flags : Nat := 0
  q : PendQ := .none
  accRow : Option (Nat × Bool) := none
  deriving DecidableEq, Repr

/-- An activation table (07 R176): LO, WEXP, the slopes and the intercepts. -/
structure Table where
  lo : W32 := 0
  wexp : Int := 0
  a : SMap W32 := []
  b : SMap W32 := []
  deriving DecidableEq, Repr

/-- The output-chain configuration (07 R164). Scales default to 1.0; slopes of an untouched table to 1.0. -/
structure OutCfg where
  bias : SMap W32 := []
  scale : SMap W32 := []
  tabs : SMap Table := []
  ofmt : Nat := 1
  osat : Bool := false
  deriving DecidableEq, Repr

/-- A weight buffer (07 R164): format tag (0 empty, 0x3F SGN), element codes and block scales by output column. -/
structure WTile where
  tag : Nat := 0
  cols : SMap (List Nat) := []
  scales : SMap (List Nat) := []
  deriving DecidableEq, Repr

/-- The array product or drain kinds of chapter 07. -/
inductive ArrKind where
  | mul | lut | bs | drain
  deriving DecidableEq, Repr

/-- An array command in flight (07 R167-R170, R177-R180). -/
structure ArrCmd where
  seq : Nat
  kind : ArrKind
  t : Nat
  slot : Nat := 0
  sig : BitVec 8 := 0
  f : BitVec 8 := 0
  imm : BitVec 20 := 0
  base : Nat := 0
  rows : Nat := 0
  h : Handle := 0
  g : Handle := 0
  g1 : Handle := 0
  g2 : Handle := 0
  cfg : OutCfg := {}
  mcnt : Nat := 0
  taken : Nat := 0
  lastIn : Nat := 0
  entry : Nat := 0
  ent : Nat := 0
  entNext : Nat := 0
  doneAt : Option Nat := none
  flags : Nat := 0
  /-- Stopped by a save with its progress (16 R379). -/
  stopped : Bool := false
  deriving DecidableEq, Repr

/-- A row of sums on its way into the accumulator (07 R167): column j is written at `due + j`. -/
structure RowWrite where
  cmd : Nat
  row : Nat
  due : Nat
  vals : List W32
  clr : Bool
  int : Bool
  deriving DecidableEq, Repr

/-- A row on its way through the output chain (07 R167, R171): emitted at `due` from accumulator row `row`, as output row
`out` of plane `plane`; a masked row passes with `emit` false. -/
structure RowEmit where
  cmd : Nat
  row : Nat
  out : Nat
  plane : Nat := 0
  readAt : Nat
  due : Nat
  emit : Bool := true
  vals : Option (List W32) := none
  /-- The kind of each column's row: integer or float (07 R180). -/
  ints : List Bool := []
  deriving DecidableEq, Repr

/-- A weight load in flight (07 R172, R173): next row to request, rows on their way, completion vc. -/
structure LoadCmd where
  seq : Nat := 0
  t : Nat
  slot : Nat := 0
  sig : BitVec 8 := 0
  g : Handle := 0
  pro : Bool := false
  sgn : Bool := false
  next : Nat := 0
  out : List (Nat × Nat) := []
  /-- Rows on their way over the host link, and those lost on it (17 R403). -/
  onLink : List Nat := []
  lost : List Nat := []
  doneAt : Option Nat := none
  parked : Bool := false
  late : Bool := false
  flags : Nat := 0
  deriving DecidableEq, Repr

/-- An MXCFG or SELK in flight: its effect at its completion vc (07 R175, 13 R327). -/
structure CfgCmd where
  seq : Nat := 0
  due : Nat
  slot : Nat := 0
  op : Nat := 5
  sig : BitVec 8 := 0
  cfg : Option OutCfg := none
  selRec : Nat := 0
  selCnt : List Nat := []
  gen : Nat := 0
  deriving DecidableEq, Repr

/-- A completed command whose pushes, MARK and UIRQ are still to act (01 R18). -/
structure Done where
  stream : Stream
  sig : BitVec 8
  slot : Nat
  op : Nat
  vc : Nat := 0
  bit : Option Bool := none
  seq : Nat := 0
  q : PendQ := .none
  due : Nat := 0
  /-- The vector that its pushes carry, released at the completion (01 R18, 10 R251); none while it is still to be released. -/
  vec : Option Vec := none
  deriving DecidableEq, Repr

/-- The life of a lease (01 R32). `free` marks the slot that executes nothing. -/
inductive LeaseState where
  | free | queued | running | parked | saved | retired | halted
  deriving DecidableEq, Repr

/-- Where a lease's or prologue's task came from (11 R282): ring, completion record and repetition. -/
structure Origin where
  ring : Nat := 16
  kernel : Nat := 0
  rcb : Nat := 0
  done : Nat := 0
  args : Nat := 0
  param : List Nat := []
  launches : Nat := 0
  info : W64 := 0
  repeats : Bool := false
  deriving DecidableEq, Repr

/-- Pre-emption of a lease (16 R378, R379): none, requested (by YIELD or by PREEMPT), or its stages. -/
inductive Pre where
  | none | byYield | byWrite | draining (yielded : Bool)
  deriving DecidableEq, Repr

/-- A lease: one parcel and the sequencer that drives it (01 R26-R33, chapter 04), or a prologue on a launch core
(11 R283, `prologue`). -/
structure Lease where
  id : Nat := 0
  part : Nat := 0
  aid : Nat := 0xFFC
  task : Nat := 0
  rcb : Nat := 0
  kernel : Nat := 0
  kernelId : Nat := 0
  st : LeaseState := .free
  prologue : Bool := false
  words : Nat := 0
  origin : Origin := {}
  die : Nat := 0
  row : Nat := 0
  col : Nat := 0
  shape : Nat := 0
  ori : Bool := false
  vregs : Nat := 0
  accrows : Nat := 0
  scratch : Nat := 1
  xoptab : Nat := 0
  loader : Nat := 0
  traph : Nat := 0
  codesize : Nat := 0
  /-- First code offset that may be fetched: PROLOG in a prologue (11 R283). -/
  codeFrom : Nat := 0
  /-- First code offset behind those that a prologue may fetch. -/
  codeTo : Nat := 0
  /-- Lines of 128 code bytes in CT's instruction cache (08 R187, R195). -/
  icache : List Nat := []
  code : SMap W64 := []
  brkCode : SMap Bool := []
  brkPc : Option Nat := none
  race : Nat := 0
  chin : Option Nat := none
  chout : Option Nat := none
  ct : Ct := {}
  ld : StreamState := {}
  cp : StreamState := {}
  sd : StreamState := {}
  ctGrp : Nat := 0
  tq : SMap (List Vec) := []
  credit : SMap Nat := []
  dqIn : List Lanes := []
  dqOut : List Lanes := []
  sret : List W64 := []
  oq : SMap (List Bool) := []
  inUse : SMap Nat := []
  nextSeq : Nat := 0
  /-- Memory commands accepted, modulo 2^16 (09 R213). -/
  memSeq : Nat := 0
  cmds : List Cmd := []
  pend : List Pend := []
  arr : List ArrCmd := []
  rowW : List RowWrite := []
  rowE : List RowEmit := []
  load : Option LoadCmd := none
  cfgQ : List CfgCmd := []
  wact : WTile := {}
  wshd : WTile := {}
  cfg : OutCfg := {}
  fifo : List Lanes := []
  fifoAt : List Nat := []
  arrShift : Nat := 0
  arrHeld : Bool := false
  rowprog : Nat := 0
  vc : Nat := 0
  pause : Bool := false
  /-- Bytes that CP's commands have stored in the window and that other agents see from their completion on: the command, the window
  offset and the bytes (06 R152). -/
  stores : List (Nat × Nat × List Byte) := []
  /-- Window lines of 512 bytes that copy-engine accesses take in the mc to come, each with its access, and for how many mc an access
  has waited behind one in each bank (08 R190). -/
  banks : List (Nat × Nat) := []
  bankWait : SMap Nat := []
  /-- The entries of its agents' knowledge vectors that the sequencer caches, by 4096 times the stream plus the AID, and the mc up to
  which an access of CP waits for one (10 R251). -/
  kcache : List Nat := []
  kfetch : Option Nat := none
  /-- AID groups that a SPLIT under way has taken for its parts (12 R304). -/
  splitAids : List Nat := []
  /-- Commands of each stream that retry a faulted access, in SEQ order (11 R287, 16 R371). -/
  retries : List (Stream × Nat) := []
  /-- The target vc of an AT that has been consumed and the command number of that AT (14 R343). -/
  pin : Option Int := none
  pinSeq : Nat := 0
  lastIssue : Option Nat := none
  portFree : Nat := 0
  cpStart : Option Nat := none
  cpHold : Bool := false
  reps : List RepWait := []
  /-- The class of each stream in the mc before (14 R350). -/
  cls : SMap Nat := []
  /-- The class that the head of each stream has in this mc unless it issues: 1 to 3, and 4 + q for WAIT_TOKEN of queue q (14 R350). -/
  heads : SMap Nat := []
  /-- For how many mc in a row each stream has had a ready head and issued nothing (16 R373). -/
  idle : SMap Nat := []
  ctrs : SMap Nat := []
  counted : Nat := 0
  snap : SMap Nat := []
  held : List (Nat × Bool × Nat) := []
  cb : SMap Nat := []
  xop : SMap (List Byte) := []
  doneQ : List Done := []
  ratomCtr : SMap Nat := []
  pre : Pre := .none
  frozen : Bool := false
  /-- In a replay: the bytes of the log that each source of inputs has used (15 R364). -/
  replay : Option (SMap Nat) := none
  /-- The saved registers and bank rows by lane group, the window by offset and its metadata by granule (16 R385). -/
  savedVecs : SMap Lanes := []
  savedAcc : SMap Lanes := []
  savedInt : SMap Bool := []
  savedWin : Memory := []
  savedMeta : SMap W64 := []
  /-- Recorded generations that sweeps have settled since the image left the shadow planes (10 R248). -/
  sweptGens : List Nat := []
  /-- Where the image lies in the pool, and its size in KiB (16 R383, R384). -/
  imgAt : Option Nat := none
  imgKib : Nat := 0
  drained : Bool := false
  yielded : Bool := false
  queued : Bool := false
  heldDone : List Done := []
  retiring : Bool := false
  /-- The access refused by the most recently entered race trap: WHERE of its record and its granule (16 R370); and whether an ERET
  has returned with RSUP set since (05 R123). -/
  rsupAcc : Option (Nat × Nat) := none
  rsupOn : Bool := false
  /-- Race records of each stream's word (by stream index) and of each command in flight (by number plus 4): their count, and one
  more than the key of the sixteenth (10 R259). -/
  races : SMap (Nat × Nat) := []
  folds : List (Nat × Nat × List Byte) := []
  grpReady : SMap Nat := []
  deriving DecidableEq, Repr

/-- One activity of the current mc: a stream of a lease issues a word, or an event of the table happens (DESIGN CHOICE, log entry 1). -/
inductive Turn where
  | word (l : Nat) (st : Stream)
  | event (i : Instr)
  deriving DecidableEq, Repr

/-- What a memory request does at its home (08 R196, 05 R110-R113). -/
inductive ReqKind where
  | load | store | amo | cas
  /-- AFFP on its way to its record: the table, slot and expert stand in `va`, `cmp` and `data`, PF in `op` (13 R338). -/
  | affp
  deriving DecidableEq, Repr

/-- A CT memory request on its way to its home. -/
structure Req where
  num : Nat
  lease : Nat
  aid : Nat
  part : Nat
  die : Nat
  kind : ReqKind
  va : Nat
  /-- The translated location: tier, physical address, memory key, key slot and leaf. -/
  tier : Nat := 0
  pa : Nat := 0
  key : Nat
  slotKey : Nat := 0x7F
  leaf : W64 := 0
  size : Nat
  sx : Bool := false
  dreg : Nat := 0
  data : Nat := 0
  cmp : Nat := 0
  op : Nat := 0
  scope : Nat := 0
  /-- It goes to a home of this package. -/
  atHome : Bool := true
  /-- Performed at its home, and its result on the way back until `due` (10 R239). -/
  back : Bool := false
  /-- Its line comes over the host link (17 R403). -/
  onLink : Bool := false
  sig : BitVec 8 := 0
  slot : Nat := 0
  opc : Nat := 0
  due : Nat := 0
  cmd : Option Nat := none
  /-- The virtual address that a TLB entry translated for it; none for a remote handle's request, which nothing here translates. -/
  virt : Option Nat := none
  /-- An STS that has completed before its home performs it, as its scope lets it (10 R239), with its agent's count at that time. -/
  told : Bool := false
  clk : Nat := 0
  /-- CT waits in step 5 for the race check at the home (10 R260). -/
  asks : Bool := false
  deriving DecidableEq, Repr

/-- What reaches a group that stands stopped, or an input that its full log cannot take: it waits (15 R355, R356). -/
inductive HeldInput where
  /-- The value of a CT access, by its request, with the mc at which it is back. -/
  | answer (r : Req) (old due : Nat)
  /-- Bytes of a remote writer for the window. -/
  | land (lease off : Nat) (bs : List Byte)
  /-- An answer of another package to a request of the lease. -/
  | far (lease n kind v : Nat) (bs : List Byte)
  /-- The completion of CT's word, with the registers it writes and its latency. -/
  | done (lease lat : Nat) (regs : List (Nat × W64))
  /-- CT goes on from an access that its home has checked. -/
  | goOn (lease : Nat)
  | trap (lease : Nat) (c : Cause) (i : List W64)
  deriving DecidableEq, Repr

/-- A TLB entry (08 R202): the page's base and size and the leaf found for it; `at_` is the TLB that holds it, 16 d + q of plot q
of die d, or 128 + d for the shared TLB of die d. -/
structure TlbEntry where
  part : Nat
  base : Nat
  size : Nat
  leaf : W64
  at_ : Nat := 0
  deriving DecidableEq, Repr

/-- A walk in one of the walk slots of a die (08 R202): its partition, 64 KiB page, and the mc at which it ends. -/
structure Walk where
  die : Nat
  part : Nat
  page : Nat
  until_ : Nat
  deriving DecidableEq, Repr

/-- The latched fields of an attached RCB (12 R290): its address, parent, and effective inputs. -/
structure Rcb where
  va : Nat
  parent : Nat
  kind : Nat
  depth : Nat
  prio : Nat
  race : Nat
  maxPlots : Nat
  maxLeases : Nat
  fdom : Nat
  resmap : Nat
  vec : Nat
  deriving DecidableEq, Repr

/-- A queued launch (01 R31, 12 R293, R299): the task and how it starts. -/
structure Launch where
  part : Nat
  task : Nat
  rcb : Nat
  kernel : Nat
  args : Nat
  origin : Origin := {}
  die : Nat := 0
  vec : Vec := []
  passed : Nat := 0
  image : Option Nat := none
  deriving DecidableEq, Repr

/-- A binding-table entry (12 R311). -/
structure Binding where
  valid : Bool := false
  owner : Nat := 0
  holds : Nat := 0
  obj : Nat := 0
  base : Nat := 0
  len : Nat := 0
  deriving DecidableEq, Repr

/-- An ACQ request waiting at its object (10 R243). -/
structure Waiter where
  /-- The object's mark, which is its identity. -/
  obj : Nat
  lease : Nat
  idx : Nat
  shared : Bool
  scope : Nat
  /-- When the request reaches the binding table and the object. -/
  due : Nat
  atHome : Nat
  arrived : Bool := false
  deriving DecidableEq, Repr

/-- A barrier instance (10 R247): its level, RCB, count and arrivals. -/
structure Barrier where
  level : Nat
  rcb : Nat
  /-- First parcel's lease at level 0. -/
  grp : Nat := 0
  count : Nat
  arrived : List Nat
  vec : Vec
  /-- When a message reaches the home, or the last merge of an instance ends. -/
  due : Nat := 0
  deriving DecidableEq, Repr

/-- A task (12 R306): its region, lease count and origin. -/
structure Task where
  id : Nat
  rcb : Nat
  leases : Nat
  kernelId : Nat := 0
  /-- CT AID and LEASEINFO of its last lease. -/
  aid : Nat := 0xFFF
  info : W64 := 0
  origin : Origin := {}
  deriving DecidableEq, Repr

/-- A host ring (11 R278, R281). -/
structure HostRing where
  base : W64 := 0
  ctl : W64 := 0x000F0004
  idxBlk : W64 := 0
  expect : Nat := 0
  waiting : Bool := false
  active : Bool := false
  unpub : Nat := 0
  stopping : Bool := false
  /-- EN is set and READ, in a host page that is not translated yet, has still to be taken (17 R389). -/
  arming : Bool := false
  /-- A packet without a prologue whose launch waits for room in the lease queues (12 R300). -/
  launchWait : Option Origin := none
  /-- Prologues to run again (11 R283). -/
  again : List Origin := []
  deriving DecidableEq, Repr

/-- An event queue (11 R285). -/
structure EventQueue where
  base : W64 := 0
  ctl : W64 := 0
  lost : Nat := 0
  head : Nat := 0
  tail : Nat := 0
  deriving DecidableEq, Repr

/-- A batcher (13 R331, R335). -/
structure Batcher where
  addr : W64 := 0
  en : Bool := false
  step : Nat := 0
  state : Nat := 0
  /-- 0 waiting for STEPDONE or idle, 1 a step starts at rule 3, 2 a packet waits for room in its ring, 3 the same with a first step to start
  after it. -/
  stage : Nat := 0
  idle : Bool := true
  /-- STATUS that the launch core wrote to STEPDONE, not yet acted on. -/
  done : Nat := 0
  /-- The slot claimed in its ring, until its packet stands there (11 R280). -/
  claim : Option Nat := none
  deriving DecidableEq, Repr

/-- The debug registers of a virtual function (15 R354). -/
structure Debug where
  tgt : W64 := 0
  ctl : W64 := 0
  stopped : Bool := false
  err : Bool := false
  reason : Nat := 0
  at_ : W64 := 0
  bmap : W64 := 0
  dump : W64 := 0
  log : W64 := 0
  logLen : W64 := 0
  logPos : Nat := 0
  dumpCopy : List Byte := []
  /-- The array planes as they were written, by lease (15 R359). -/
  planes : SMap (List Byte) := []
  /-- Reasons of the stop to come, and a lease of the group to stop or stopped. -/
  pend : Nat := 0
  who : Nat := 0
  /-- The mc of a stop edge whose dump is not yet written (15 R355, R357). -/
  edge : Option Nat := none
  /-- Reasons for which the input now offered is not taken (15 R356). -/
  ask : Nat := 0
  /-- DBGAT has not acted since it was set. -/
  armed : Bool := false
  /-- Contents of the dumps written, by their addresses: the saved leases and CT's requests in flight (DESIGN CHOICE, log entry 24). -/
  dumps : SMap (List Lease × List Req) := []
  deriving DecidableEq, Repr

/-- A fault-queue entry waiting on the die or unresolved (11 R285-R287): its lease, stream and bytes. -/
structure FaultEntry where
  lease : Nat
  stream : Stream
  cause : Cause
  flags : Nat
  aid : Nat
  va : Nat
  offset : Nat
  where_ : Nat
  tier : Nat
  kernelId : Nat
  datum : Nat
  loc : Nat
  seq : Option Nat := none
  cmd : Option Nat := none
  resolved : Bool := false
  deriving DecidableEq, Repr

/-- The state of a partition (chapters 08, 10, 11, 12, 13, 15, 16). -/
structure Partition where
  rootRcb : W64 := 0
  rcbkErr : Bool := false
  rcbkBusy : Bool := false
  pxbase : W64 := 0
  nthresh : W64 := 256
  tlbErr : Bool := false
  tlbBusy : Bool := false
  tlbBarrier : List Nat := []
  keymask0 : W64 := 0
  keymask1 : W64 := 0x8000000000000000
  keyLoads : Nat := 0
  rings : SMap HostRing := []
  eqs : SMap EventQueue := []
  faultWait : List FaultEntry := []
  faultOpen : List FaultEntry := []
  batchers : SMap Batcher := []
  dbg : Debug := {}
  pstate : Nat := 0
  pcause : Nat := 0
  records : Nat := 0
  reclost : Nat := 0
  haltBase : W64 := 0
  haltLen : W64 := 0
  imgBase : W64 := 0
  imgLen : W64 := 0
  ctxBusy : Bool := false
  ctxResult : Nat := 0
  ctxCount : Nat := 0
  stopLeft : List (List Byte) := []
  gen : Nat := 0
  agents : SMap Agent := []
  aidUsed : List Nat := []
  aidQuar : List Nat := []
  places : SMap Nat := []
  bind : SMap Binding := []
  rcbs : List Rcb := []
  nextTask : Nat := 0
  tasks : List Task := []
  barriers : List Barrier := []
  arrivals : List Barrier := []
  waiters : List Waiter := []
  peers : SMap Nat := []
  /-- Sweeps under way: the generation entered and the mc at which they end (10 R248). -/
  sweeps : List (Nat × Nat) := []
  vfFrozen : Bool := false
  ats : List (Nat × Nat) := []
  atc : List Nat := []
  atsFail : List Nat := []
  /-- ATS invalidations under way: page, and the requests they wait for (17 R389). -/
  atsBarrier : List (Nat × List Nat) := []
  /-- Migrations under way by 64 KiB page: 1 blocked, 2 copied, and from the switch on 3 plus 4 times the key of the old place, which
  the last step retires (08 R207). -/
  migr : List (Nat × Nat) := []
  deriving DecidableEq, Repr

/-- One end of a die-link module (17 R397-R399, 21 R417). -/
structure LinkEnd where
  nextSeq : Nat := 0
  expect : Nat := 0
  replay : List (Nat × List Byte) := []
  acked : Nat := 4095
  credits : Nat := 64
  crdSeen : Nat := 0
  crdUnits : Nat := 0
  crdPart : Nat := 0
  nakSent : Bool := false
  nakOut : Bool := false
  sendFrom : Option Nat := none
  timer : Nat := 0
  /-- A replay has begun, and its first flit has not left. -/
  fresh : Bool := false
  fails : List Nat := []
  crcTotal : Nat := 0
  sentAck : Nat := 4095
  sentCrd : Nat := 0
  queue : List (List Byte) := []
  /-- Flits on the wire: the mc of arrival, header, payload and CRC. -/
  wire : List (Nat × BitVec 32 × List Byte × BitVec 32) := []
  deriving DecidableEq, Repr

/-- A die-link module: width, state and its two ends (17 R397-R399). -/
structure Module where
  wide : Bool := true
  up : Bool := true
  retraining : Option Nat := none
  retrains : Nat := 0
  a : LinkEnd := {}
  b : LinkEnd := {}
  deriving DecidableEq, Repr

/-- A remote-atomic request of a RATOM (09 R228, 17 R400, 21 R415, R416). -/
structure RatomReq where
  num : Nat
  lease : Nat
  part : Nat
  aid : Nat
  req : Nat
  cmd : Nat
  elem : Nat
  key : Nat
  slotKey : Nat := 0x7F
  leaf : W64 := 0
  home : Nat
  pkg : Nat := 0
  size : Nat
  op : Nat
  data : Nat
  cmp : Nat
  guarded : Bool
  sends : Nat
  answered : Nat
  lastSend : Nat
  /-- Copies on their way to the home, and results on their way back. -/
  toHome : Nat
  results : List Nat
  haveResult : Bool := false
  /-- When the sends that found no free window come again. -/
  retryAt : List Nat := []
  /-- The mc at which the result of a request that crosses no link is back. -/
  resultAt : Nat := 0
  /-- What its target has refused it with: a cause, with TRAPINFO0-3 for a race; and whether the refusal has come back. -/
  refusal : Option (Cause × List W64) := none
  refused : Bool := false
  /-- What a request to another package carries: its partition there, the kind of the message and the address. -/
  farPart : Nat := 0
  farKind : Nat := 0
  farAddr : Nat := 0
  deriving DecidableEq, Repr

/-- A result window of a home slice (17 R400): its slice, source, and the results by request number modulo 64. -/
structure Window where
  slice : Nat
  part : Nat
  pkg : Nat
  aid : Nat
  results : SMap (Nat × Nat) := []
  deriving DecidableEq, Repr

/-- What a die hands to a compaction unit (11 R271). -/
inductive WlMsg where
  | item (part desc aid list payload seq : Nat) (top : Bool)
  | seal (part desc aid : Nat)
  | take (part desc lease cmd list max : Nat)
  deriving DecidableEq, Repr

/-- The topology table of a set under way (11 R276): the entries still to come (expert, block, mask), how often each block has come,
and the entries written. -/
structure TopoBuild where
  part : Nat
  desc : Nat
  left : List (Nat × Nat × Nat)
  seen : SMap Nat := []
  n : Nat := 0
  deriving DecidableEq, Repr

/-- A 64-entry slot table and its staged successor (12 R314). -/
structure SlotTable where
  slots : SMap Nat := []
  wc : Bool := true
  staged : Option (SMap Nat × Bool) := none
  deriving DecidableEq, Repr

/-- The firmware complexes (17 R401, R402). -/
structure Firmware where
  activeB : Bool := false
  /-- Olsum A, or B, does not run: its images did not verify, or it has failed. -/
  failedA : Bool := false
  failedB : Bool := false
  missed : Nat := 0
  written : Nat := 0
  applied : Nat := 0
  image : W64 := 0
  standbyImage : W64 := 0
  /-- The standby has booted a new image and waits for a quiescent packet boundary. -/
  booted : Bool := false
  deriving DecidableEq, Repr

/-- What the health record of a die holds (17 R405): ageing indicators by plot, corrected errors by memory, retired HBM pages and
pseudo-channels, module states, station, port and isolation logs, thermal and power events. -/
structure HealthRec where
  ages : List W64 := []
  corrected : List Nat := []
  retired : List Nat := []
  channels : List Nat := []
  modules : List Nat := []
  fabric : List Nat := []
  thermal : List Nat := []
  deriving DecidableEq, Repr

/-- A response over DOE (17 R391): its body, measurement blocks by index, and for a signed one the base signature, the registry ID of the
OpaqueData element and the second signature in it. -/
structure DoeResponse where
  body : List Byte
  blocks : List (Nat × List Byte) := []
  sign : Option (List Byte × Nat × List Byte) := none
  deriving DecidableEq, Repr

/-- An access of the host to device memory: its function, address, kind, size and operands (17 R388). -/
structure BarAccess where
  part : Nat
  va : Nat
  kind : Nat
  size : Nat
  data : Nat
  cmp : Nat
  deriving DecidableEq, Repr

/-- What leaves the package: interrupts, responses and requests to outside parties (17 R388-R395). -/
inductive OutMsg where
  | msix (part vector : Nat)
  | barRead (part : Nat) (v : W64)
  | ats (part va : Nat)
  | pri (part va : Nat)
  | atsDone (part va : Nat)
  | doe (resp : DoeResponse)
  | fabric (pkg rpart part aid kind req va data cmp : Nat) (bytes : List Byte)
  | ue (port pkg rpart part aid kind req page : Nat) (bytes : List Byte)
  | flit (m : Nat) (toB : Bool) (hdr : BitVec 32) (payload : List Byte)
  | frozen (part : Nat)
  deriving DecidableEq, Repr

/-- The package. -/
structure State where
  datum : Nat := 0
  cur : Lease := {}
  curStream : Stream := .ct
  rest : List Lease := []
  nextLease : Nat := 1
  inbox : List Instr := []
  turn : List Turn := []
  mem : Memory := []
  gmeta : SMap W64 := []
  keyTag : SMap Nat := []
  keyLoad : SMap Nat := []
  marks : SMap Nat := []
  vecs : SMap Vec := []
  nextVec : Nat := 1
  viewOld : Memory := []
  /-- The key load under which each granule of the compressed view is stored. -/
  viewTag : SMap Nat := []
  viewDirty : SMap Nat := []
  /-- The state of each line in L2, by line number: 1 clean, 2 dirty. -/
  hostLines : SMap Nat := []
  /-- The lines that each slice holds, with their key slots, by 32 d + slice of die d (08 R187, R193). -/
  l2 : SMap (List (Nat × Nat)) := []
  /-- Forwarding entries of the read copies, oldest first, by home slice: the line and the die of its copy (08 R194). -/
  copies : SMap (List (Nat × Nat)) := []
  /-- The die whose agents made the last reads of a line in a row, and their number (08 R194). -/
  readRuns : SMap (Nat × Nat) := []
  tlb : List TlbEntry := []
  walks : List Walk := []
  counters : SMap Nat := []
  /-- Counters that stand on bridge die B1 (08 R206). -/
  counterB1 : SMap Bool := []
  /-- Counters that have posted and hold their value (08 R206). -/
  counterHeld : SMap Bool := []
  /-- The host link carries traffic (08 R201). -/
  hostLink : Bool := true
  /-- Writes of the device's units that a write-blocked page holds up: partition, address (2^57 more for a host I/O address)
  and bytes of one granule (08 R201, R207; 17 R389). -/
  heldW : List (Nat × Nat × List Byte) := []
  /-- The eight lease queues by priority (01 R31). -/
  queues : SMap (List Launch) := []
  shapeTab : SMap Nat := []
  skipcol : SMap Nat := []
  absent : SMap Nat := []
  absentPend : SMap Nat := []
  slotTabs : SMap SlotTable := []
  clockStore : Bool := true
  vfile : SMap Lanes := []
  accs : SMap Lanes := []
  accInt : SMap Bool := []
  reqs : List Req := []
  nextReq : Nat := 0
  /-- What waits for stopped groups, oldest first (15 R355). -/
  heldIn : List HeldInput := []
  parts : SMap Partition := []
  links : SMap Module := []
  detours : List (Nat × Nat × List Nat) := []
  ratoms : List RatomReq := []
  nextRatom : Nat := 0
  /-- Remote-atomic requests of other packages on their way between a bridge die and their home: `pkg` and `farPart` name their source. -/
  foreign : List RatomReq := []
  /-- Windows that agents of this package have open in other packages: partition, AID, package and partition there, slice. -/
  farOpen : List (Nat × Nat × Nat × Nat × Nat) := []
  windows : List Window := []
  wl : SMap (List WlMsg) := []
  wlBuilds : List TopoBuild := []
  ualink : W16 := 0xFFFF
  uePorts : BitVec 2 := 3
  ddrUp : W16 := 0xFFFF
  pod : Nat := 0
  pfstat : Bool := false
  fw : Firmware := {}
  health : SMap HealthRec := []
  /-- HBM pseudo-channels retired, by die and number (17 R405). -/
  retiredChans : List (Nat × Nat) := []
  /-- Keys of the IDE streams: 0 link IDE, 1-8 selective (17 R388). -/
  ide : SMap Nat := []
  /-- The transcript of the SPDM exchange under way (17 R391). -/
  transcript : List Byte := []
  /-- Host accesses that wait for the translation of a host page (17 R389). -/
  barWait : List BarAccess := []
  ageing : SMap W64 := []
  mhz : Nat := 1200
  thermal : List (Nat × Nat) := []
  srcEvents : List (Nat × Nat) := []
  srcFrozen : List (Nat × Nat) := []
  scrubs : Nat := 0
  /-- Granules whose stored bytes have an uncorrectable error that nothing has found yet (08 R208). -/
  badGran : List Nat := []
  retiredPages : List Nat := []
  /-- Corrected errors by 8 d + m of die d (17 R405): m is 0 HBM, 1 clock store, 2 DDR-5, 3 L2, 4 scratchpad planes (08 R208). -/
  corrected : SMap Nat := []
  copyOrder : List (Nat × Nat) := []
  jobLast : SMap Nat := []
  farBuf : List (Nat × Nat × List Byte) := []
  /-- Trace records of this mc, by partition, stream and agent: they enter their queues in the order of 15 R362. -/
  traces : List (Nat × Nat × Nat × List Byte) := []
  out : List OutMsg := []
  free : Nat := 0
  deriving DecidableEq, Repr

/-- The package right after package reset (17 R403): every field at the value INVENTORY.md gives it. -/
def State.reset : State := {}

end Sys2Proof.Machine
end

