-- ==== Sys2Proof/Machine/Operands.lean ====
section
/-! DEFINITION. Operands.lean: the operand forms: tensor handles and the walks they name (04 R87, R88; 09 R211), parcels and
their plots (01 R11, R13), scratchpad windows (08 R189), rings (11 R262), vector designators (02 R40) and the constant bank
(04 R91). -/

namespace Sys2Proof.Machine

/-! ## Tensor handles (04 R87) -/

def hField (h : Handle) (hi lo : Nat) : Nat := nbits h.toNat hi lo
def hFmt (h : Handle) : Nat := hField h 255 250
def hSpace (h : Handle) : Nat := hField h 249 248
def hDd (h : Handle) : Int := sint 4 (hField h 247 244)
def hDp (h : Handle) : Int := sint 11 (hField h 243 233)
def hCb (h : Handle) : Nat := hField h 232 228
/-- The INT4G group size in elements. -/
def hGroup (h : Handle) : Nat := 32 * 2 ^ hField h 227 226
def hScaleOff (h : Handle) : Nat := hField h 223 192
def hDim1 (h : Handle) : Nat := hField h 191 176
def hDim0 (h : Handle) : Nat := hField h 175 160
def hStride1 (h : Handle) : Int := sint 32 (hField h 159 128)
def hBase (h : Handle) : Nat := hField h 120 64
def hDim2 (h : Handle) : Nat := hField h 63 48
def hStride2 (h : Handle) : Int := sint 32 (hField h 47 16)

def spScratch : Nat := 0
def spGlobal : Nat := 1
def spRemote : Nat := 2
def spView : Nat := 3

/-- Clears the reserved bits of a handle (04 R87: they read 0 and ignore writes). -/
def hMask (h : Handle) : Handle :=
  h &&& ~~~((3#256 <<< 224) ||| (0x7F#256 <<< 121) ||| 0xFFFF#256)

/-- Replaces bits hi to lo of a 256-bit value. -/
def hPut (h : Handle) (hi lo : Nat) (v : Nat) : Handle :=
  BitVec.ofNat 256 (h.toNat - nbits h.toNat hi lo * 2 ^ lo + v % 2 ^ (hi + 1 - lo) * 2 ^ lo)

/-- A tensor with a zero dimension (04 R87). -/
def hEmpty (h : Handle) : Bool := hDim0 h = 0 || hDim1 h = 0 || hDim2 h = 0

/-- MXFP8, MXFP4 and INT4G have a scale plane (03 R69, R71). -/
def fmtScaled (f : Nat) : Bool := f = 0x06 || f = 0x07 || f = 0x0A

/-- Scale-plane bytes of one row (05 R116). -/
def hScaleRow (h : Handle) : Nat :=
  if hFmt h = 0x0A then 4 * ((hDim0 h + hGroup h - 1) / hGroup h) else (hDim0 h + 31) / 32

/-- Bytes of the scale plane (09 R211); 0 without one. -/
def hScaleBytes (h : Handle) : Nat := if fmtScaled (hFmt h) then hDim2 h * hDim1 h * hScaleRow h else 0

/-- Bytes of one row of the walk (09 R211). -/
def hRowBytes (h : Handle) : Nat := (hDim0 h * fmtWidth (hFmt h) + 7) / 8

/-- Element bytes of the walk (09 R211). -/
def hWalkBytes (h : Handle) : Nat := hDim2 h * hDim1 h * hRowBytes h

/-- The address of byte b of row r of plane p (09 R211). -/
def hRowAt (h : Handle) (p r : Nat) : Int := (hBase h : Int) + p * hStride2 h + r * hStride1 h

/-- The address of walk byte i, the scale plane's bytes following the elements' (09 R211, R220). -/
def hWalkAt (h : Handle) (i : Nat) : Int :=
  if i < hWalkBytes h then
    let rb := hRowBytes h
    let row := i / rb
    hRowAt h (row / hDim1 h) (row % hDim1 h) + (i % rb : Nat)
  else (hBase h : Int) + hScaleOff h + (i - hWalkBytes h : Nat)

def intMin (a b : Int) : Int := if a ≤ b then a else b
def intMax (a b : Int) : Int := if a ≤ b then b else a

/-- The lowest byte of the walk and the byte after its highest (09 R211); none for an empty tensor. -/
def hExtent (h : Handle) : Option (Int × Int) :=
  if hEmpty h || hRowBytes h = 0 then none
  else
    let p := ((hDim2 h - 1 : Nat) : Int) * hStride2 h
    let r := ((hDim1 h - 1 : Nat) : Int) * hStride1 h
    some ((hBase h : Int) + intMin 0 p + intMin 0 r, (hBase h : Int) + intMax 0 p + intMax 0 r + hRowBytes h)

/-! ## Parcels (01 R11, R13, R14) -/

/-- Plot rows and columns of a shape code (02 R45). -/
def shapeDims (code : Nat) : Nat × Nat :=
  match code with
  | 0 => (1, 1) | 1 => (1, 2) | 2 => (2, 1) | 3 => (2, 2) | 4 => (1, 4) | 5 => (4, 1) | 6 => (2, 4) | 7 => (4, 2) | _ => (4, 4)

def shapeRows (code : Nat) : Nat := (shapeDims code).1
def shapeCols (code : Nat) : Nat := (shapeDims code).2
def shapePlots (code : Nat) : Nat := shapeRows code * shapeCols code

/-- The shape code of a rectangle; none where it is no shape of 01 R11. -/
def shapeOf (rows cols : Nat) : Option Nat :=
  (List.range 9).find? (fun c => shapeDims c = (rows, cols))

/-- A rectangle is a parcel: inside the grid and aligned to its own height and width (01 R11). -/
def parcelOk (code row col : Nat) : Bool :=
  row % shapeRows code = 0 && col % shapeCols code = 0 && row + shapeRows code ≤ 4 && col + shapeCols code ≤ 4

/-- Lane groups of a lease (01 R13). -/
def Lease.n (l : Lease) : Nat := shapePlots l.shape
/-- Logical plot of lane group g, row-major in the parcel (01 R13). -/
def Lease.plot (l : Lease) (g : Nat) : Nat := (l.row + g / shapeCols l.shape) * 4 + l.col + g % shapeCols l.shape
/-- The logical plots of a lease in lane-group order. -/
def Lease.plots (l : Lease) : List Nat := (List.range l.n).map l.plot
/-- Reduction length of the parcel's array (01 R14). -/
def Lease.kLen (l : Lease) : Nat := 128 * (if l.ori then shapeCols l.shape else shapeRows l.shape)
/-- Output width of the parcel's array (01 R14). -/
def Lease.width (l : Lease) : Nat := 128 * (if l.ori then shapeRows l.shape else shapeCols l.shape)

/-- AID of a stream (01 R26). -/
def Lease.aidOf (l : Lease) (st : Stream) : Nat := if l.prologue then 0xFFD else l.aid + st.index

/-! ## Scratchpad windows (08 R189) -/

def Lease.windowBytes (l : Lease) : Nat := l.n * l.scratch * 2 ^ 20
/-- The memory key of window offset x. -/
def Lease.winKey (l : Lease) (x : Nat) : Nat :=
  liveKey l.die (l.plot (x / 512 % l.n)) (x / 512 / l.n * 512 + x % 512)

/-- Window bytes [a, b) meet the ring (11 R262). -/
def Ring.meets (r : Ring) (a b : Int) : Bool := a < (r.base : Int) + 8 * r.slots && (r.base : Int) < b
def Lease.rings (l : Lease) : List Ring := [l.ld.ring, l.cp.ring, l.sd.ring]
/-- Window bytes [a, b) lie in the window and touch no ring byte (04 R88, 11 R262). -/
def Lease.winOk (l : Lease) (a b : Int) : Bool :=
  b ≤ a || (0 ≤ a && b ≤ (l.windowBytes : Int) && !(l.rings.any (fun r => r.meets a b)))

/-- The walk of a scratch handle stays in the window and touches no ring byte (04 R88, 11 R262). -/
def Lease.walkOk (l : Lease) (h : Handle) : Bool :=
  match hExtent h with
  | none => true
  | some (a, b) =>
    0 ≤ a && b ≤ (l.windowBytes : Int) &&
    (l.winOk a b ||
      (List.range (hDim2 h)).all fun p => (List.range (hDim1 h)).all fun r =>
        l.winOk (hRowAt h p r) (hRowAt h p r + hRowBytes h))

/-- The scale plane of a scratch handle stays in the window and touches no ring byte. -/
def Lease.scaleOk (l : Lease) (h : Handle) : Bool :=
  hSpace h ≠ spScratch || l.winOk ((hBase h : Int) + hScaleOff h) ((hBase h : Int) + hScaleOff h + hScaleBytes h)

/-- The checks every command makes of a handle it names, in order (04 R88). -/
def Lease.handleCheck (l : Lease) (h : Handle) : Option Cause :=
  if hFmt h = 0 then some .handleInvalid
  else if !fmtDefined (hFmt h) then some .formatInvalid
  else if (hDd h ≠ 0 || hDp h ≠ 0) && hSpace h ≠ spRemote then some .handleInvalid
  else if hSpace h = spScratch && !l.walkOk h then some .scratchBounds
  else none

/-- The first of a list of checks that fails. -/
def firstBad : List (Bool × Cause) → Option Cause
  | [] => none
  | (b, c) :: r => if b then some c else firstBad r

/-- Tries one check after another. -/
def orElseC (a : Option Cause) (b : Option Cause) : Option Cause :=
  match a with
  | some c => some c
  | none => b

/-! ## Streams and token queues (01 R17, 02 R37, 14 R350) -/

/-- Peer k of a stream, in the order CT, LD, CP, SD without the stream itself (02 R37). -/
def streamPeer (st : Stream) (k : Nat) : Stream :=
  Stream.ofIndex (if k < st.index then k else k + 1)
/-- The peer number of stream p at stream st. -/
def peerNum (st p : Stream) : Nat := if p.index < st.index then p.index else p.index - 1
/-- Number of the token queue from producer p to consumer c (14 R350). -/
def tokQueue (p c : Stream) : Nat := 3 * c.index + peerNum c p

/-- POP0 to POP2 or PUSH0 to PUSH2 (02 R36). -/
def tokCount (b : BitVec 8) (k : Nat) : Nat := b.toNat / 4 ^ (2 - k) % 4
def waitHold (b : BitVec 8) : Bool := b.getLsbD 7
def waitGrp (b : BitVec 8) : Bool := b.getLsbD 6
def sigMark (b : BitVec 8) : Bool := b.getLsbD 7
def sigUirq (b : BitVec 8) : Bool := b.getLsbD 6

/-! ## Vector designators (02 R40) and the constant bank (04 R91) -/

/-- The constant bank's value in lane j of lane group g. -/
def constLane (k g j : Nat) : W32 :=
  match k with
  | 1 => 0x3F800000 | 2 => 0xBF800000 | 3 => 0x3F000000 | 4 => 0x40000000
  | 5 => BitVec.ofNat 32 j | 6 => BitVec.ofNat 32 g
  | 7 => 0xFFFFFFFF | 8 => 0x7FC00000 | 9 => 0x7F800000 | 10 => 0x7F7FFFFF | 11 => 0x00800000
  | 12 => 0x3F317218 | 13 => 0x3FB8AA3B | 14 => 0x80000000 | 15 => 0x7FFFFFFF
  | _ => 0

/-- Key of a lane group's register in `State.vfile`. -/
def vKey (die plot desig : Nat) : Nat := (die * 16 + plot) * 256 + desig
/-- Key of an accumulator bank row in `State.accs`. -/
def accKey (die plot row : Nat) : Nat := (die * 16 + plot) * 512 + row

def zeroLanes : Lanes := List.replicate 128 0

/-- A lane of a register. -/
def lane (v : Lanes) (j : Nat) : W32 := v.getD j 0

/-- Bytes of lanes, little-endian (06 R153). -/
def lanesBytes (v : Lanes) : List Byte := v.flatMap (fun w => leBytes w.toNat 4)
/-- The 32-bit words of bytes, little-endian. -/
def bytesLanes : Nat → List Byte → Lanes
  | 0, _ => []
  | n + 1, b => BitVec.ofNat 32 (leNat (b.take 4)) :: bytesLanes n (b.drop 4)

/-! ## Records in bytes -/

/-- Concatenates little-endian fields, each with its byte count. -/
def packLe : List (Nat × Nat) → List Byte
  | [] => []
  | (v, n) :: r => leBytes v n ++ packLe r

/-- Bytes off to off + n of a record as a number. -/
def recLe (r : List Byte) (off n : Nat) : Nat := leNat ((r.drop off).take n)

/-- One step of the CRC-32 of IEEE 802.3, bit by bit (02 R59, 16 R384). -/
def crcBits : Nat → Nat → Nat
  | 0, c => c
  | k + 1, c => crcBits k (if c % 2 = 1 then (c / 2) ^^^ 0xEDB88320 else c / 2)

def crc32 (bs : List Byte) : Nat := (bs.foldl (fun c b => crcBits 8 (c ^^^ b.toNat)) 0xFFFFFFFF) ^^^ 0xFFFFFFFF

/-! ## The walk of a command (09 R211, R221-R224, R231) -/

/-- Where a walk byte lies. -/
inductive Loc where
  | scr (a : Nat)
  | glob (va : Nat) (view : Bool)
  | far (va : Nat)
  | dq
  | zero
  /-- A row that its tensor does not have: its bytes are open. -/
  | absent
  | fill (i : Nat)
  deriving DecidableEq, Repr

/-- An address as 64 bits. -/
def addr64 (x : Int) : Nat := (x % 18446744073709551616).toNat

def locAt (space : Nat) (x : Int) : Loc :=
  if space = spScratch then .scr x.toNat else if space = spRemote then .far (addr64 x) else .glob (addr64 x) (space = spView)

/-- A pattern's fields by index: LEN0 CNT1 CNT2 CNT3 SSTR1-3 DSTR1-3 SOFF DOFF FLAGS (09 R222). -/
def patF (c : Cmd) (k : Nat) : Int := c.pat.getD k 0
def patN (c : Cmd) (k : Nat) : Nat := (patF c k).toNat

/-- Offset of walk byte i under a pattern, with strides from field k (09 R223). -/
def patOff (c : Cmd) (k i : Nat) : Int :=
  let run := i / patN c 0
  let c1 := run % patN c 1
  let c2 := run / patN c 1 % patN c 2
  let c3 := run / patN c 1 / patN c 2
  c1 * patF c k + c2 * patF c (k + 1) + c3 * patF c (k + 2) + (i % patN c 0 : Nat)

/-- Row pair k of an indexed command: source row (−1 for zeros, −2 for a row that the tensor does not have) and destination row. -/
def idxSrc (c : Cmd) (k : Nat) : Int := c.idxs.getD (2 * k) 0
def idxDst (c : Cmd) (k : Nat) : Nat := (c.idxs.getD (2 * k + 1) 0).toNat

/-- Fields of a job card by index: KIND FLAGS SRC DST LEN ROWS SSTR DSTR FILL (09 R231). -/
def cardOff (c : Cmd) (k i : Nat) : Int := patF c (k + 2) + (i / patN c 4 : Nat) * patF c (k + 6) + (i % patN c 4 : Nat)

def CmdKind.fromDq : CmdKind → Bool
  | .copyOut | .patternOut | .scatOut | .rwriteOut | .rwinOut => true
  | _ => false
def CmdKind.toDq : CmdKind → Bool
  | .copyIn | .patternIn | .gathIn | .rreadIn => true
  | _ => false
/-- Commands that the copy engine cluster moves. -/
def CmdKind.moves : CmdKind → Bool
  | .copy | .copyIn | .copyOut | .pattern | .patternIn | .patternOut | .gath | .gathIn | .scat | .scatOut | .rread | .rreadIn
  | .rwrite | .rwriteOut | .rwin | .rwinOut | .card => true
  | _ => false

def cmdSrc (c : Cmd) (i : Nat) : Loc :=
  if c.kind.fromDq then .dq
  else match c.kind with
    | .pattern | .patternIn => locAt (hSpace c.src) (hBase c.src + patF c 10 + patOff c 4 i)
    | .gath | .gathIn | .scat =>
      let rb := hRowBytes c.src
      let r := idxSrc c (i / rb)
      if r = -2 then .absent else if r < 0 then .zero else locAt (hSpace c.src) (hRowAt c.src 0 r.toNat + (i % rb : Nat))
    | .card => if patN c 0 = 2 then .fill (i % patN c 4 % 8) else .glob (addr64 (cardOff c 0 i)) false
    | _ => locAt (hSpace c.src) (hWalkAt c.src i)

def cmdDst (c : Cmd) (i : Nat) : Loc :=
  if c.kind.toDq then .dq
  else match c.kind with
    | .pattern | .patternOut => locAt (hSpace c.dst) (hBase c.dst + patF c 11 + patOff c 7 i)
    | .gath | .scat | .scatOut =>
      let rb := hRowBytes c.dst
      locAt (hSpace c.dst) (hRowAt c.dst 0 (idxDst c (i / rb)) + (i % rb : Nat))
    | .card => .glob (addr64 (cardOff c 1 i)) false
    | _ => locAt (hSpace c.dst) (hWalkAt c.dst i)

/-- Walk offset of element e of a handle, elements of w bytes. -/
def elemAt (h : Handle) (e w : Nat) : Int :=
  let row := e / hDim0 h
  hRowAt h (row / hDim1 h) (row % hDim1 h) + (e % hDim0 h * w : Nat)

/-- Commands of the slice operators. -/
def CmdKind.slice : CmdKind → Bool
  | .pref | .flush | .inval | .dcmpf | .atomv | .atomvOut => true
  | _ => false

def Loc.addr : Loc → Option Nat
  | .scr a => some a
  | .glob va _ => some va
  | .far va => some va
  | _ => none

/-- Virtual address or window offset at which a command in flight stands (16 R376). -/
def Cmd.workAddr (c : Cmd) : Nat :=
  match c.kind with
  | .pref | .flush | .inval | .dcmpf => addr64 (hWalkAt c.src c.offset)
  | .atomv | .atomvOut => addr64 (elemAt c.dst c.offset (fmtWidth (hFmt c.dst) / 8))
  | _ => if c.kind.moves then (((cmdSrc c c.offset).addr).or (cmdDst c c.offset).addr).getD 0 else 0

end Sys2Proof.Machine
end

