-- ==== Sys2Proof/Machine/Graph.lean ====
section
/-! DEFINITION. Graph.lean: custom operation graphs: the 256-byte record, its validity and its evaluation on one lane (13
R319-R322). -/

namespace Sys2Proof.Machine

/-- A node of a record: OP and its three references. -/
structure GNode where
  op : Nat
  x : Nat
  y : Nat
  z : Nat
  deriving DecidableEq, Repr

def gField (r : List Byte) (off n : Nat) : Nat := recLe r off n
def gNodes (r : List Byte) : Nat := gField r 2 1
def gSrc (r : List Byte) : Nat := gField r 3 1
def gRes (r : List Byte) : Nat := gField r 4 1
def gLat (r : List Byte) : Nat := gField r 5 1
def gNode (r : List Byte) (k : Nat) : GNode :=
  ⟨gField r (16 + 8 * k) 1, gField r (17 + 8 * k) 1, gField r (18 + 8 * k) 1, gField r (19 + 8 * k) 1⟩
def gConst (r : List Byte) (c : Nat) : W32 := BitVec.ofNat 32 (gField r (0x90 + 4 * c) 4)

/-- Operands of an OP; 0 for an invalid one (13 R320). -/
def gArity (op : Nat) : Nat :=
  if op = 4 || op = 0x14 then 3
  else if op = 7 || op = 8 || op = 0x17 || op = 0x18 then 1
  else if 1 ≤ op && op ≤ 0x18 then 2 else 0

/-- Cost in vc (13 R320). -/
def gCost (op : Nat) : Nat :=
  if (1 ≤ op && op ≤ 4) || op = 0x0B || op = 0x17 || op = 0x18 then 2 else 1

/-- A reference of node k in a used position. -/
def gRefOk (r : List Byte) (k ref : Nat) : Bool :=
  match ref / 64 with
  | 0 => ref % 64 < gSrc r
  | 1 => ref % 64 < k
  | 2 => ref % 64 < 16
  | _ => false

def gNodeOk (r : List Byte) (k : Nat) : Bool :=
  let n := gNode r k
  let a := gArity n.op
  let pos (i ref : Nat) : Bool := if i < a then gRefOk r k ref else ref = 0xC0
  a ≠ 0 && pos 0 n.x && pos 1 n.y && pos 2 n.z && gField r (20 + 8 * k) 4 = 0

/-- Depths of the nodes below k, in order (13 R321). -/
def gDepths (r : List Byte) : Nat → List Nat
  | 0 => []
  | k + 1 =>
    let ds := gDepths r k
    let n := gNode r k
    let ref (x : Nat) : Nat := if x / 64 = 1 then ds.getD (x % 64) 0 else 0
    ds ++ [gCost n.op + Nat.max (ref n.x) (Nat.max (ref n.y) (ref n.z))]

/-- A valid record (13 R322). -/
def gValid (r : List Byte) : Bool :=
  let n := gNodes r
  let ds := gDepths r n
  gField r 0 2 = 0x5847 && 1 ≤ n && n ≤ 16 && gSrc r ≤ 3 && 1 ≤ gRes r && gRes r ≤ 2 && 1 ≤ gLat r && gLat r ≤ 32 &&
  gField r 6 1 < n && (if gRes r = 2 then decide (gField r 7 1 < n) else gField r 7 1 = 0) && gField r 8 8 = 0 &&
  (List.range n).all (gNodeOk r) && ((r.drop (16 + 8 * n)).take (8 * (16 - n))).all (· = 0) &&
  ((r.drop 0xD0).take 44).all (· = 0) && gField r 0xFC 4 = crc32 (r.take 0xFC) &&
  ds.getD (gField r 6 1) 0 ≤ gLat r && (gRes r = 1 || ds.getD (gField r 7 1) 0 ≤ gLat r)

/-- Shift amount of a lane (06 R140). -/
def sh5 (b : W32) : Nat := b.toNat % 32
def maskLane (b : Bool) : W32 := if b then 0xFFFFFFFF else 0

/-- One node on one lane: its value and flags (13 R320). -/
def gOp (op : Nat) (x y z : W32) : W32 × Nat :=
  match op with
  | 0x01 => fadd x y
  | 0x02 => fsub x y
  | 0x03 => fmul x y
  | 0x04 => ffma x y z
  | 0x05 => (fmin x y, 0)
  | 0x06 => (fmax x y, 0)
  | 0x07 => (fabs x, 0)
  | 0x08 => (fneg x, 0)
  | 0x09 => (x + y, 0)
  | 0x0A => (x - y, 0)
  | 0x0B => (x * y, 0)
  | 0x0C => (x &&& y, 0)
  | 0x0D => (x ||| y, 0)
  | 0x0E => (x ^^^ y, 0)
  | 0x0F => (x <<< sh5 y, 0)
  | 0x10 => (x >>> sh5 y, 0)
  | 0x11 => (x.sshiftRight (sh5 y), 0)
  | 0x12 => (if x.toInt ≤ y.toInt then x else y, 0)
  | 0x13 => (if x.toInt ≤ y.toInt then y else x, 0)
  | 0x14 => (if z ≠ 0 then x else y, 0)
  | 0x15 => (maskLane (!isNan32 x && !isNan32 y && fcmp x y = -1), 0)
  | 0x16 => (maskLane (x.toInt < y.toInt), 0)
  | 0x17 => let (v, f) := cvt (dec32 x) 0x0B true; (BitVec.ofNat 32 v, f)
  | _ => let (v, f) := cvt (decCode 0x0B x.toNat) 0x01 false; (BitVec.ofNat 32 v, f)

/-- Values of the nodes below k and the flags raised, for one lane's sources. -/
def gEval (r : List Byte) (src : List W32) : Nat → List W32 × Nat
  | 0 => ([], 0)
  | k + 1 =>
    let (vs, f) := gEval r src k
    let n := gNode r k
    let ref (x : Nat) : W32 := match x / 64 with
      | 0 => src.getD (x % 64) 0
      | 1 => vs.getD (x % 64) 0
      | 2 => gConst r (x % 64)
      | _ => 0
    let (v, g) := gOp n.op (ref n.x) (ref n.y) (ref n.z)
    (vs ++ [v], f ||| g)

/-- Results 0 and 1 of a lane, with flags (13 R321). -/
def gLane (r : List Byte) (src : List W32) : W32 × W32 × Nat :=
  let (vs, f) := gEval r src (gNodes r)
  (vs.getD (gField r 6 1) 0, vs.getD (gField r 7 1) 0, f)

end Sys2Proof.Machine
end

