-- ==== Sys2Proof/Machine/Mem.lean ====
section
/-! DEFINITION. Mem.lean: leases and partitions as parts of the state, the dies and their routes (08 R188), translation and
its checks (08 R197-R204), what a byte of a tier reads as and how it is written (encryption 08 R204, host lines 09 R225, the
two views 10 R241). -/

namespace Sys2Proof.Machine

abbrev Out := Host.Outcome State Fault Refusal

/-! ## Leases and partitions in the state -/

def State.onCur (s : State) (f : Lease → Lease) : State := { s with cur := f s.cur }
def State.onCt (s : State) (f : Ct → Ct) : State := s.onCur fun l => { l with ct := f l.ct }

/-- All leases, images and prologues that exist, in the order of their numbers. -/
def State.leases (s : State) : List Lease :=
  let all := if s.cur.st = .free then s.rest else s.cur :: s.rest
  all.foldl (fun acc l => (acc.takeWhile (fun x => decide (x.id < l.id))) ++ l :: acc.dropWhile (fun x => decide (x.id < l.id))) []

def State.lease? (s : State) (l : Nat) : Option Lease :=
  if s.cur.id = l && s.cur.st ≠ .free then some s.cur else s.rest.find? (fun x => x.id = l)

/-- Puts lease l in focus, if it exists. -/
def State.focus (s : State) (l : Nat) : State :=
  if s.cur.id = l then s
  else match s.rest.find? (fun x => x.id = l) with
    | none => s
    | some x => { s with cur := x, rest := (if s.cur.st = .free then [] else [s.cur]) ++ s.rest.filter (fun y => y.id ≠ l) }

/-- Changes every lease. -/
def State.mapLeases (s : State) (f : Lease → Lease) : State := { s with cur := f s.cur, rest := s.rest.map f }

/-- Does f with lease l in focus; nothing where there is no such lease. -/
def onLease (l : Nat) (s : State) (f : State → State) : State :=
  if (s.lease? l).isSome then f (s.focus l) else s

/-- Does f with lease l in focus and puts the former focus back. -/
def asLease (l : Nat) (s : State) (f : State → State) : State :=
  let old := s.cur.id
  (onLease l s f).focus old

/-- Removes lease l. -/
def State.dropLease (s : State) (l : Nat) : State :=
  if s.cur.id = l then { s with cur := {} } else { s with rest := s.rest.filter (fun x => x.id ≠ l) }

def State.part (s : State) (p : Nat) : Partition := sget {} p s.parts
def State.setPart (s : State) (p : Nat) (q : Partition) : State := { s with parts := sput p q s.parts }
def State.onPart (s : State) (p : Nat) (f : Partition → Partition) : State := s.setPart p (f (s.part p))

/-- The virtual function of partition p answers nothing: it is frozen (16 R374), or the package's records failed to verify and only
physical function 0 is exposed (17 R401). -/
def State.vfOff (s : State) (p : Nat) : Bool := (s.part p).vfFrozen || s.pfstat

/-- A request of partition p's host function: dropped once the function answers nothing. -/
def State.vf (s : State) (p : Nat) (f : State → State) : State := if s.vfOff p then s else f s

/-- A read by the host function; it completes with all ones where the function answers nothing. -/
def State.vfRead (s : State) (p : Nat) (f : State → W64 × State) : State :=
  let (v, s) := if s.vfOff p then (0xFFFFFFFFFFFFFFFF, s) else f s
  { s with out := s.out ++ [.barRead p v] }

/-- The complex that is active does not run, and so the one that stands by (17 R402). -/
def Firmware.activeFailed (f : Firmware) : Bool := if f.activeB then f.failedB else f.failedA
def Firmware.standbyFailed (f : Firmware) : Bool := if f.activeB then f.failedA else f.failedB

/-- A change of the firmware's state is a numbered entry of the state table (17 R402). -/
def State.fwWrote (s : State) : State := { s with fw := { s.fw with written := s.fw.written + 1 } }

/-- Takes the next number of the free counter (DESIGN CHOICE, log entry 7). -/
def State.nextFree (s : State) : Nat × State := (s.free, { s with free := s.free + 1 })

/-! ## Inherited settings of regions (12 R291; 10 R257) -/

def Partition.rcb? (q : Partition) (va : Nat) : Option Rcb := q.rcbs.find? (fun r => r.va = va)

/-- A region and its ancestors, nearest first. -/
def chainUp (q : Partition) : Nat → Nat → List Rcb
  | 0, _ => []
  | n + 1, va =>
    match q.rcb? va with
    | none => []
    | some r => r :: (if r.kind = 2 then [] else chainUp q n r.parent)
def Partition.chain (q : Partition) (va : Nat) : List Rcb := chainUp q 8 va

/-- va's region lies in the subtree of top. -/
def Partition.below (q : Partition) (top va : Nat) : Bool := (q.chain va).any fun r => r.va = top

/-- The nearest field whose SET bit is 1 (12 R291). -/
def nearest (f : Rcb → Nat) (c : List Rcb) : Nat :=
  match c.find? (fun r => 128 ≤ f r) with
  | some r => f r % 128
  | none => 0
def Partition.prioOf (q : Partition) (va : Nat) : Nat := nearest Rcb.prio (q.chain va) % 8
def Partition.raceOf (q : Partition) (va : Nat) : Nat := nearest Rcb.race (q.chain va) % 4
def Partition.fdomOf (q : Partition) (va : Nat) : Nat := nearest Rcb.fdom (q.chain va) % 2

/-- The partition's race mode: the root's, OFF without a clock store (10 R257). -/
def State.partRace (s : State) (p : Nat) : Nat := if s.clockStore then (s.part p).raceOf (s.part p).rootRcb.toNat else 0

/-! ## Dies, edges and routes (08 R188, 17 R420) -/

/-- The shared die edges; 8 and 9 are the bridge dies B0 and B1. -/
def dieEdges : List (Nat × Nat) :=
  [(0, 1), (1, 2), (2, 3), (4, 5), (5, 6), (6, 7), (0, 4), (1, 5), (2, 6), (3, 7), (0, 8), (4, 8), (3, 9), (7, 9)]

def edgeIdx (a b : Nat) : Option Nat := dieEdges.findIdx? (fun e => e = (a, b) || e = (b, a))

/-- Column of a die, B0 left of column 0 (08 R188). -/
def dieCol (d : Nat) : Nat := if d = 8 then 0 else if d = 9 then 5 else d % 4 + 1
def dieAt (row col : Nat) : Nat := if col = 0 then 8 else if col = 5 then 9 else row * 4 + col - 1
/-- Row of a die; a bridge stands in both rows and takes the row given. -/
def dieRow (d other : Nat) : Nat := if d < 8 then d / 4 else other

/-- Hop count between two dies (08 R188). -/
def dieHops (a b : Nat) : Nat :=
  let rb := dieRow b 0
  let ra := dieRow a rb
  let rb := dieRow b ra
  (dieCol a - dieCol b) + (dieCol b - dieCol a) + (ra - rb) + (rb - ra)

/-- Columns from ca to cb inclusive. -/
def colPath (ca cb : Nat) : List Nat :=
  if ca ≤ cb then (List.range (cb - ca + 1)).map (fun k => ca + k) else (List.range (ca - cb + 1)).map (fun k => ca - k)

/-- The fixed route between two dies, both ends included (08 R188). -/
def dieRoute (a b : Nat) : List Nat :=
  let ra := dieRow a (dieRow b 0)
  let rb := dieRow b ra
  (colPath (dieCol a) (dieCol b)).map (dieAt ra) ++ (if ra = rb then [] else [dieAt rb (dieCol b)])

def State.moduleOf (s : State) (m : Nat) : Module := sget {} m s.links
/-- An edge carries traffic while one of its eight modules is up (17 R399). -/
def State.edgeUp (s : State) (e : Nat) : Bool := (List.range 8).any fun k => (s.moduleOf (e * 8 + k)).up

def stepUp (s : State) (a b : Nat) : Bool :=
  match edgeIdx a b with
  | some e => s.edgeUp e
  | none => false

/-- Every edge of a path is up. -/
def pathUp (s : State) : List Nat → Bool
  | a :: b :: r => stepUp s a b && pathUp s (b :: r)
  | _ => true

/-- Dies reached from a set in n hops over edges that are up. -/
def spread (s : State) : Nat → List Nat → List Nat
  | 0, set => set
  | n + 1, set => spread s n ((List.range 10).filter fun d => set.contains d || set.any (fun x => stepUp s x d))

/-- Some route of edges that are up joins the dies (17 R420). -/
def State.joined (s : State) (a b : Nat) : Bool := a = b || (spread s 9 [a]).contains b

/-- The route between two dies: the fixed one while all its edges are up, else the detour that firmware fixed; none while no
detour is fixed (17 R420). -/
def State.route (s : State) (a b : Nat) : Option (List Nat) :=
  if pathUp s (dieRoute a b) then some (dieRoute a b)
  else (s.detours.find? (fun d => d.1 = a && d.2.1 = b && pathUp s d.2.2)).map (fun d => d.2.2)

/-! ## Translation (08 R197-R203) -/

inductive AccKind where
  | read | write | atomic
  deriving DecidableEq, Repr

/-- A translated address: its tier, physical address, memory key, key slot and leaf. -/
structure Tr where
  tier : Nat
  pa : Nat
  key : Nat
  slot : Nat
  leaf : W64
  deriving DecidableEq, Repr

/-- What translation and the checks of 08 R201 before the race check answer. -/
inductive XRes where
  | ok (t : Tr)
  | fault (c : Cause) (malformed : Bool) (tier : Nat)
  /-- The access waits for an ATS or PRI response (17 R389). -/
  | waits
  deriving DecidableEq, Repr

/-- Usable bytes of HBM per die (08 R205). -/
def State.hbmUsable (s : State) : Nat := if s.clockStore then 63 * 2 ^ 30 else 72 * 2 ^ 30
/-- n bytes of HBM space from pa exist and lie outside the clock store. -/
def State.hbmHas (s : State) (pa n : Nat) : Bool := pa + n ≤ 2 ^ 40 && pa % 2 ^ 37 + n ≤ s.hbmUsable

/-- Bits of an entry (08 R198). -/
def eBit (e : W64) (k : Nat) : Bool := e.toNat / 2 ^ k % 2 = 1
def eTier (e : W64) : Nat := nbits e.toNat 56 55

/-- A present leaf at a level of page size 2^shift is malformed (08 R199). That a DDR-5 leaf's address bits [47:42] are unused, and
that a remote leaf's address is held to this package's HBM, is DEDUCED (log entry 70). -/
def State.leafBad (s : State) (e : W64) (shift : Nat) : Bool :=
  let x := e.toNat
  nbits x 15 12 ≠ 0 || x % 2 ≠ 0 || (shift = 21 && nbits x 20 16 ≠ 0) || (shift = 30 && nbits x 29 16 ≠ 0) ||
  (eTier e = 3 && nbits x 11 1 = 0) || (eTier e ≠ 3 && nbits x 11 1 ≠ 0) ||
  ((eTier e = 0 || eTier e = 3) && !s.hbmHas (nbits x 47 16 * 2 ^ 16) (2 ^ shift)) ||
  (eTier e = 1 && !(nbits x 47 42 = 0))


/-- The tag of a granule stored under a key slot: 0 for the null key's plaintext, else the slot and its load (08 R204). -/
def State.tagOf (s : State) (slot : Nat) : Nat := if slot = 127 then 0 else (slot + 1) * 2 ^ 32 + sget 0 slot s.keyLoad % 2 ^ 32

/-- A stored byte as read under the key load `tag`: the byte under its own key, an open value under another (08 R204). -/
def keyedByte (m : Memory) (tags : SMap Nat) (tag key : Nat) : Byte :=
  let t := sget 0 (key / 64) tags
  if t = tag then readByte m key else Config.wrongKeyByte (readBytes m (key / 64 * 64) 64) t tag (key / 64) (key % 64)

/-- A stored byte as read through a key slot. -/
def State.keyed (s : State) (slot key : Nat) : Byte := keyedByte s.mem s.keyTag (s.tagOf slot) key

/-- The entry at an HBM-space address. The tables have no key slot: they are read as they are stored, in plaintext (DESIGN CHOICE, log
entry 71); one whose granule has an uncorrectable error is never delivered and reads not present (08 R208; DESIGN CHOICE, log entry
92). -/
def State.entryAt (s : State) (a : Nat) : W64 :=
  if s.hbmHas a 8 && !s.badGran.contains (hbmKey a / 64) then
    BitVec.ofNat 64 (leNat ((List.range 8).map fun i => s.keyed 127 (hbmKey a + i))) else 0

/-- The walk of 08 R200 from level n (2, 1, 0 for 1 GiB, 2 MiB, 64 KiB pages) with its entry at a: the entry at which it ends, its
page size's logarithm, and the addresses read. A pointer to a table that does not exist is itself the entry at which the walk ends
(DEDUCED, log entry 29). -/
def State.walkFrom (s : State) (va : Nat) : Nat → Nat → W64 × Nat × List Nat
  | 0, a => (s.entryAt a, 16, [a])
  | n + 1, a =>
    let e := s.entryAt a
    let next := nbits e.toNat 47 8 * 256 + 8 * (if n = 1 then nbits va 29 21 else nbits va 20 16)
    if eBit e 63 && !eBit e 62 && s.hbmHas next 8 then
      let r := s.walkFrom va n next
      (r.1, r.2.1, a :: r.2.2)
    else (e, if n = 1 then 30 else 21, [a])

/-- Where the walk of va begins: its entry of the top table. -/
def State.walkTop (s : State) (p va : Nat) : Nat :=
  nbits (s.part p).pxbase.toNat 47 8 * 256 + 8 * (va / 2 ^ 30)

/-- `walk` of 08 R200: the leaf and its page size's logarithm, or the cause with MALFORMED and TIER. -/
def State.walk (s : State) (p va : Nat) : Except (Cause × Bool × Nat) (W64 × Nat) :=
  if 2 ^ (30 + nbits (s.part p).pxbase.toNat 4 0) ≤ va then .error (.pagePermission, false, 0xFF)
  else
    let (e, shift, _) := s.walkFrom va 2 (s.walkTop p va)
    if !eBit e 63 then .error (.pageNotPresent, false, 0xFF)
    else if !eBit e 62 then .error (.pageNotPresent, true, 0xFF)
    else if s.leafBad e shift then .error (.pageNotPresent, true, eTier e)
    else .ok (e, shift)

/-! ## L2 lines (08 R187, R193) -/

/-- Which of at least n things makes room for one more, if it must: the choice is open (log entry 5). -/
def State.victim {α : Type} (s : State) (n : Nat) (xs : List α) : Option α × State :=
  if xs.length < n then (none, s)
  else
    let (k, s) := s.nextFree
    (xs[Config.victim k % xs.length]?, s)

/-- Home die of a line (08 R193). -/
def homeDie (tier pa : Nat) : Nat := if tier = 0 then pa / 2 ^ 37 % 8 else pa / 2 ^ 12 % 8

/-- XOR of n 5-bit groups of a number. -/
def xorGroups : Nat → Nat → Nat
  | 0, _ => 0
  | n + 1, x => (x % 32) ^^^ xorGroups n (x / 32)

/-- Home slice within the die (08 R193). -/
def homeSlice (pa : Nat) : Nat := xorGroups 8 (pa / 128)

/-- The L2 key of a host key. -/
def l2Key (key : Nat) : Nat := key + 1024 * 2 ^ 57
def isHostKey (key : Nat) : Bool := 1024 * 2 ^ 57 ≤ key

/-- Tier and physical address of a memory key; 4 for what no L2 holds. -/
def keyTier (key : Nat) : Nat := if key < 2 ^ 48 then 0 else if key < 2 * 2 ^ 48 then 1 else if isHostKey key then 2 else 4
def keyPa (key : Nat) : Nat := if key < 2 ^ 48 then key else if key < 2 * 2 ^ 48 then key - 2 ^ 48 else key % 2 ^ 57

/-- Home die of a memory key. -/
def keyHome (key : Nat) : Nat := homeDie (keyTier key) (keyPa key)

/-- The slice that a line has its home in. -/
def sliceOf (key : Nat) : Nat := keyHome key * 32 + homeSlice (keyPa key)

/-- Lines of 128 bytes in the 3 MiB of a slice. -/
def sliceLines : Nat := 24576

/-- The state of a line in L2: 0 not held, 1 clean, 2 dirty (09 R225). -/
def State.lineOf (s : State) (key : Nat) : Nat := sget 0 (key / 128) s.hostLines

/-- Before a write through a key, the granule holds what that key reads, stored under it (08 R204). -/
def State.rekey (s : State) (slot key : Nat) : State :=
  let g := key / 64
  if sget 0 g s.keyTag = s.tagOf slot then s
  else
    let bs := (List.range 64).map fun i => s.keyed slot (g * 64 + i)
    { s with mem := writeBytes s.mem (g * 64) bs, keyTag := sset 0 g (s.tagOf slot) s.keyTag }

/-- The die that holds a read copy of a line (08 R194). -/
def State.copyOf (s : State) (key : Nat) : Option Nat :=
  ((sget [] (sliceOf key) s.copies).find? fun x => x.1 = key / 128).map (·.2)

/-- The slice that keeps a copy of a line on a die: the one of the same number. -/
def copySlice (die key : Nat) : Nat := 32 * die + homeSlice (keyPa key)

/-- A read copy and its forwarding entry are removed. -/
def State.dropCopy (s : State) (key : Nat) : State :=
  match s.copyOf key with
  | none => s
  | some d =>
    { s with copies := sset [] (sliceOf key) ((sget [] (sliceOf key) s.copies).filter (fun x => x.1 ≠ key / 128)) s.copies,
             l2 := sset [] (copySlice d key) ((sget [] (copySlice d key) s.l2).filter (fun x => x.1 ≠ key / 128)) s.l2 }

/-- A write or atomic at a line's home: its copy is removed, and a row of reads ends (08 R194). -/
def State.breakRun (s : State) (key : Nat) : State :=
  let s := s.dropCopy key
  { s with readRuns := sset (10, 0) (key / 128) (10, 0) s.readRuns }

/-- A line leaves its slice, and its copy with it. -/
def State.dropLine (s : State) (key : Nat) : State :=
  let s := s.dropCopy key
  let c := sliceOf key
  { s with hostLines := sset 0 (key / 128) 0 s.hostLines,
           l2 := sset [] c ((sget [] c s.l2).filter (fun x => x.1 ≠ key / 128)) s.l2,
           mem := if isHostKey key then writeBytes s.mem (l2Key (key / 128 * 128)) (List.replicate 128 0) else s.mem }

/-- Writes a dirty line back to its tier; it stays held clean, or is dropped (09 R225). The bytes of an HBM or DDR-5 line stand in its
tier already: only the line's mark changes. -/
def State.flushLine (s : State) (slot key : Nat) (drop : Bool) : State :=
  let b := key / 128 * 128
  let s := if s.lineOf key = 2 then
      let s := { s with hostLines := sset 0 (key / 128) 1 s.hostLines }
      if isHostKey key then
        let bs := readBytes s.mem (l2Key b) 128
        let s := (s.rekey slot b).rekey slot (b + 64)
        { s with mem := writeBytes s.mem b bs }
      else s
    else s
  if drop then s.dropLine key else s

/-- A slice that is full writes back and drops one of its lines, or drops a read copy (08 R187, R194). -/
def State.sliceRoom (s : State) (c : Nat) : State :=
  let (v, s) := s.victim sliceLines (sget [] c s.l2)
  match v with
  | none => s
  | some (n, k) => if sliceOf (n * 128) = c then s.flushLine k (n * 128) true else s.dropCopy (n * 128)

/-- Fills a line into its slice. -/
def State.fillLine (s : State) (slot key : Nat) : State :=
  if 2 < keyTier key || s.lineOf key ≠ 0 then s
  else
    let c := sliceOf key
    let s := s.sliceRoom c
    let b := key / 128 * 128
    let bs := (List.range 128).map fun i => s.keyed slot (b + i)
    { s with mem := if isHostKey key then writeBytes s.mem (l2Key b) bs else s.mem,
             hostLines := sset 0 (key / 128) 1 s.hostLines, l2 := sset [] c (sget [] c s.l2 ++ [(key / 128, slot)]) s.l2 }

/-- A read copy of a line is placed on a die; a home with 4,096 forwarding entries first removes its oldest (08 R194). -/
def State.placeCopy (s : State) (die slot key : Nat) : State :=
  let s := match sget [] (sliceOf key) s.copies with
    | x :: r => if r.length < 4095 then s else s.dropCopy (x.1 * 128)
    | [] => s
  let s := s.sliceRoom (copySlice die key)
  { s with copies := sset [] (sliceOf key) (sget [] (sliceOf key) s.copies ++ [(key / 128, die)]) s.copies,
           l2 := sset [] (copySlice die key) (sget [] (copySlice die key) s.l2 ++ [(key / 128, slot)]) s.l2,
           readRuns := sset (10, 0) (key / 128) (10, 0) s.readRuns }

/-- A read from a die reaches a line's home: the sixteenth in a row from one other die places a copy there, except of an RT = 1 line of a
partition whose RACEMODE, its root's race mode, is not OFF (08 R194, 10 R257; DEDUCED, log entry 88). -/
def State.noteRead (s : State) (p die : Nat) (t : Tr) : State :=
  let n := t.key / 128
  if 2 < keyTier t.key || (s.copyOf t.key).isSome then s
  else
    let x := sget (10, 0) n s.readRuns
    let k := if x.1 = die then x.2 + 1 else 1
    if 8 ≤ die || die = keyHome t.key || (eBit t.leaf 58 && s.partRace p ≠ 0)
    then { s with readRuns := sset (10, 0) n (10, 0) s.readRuns }
    else if k < 16 then { s with readRuns := sset (10, 0) n (die, k) s.readRuns }
    else s.placeCopy die t.slot t.key

/-! ## Latencies (08 R196) -/

/-- mc from issue to arrival at the home, h hops away. -/
def arriveMc (h : Nat) : Nat := 24 + 20 * h

/-- The bridge die with the PCIe station in use: that of the active complex, which takes the host link (17 R401; DEDUCED, log
entry 72). -/
def State.hostBridge (s : State) : Nat := if s.fw.activeB then 9 else 8

/-- The bridge die that owns the DDR-5 channel or the PCIe station of an address. -/
def State.bridgeOf (s : State) (tier pa : Nat) : Nat := if tier = 1 then 8 + pa / 2 ^ 41 % 2 else s.hostBridge

/-- mc from issue to result of an access from a die to a line at its home: a hit, or a miss to the line's tier. -/
def State.homeMc (s : State) (die key : Nat) : Nat :=
  let home := keyHome key
  let h := dieHops die home
  let hb := dieHops home (s.bridgeOf (keyTier key) (keyPa key))
  if s.lineOf key ≠ 0 then 48 + 40 * h
  else match keyTier key with
    | 0 => 188 + 40 * h
    | 1 => 308 + 40 * (h + hb)
    | _ => 1198 + 40 * (h + hb)

/-- mc from issue to result of a read: of a copy on the die itself or on another, else at home. -/
def State.lineMc (s : State) (die key : Nat) : Nat :=
  match s.copyOf key with
  | some d => if d = die then 48 else 56 + 40 * (dieHops die (keyHome key) + dieHops (keyHome key) d)
  | none => s.homeMc die key

/-- Hops to where a read or another access of a line from a die takes effect: its copy on the die, else its home. -/
def State.hopsFor (s : State) (read : Bool) (die key : Nat) : Nat :=
  if read && s.copyOf key = some die then 0 else dieHops die (keyHome key)

/-! ## TLBs and walk slots (08 R202) -/

/-- The TLB of the accessing plot: the sequencer's plot of the lease in focus (DESIGN CHOICE, log entry 5). -/
def State.tlbPlace (s : State) (die : Nat) : Nat :=
  if s.cur.st ≠ .free && s.cur.die = die then die * 16 + s.cur.row * 4 + s.cur.col else die * 16

def State.tlbFind (s : State) (at_ p va : Nat) : Option TlbEntry :=
  s.tlb.find? fun e => e.at_ = at_ && e.part = p && e.base ≤ va && va < e.base + e.size

/-- Puts an entry into a TLB: 64 entries of a plot, fully associative; sets of 8 of a die's shared TLB. -/
def State.tlbPut (s : State) (at_ : Nat) (e : TlbEntry) : State :=
  let e := { e with at_ := at_ }
  let here := s.tlb.filter fun x => x.at_ = at_
  let set (x : TlbEntry) : Nat := Config.setOf at_ x.part (x.base / 65536) % 1024
  let (v, s) := if at_ < 128 then s.victim 64 here
    else s.victim 8 (if here.length < 8 then [] else here.filter fun x => set x = set e)
  { s with tlb := e :: s.tlb.filter (fun x =>
      some x ≠ v && (x.at_ ≠ at_ || x.part ≠ e.part || x.base ≠ e.base || x.size ≠ e.size)) }

/-- mc that the reads of a walk take, from a die. -/
def State.walkMc (s : State) (p die va : Nat) : Nat :=
  ((s.walkFrom va 2 (s.walkTop p va)).2.2.map fun a => s.lineMc die (hbmKey a)).foldl (· + ·) 0

/-- The walk of a page that is under way on a die. -/
def State.walkOf (s : State) (p die va : Nat) : Option Walk :=
  s.walks.find? fun w => w.die = die && w.part = p && w.page = va / 65536 && s.datum ≤ w.until_

/-- mc that translation adds to an access (08 R196). -/
def State.transMc (s : State) (p die va : Nat) : Nat :=
  match s.walkOf p die va with
  | some w => w.until_ - s.datum
  | none =>
    if (s.tlbFind (s.tlbPlace die) p va).isSome then 0
    else if (s.tlbFind (128 + die) p va).isSome then 14
    else 14 + s.walkMc p die va

/-- A walk, which takes a walk slot and fills the lines it reads; its leaf goes into both TLBs. A bridge die has no TLB. -/
def State.walkFill (s : State) (p die va : Nat) : Except (Cause × Bool × Nat) (W64 × Nat) × State :=
  let r := s.walk p va
  if 8 ≤ die then (r, s)
  else
    let live := s.walks.filter fun w => s.datum < w.until_
    let w : Walk := ⟨die, p, va / 65536, s.datum + 14 + s.walkMc p die va⟩
    let s1 := (s.walkFrom va 2 (s.walkTop p va)).2.2.foldl (fun s a => s.fillLine 127 (hbmKey a))
      { s with walks := if (s.walkOf p die va).isSome then live else live ++ [w] }
    match r with
    | .error _ => (r, s1)
    | .ok (e, shift) =>
      let x : TlbEntry := ⟨p, va / 2 ^ shift * 2 ^ shift, 2 ^ shift, e, 0⟩
      (r, (s1.tlbPut (128 + die) x).tlbPut (s.tlbPlace die) x)

/-- The leaf that serves va: a TLB's entry, else a walk; none while every walk slot of the die is busy (08 R202). -/
def State.lookup (s : State) (p die va : Nat) : Option (Except (Cause × Bool × Nat) (W64 × Nat)) × State :=
  match s.tlbFind (s.tlbPlace die) p va with
  | some e => (some (.ok (e.leaf, Nat.log2 e.size)), s)
  | none =>
    match s.tlbFind (128 + die) p va with
    | some e => (some (.ok (e.leaf, Nat.log2 e.size)), s.tlbPut (s.tlbPlace die) e)
    | none =>
      if (s.walkOf p die va).isNone && 1024 ≤ (s.walks.filter fun w => w.die = die && s.datum < w.until_).length then (none, s)
      else
        let r := s.walkFill p die va
        (some r.1, r.2)

/-- The key slot belongs to the partition; slot 127 belongs to every one (08 R201, R204). -/
def Partition.ownsKey (q : Partition) (k : Nat) : Bool :=
  k = 127 || (if k < 64 then eBit q.keymask0 k else eBit q.keymask1 (k - 64))

/-- The nearer bridge die of a die among those that serve and can be reached, ties to B0 (17 R395, R420). -/
def State.nearBridge (s : State) (die : Nat) (b0 b1 : Bool) : Option Nat :=
  match b0 && s.joined die 8, b1 && s.joined die 9 with
  | true, true => some (if dieHops die 9 < dieHops die 8 then 9 else 8)
  | true, false => some 8
  | false, true => some 9
  | false, false => none

/-- The bridge die by which a die reaches the fabric: one with a UALink station that is up (17 R392, R420; DESIGN CHOICE, log entry 19). -/
def State.fabricBridge (s : State) (die : Nat) : Option Nat :=
  s.nearBridge die (s.ualink.toNat % 256 ≠ 0) (s.ualink.toNat / 256 ≠ 0)
def State.stationUp (s : State) (die : Nat) : Bool := (s.fabricBridge die).isSome

/-- The package that a remote leaf names (08 R192); none outside the pod (00 R8, 17 R393). -/
def State.leafPkgNo (s : State) (e : W64) : Option Nat :=
  let p := (s.pod : Int) + sint 11 (nbits e.toNat 11 1)
  if p < 0 || 1023 < p then none else some p.toNat

/-- The lowest-numbered valid peer entry of a package with UALink traffic (17 R394). -/
def Partition.peerOf (q : Partition) (pkg : Nat) : Option Nat :=
  (q.peers.find? fun e => nbits e.2 63 63 = 1 && nbits e.2 62 62 = 1 && nbits e.2 57 48 = pkg).map (·.2)

/-- The package and partition that serve a remote page of partition p (08 R192, 17 R394); none where no peer entry permits traffic to the
package. -/
def State.leafPeer (s : State) (p : Nat) (e : W64) : Option (Nat × Nat) :=
  (s.leafPkgNo e).bind fun k => ((s.part p).peerOf k).map fun x => (k, nbits x 47 42)

/-- The tier of a leaf is reachable from a die (08 R201): its bridge's eight DDR-5 channels, over all of which
every page lies (08 R192, 17 R396), are present, its home die is not cut off, and for a
host page the host link is up and its bridge die is reached, and for a remote page its package is one of the pod and a UALink
station is up. -/
def State.tierUp (s : State) (die tier pa : Nat) (e : W64) : Bool :=
  match tier with
  | 0 => s.joined die (homeDie 0 pa)
  | 1 => s.joined die (homeDie 1 pa) && ((List.range 8).all fun c => s.ddrUp.getLsbD (pa / 2 ^ 41 % 2 * 8 + c)) &&
      s.joined (homeDie 1 pa) (8 + pa / 2 ^ 41 % 2)
  | 2 => s.joined die (homeDie 2 pa) && s.hostLink && s.joined (homeDie 2 pa) s.hostBridge
  | _ => s.stationUp die && (s.leafPkgNo e).isSome

/-- The memory key of a physical address; a remote page has none of its own here. -/
def physKey (p tier pa : Nat) : Nat :=
  match tier with
  | 0 => hbmKey pa
  | 1 => ddrKey pa
  | 2 => hostKey p pa
  | _ => 4 * 2 ^ 48 + pa

/-- The ATS state of a host page (17 R389): held, failed, or asked for. -/
def State.atsCheck (s : State) (p pa : Nat) : XRes × State :=
  let q := s.part p
  let page := pa / 4096
  if q.atc.contains page then (.ok ⟨2, pa, hostKey p pa, 0, 0⟩, s)
  else if q.atsFail.contains page then
    (.fault .pageNotPresent false 2, s.setPart p { q with atsFail := q.atsFail.filter (fun x => x ≠ page) })
  else if q.ats.any (fun x => x.1 = page) then (.waits, s)
  else (.waits, { s.setPart p { q with ats := q.ats ++ [(page, 0)] } with out := s.out ++ [.ats p page] })

/-- Translation of va for partition p from a die, with the checks of 08 R201 in order; a remote page to which no peer entry permits traffic
has no fabric path (DEDUCED, log entry 103). -/
def State.translate (s : State) (p die va : Nat) (k : AccKind) (view : Bool) : XRes × State :=
  match s.lookup p die va with
  | (none, s) => (.waits, s)
  | (some (.error (c, m, t)), s) => (.fault c m t, s)
  | (some (.ok (e, shift)), s) =>
    let pa := nbits e.toNat 47 16 * 2 ^ 16 + va % 2 ^ shift
    let tier := eTier e
    let wr := k ≠ .read
    if (wr && !eBit e 61) || (view && !eBit e 57) then (.fault .pagePermission false tier, s)
    else if wr && eBit e 60 then (.fault .writeBlocked false tier, s)
    else if !(s.part p).ownsKey (nbits e.toNat 54 48) then (.fault .isolation false tier, s)
    else if !s.tierUp die tier pa e || (tier = 3 && (s.leafPeer p e).isNone) then (.fault .tierUnavailable false tier, s)
    else if tier = 2 then
      match s.atsCheck p pa with
      | (.ok _, s) => (.ok ⟨2, pa, hostKey p pa, nbits e.toNat 54 48, e⟩, s)
      | r => r
    else (.ok ⟨tier, pa, physKey p tier pa, nbits e.toNat 54 48, e⟩, s)

/-! ## Bytes of a tier -/

/-- One byte of a translated location as the device reads it. -/
def State.byteAt (s : State) (t : Tr) (i : Nat) : Byte :=
  if t.tier = 2 then readByte s.mem (l2Key (t.key + i)) else s.keyed t.slot (t.key + i)

/-- The granule's bytes through the compressed view (10 R241). -/
def State.viewByte (s : State) (t : Tr) (i : Nat) : Byte :=
  if sget 0 ((t.key + i) / 64) s.viewDirty = 0 then s.byteAt t i
  else keyedByte s.viewOld s.viewTag (s.tagOf t.slot) (t.key + i)

/-- Reads n bytes of one granule, filling a host line first. Tier 6 stands for what a replay does not touch (15 R364). -/
def State.readTr (s : State) (t : Tr) (n : Nat) (view : Bool) : List Byte × State :=
  if t.tier = 6 then (List.replicate n 0, s)
  else
  let s := if t.tier = 2 then s.fillLine t.slot t.key else s
  ((List.range n).map (fun i => if view then s.viewByte t i else s.byteAt t i), s)

/-- The compressed view of a granule holds bs, stored under the key of the location. -/
def State.putView (s : State) (t : Tr) (bs : List Byte) : State :=
  let g := t.key / 64
  { s with viewOld := writeBytes s.viewOld (g * 64) bs, viewTag := sset 0 g (s.tagOf t.slot) s.viewTag }

/-- The two views of a granule part at the first write after they were equal (10 R241). -/
def State.splitViews (s : State) (t : Tr) (by_ : Nat) : State :=
  let g := t.key / 64
  if !eBit t.leaf 57 then s
  else
    let s := if sget 0 g s.viewDirty = 0 then s.putView t ((List.range 64).map fun i => s.byteAt { t with key := g * 64 } i) else s
    { s with viewDirty := sset 0 g by_ s.viewDirty }

/-- Writes bytes of the plain view inside one granule. -/
def State.writePlain (s : State) (t : Tr) (bs : List Byte) : State :=
  if t.tier = 2 then
    let s := s.fillLine t.slot t.key
    { s with mem := writeBytes s.mem (l2Key t.key) bs, hostLines := sset 0 (t.key / 128) 2 s.hostLines }
  else
    let s := s.rekey t.slot t.key
    { s with mem := writeBytes s.mem t.key bs,
             hostLines := if s.lineOf t.key = 0 then s.hostLines else sset 0 (t.key / 128) 2 s.hostLines }

/-- Writes bytes inside one granule through either view. -/
def State.writeTr (s : State) (t : Tr) (bs : List Byte) (view : Bool) : State :=
  if t.tier = 6 then s
  else
    let s := if t.tier = 2 then s.fillLine t.slot t.key else s
    let s := s.breakRun t.key
    let s := s.splitViews t (if view then 2 else 1)
    if view then
      let g := t.key / 64
      let s := s.putView t ((List.range 64).map fun i => s.viewByte { t with key := g * 64 } i)
      { s with viewOld := writeBytes s.viewOld t.key bs }
    else s.writePlain t bs

/-- DCMPF at a granule's home: both views hold the last value written (09 R226). -/
def State.reconcile (s : State) (t : Tr) : State :=
  let g := t.key / 64
  let t := { t with key := g * 64 }
  match sget 0 g s.viewDirty with
  | 0 => s
  | d =>
    let s := if d = 2 then s.writePlain t ((List.range 64).map fun i => s.viewByte t i) else s
    { s with viewOld := writeBytes s.viewOld (g * 64) (List.replicate 64 0), viewTag := sset 0 g 0 s.viewTag,
             viewDirty := sset 0 g 0 s.viewDirty }

/-- Race metadata of a granule (10 R252); settling writes 0. -/
def State.meta_ (s : State) (key : Nat) : W64 := sget 0 (key / 64) s.gmeta
def State.setMeta (s : State) (key : Nat) (m : W64) : State := { s with gmeta := sset 0 (key / 64) m s.gmeta }
def State.settle (s : State) (key : Nat) : State := s.setMeta key 0

end Sys2Proof.Machine
end

