-- ==== Sys2Proof/Machine/Units.lean ====
section
/-! DEFINITION. Units.lean: what the device's own units do to memory, acting as firmware (AIDs 0xFFC and 0xFFD, 10 R254): their reads and
writes, held writes (08 R207), ATS for their host pages (17 R389), the event queues (11 R285) and access counters (08 R206); and the halt
line with its stop records (16 R372-R376). -/

namespace Sys2Proof.Machine

/-! ## Accesses of firmware, the host driver and the device's own units (AIDs 0xFFC and 0xFFD, 10 R254) -/

/-- The translated location of a byte for a unit of partition p, none where it does not translate, lies in a remote page or under
a key of another partition, or that ATS refused (08 R201, 17 R389). -/
def State.unitTr (s : State) (p die va : Nat) (k : AccKind) : Option Tr :=
  match (s.walk p va) with
  | .error _ => none
  | .ok (e, shift) =>
    let pa := nbits e.toNat 47 16 * 2 ^ 16 + va % 2 ^ shift
    if eTier e = 3 || !s.tierUp die (eTier e) pa e || (k ≠ .read && !eBit e 61) || !(s.part p).ownsKey (nbits e.toNat 54 48) ||
      (eTier e = 2 && (s.part p).atsFail.contains (pa / 4096)) then none
    else some ⟨eTier e, pa, physKey p (eTier e) pa, nbits e.toNat 54 48, e⟩

/-- Reads n bytes at va of partition p as a unit does; bytes that do not translate, or whose granule has an uncorrectable
error and is never delivered (08 R208), read 0 (DESIGN CHOICE, log entry 92). -/
def State.unitRead (s : State) (p va n : Nat) : List Byte :=
  (List.range n).map fun i =>
    match s.unitTr p 0 (va + i) .read with
    | none => 0
    | some t => if s.badGran.contains (t.key / 64) then 0 else if t.tier = 2 then (if s.lineOf t.key = 0 then s.keyed t.slot t.key else readByte s.mem (l2Key t.key))
      else s.keyed t.slot t.key
def State.unitLe (s : State) (p va n : Nat) : Nat := leNat (s.unitRead p va n)

/-- The n bytes from va are present. -/
def State.unitOk (s : State) (p va n : Nat) (k : AccKind) : Bool :=
  (List.range ((va % 65536 + n + 65535) / 65536)).all fun i => (s.unitTr p 0 (va + i * 65536) k).isSome

/-! ## Writes of units -/

/-- The host page of a location has no entry in the address translation cache (17 R389). -/
def State.away (s : State) (p : Nat) (t : Tr) : Bool := t.tier = 2 && !(s.part p).atc.contains (t.pa / 4096)

/-- Sends the ATS translation request of a host page that a unit wants, once (17 R389). -/
def State.atsAsk (s : State) (p pa : Nat) : State :=
  let q := s.part p
  let page := pa / 4096
  if q.atc.contains page || q.ats.any (fun x => x.1 = page) then s
  else { s.setPart p { q with ats := q.ats ++ [(page, 0)] } with out := s.out ++ [.ats p page] }

/-- The pieces of bytes from va that lie in one granule each. -/
def pieces (va : Nat) (bs : List Byte) : List (Nat × List Byte) :=
  if bs.isEmpty then [] else (granulesOf va bs.length).map fun g => (g, (bs.drop (g - va)).take (64 - g % 64))

/-- A write of a unit to this location waits: its page is write-blocked (08 R207), its host page is not translated yet, or an earlier
write to the page waits (DESIGN CHOICE, log entry 73). -/
def State.holds (s : State) (p va : Nat) (t : Tr) : Bool :=
  eBit t.leaf 60 || s.away p t || s.heldW.any fun x => x.1 = p && x.2.1 / 65536 = va / 65536

/-- Writes bytes inside one granule as a unit does, settling what it writes (10 R254), or holds them. -/
def State.unitPut (s : State) (p va : Nat) (bs : List Byte) : State :=
  match s.unitTr p 0 va .write with
  | none => s
  | some t =>
    if s.holds p va t then
      let s := if t.tier = 2 then s.atsAsk p t.pa else s
      { s with heldW := s.heldW ++ [(p, va, bs)] }
    else (s.writeTr t bs false).settle t.key

/-- Writes bytes at va of partition p, counting no access. -/
def State.unitStore (s : State) (p va : Nat) (bs : List Byte) : State :=
  (pieces va bs).foldl (fun s x => s.unitPut p x.1 x.2) s

/-- Writes host memory at an I/O address: its bytes are stored in plaintext (08 R204; DESIGN CHOICE, log entry 71). What falls in a
page that is not translated yet waits (17 R389). -/
def State.hostPut (s : State) (p a : Nat) (bs : List Byte) : State :=
  if (s.part p).atc.contains (a / 4096) then
    let k := hostKey p a
    let s := s.rekey 127 k
    { s with mem := writeBytes s.mem k bs }
  else { s.atsAsk p a with heldW := (s.atsAsk p a).heldW ++ [(p, 2 ^ 57 + a, bs)] }

/-- Writes at a register's address: bit 63 chooses a host I/O address or a device virtual address (11 R278, R285). -/
def State.busStore (s : State) (p : Nat) (host : Bool) (a : Nat) (bs : List Byte) : State :=
  if host then (pieces a bs).foldl (fun s x => s.hostPut p x.1 x.2) s else s.unitStore p a bs
def State.busRead (s : State) (p : Nat) (host : Bool) (a n : Nat) : List Byte :=
  if host then (List.range n).map fun i => if (s.part p).atsFail.contains ((a + i) / 4096) then 0 else s.keyed 127 (hostKey p a + i)
  else s.unitRead p a n

/-- The host pages of n bytes at a register's address that ATS has neither translated nor refused. -/
def State.busMiss (s : State) (p : Nat) (host : Bool) (a n : Nat) : List Nat :=
  let pages := (List.range ((a % 4096 + n + 4095) / 4096)).map fun i => a / 4096 * 4096 + 4096 * i
  let want := pages.filterMap fun x =>
    if host then some x
    else match s.unitTr p 0 x .read with
      | some t => if t.tier = 2 then some t.pa else none
      | none => none
  want.filter fun x => !(s.part p).atc.contains (x / 4096) && !(s.part p).atsFail.contains (x / 4096)

/-- The host pages of n bytes at a register's address have ATS entries: a unit may read there; missing ones are asked for, and the unit
waits (17 R389). -/
def State.busReady (s : State) (p : Nat) (host : Bool) (a n : Nat) : Bool × State :=
  let miss := s.busMiss p host a n
  (miss.isEmpty, miss.foldl (fun s x => s.atsAsk p x) s)

/-! ## Event queues (11 R285) -/

def EventQueue.en (q : EventQueue) : Bool := eBit q.ctl 31
def EventQueue.full (q : EventQueue) : Bool := !q.en || 2 ^ nbits q.ctl.toNat 4 0 ≤ (q.head + 2 ^ 32 - q.tail % 2 ^ 32) % 2 ^ 32
/-- Address of entry h. -/
def EventQueue.slotAt (q : EventQueue) (h : Nat) : Nat := nbits q.base.toNat 56 6 * 64 + 64 * (h % 2 ^ nbits q.ctl.toNat 4 0)
def State.eq (s : State) (p q : Nat) : EventQueue := sget {} q (s.part p).eqs
def State.setEq (s : State) (p q : Nat) (e : EventQueue) : State := s.onPart p fun x => { x with eqs := sput q e x.eqs }

/-- Writes the entry with its sequence number h by `put`, when there is room. -/
def State.eqPutBy (put : State → Nat → Bool → Nat → List Byte → State) (s : State) (p q : Nat) (entry : Nat → List Byte) : Option State :=
  let e := s.eq p q
  if e.full then none
  else
    let s := put s p (eBit e.base 63) (e.slotAt e.head) (entry e.head)
    let s := s.setEq p q { e with head := (e.head + 1) % 2 ^ 32 }
    some (if eBit e.ctl 30 then { s with out := s.out ++ [.msix p q] } else s)

/-- Drops the entry and counts it. -/
def State.eqLose (s : State) (p q : Nat) : State :=
  let e := s.eq p q
  s.setEq p q { e with lost := (e.lost + 1) % 2 ^ 32 }

/-- The datum copy of a die (14 R339; DESIGN CHOICE, log entry 8). -/
def State.datumAt (s : State) (die : Nat) : Nat := if Config.datumLag die then s.datum - 1 else s.datum

/-! ## Access counters (08 R206) -/

/-- Room for the counter of page k of a bridge die: its set holds four counters, and a displaced one loses its count (08 R206). -/
def State.counterRoom (s : State) (b1 : Bool) (k : Nat) : State :=
  let die := if b1 then 9 else 8
  let here := s.counters.filter fun c => sget false c.1 s.counterB1 = b1
  let set (c : Nat) : Nat := Config.setOf die (c / 2 ^ 41) (c % 2 ^ 41) % 16384
  let (v, s) := s.victim 4 (if here.length < 4 then [] else here.filter fun c => set c.1 = set k)
  { s with counters := s.counters.filter (fun c => some c ≠ v), counterB1 := sset false k b1 s.counterB1,
           counterHeld := match v with | some c => sset false c.1 false s.counterHeld | none => s.counterHeld }

/-- Counts one access to a DDR-5 or host page with AC = 1; the count that reaches NTHRESH posts a notification, and the counter then
holds its value, whatever NTHRESH becomes, until it is cleared. A counter that a lowered NTHRESH finds at or above it before it has posted
adds and posts nothing (DESIGN CHOICE, log entry 93). The entry itself is not counted (log entry 30). -/
def State.countAccess (s : State) (p va : Nat) (t : Tr) : State :=
  if !eBit t.leaf 59 || (t.tier ≠ 1 && t.tier ≠ 2) then s
  else
    let k := p * 2 ^ 41 + va / 65536
    let th := Nat.max 1 (nbits (s.part p).nthresh.toNat 15 0)
    let c := sget 0 k s.counters
    if sget false k s.counterHeld || th ≤ c then s
    else
      let s := if c = 0 then s.counterRoom (s.bridgeOf t.tier t.pa = 9) k else s
      let s := { s with counters := sset 0 k (c + 1) s.counters }
      if c + 1 = th then
        let s := { s with counterHeld := sset false k true s.counterHeld }
        (s.eqPutBy State.busStore p 1 fun h => packLe [(1, 1), (t.tier, 1), (0, 2), (h, 4), (va / 65536 * 65536, 8), (th, 4), (0, 4),
          (s.datum, 8), (0, 32)]).getD (s.eqLose p 1)
      else s

/-- A line that an access reaches at its home and that L2 does not hold is filled and counted (08 R206, 09 R225). -/
def State.touchLine (s : State) (p va : Nat) (t : Tr) : State :=
  if 2 < t.tier || s.lineOf t.key ≠ 0 then s
  else (s.countAccess p va t).fillLine t.slot t.key

/-- An access from a die at its home: the fill of its line, and a write or atomic, count (08 R206); reads in a row place a copy, which a
write or atomic removes (08 R194). -/
def State.countHome (s : State) (die p va : Nat) (t : Tr) (k : AccKind) : State :=
  let s := s.touchLine p va t
  if k = .read then s.noteRead p die t else (s.breakRun t.key).countAccess p va t

/-! ## The halt line (16 R372-R376) -/

/-- WHERE of a record (R258): the stream and CT's code offset or the ring slot. -/
def whereOf (st : Stream) (slot : Nat) : Nat :=
  st.index * 2 ^ 30 + slot % 2 ^ 30

/-- LOC of a record (R258). -/
def Lease.loc (l : Lease) : Nat := l.die + l.row * 8 + l.col * 32

/-- A stop record (R376), without its SEQ. -/
structure StopInfo where
  cause : Cause
  engine : Nat
  aid : Nat := 0xFFF
  addr : Nat := 0
  paddr : Nat := 0
  slot : Nat := 0
  tier : Nat := 0xFF
  die : Nat := 0
  loc : Nat := 0
  kernelId : Nat := 0
  offset : Nat := 0
  vc : Nat := 0
  /-- Which engine of its kind: the record does not show it. -/
  unit : Nat := 0
  deriving DecidableEq, Repr

def StopInfo.bytes (x : StopInfo) (seq datum : Nat) : List Byte :=
  packLe [(x.cause.code, 1), (x.engine, 1), (x.aid, 2), (seq, 4), (datum, 8), (x.addr, 8), (x.paddr, 8), (x.slot, 4),
    (x.tier, 1), (x.die, 1), (x.loc, 2), (x.kernelId, 8), (x.offset, 8), (x.vc, 8)]

/-- The address at which the array of a lease works: of a weight load, of rows it takes or of a tile's entries; with the progress of a
load or of MXBS (07 R173, R179). -/
def Lease.arrayWork (l : Lease) : Nat × Nat :=
  match l.load, l.arr.find? fun a => !a.stopped with
  | some x, _ => (addr64 (hRowAt x.g 0 x.next), l.rowprog)
  | none, some a => if a.kind = .bs then (addr64 (hRowAt a.g1 0 l.rowprog), l.rowprog) else (addr64 (hRowAt a.h 0 a.taken), 0)
  | none, none => (0, 0)

/-- The home slice of the line at va, by 32 d + slice: the slice operator there works on it (09 R225); a slice of `die` where va does not
translate. -/
def State.sliceAt (s : State) (p va die : Nat) : Nat :=
  match s.unitTr p 0 va .read with
  | some t => sliceOf t.key
  | none => 32 * die

/-- Two records of one engine (R376): a stream or an array of one lease, one job, or the one slice operator, launch core, batcher or
compaction unit. -/
def StopInfo.sameEngine (x y : StopInfo) : Bool :=
  x.engine = y.engine && x.unit = y.unit && (if 6 ≤ x.engine then x.die = y.die else x.aid = y.aid && x.slot = y.slot)

/-- Each engine writes exactly one record: the first of the list. -/
def oneEach (xs : List StopInfo) : List StopInfo :=
  xs.foldl (fun acc x => if acc.any x.sameEngine then acc else acc ++ [x]) []

/-- The engines of a lease that hold work at a stop, in the order streams, array, copy-engine jobs and slice operations (R376). -/
def State.stopInfos (s : State) (l : Lease) (slotOf : Stream → Nat) : List StopInfo :=
  let base (e : Nat) (st : Stream) : StopInfo :=
    { cause := .haltPropagated, engine := e, aid := l.aidOf st, slot := whereOf st (slotOf st), die := l.die, loc := l.loc,
      kernelId := l.kernelId, vc := l.vc }
  if l.prologue then [{ cause := .haltPropagated, engine := 7, aid := 0xFFD, die := l.die }]
  else
    let asked := match s.reqs.find? fun r => r.lease = l.id && r.cmd.isNone with | some r => r.va | none => 0
    let job (c : Cmd) : Bool := (c.kind.moves && !(c.kind = .card && c.sent = 0)) || c.kind = .kvget || c.kind = .kvput
    [{ base 0 .ct with addr := asked }, base 1 .ld, base 2 .cp, base 3 .sd,
      { base 4 .cp with aid := 0xFFF, addr := l.arrayWork.1, offset := l.arrayWork.2 }] ++
    (l.cmds.filter (fun c => job c || c.kind.slice || c.kind = .ratom)).map fun c =>
      { base (if job c then 5 else 6) c.stream with
        slot := whereOf c.stream c.slot, addr := c.workAddr, offset := c.offset, kernelId := 0, vc := 0,
        die := if job c then l.die else s.sliceAt l.part c.workAddr l.die / 32,
        unit := if job c then c.seq else s.sliceAt l.part c.workAddr l.die }

def Lease.slotNow (l : Lease) (st : Stream) : Nat :=
  match st with | .ct => l.ct.pc / 8 | .ld => l.ld.ring.head | .cp => l.cp.ring.head | .sd => l.sd.ring.head

/-- The halt line of partition p rises on cause c, found by the engine that `det` describes. Every lease of the partition is
halted at once, within the bounds of R375; work not yet performed is dropped, and so is a pre-emption (R381); one record for each engine waits to be written. -/
def State.haltLine (s : State) (p : Nat) (c : Cause) (det : StopInfo) : State :=
  let q := s.part p
  if q.pstate ≠ 0 then s
  else
    let mine := (s.leases.filter (fun l => l.part = p && (l.st = .running || l.st = .parked))).flatMap fun l => s.stopInfos l l.slotNow
    let cores := (q.rings.filter (fun r => r.2.active)).map fun r => { cause := .haltPropagated, engine := 7, die := 8 + r.1 % 2 : StopInfo }
    let bats := (q.batchers.filter (fun b => b.2.en)).map fun b =>
      { cause := .haltPropagated, engine := 8, die := 8 + b.1 % 2, unit := b.1 : StopInfo }
    let isP (m : WlMsg) : Bool := match m with
      | .item x .. => x = p | .seal x .. => x = p | .take x .. => x = p
    let units := (s.wl.filter (fun w => w.2.any isP)).map fun w => { cause := .haltPropagated, engine := 9, die := w.1 : StopInfo }
    let recs := (oneEach (det :: (mine ++ cores ++ bats ++ units))).mapIdx fun i x => x.bytes i s.datum
    let s := s.setPart p { q with pstate := 1, pcause := c.code, stopLeft := recs }
    let s := s.mapLeases fun l => if l.part = p && (l.st = .running || l.st = .parked) then { l with st := .halted, pre := .none } else l
    { s with reqs := s.reqs.filter (fun r => r.part ≠ p), ratoms := s.ratoms.filter (fun r => r.part ≠ p),
             wl := s.wl.map (fun w => (w.1, w.2.filter fun m => !isP m)), wlBuilds := s.wlBuilds.filter (fun b => b.part ≠ p) }

/-- The line rises on a cause found by stream st of the lease in focus. -/
def State.haltBy (s : State) (c : Cause) (st : Stream) (addr : Nat) : State :=
  let l := s.cur
  let eng := if l.prologue then 7 else st.index
  s.haltLine l.part c
    { cause := c, engine := eng, aid := l.aidOf st, addr := addr, slot := whereOf st (l.slotNow st), die := l.die,
      loc := l.loc, kernelId := l.kernelId, vc := l.vc }

/-! ## Accesses of units at their homes -/

/-- A unit of the device that acts as firmware does: its engine number (7 a launch core, 8 a batcher, 9 a compaction unit, 10 the host
interface; 16 R376) and its die. -/
structure UnitId where
  eng : Nat := 10
  die : Nat := 8
  deriving DecidableEq, Repr

/-- What a unit says of itself where it finds an uncorrectable error (AID 0xFFD; 16 R376). -/
def unitFound (u : UnitId) (va : Nat) (t : Tr) : StopInfo :=
  { cause := .uncorrectable, engine := u.eng, aid := 0xFFD, addr := va, paddr := t.pa, tier := t.tier, die := u.die }

/-- A unit's access to one granule arrives at its home: its line is filled and counted (08 R187, R206), and an uncorrectable error that it
finds halts the partition and retires the page (08 R208). -/
def State.unitArrive (s : State) (u : UnitId) (p va : Nat) (k : AccKind) : State :=
  match s.unitTr p 0 va k with
  | none => s
  | some t =>
    if k ≠ .read && s.holds p va t then s
    else if s.badGran.contains (t.key / 64) then
      ({ s with retiredPages := s.retiredPages ++ [t.key / 65536] } : State).haltLine p .uncorrectable (unitFound u va t)
    else s.countHome 8 p va t k

/-- A unit reads n bytes at va: their lines are filled and counted, and errors found. The bytes are `unitRead`. -/
def State.unitTouch (s : State) (u : UnitId) (p va n : Nat) : State := (granulesOf va n).foldl (fun s g => s.unitArrive u p g .read) s

/-- Writes bytes at va of partition p as a unit does; the host interface where none is named. -/
def State.unitWriteBy (s : State) (u : UnitId) (p va : Nat) (bs : List Byte) : State :=
  (pieces va bs).foldl (fun s x => (s.unitArrive u p x.1 .write).unitPut p x.1 x.2) s
def State.unitWrite (s : State) (p va : Nat) (bs : List Byte) : State := s.unitWriteBy {} p va bs

/-! ## Expert affinity (13 R337, R338) -/

/-- Sets the access counter of a DDR-5 page with AC = 1 to NTHRESH, with its notification unless it already holds it. -/
def State.thresholdPage (s : State) (p va : Nat) : State :=
  match s.unitTr p 0 va .read with
  | none => s
  | some t =>
    if t.tier ≠ 1 || !eBit t.leaf 59 then s
    else
      let k := p * 2 ^ 41 + va / 65536
      let th := Nat.max 1 (nbits (s.part p).nthresh.toNat 15 0)
      if sget false k s.counterHeld then s
      else
        let s := if 1 < th && sget 0 k s.counters = 0 then s.counterRoom (s.bridgeOf t.tier t.pa = 9) k else s
        ({ s with counters := sset 0 k (th - 1) s.counters }).countAccess p va t

/-- Fills the lines of n bytes from va, as PREF does (09 R225). -/
def State.fillLines (s : State) (p va n : Nat) : State :=
  if n = 0 then s
  else (List.range ((va % 128 + n + 127) / 128)).foldl (fun s i =>
    let a := va / 128 * 128 + 128 * i
    match s.unitTr p 0 a .read with
    | some t => s.touchLine p a t
    | none => s) s

/-- Prefetches record `slot` of the table at tab (13 R338). -/
def affPrefetch (p tab slot : Nat) (s : State) : State :=
  let f (o n : Nat) : Nat := s.unitLe p (tab + o) n
  let rec_ := tab + 0x40 + 32 * slot
  (List.range (Nat.min 8 (s.unitLe p rec_ 1))).foldl (fun s i =>
    let a := f 8 8 + s.unitLe p (rec_ + 8 + 2 * i) 2 * f 0x10 8
    let s := s.fillLines p a (f 0x20 8)
    let pages := if f 0x18 8 = 0 then 0 else (a % 65536 + f 0x18 8 + 65535) / 65536
    (List.range pages).foldl (fun s j => s.thresholdPage p (a / 65536 * 65536 + 65536 * j)) s) s

/-- Moves expert x to the front of a record (13 R338). -/
def affFront (x n : Nat) (es : List Nat) : List Nat :=
  let cur := es.take n
  if cur.contains x then x :: cur.erase x ++ es.drop n
  else (x :: es).take 8

def affTouch (p tab slot x : Nat) (s : State) : State :=
  let rec_ := tab + 0x40 + 32 * slot
  let n := s.unitLe p rec_ 1
  let es := (List.range 8).map fun i => s.unitLe p (rec_ + 8 + 2 * i) 2
  let n' := if (es.take n).contains x then n else Nat.min 8 (n + 1)
  let s := s.unitWrite p (rec_ + 8) ((affFront x n es).flatMap fun e => leBytes e 2)
  s.unitWrite p rec_ (leBytes n' 1)

/-! ## Writes at register addresses -/

/-- A write at a register's address. -/
def State.busWrite (s : State) (p : Nat) (host : Bool) (a : Nat) (bs : List Byte) : State :=
  if host then s.busStore p true a bs else s.unitWrite p a bs

/-- The waiting writes of units are tried again. -/
def State.retryHeld (s : State) : State :=
  if s.heldW.isEmpty then s
  else s.heldW.foldl (fun s x => s.busWrite x.1 (2 ^ 57 ≤ x.2.1) (x.2.1 % 2 ^ 57) x.2.2) { s with heldW := [] }

/-- Writes the entry of an event queue with its sequence number, when there is room. -/
def State.eqPut (s : State) (p q : Nat) (entry : Nat → List Byte) : Option State := s.eqPutBy State.busWrite p q entry

def State.eqPutOrLose (s : State) (p q : Nat) (entry : Nat → List Byte) : State :=
  match s.eqPut p q entry with
  | some s => s
  | none => s.eqLose p q

end Sys2Proof.Machine
end

