-- ==== Sys2Proof/Machine/Clock.lean ====
section
/-! DEFINITION. Clock.lean: agents' clocks and knowledge vectors, release and acquire (10 R251, R256), the race check and its
records (10 R252-R260), and the checked access to one granule that every stream uses (08 R201, 10 R253). -/

namespace Sys2Proof.Machine

/-! ## Clock state (10 R251) -/

def clockWord (gen c : Nat) : W32 := BitVec.ofNat 32 (gen * 2 ^ 16 + c)

/-- A vector entry as it reads: zero under another generation. -/
def vecAt (gen : Nat) (v : Vec) (a : Nat) : W32 :=
  let e := sget 0 a v
  if e.toNat / 2 ^ 16 = gen then e else 0

/-- Entrywise maximum of two vectors of the current generation. -/
def vecMax (gen : Nat) (a b : Vec) : Vec :=
  b.foldl (fun acc x =>
    let e := vecAt gen b x.1
    let o := vecAt gen acc x.1
    sset 0 x.1 (if o.toNat < e.toNat then e else o) acc) a

def Partition.agent (q : Partition) (a : Nat) : Agent := sget {} a q.agents
def Partition.setAgent (q : Partition) (a : Nat) (x : Agent) : Partition := { q with agents := sput a x q.agents }
def State.agent (s : State) (p a : Nat) : Agent := (s.part p).agent a
def State.setAgent (s : State) (p a : Nat) (x : Agent) : State := s.onPart p fun q => q.setAgent a x

/-- The published vector of agent a, after its release. -/
def Agent.published (x : Agent) (gen a pub : Nat) : Vec := sset 0 a (clockWord gen pub) x.know

/-- What release does to the clock state: the published count and the agent afterwards; whether it folds now (R251, R256). -/
def Agent.release (x : Agent) : Nat × Agent × Bool :=
  if x.folded then (0xFFFF, x, false)
  else if x.dirty then
    if x.count = 0xFFFF then (0xFFFF, { x with folded := true }, true)
    else (x.count, { x with count := x.count + 1, dirty := false }, false)
  else (x.count - 1, x, false)

/-- acquire(y, P) (R251). -/
def Agent.acquire (x : Agent) (gen : Nat) (v : Vec) : Agent := { x with know := vecMax gen x.know v }

def State.acquireAs (s : State) (p a : Nat) (v : Vec) : State :=
  s.onPart p fun q => q.setAgent a ((q.agent a).acquire q.gen v)

/-! ## Distances (10 R238) -/

/-- The die on which the lease of an AID group runs or last ran. -/
def Partition.placeOf (q : Partition) (a : Nat) : Nat := sget 0 (a / 4) q.places

/-- Distance between two agents of a partition: 0 parcel, 1 die, 2 package. -/
def Partition.distance (q : Partition) (a b : Nat) : Nat :=
  if a / 4 = b / 4 then 0 else if q.placeOf a = q.placeOf b then 1 else 2

/-! ## Metadata (10 R252) -/

structure Meta where
  waid : Nat
  wclk : Nat
  raid : Nat
  rclk : Nat
  mr : Bool
  scope : Nat
  gen : Nat
  v : Bool
  deriving DecidableEq, Repr

def Meta.settled : Meta := ⟨0xFFF, 0, 0xFFF, 0, false, 0, 0, false⟩

def Meta.ofWord (w : W64) : Meta :=
  let x := w.toNat
  ⟨nbits x 63 52, nbits x 51 36, nbits x 35 24, nbits x 23 8, nbits x 7 7 = 1, nbits x 6 5, nbits x 4 2, nbits x 1 1 = 1⟩

def Meta.word (m : Meta) : W64 :=
  BitVec.ofNat 64 (m.waid * 2 ^ 52 + m.wclk * 2 ^ 36 + m.raid * 2 ^ 24 + m.rclk * 2 ^ 8 + (if m.mr then 128 else 0) +
    m.scope * 32 + m.gen * 4 + (if m.v then 2 else 0))

/-- Metadata as a check reads it: settled when V = 0 or when its generation is not the current one. -/
def Meta.read (w : W64) (gen : Nat) : Meta :=
  let m := Meta.ofWord w
  if !m.v || m.gen ≠ gen % 8 then .settled else m

/-! ## The check (10 R253, R254, R256) -/

/-- One access of a stream of the lease in focus to one granule. `va` is the access's first byte in the granule: a virtual
address, or a window offset with `scr`; `slot` is CT's code offset in 8-byte units or the ring slot (R258). -/
structure Access where
  st : Stream
  kind : AccKind
  scope : Nat
  va : Nat
  scr : Bool
  late : Bool := false
  slot : Nat := 0
  /-- The command in flight that makes the access; none for a stream's word. -/
  cmd : Option Nat := none
  /-- Performed unchecked, as a part of an access that RSUP exempts (16 R370). -/
  exempt : Bool := false
  /-- The number of CT's request that makes the access, as it arrives at its home. -/
  req : Option Nat := none
  /-- The count that its agent had as the write completed, where it completed before its home performed it (10 R239). -/
  clk : Option Nat := none
  deriving DecidableEq, Repr

/-- ord(y, a, c): the recorded access is ordered before the accessor (R253), or its agent is folded (R256). -/
def Partition.ordered (q : Partition) (y a c : Nat) : Bool :=
  a = y || a = 0xFFF || (q.agent a).folded || q.gen * 2 ^ 16 + c ≤ (vecAt q.gen (q.agent y).know a).toNat

/-- The cause of the first step of R253 that fails, with the recorded agent and its count, and whether it is the writer. -/
def Partition.conflict (q : Partition) (y : Nat) (k : AccKind) (m : Meta) : Option (Cause × Nat × Nat × Bool) :=
  if (q.agent y).folded then none
  else if !q.ordered y m.waid m.wclk then some (if k = .read then .raceWR else .raceWW, m.waid, m.wclk, true)
  else if m.waid ≠ y && m.waid ≠ 0xFFF && !(q.agent m.waid).folded && m.scope < q.distance m.waid y then
    some (.raceScope, m.waid, m.wclk, true)
  else if k = .write && m.mr then some (.raceReadOverflow, m.raid, m.rclk, false)
  else if k = .write && !q.ordered y m.raid m.rclk then some (.raceRW, m.raid, m.rclk, false)
  else none

/-- The agents whose entries of y's knowledge vector the check of an access reads (R251, R253). -/
def Partition.asks (q : Partition) (y : Nat) (m : Meta) : List Nat :=
  if (q.agent y).folded then [] else [m.waid, m.raid].filter fun a => a ≠ y && a ≠ 0xFFF && !(q.agent a).folded

/-- The sequencer's cache of 64 entries holds agent a's entry of stream st's vector (R251). -/
def Lease.knows (l : Lease) (st : Stream) (a : Nat) : Bool := l.kcache.contains (st.index * 4096 + a)

/-- The cache takes an entry; which one makes room is open (log entry 5). -/
def State.fetchKnow (s : State) (st : Stream) (a : Nat) : State :=
  if s.cur.knows st a then s
  else
    let (v, s) := s.victim 64 s.cur.kcache
    s.onCur fun l => { l with kcache := l.kcache.filter (fun x => some x ≠ v) ++ [st.index * 4096 + a] }

/-- mc of a fetch from the clock store: the L2 latency of 08 R196, at the sequencer's own die (DESIGN CHOICE, log entry 31). -/
def knowMc : Nat := 48

/-- The record of an access (R253, R254). -/
def Partition.recorded (q : Partition) (y : Nat) (k : AccKind) (scope : Nat) (m : Meta) : Meta :=
  if k = .write then ⟨y, (q.agent y).count, 0xFFF, 0, false, scope, q.gen % 8, true⟩
  else { m with mr := m.mr || !q.ordered y m.raid m.rclk, raid := y, rclk := (q.agent y).count, gen := q.gen % 8, v := true }

/-- Lowest binding index whose region holds the granule (R258). -/
def Partition.bindOf (q : Partition) (va : Nat) : Nat :=
  match q.bind.find? (fun b => b.2.valid && b.2.base < va / 64 * 64 + 64 && va / 64 * 64 < b.2.base + b.2.len) with
  | some b => b.1
  | none => 0xFFFF

/-- A race record with the sequence number to come (R258). -/
def raceRecord (s : State) (a : Access) (c : Cause) (paid pclk : Nat) (recw : Bool) (m : Meta) (know bindIdx : Nat)
    (seq : Nat) : List Byte :=
  let l := s.cur
  let q := s.part l.part
  let aid := l.aidOf a.st
  let kind := match a.kind with | .read => 0 | .write => 1 | .atomic => 2
  packLe [(c.code, 1),
    (kind + a.scope * 4 + (if recw then 16 else 0) + (if m.mr then 32 else 0) + (if a.scr then 64 else 0) +
      (if a.late then 128 else 0), 1),
    (aid, 2), (paid, 2), (pclk, 2), (a.va, 8), (know, 4), (q.gen * 2 ^ 16 + (q.agent aid).count, 4),
    (whereOf a.st a.slot, 4), (m.scope + m.gen * 4, 2), (q.gen, 2), (l.kernelId, 8), (s.datumAt l.die, 8), (bindIdx, 2),
    (0, 2), (l.loc, 2), (0, 2), (seq, 4), (0, 4)]

/-- Where a lease counts the race records of an access's command: of a request of CT, of a command in flight, of a stream's word. -/
def Access.raceKey (a : Access) : Nat :=
  match a.req, a.cmd with
  | some n, _ => 2 ^ 64 + n
  | none, some k => k + 4
  | none, none => a.st.index

/-- The word of stream st, or command k, has appended no record. -/
def Lease.noRaces (l : Lease) (k : Nat) : Lease := { l with races := sset (0, 0) k (0, 0) l.races }

/-- Appends a race record to queue 2, at most 16 for one command (R259). -/
def State.reportRace (s : State) (a : Access) (record : Nat → List Byte) : State :=
  let l := s.cur
  let (n, at16) := sget (0, 0) a.raceKey l.races
  if 16 ≤ n then
    if at16 = 0 then s
    else
      let k := at16 - 1 + 0x32
      { s with mem := writeLe s.mem k (Nat.min 0xFFFF (readLe s.mem k 2 + 1)) 2 }
  else
    let e := s.eq l.part 2
    let key := if eBit e.base 63 then some (hostKey l.part (e.slotAt e.head))
      else (s.unitTr l.part 0 (e.slotAt e.head) .write).map (fun t => t.key)
    let here := match key with | some k => if e.full then 0 else k + 1 | none => 0
    let s := s.eqPutOrLose l.part 2 record
    s.onCur fun l => { l with races := sset (0, 0) a.raceKey (n + 1, if n + 1 = 16 then here else at16) l.races }

/-- Tracked memory (10 R250): HBM pages with RT = 1; scratch windows are tracked by their own path. -/
def Tr.tracked (t : Tr) : Bool := t.tier = 0 && eBit t.leaf 58

/-- HBM key of a granule's race metadata in the clock store (08 R205). -/
def clockKey (key : Nat) : Nat := key / 2 ^ 37 * 2 ^ 37 + 63 * 2 ^ 30 + key % 2 ^ 37 / 64 * 8

/-- A granule, or its race metadata where an access reads it, has an uncorrectable error that nothing has found yet (08 R208). -/
def State.badAt (s : State) (t : Tr) : Bool :=
  !s.badGran.isEmpty && (s.badGran.contains (t.key / 64) || (t.tracked && s.clockStore && s.badGran.contains (clockKey t.key / 64)))

/-- An access has met an uncorrectable error of its granule: the granule's partition halts with the access's address and agent, and
the granule's 64 KiB page is retired (08 R208). -/
def State.badData (s : State) (a : Access) (t : Tr) : State :=
  let l := s.cur
  let det : StopInfo :=
    { cause := .uncorrectable, engine := if l.prologue then 7 else if a.cmd.isSome && a.st ≠ .cp then 5 else a.st.index,
      aid := l.aidOf a.st, addr := a.va,
      paddr := if 4 ≤ t.tier then 0 else if s.badGran.contains (t.key / 64) then t.pa else clockKey t.key, slot := whereOf a.st a.slot,
      tier := if t.tier < 4 then t.tier else 0xFF, die := l.die, loc := l.loc, kernelId := l.kernelId, vc := l.vc }
  ({ s with retiredPages := s.retiredPages ++ [t.key / 65536] } : State).haltLine l.part .uncorrectable det

/-! ## Checked accesses -/

/-- What a checked access answers. -/
inductive AccRes where
  | ok (t : Tr) (s : State)
  /-- A handled cause, with TRAPINFO0-3 (16 R368); `race` when they hold a race record. With UNCORRECTABLE the partition has been
  halted, and the data is not delivered (08 R208). -/
  | refuse (c : Cause) (i : List W64) (race : Bool) (s : State)
  /-- A recoverable fault, with MALFORMED and TIER (11 R286). -/
  | park (c : Cause) (malformed : Bool) (tier : Nat) (s : State)
  /-- An isolation violation (16 R374). -/
  | isolate (s : State)
  | waits (s : State)
  deriving DecidableEq

/-- Eight-byte groups of a record's first 32 bytes (10 R260). -/
def infoOf (r : List Byte) : List W64 := (List.range 4).map fun i => BitVec.ofNat 64 (recLe r (8 * i) 8)

/-- RSUP stands for the word or command at a slot of a stream: the access refused by the most recently entered race trap, after the
ERET that found RSUP set (04 R94, 05 R123, 16 R370). -/
def Lease.rsupWord (l : Lease) (st : Stream) (slot : Nat) : Bool :=
  l.ct.trapCtl.getLsbD 1 && l.rsupOn && (match l.rsupAcc with | some x => x.1 = whereOf st slot | none => false)

/-- RSUP stands for this access to its granule. -/
def Lease.rsupFor (l : Lease) (a : Access) : Bool :=
  l.rsupWord a.st a.slot && (match l.rsupAcc with | some x => x.2 = a.va / 64 | none => false)

/-- The exempted access has been performed: RSUP is cleared (04 R94). -/
def State.rsupDone (s : State) : State :=
  s.onCur fun l => { l with rsupAcc := none, rsupOn := false, ct := { l.ct with trapCtl := l.ct.trapCtl &&& ~~~2#64 } }

/-- The race check and record of one granule at key (10 R253-R260). -/
def State.raceCheck (s : State) (a : Access) (key : Nat) : Except (Cause × List W64 × State) State :=
  let l := s.cur
  if l.prologue then .ok (if a.kind = .read then s else s.settle key)
  else if l.race = 0 || !s.clockStore then .ok s
  else
    let q := s.part l.part
    let y := l.aidOf a.st
    let m := Meta.read (s.meta_ key) q.gen
    let s := if a.st = .cp && a.scr then s else (q.asks y m).foldl (fun s x => s.fetchKnow a.st x) s
    let record (s : State) : State :=
      let q := s.part l.part
      let m := q.recorded y a.kind a.scope m
      match a.clk with
      | some c => s.setMeta key { m with wclk := if c / 2 ^ 16 = q.gen then c % 2 ^ 16 else m.wclk }.word
      | none => (s.setMeta key m.word).setAgent l.part y { q.agent y with dirty := true }
    if a.exempt then .ok (record s)
    else if l.rsupFor a then .ok (record s).rsupDone
    else match q.conflict y a.kind m with
      | none => .ok (record s)
      | some (c, paid, pclk, recw) =>
        let rec_ := raceRecord s a c paid pclk recw m (vecAt q.gen (q.agent y).know paid).toNat
          (if a.scr then 0xFFFF else q.bindOf a.va)
        if l.race = 1 then .ok (record (s.reportRace a rec_))
        else .error (c, infoOf (rec_ 0), s)

/-- The mc at which the last completed store to a location's line will have been performed that an access of the lease in focus follows: one
of parcel scope of its own lease, or one of die scope of its die (10 R239). -/
def State.ahead (s : State) (t : Tr) : Option Nat :=
  let l := s.cur
  (s.reqs.filter fun r => r.told && r.key / 128 = t.key / 128 && r.tier = t.tier && (r.lease = l.id || (r.scope = 1 && r.die = l.die))).foldl
    (fun m r => some (Nat.max r.due (m.getD 0))) none

/-- What the home does with an access that has arrived there, beside moving its bytes: the race check and record, and the counts of
its page (08 R206, 10 R253). -/
def State.accessHome (s : State) (a : Access) (t : Tr) : Except (Cause × List W64 × State) State :=
  let done (s : State) : State := s.countHome s.cur.die s.cur.part a.va t a.kind
  if t.tracked then (s.raceCheck a t.key).map done else .ok (done s)

/-- One access to a granule of global memory: translation, protection, tier, sync-object mark and race checks in order
(08 R201, 10 R242, R253), counted where its page counts (08 R206). An access that is `early` is only on its way to its home, and its
race check is made at its arrival; another waits while a completed store that it must follow has not been performed (10 R239), and
while firmware has fixed no detour on its way (17 R420). -/
def State.accessAt (early : Bool) (s : State) (a : Access) (view : Bool) : AccRes :=
  let l := s.cur
  let refuseAt (c : Cause) (s : State) : AccRes := .refuse c [BitVec.ofNat 64 a.va] false s
  if l.replay.isSome then .ok ⟨6, 0, 0, 127, 0⟩ s
  else match s.translate l.part l.die a.va a.kind view with
  | (.waits, s) => .waits s
  | (.fault .pagePermission _ _, s) => refuseAt .pagePermission s
  | (.fault .isolation _ _, s) => .isolate s
  | (.fault c m t, s) => .park c m t s
  | (.ok t, s) =>
    if sget 0 (t.key / 64) s.marks ≠ 0 then refuseAt .pagePermission s
    else if s.badAt t then .refuse .uncorrectable [] false (s.badData a t)
    else if early then .ok t s
    else if (s.ahead t).isSome || (t.tier < 3 && (s.route l.die (keyHome t.key)).isNone) then .waits s
    else match s.accessHome a t with
      | .ok s => .ok t s
      | .error (c, i, s) => .refuse c i true s

/-- One access to a granule of global memory, at its home. -/
def State.accessGlobal (s : State) (a : Access) (view : Bool) : AccRes := s.accessAt false a view

/-- One access to a granule of the lease's window (10 R250, R253). -/
def State.accessScratch (s : State) (a : Access) : AccRes :=
  let key := s.cur.winKey a.va
  let t : Tr := ⟨4, 0, key, 127, 0⟩
  if s.badGran.contains (key / 64) then .refuse .uncorrectable [] false (s.badData a t)
  else match s.raceCheck { a with scr := true } key with
  | .ok s => .ok t s
  | .error (c, i, s) => .refuse c i true s

/-! ## Release by an agent of the lease in focus, with CLOCK_FOLD (10 R256, R259, R260) -/

/-- The record of a CLOCK_FOLD by stream st (R258): the fields that name an access or a recorded agent have no stated value, and
take free bytes (log entry 28). -/
def foldRecord (s : State) (st : Stream) (slot seq : Nat) : List Byte :=
  let l := s.cur
  let q := s.part l.part
  let aid := l.aidOf st
  let open_ (k n : Nat) : List Byte := (List.range n).map fun i => Config.freeByte (s.free * 64 + k + i)
  packLe [(Cause.clockFold.code, 1)] ++ open_ 1 1 ++ packLe [(aid, 2)] ++ open_ 4 4 ++ packLe [(0, 8)] ++ open_ 0x10 4 ++
  packLe [(q.gen * 2 ^ 16 + (q.agent aid).count, 4), (whereOf st slot, 4), (leNat (open_ 0x1C 1) % 32, 2),
    (q.gen, 2), (l.kernelId, 8), (s.datumAt l.die, 8)] ++ open_ 0x30 2 ++
  packLe [(0, 2), (l.loc, 2), (0, 2), (seq, 4), (0, 4)]

/-- release(y) by stream st of the lease in focus: the published vector. -/
def State.release (s : State) (st : Stream) (slot : Nat) : Vec × State :=
  let l := s.cur
  let q := s.part l.part
  let y := l.aidOf st
  let (pub, x, folds) := (q.agent y).release
  let v := (q.agent y).published q.gen y pub
  let s := s.setAgent l.part y x
  if !folds || l.race = 0 then (v, s)
  else
    let r := foldRecord s st slot
    let s := s.nextFree.2
    (v, if l.race = 1 then s.eqPutOrLose l.part 2 r
      else s.onCur fun l => { l with folds := l.folds ++ [(s.datum, st.index, r 0)] })

def State.acquire (s : State) (st : Stream) (v : Vec) : State := s.acquireAs s.cur.part (s.cur.aidOf st) v

end Sys2Proof.Machine
end

