-- ==== Sys2Proof/Machine/Ops.lean ====
section
/-! DEFINITION. Ops.lean: the operations that every family shares: scalar registers (04 R85, R86), token queues and credit
(01 R17-R20), completion signals and trace records (02 R36, 15 R362), the halt line (16 R372-R376), parking (16 R371), taking
a handled trap and its resume point (05 R99, R122; 16 R367-R369), and the path of a CT word from acceptance to completion
(05 R98, R100). -/

namespace Sys2Proof.Machine

/-! ## Scalar registers -/

/-- s0 reads zero; s24-s31 are the shadows while an interrupt handler runs (04 R85, R86). -/
def Ct.reg (c : Ct) (r : Nat) : W64 :=
  if r = 0 then 0 else if c.trapCtl.getLsbD 2 && 24 ≤ r then sget 0 r c.shadow else sget 0 r c.sregs

/-- The file that holds scalar register r now (04 R86, R96). -/
def Ct.fileOf (c : Ct) (r : Nat) : Nat := if c.trapCtl.getLsbD 2 && 24 ≤ r then 3 else 2

/-- A write to a register writes its duplicate too: no error is left in either copy (04 R96). -/
def Ct.rewritten (c : Ct) (file reg : Nat) : Ct :=
  if c.bad.isEmpty then c else { c with bad := c.bad.filter fun b => b.file ≠ file || b.reg ≠ reg }

def Ct.rewrittenIn (c : Ct) (file : Nat) (regs : List Nat) : Ct :=
  if c.bad.isEmpty then c else { c with bad := c.bad.filter fun b => b.file ≠ file || !regs.contains b.reg }

/-- A write to s0 is discarded (04 R85). -/
def Ct.setReg (c : Ct) (r : Nat) (v : W64) : Ct :=
  if r = 0 then c
  else if c.trapCtl.getLsbD 2 && 24 ≤ r then ({ c with shadow := sset 0 r v c.shadow }).rewritten 3 r
  else ({ c with sregs := sset 0 r v c.sregs }).rewritten 2 r

def State.reg (s : State) (r : BitVec 5) : W64 := s.cur.ct.reg r.toNat

/-- Writes a scalar result that later words may read `lat` mc after now (05 R100). -/
def State.wreg (s : State) (d : BitVec 5) (v : W64) (lat : Nat) : State :=
  s.onCt fun c =>
    let c := c.setReg d.toNat v
    if d = 0 then c else { c with ready := sset 0 d.toNat (s.datum + lat) c.ready }

def Ct.handle (c : Ct) (k : Nat) : Handle := sget 0 k c.handles
def State.handle (s : State) (k : Nat) : Handle := s.cur.ct.handle k
def State.setHandle (s : State) (k : Nat) (h : Handle) : State :=
  s.onCt fun c => ({ c with handles := sset 0 k (hMask h) c.handles }).rewritten 4 k

/-- Sets NSTAT bits (03 R83). -/
def State.flag (s : State) (f : Nat) : State :=
  s.onCt fun c => { c with nstat := c.nstat ||| BitVec.ofNat 64 f, nstatNow := c.nstatNow ||| BitVec.ofNat 64 f }

/-- An ordinary resume point (05 R99): the word's offset, ACCD, WDONE and IDX. -/
def Ct.resume (c : Ct) : W64 :=
  BitVec.ofNat 64 (c.idx % 4096 * 2 ^ 52 + (if c.wdone then 2 ^ 51 else 0) + (if c.accd then 2 ^ 50 else 0) +
    c.pc / 8 % 2 ^ 21 * 8)

/-- The CT word at an offset, as the fetch finds it. -/
def Lease.codeWord (l : Lease) (pc : Nat) : W64 := sget 0 (pc / 8) l.code

/-- The CT word at PC. -/
def Lease.ctWordAt (l : Lease) : W64 := l.codeWord l.ct.pc

/-- Resumes from a resume point (05 R99). IDX is ignored where the word is no ISSUE (05 R123). -/
def Lease.resumeAt (l : Lease) (r : W64) : Lease :=
  let pc := nbits r.toNat 23 3 * 8
  { l with ct := { l.ct with
    pc := pc, accd := eBit r 50, wdone := eBit r 51,
    idx := if opcodeOf (l.codeWord pc) = 0x38 then nbits r.toNat 63 52 else 0, wait := .none, begun := false } }

/-! ## Groups and schedule cycles (12 R301, 15 R353) -/

/-- The first parcel of the chained group of a lease. -/
def State.firstOf (s : State) : Nat → Lease → Lease
  | 0, l => l
  | n + 1, l => match l.chin.bind s.lease? with
    | some x => s.firstOf n x
    | none => l

def State.chainFrom (s : State) : Nat → Lease → List Nat
  | 0, l => [l.id]
  | n + 1, l => l.id :: (match l.chout.bind s.lease? with
    | some x => s.chainFrom n x
    | none => [])

/-- The leases of a lease's chained group, first parcel first. -/
def State.groupOf (s : State) (l : Lease) : List Nat := if l.prologue then [l.id] else s.chainFrom 16 (s.firstOf 16 l)

/-- The group identifier of 15 R353. -/
def State.gid (s : State) (l : Lease) : Nat :=
  if l.prologue then 0
  else
    let f := s.firstOf 16 l
    l.part * 2 ^ 10 + l.die * 2 ^ 7 + (4 * f.row + f.col) * 8

/-! ## The debugger's target, break bits and the input log (15 R354, R360, R364) -/

/-- The lease that DBGTGT names. -/
def State.targetOf (s : State) (p : Nat) : Option Lease :=
  s.leases.find? fun x => x.part = p && !x.prologue && x.aid = (s.part p).dbg.tgt.toNat % 4096

/-- The lease in focus belongs to the target group. -/
def State.targeted (s : State) : Bool :=
  !s.cur.prologue && match s.targetOf s.cur.part with
    | some t => (s.groupOf t).contains s.cur.id
    | none => false

/-- SLOT of the log entry of a landing in the window of lease l of a group: the parcel's place in the group above 27 bits of the offset
(DESIGN CHOICE, log entry 55). -/
def State.landSlot (s : State) (l : Lease) (off : Nat) : Nat := (s.groupOf l).idxOf l.id * 2 ^ 27 + off

/-- Bit k of the break bitmap. -/
def State.breakBit (s : State) (k : Nat) : Bool :=
  let a := nbits (s.part s.cur.part).dbg.bmap.toNat 56 3 * 8
  nbits (s.unitLe s.cur.part (a + k / 8) 1) (k % 8) (k % 8) = 1

/-- The 16 words of line n of the lease in focus take their break bits as the line is filled (15 R360). -/
def State.loadBreaks (n : Nat) (s : State) : State :=
  let bits := ((List.range 16).map fun k => 16 * n + k).filter fun w => s.targeted && s.breakBit (2 * w)
  s.onCur fun l => { l with brkCode := l.brkCode.filter (fun x => x.1 / 16 ≠ n) ++ bits.map fun w => (w, true) }

/-- The instruction-cache lines of the lease in focus are dropped (15 R360). -/
def State.dropLines (s : State) : State := s.onCur fun l => { l with icache := [], brkCode := [] }

def logSize (n : Nat) : Nat := (16 + n + 63) / 64 * 64

/-- A log entry: STREAM, LEN, SLOT, VC and the bytes, padded to 64. -/
def logEntry (st slot vc : Nat) (bs : List Byte) : List Byte :=
  packLe [(st, 1), (0, 1), (bs.length, 2), (slot, 4), (vc, 8)] ++ bs ++ List.replicate (logSize bs.length - 16 - bs.length) 0

/-- The input now offered is not taken: the group of the lease in focus stops first. -/
def State.askStop (s : State) (bit : Nat) : State :=
  s.onPart s.cur.part fun q => { q with dbg := { q.dbg with ask := q.dbg.ask ||| bit, who := s.cur.id } }

/-- The first entry of stream st at or after position pos of the log: position, LEN, SLOT, VC. -/
def State.logNext (s : State) (st : Nat) : Nat → Nat → Option (Nat × Nat × Nat × Nat)
  | 0, _ => none
  | n + 1, pos =>
    let d := (s.part s.cur.part).dbg
    if d.logLen.toNat ≤ pos then none
    else
      let f (o k : Nat) : Nat := s.unitLe s.cur.part (nbits d.log.toNat 56 6 * 64 + pos + o) k
      if f 0 1 = st then some (pos, f 2 2, f 4 4, f 8 8) else s.logNext st n (pos + logSize (f 2 2))

/-- The next log entry of source st for a replay in focus. -/
def State.replayNext (s : State) (st : Nat) : Option (Nat × Nat × Nat × Nat) :=
  let d := (s.part s.cur.part).dbg
  s.logNext st (d.logLen.toNat / 64 + 1) (sget 0 st (s.cur.replay.getD []))

/-- The entry at pos is used, by every parcel of the replay: the log is that of its group. -/
def State.replayTake (s : State) (st pos len : Nat) : List Byte × State :=
  let p := s.cur.part
  (s.unitRead p (nbits (s.part p).dbg.log.toNat 56 6 * 64 + pos + 16) len,
    s.mapLeases fun l => if l.part = p then { l with replay := l.replay.map fun m => sset 0 st (pos + logSize len) m } else l)

/-- Source st of a parcel's inputs may still ask for one: a remote writer, CT, or a stream with words or commands. -/
def Lease.mayAsk (l : Lease) (st : Nat) : Bool :=
  match st with
  | 1 => l.ld.ring.count ≠ 0 || l.cmds.any fun c => c.stream = .ld
  | 2 => l.cp.ring.count ≠ 0 || l.load.isSome
  | 3 => l.sd.ring.count ≠ 0 || l.cmds.any fun c => c.stream = .sd
  | _ => true

/-- Entries of the log that no source has used, and whether one of them may still be asked for. -/
def State.logLeft (s : State) : Bool × Bool :=
  let left := (List.range 5).filter fun st => (s.replayNext st).isSome
  (!left.isEmpty, left.any fun st => s.leases.any fun l => l.part = s.cur.part && l.replay.isSome && l.mayAsk st)

/-- An input of source st (0-3 a stream, 4 a remote writer): the bytes that enter. A run with LOG = 1 appends them; a replay
takes the next entry of the source, or waits (none) while another access of the source that the entry names is under way. Each source
takes its entries in their order (DEDUCED, log entry 55); an input of a source that has none left waits for the others', diverges where none
of those can be asked for, or ends the replay. -/
def State.input (s : State) (st slot : Nat) (bs : List Byte) (other : Nat → Bool) : Option (List Byte × State) :=
  let d := (s.part s.cur.part).dbg
  if s.cur.replay.isSome then
    match s.replayNext st with
    | none => if s.logLeft.2 then none else some (bs, s.askStop (if s.logLeft.1 then 64 else 32))
    | some (pos, len, sl, _) =>
      if sl = slot && len = bs.length then some (s.replayTake st pos len)
      else if other sl then none
      else some (bs, s.askStop 64)
  else if !d.ctl.getLsbD 3 || !s.targeted then some (bs, s)
  else if d.logLen.toNat < d.logPos + logSize bs.length then some (bs, s.askStop 16)
  else
    let s := s.unitWrite s.cur.part (nbits d.log.toNat 56 6 * 64 + d.logPos) (logEntry st slot s.cur.vc bs)
    some (bs, s.onPart s.cur.part fun q => { q with dbg := { q.dbg with logPos := q.dbg.logPos + logSize bs.length } })

/-- A value that CT receives (15 R364). -/
def State.inputValue (s : State) (slot : Nat) (v : W64) : Option (W64 × State) :=
  (s.input 0 slot (leBytes v.toNat 8) fun sl => s.reqs.any fun r => r.lease = s.cur.id && r.slot = sl && r.cmd.isNone).map
    fun x => (BitVec.ofNat 64 (leNat x.1), x.2)

/-! ## Trace records (15 R362) -/

/-- Generates a trace record of the lease in focus, which queue 3 takes at the end of the mc; none while its EN is 0. -/
def State.trace (s : State) (type : Nat) (st : Stream) (slot vc tag cls : Nat) : State :=
  let l := s.cur
  if !(s.eq l.part 3).en then s
  else
    let r := packLe [(type, 1), (st.index, 1), (l.aidOf st, 2), (0, 4), (s.datumAt l.die, 8), (vc, 8), (s.gid l, 2), (0, 2),
      (whereOf st slot, 4), (tag, 4), (cls, 4), (l.kernelId, 8), (0, 16)]
    { s with traces := s.traces ++ [(l.part, st.index, l.aidOf st, r)] }

/-! ## Token queues (01 R17-R20) -/

def Lease.tokens (l : Lease) (q : Nat) : List Vec := sget [] q l.tq
def Lease.visible (l : Lease) (q : Nat) : Nat := Nat.min 63 (l.tokens q).length
def Lease.held_ (l : Lease) (q : Nat) : Nat := (l.tokens q).length - 63
def Lease.creditOf (l : Lease) (q : Nat) : Nat := sget 0 q l.credit

/-- The first queue whose credit does not promise the pops of a word, or would not take its pushes (01 R19). -/
def Lease.creditBad (l : Lease) (st : Stream) (t : Tok) : Option (Cause × Nat) :=
  let pops := (List.range 3).find? fun k => l.creditOf (tokQueue (streamPeer st k) st) < tokCount t.wait k
  match pops with
  | some k => some (.forwardWait, tokQueue (streamPeer st k) st)
  | none =>
    match (List.range 3).find? fun k => 4095 < l.creditOf (tokQueue st (streamPeer st k)) + tokCount t.sig k with
    | some k => some (.queueOverflow, tokQueue st (streamPeer st k))
    | none => none

/-- Acceptance's change of credit (01 R19). -/
def Lease.accept (l : Lease) (st : Stream) (t : Tok) : Lease :=
  let c := (List.range 3).foldl (fun c k =>
    let q := tokQueue (streamPeer st k) st
    sset 0 q (sget 0 q c - tokCount t.wait k) c) l.credit
  let c := (List.range 3).foldl (fun c k =>
    let q := tokQueue st (streamPeer st k)
    sset 0 q (sget 0 q c + tokCount t.sig k) c) c
  { l with credit := c }

/-- The lowest-numbered queue that lacks tokens for a word's pops (14 R350); none when all pops can be taken. -/
def Lease.lacking (l : Lease) (st : Stream) (w : BitVec 8) : Option Nat :=
  ((List.range 3).map fun k => (tokQueue (streamPeer st k) st, tokCount w k)).foldl (fun acc x =>
    if l.visible x.1 < x.2 then (match acc with | some q => some (Nat.min q x.1) | none => some x.1) else acc) none

/-- Takes n tokens of queue q and acquires their vectors (01 R17, R18; 10 R251). -/
def State.popTokens (s : State) (st : Stream) (q : Nat) : Nat → State
  | 0 => s
  | n + 1 =>
    let s := s.popTokens st q n
    match s.cur.tokens q with
    | [] => s
    | v :: r => (s.onCur fun l => { l with tq := sset [] q r l.tq }).acquire st v

/-- Takes all pops of a word together (01 R17). -/
def State.takePops (s : State) (st : Stream) (w : BitVec 8) : State :=
  (List.range 3).foldl (fun s k => s.popTokens st (tokQueue (streamPeer st k) st) (tokCount w k)) s

/-- Adds the tokens of a SIGNAL byte, each carrying the vector v (01 R18). -/
def State.addTokens (s : State) (st : Stream) (sig : BitVec 8) (v : Vec) : State :=
  s.onCur fun l => { l with tq := (List.range 3).foldl (fun tq k =>
    let q := tokQueue st (streamPeer st k)
    sset [] q (sget [] q tq ++ List.replicate (tokCount sig k) v) tq) l.tq }

/-- Adds the pushes of a completed command, releasing once (01 R18, R20; 10 R251), or with the vector released before. -/
def State.push (s : State) (st : Stream) (slot : Nat) (sig : BitVec 8) (vec : Option Vec := none) : State :=
  if sig.toNat % 64 = 0 then s
  else match vec with
    | some v => s.addTokens st sig v
    | none => let (v, s) := s.release st slot; s.addTokens st sig v

/-- Raises a user-level interrupt: it is pending until its delivery (04 R94, 05 R124). -/
def State.raiseUirq (s : State) : State := s.onCt fun c => { c with trapCtl := c.trapCtl ||| 8 }

/-- What happens at a command's completion: pushes, then the MARK record, then UIRQ (01 R18, 02 R36, 05 R98). -/
def State.signals (s : State) (st : Stream) (sig : BitVec 8) (slot op vc : Nat) (vec : Option Vec := none) : State :=
  let s := s.push st slot sig vec
  let s := if sigMark sig then s.trace 1 st slot vc op 0 else s
  if sigUirq sig then s.raiseUirq else s

/-! ## GRP sync points (02 R38) -/

def Lease.grpCount (l : Lease) (st : Stream) : Nat :=
  match st with | .ct => l.ctGrp | .ld => l.ld.grp | .cp => l.cp.grp | .sd => l.sd.grp
def Lease.setGrp (l : Lease) (st : Stream) (n : Nat) : Lease :=
  match st with
  | .ct => { l with ctGrp := n } | .ld => { l with ld := { l.ld with grp := n } }
  | .cp => { l with cp := { l.cp with grp := n } } | .sd => { l with sd := { l.sd with grp := n } }

/-- A word with GRP whose other conditions are met: it passes when the stream of every parcel has reached or passed the same
sync point; the last to reach it lets the others issue in the same mc. -/
def State.grpPass (s : State) (st : Stream) : Bool × State :=
  let l := s.cur
  let k := l.grpCount st
  let mates := (s.groupOf l).filterMap s.lease?
  let others := mates.filter (fun x => x.id ≠ l.id)
  let there (x : Lease) : Bool := k < x.grpCount st || (x.grpCount st = k && sget 0 st.index x.grpReady = k + 1)
  if others.all there then
    let wake := (others.filter (fun x => x.grpCount st = k)).map fun x => Turn.word x.id st
    (true, { (s.onCur fun l => { l.setGrp st (k + 1) with grpReady := sset 0 st.index 0 l.grpReady }) with turn := wake ++ s.turn })
  else (false, s.onCur fun l => { l with grpReady := sset 0 st.index (k + 1) l.grpReady })

/-! ## Completion records and the end of a prologue (11 R282-R284) -/

/-- Writes a completion record, its STATUS last (11 R282). -/
def State.writeDone (s : State) (p : Nat) (o : Origin) (status cause : Nat) : State :=
  if o.done = 0 then s
  else
    let s := s.unitWrite p (o.done + 4) (packLe [(cause, 1), (0, 1), (o.launches, 2)])
    let s := s.unitWrite p (o.done + 8) (leBytes o.info.toNat 8)
    let tell (b : Batcher) : Batcher := if b.en && b.addr.toNat + 0x50 = o.done then { b with done := status } else b
    (s.unitWrite p o.done (leBytes status 4)).onPart p fun q => { q with batchers := q.batchers.map fun b => (b.1, tell b.2) }

def State.ring (s : State) (p r : Nat) : HostRing := sget {} r (s.part p).rings
def State.setRing (s : State) (p r : Nat) (x : HostRing) : State := s.onPart p fun q => { q with rings := sput r x q.rings }

/-- Publishes READ in the index block of a ring (11 R281). -/
def State.publish (s : State) (p r : Nat) : State :=
  let x := s.ring p r
  let s := s.busWrite p (eBit x.idxBlk 63) (nbits x.idxBlk.toNat 56 7 * 128 + 0x40) (leBytes x.expect 8)
  s.setRing p r { x with unpub := 0 }

/-- The core is inside no packet of the ring: one whose EN was cleared publishes READ and stops (11 R278). -/
def State.ringRest (s : State) (p r : Nat) : State :=
  let s := s.setRing p r { s.ring p r with active := false }
  if (s.ring p r).stopping then
    let s := s.publish p r
    s.setRing p r { s.ring p r with ctl := (s.ring p r).ctl &&& ~~~0x80000000#64, stopping := false }
  else s

/-- The core is done with the packet of its expected index: e := e + 1, and READ is published after PUBN packets or with PUB
(11 R281); a ring whose EN was cleared publishes and stops (R278). -/
def State.packetDone (s : State) (p r : Nat) (pub : Bool) : State :=
  let x := s.ring p r
  let s := s.setRing p r { x with expect := x.expect + 1, unpub := x.unpub + 1, active := false }
  let s := if pub || nbits x.ctl.toNat 23 16 + 1 ≤ x.unpub + 1 then s.publish p r else s
  s.ringRest p r

/-- The prologue in focus ends and gives the launch core back to its ring; with its first run the packet is done. -/
def State.prologueGone (s : State) : State :=
  let l := s.cur
  let s := s.dropLease l.id
  if l.origin.repeats then s.ringRest l.part l.origin.ring else s.packetDone l.part l.origin.ring (l.retiring)

/-- A failing prologue: STATUS 4 with its cause (11 R284). -/
def State.prologueFail (s : State) (c : Cause) : State :=
  let l := s.cur
  (s.writeDone l.part l.origin 4 c.code).prologueGone

/-! ## Bytes of the window -/

def State.winBytes (s : State) (a n : Nat) : List Byte := (List.range n).map fun i => readByte s.mem (s.cur.winKey (a + i))

def State.winWrite (s : State) (a : Nat) : List Byte → State
  | [] => s
  | b :: r => ({ s with mem := writeByte s.mem (s.cur.winKey a) b }).winWrite (a + 1) r

/-! ## Parking and freezing (16 R371, R374) -/

/-- Writes bytes of a card where it lies. -/
def State.cardWrite (s : State) (c : Cmd) (off : Nat) (bs : List Byte) : State :=
  if hSpace c.aux = spScratch then s.winWrite (hBase c.aux + 64 * c.card + off) bs
  else s.unitWrite s.cur.part (hBase c.aux + 64 * c.card + off) bs

/-- RESUME of every unfinished card of the lease in focus (09 R231, R232). -/
def State.writeResumes (s : State) : State :=
  (s.cur.cmds.filter fun c => c.kind = .card).foldl (fun s c => s.cardWrite c 0x38 (leBytes c.offset 8)) s

/-- Adds a fault-queue entry and parks the lease in focus; its unfinished cards get their RESUME (09 R232). -/
def State.park (s : State) (st : Stream) (c : Cause) (flags va offset slot tier : Nat) (cmd : Option Nat) : State :=
  let l := s.cur
  if l.prologue then s.prologueFail c
  else
    let e : FaultEntry :=
    { lease := l.id, stream := st, cause := c, flags := flags, aid := l.aidOf st, va := va / 64 * 64, offset := offset,
      where_ := whereOf st slot, tier := tier, kernelId := l.kernelId, datum := s.datumAt l.die, loc := l.loc, cmd := cmd }
    (s.writeResumes.onPart l.part fun q => { q with faultWait := q.faultWait ++ [e] }).onCur fun l =>
      { l with st := if l.st = .running then .parked else l.st }

/-- An isolation violation by a stream: it is frozen and the line rises (16 R374). -/
def State.isolation (s : State) (st : Stream) (va : Nat) : State :=
  if s.cur.prologue then s.prologueFail .isolation
  else (s.onCur fun l => { l with frozen := true }).haltBy .isolation st va

/-- A stream of the lease in focus has a fault that is not resolved (16 R371). -/
def State.faulted (s : State) (st : Stream) : Bool :=
  let q := s.part s.cur.part
  (q.faultWait ++ q.faultOpen).any fun e => e.lease = s.cur.id && e.stream = st

/-! ## Taking a handled trap (05 R122; 16 R367-R369) -/

/-- TRAPINFO1 outside the race row (16 R367). -/
def trapInfo1 (slot when_ : Nat) (st : Stream) (idx : Nat) : W64 :=
  BitVec.ofNat 64 (slot % 4096 * 2 ^ 16 + when_ * 2 ^ 14 + st.index * 2 ^ 12 + idx % 4096)

/-- The handler offset of a cause (05 R122, 06 R162). -/
def Lease.handler (l : Lease) (c : Cause) : Nat :=
  if c = .xopUnloaded && l.loader ≠ 0 then l.loader else l.traph

/-- CT leaves the word at which it stands: it no longer stands ready at a sync point (02 R38). -/
def Lease.leaveGrp (l : Lease) : Lease := { l with grpReady := sset 0 0 0 l.grpReady }

/-- Takes a handled trap in the lease in focus: DOUBLE_TRAP for a synchronous trap with TE clear or for a handler offset of 0;
otherwise TRAPPC, TRAPCAUSE and TRAPINFO0-3 are written, TE is cleared and CT goes to the handler (05 R122). A race trap
names the access that RSUP may exempt (16 R370), and a word that stood ready at a sync point no longer does (02 R38). -/
def State.enterTrap (s : State) (sync : Bool) (c : Cause) (i : List W64) (resume : W64) : State :=
  let l := s.cur
  if l.prologue then s.prologueFail c
  else if (sync && !l.ct.trapCtl.getLsbD 0) || l.handler c = 0 then s.haltBy .doubleTrap .ct 0
  else
    let s := s.onCur Lease.leaveGrp
    let s := if c.isRace && c ≠ .clockFold then s.onCur fun l =>
        { l with rsupAcc := some (nbits (i.getD 3 0).toNat 31 0, (i.getD 1 0).toNat / 64), rsupOn := false } else s
    s.onCt fun ct =>
      let ct := ct.rewrittenIn 5 [0, 1, 2, 4, 5, 6, 7]
      { ct with
        trapPc := resume, trapCause := BitVec.ofNat 64 c.code, info0 := i.getD 0 0, info1 := i.getD 1 0, info2 := i.getD 2 0,
        info3 := i.getD 3 0, trapCtl := ct.trapCtl &&& ~~~1#64, pc := l.handler c, accd := false, wdone := false, idx := 0,
        wait := .none, begun := false, trapDue := none, nextMc := s.datum + 3 }

/-- Every issued CT word has written its scalar result (05 R122, R124). -/
def State.regsWritten (s : State) : Bool := s.cur.ct.ready.all fun r => r.2 ≤ s.datum

/-- A synchronous trap of CT's word: entry waits for scalar results in flight (05 R122). -/
def State.ctTrap (s : State) (c : Cause) (i : List W64) : State :=
  if c = .uncorrectable then s
  else if s.regsWritten then s.enterTrap true c i s.cur.ct.resume else s.onCt fun x => { x with trapDue := some (c, i) }

/-! ## Register errors (04 R96) -/

/-- A read of word `b` of a register, whose copy read has an error: it is repaired from the duplicate, which adds 1 to CERR; none where it
is uncorrectable. A main register has a duplicate among the ungranted ones. A single bit of an accumulator word is corrected by its SECDED
code, which is no repair from a duplicate and leaves CERR (DESIGN CHOICE, log entry 94). -/
def Lease.repair (l : Lease) (b : RegBad) : Option Lease :=
  let c := l.ct
  let l := { l with ct := { c with bad := c.bad.filter fun x => x ≠ b } }
  if b.file = 6 then (if b.dup then none else some l)
  else if c.bad.contains { b with dup := true } || (b.file = 0 && 64 ≤ b.reg + l.vregs) then none
  else some { l with ct := { l.ct with cerr := (c.cerr + 1) &&& 0xFFFFFFFF } }

/-- A read of the words that p names, word by word: an error of a duplicate is not met. -/
def Lease.readWords (l : Lease) (p : RegBad → Bool) : Option Lease :=
  (l.ct.bad.filter fun b => p b && (b.file = 6 || !b.dup)).foldl (fun l b => l.bind fun l => l.repair b) (some l)

/-- A read of register `reg` of a file. -/
def Lease.readReg (l : Lease) (file reg : Nat) : Option Lease := l.readWords fun b => b.file = file && b.reg = reg

/-- The word of an accumulator row that a cell is: its plot's lanes follow those of the plots before it. -/
def cellWord (c : Nat × Nat) : Nat := c.1 / 512 % 16 * 128 + c.2

/-- The registers that a word of stream st reads: the state after repairs, or an uncorrectable error and the halt of the
partition. -/
def State.readRegs (s : State) (st : Stream) (rs : List (Nat × Nat)) : Except State State :=
  if s.cur.ct.bad.isEmpty then .ok s
  else match rs.foldl (fun l r => l.bind fun l => l.readReg r.1 r.2) (some s.cur) with
    | some l => .ok { s with cur := l }
    | none => .error (s.haltBy .uncorrectable st 0)

/-- The words of accumulator rows that the array reads. -/
def State.readCells (s : State) (cs : List (Nat × Nat)) : Except State State :=
  if s.cur.ct.bad.isEmpty then .ok s
  else match s.cur.readWords fun b => b.file = 6 && cs.any fun c => b.reg = c.1 % 512 && b.word = cellWord c with
    | some l => .ok { s with cur := l }
    | none => .error (s.haltBy .uncorrectable .cp 0)

/-! ## Boundaries of CT (05 R124, 16 R369) -/

/-- Words whose step-5 waits stand at a boundary (16 R369): BRQ, handle writes, ISSUE, ISSUER, ACQ, the shape words, SPAWN,
JOIN, QUIES, BUPD and END. -/
def boundaryWait (op : Nat) : Bool :=
  op ∈ [0x2B, 0x32, 0x34, 0x35, 0x36, 0x37, 0x38, 0x39, 0x3B, 0x41, 0x42, 0x43, 0x44, 0x45, 0x46, 0x47, 0x49, 0x4D, 0x5B]

/-- A step-5 wait that a boundary may leave: nothing has been committed yet. -/
def CtWait.withdrawable : CtWait → Bool
  | .none => true
  | .sent => true
  | _ => false

/-- A save of the lease is under way: its streams issue nothing further (16 R379). -/
def Lease.saving (l : Lease) : Bool := match l.pre with | .draining _ => true | _ => false

/-- CT stands between two words, the one before having ended, in step 4, or in a step-5 wait of such a word (16 R369). -/
def State.standsAtBoundary (s : State) : Bool :=
  let l := s.cur
  (l.st = .running || l.st = .parked) && !l.frozen && !l.prologue && !s.faulted .ct && !l.saving &&
  (l.ct.nextMc ≤ s.datum || s.datum < l.ct.missTo) &&
  (!l.ct.wdone || !l.ct.begun || (boundaryWait (opcodeOf l.ct.ir) && l.ct.wait.withdrawable))

/-- CT stands at a boundary with every scalar result written: a trap or an interrupt can be taken (05 R122, R124). -/
def State.atBoundary (s : State) : Bool := s.standsAtBoundary && s.regsWritten

/-- The refusals of ring streams whose trap has not been entered, with their stream. -/
def Lease.pendingStops (l : Lease) : List (Stream × StopRec) :=
  [(Stream.ld, l.ld.stop), (.cp, l.cp.stop), (.sd, l.sd.stop)].filterMap fun x =>
    match x.2 with | some r => if r.entered then none else some (x.1, r) | none => none

/-- A user-level interrupt can be delivered (05 R124). -/
def Ct.uirqDue (c : Ct) : Bool := c.trapCtl.getLsbD 3 && c.trapCtl.getLsbD 0 && !c.trapCtl.getLsbD 2 && c.uivec ≠ 0

/-- CT stands in END's drain. -/
def State.ending (s : State) : Bool := s.cur.ct.wdone && opcodeOf s.cur.ct.ir = 0x5B

/-- At this boundary an asynchronous trap or an interrupt is to be taken before CT goes on (04 R94, 16 R369); an END whose wait is met
retires before an interrupt (16 R381). -/
def State.interruptDue (s : State) : Bool :=
  let l := s.cur
  s.standsAtBoundary && ((l.ct.uirqDue && !s.ending) || (l.ct.trapCtl.getLsbD 0 && (!l.pendingStops.isEmpty || !l.folds.isEmpty)))

/-- A pre-emption is asked for and has not begun (16 R378). -/
def Lease.preAsked (l : Lease) : Bool := match l.pre with | .byYield => true | .byWrite => true | _ => false

/-- At this boundary a pre-emption is to begin (05 R126, 16 R379). -/
def State.saveDue (s : State) : Bool :=
  let c := s.cur.ct
  s.cur.preAsked && s.standsAtBoundary && c.trapCtl.getLsbD 0

/-- CT stops at this boundary; an END whose wait is met retires before a pre-emption (16 R381). -/
def State.boundaryStop (s : State) : Bool := s.interruptDue || (s.saveDue && !s.ending)

/-! ## A CT word from acceptance to completion (05 R98) -/

/-- What step 5 of a word answers. -/
inductive CtRes where
  /-- The word is performed. It completes after `lat` mc; CT goes on at `pc`, at the earliest `next` mc from now. -/
  | done (s : State) (pc next lat : Nat)
  /-- The word is performed and completes later, when its request does; CT goes on. -/
  | sent (s : State) (pc next : Nat)
  /-- It waits in step 5. -/
  | wait (s : State)
  | trap (c : Cause) (i : List W64) (s : State)
  /-- CT has left the word in its own way (a trap return, a park, a halt, a retirement). -/
  | left (s : State)

/-- CT may go on with its word: the lease is RUNNING, or PARKED by another stream, not frozen, not being saved, and its next mc is
reached. -/
def State.ctMay (s : State) : Bool :=
  let l := s.cur
  (l.st = .running || (l.st = .parked && !s.faulted .ct)) && !l.frozen && l.ct.nextMc ≤ s.datum && !l.saving

/-- CT acts: it may, with no trap, interrupt or pre-emption to take first. -/
def State.ctRuns (s : State) : Bool := s.ctMay && s.cur.ct.trapDue.isNone && !s.boundaryStop

/-- Every earlier CT word has completed (02 R36): no request is on its way and no result outstanding. -/
def State.ctDrained (s : State) : Bool :=
  s.regsWritten && !(s.reqs.any (fun r => r.lease = s.cur.id && r.aid = s.cur.aidOf .ct && r.cmd.isNone && !r.told)) &&
  !(s.cur.doneQ.any (fun d => d.stream = .ct))

/-- Step 3: the credit check of the word's own WAIT and SIGNAL bytes, once. -/
def State.ctAccept (t : Tok) (s : State) : Except (Cause × List W64) State :=
  let l := s.cur
  if l.ct.accd then .ok s
  else match l.creditBad .ct t with
    | some (c, q) => .error (c, [l.ct.ir, trapInfo1 0 0 .ct 0, BitVec.ofNat 64 (q + l.creditOf q * 2 ^ 16), 0])
    | none => .ok (s.onCur fun l => { (l.accept .ct t).noRaces 0 with ct := { l.ct with accd := true } })

/-- Step 4: HOLD, then pops and data, then GRP; the pops are taken as the word leaves the step. -/
def State.ctWaits (t : Tok) (data : State → Bool) (s : State) : Bool × State :=
  let l := s.cur
  if l.ct.wdone then (true, s)
  else if (waitHold t.wait && !s.ctDrained) || (l.lacking .ct t.wait).isSome || !data s then (false, s)
  else
    let (ok, s) := if waitGrp t.wait then s.grpPass .ct else (true, s)
    if ok then (true, (s.takePops .ct t.wait).onCt fun c => { c with wdone := true }) else (false, s)

/-- The interlock of 05 R100. -/
def State.interlocked (s : State) (srcs : List (BitVec 5)) (d : BitVec 5) : Bool :=
  srcs.any (fun r => decide (s.datum < sget 0 r.toNat s.cur.ct.ready)) ||
  (d ≠ 0 && decide (s.datum < sget 0 d.toNat s.cur.ct.ready))

/-- A prologue counts the words it executes (11 R284). -/
def Lease.countWord (l : Lease) : Lease := if l.prologue then { l with words := l.words + 1 } else l

/-- CT goes on to another word. -/
def Ct.goOn (c : Ct) (pc nextMc : Nat) : Ct :=
  { c with pc := pc, accd := false, wdone := false, idx := 0, wait := .none, begun := false, nextMc := nextMc }

/-- The break that stood before CT's word is spent (15 R361). -/
def Lease.spent (l : Lease) : Lease := { l with brkPc := if l.brkPc = some l.ct.pc then none else l.brkPc }

/-- A word has performed in mc now; the break that stood before it is spent (15 R361). -/
def State.performed (s : State) (pc next : Nat) : State :=
  (s.onCur fun l => l.countWord.spent).onCt fun c =>
    { c.goOn pc (s.datum + next) with did := s.datum + 1 }

/-- Steps 5 and 6 by the answer of the word's meaning. -/
def ctFinish (t : Tok) : CtRes → State
  | .wait s => s
  | .left s => s
  | .trap c i s => s.ctTrap c i
  | .sent s pc next => s.performed pc next
  | .done s pc next lat =>
    let slot := s.cur.ct.pc / 8
    let op := opcodeOf s.cur.ct.ir
    let s := if lat ≤ 1 then s.signals .ct t.sig slot op s.cur.vc
      else if t.sig = 0 then s
      else
        let d : Done := { stream := .ct, sig := t.sig, slot := slot, op := op, vc := s.cur.vc, due := s.datum + lat }
        s.onCur fun l => { l with doneQ := l.doneQ ++ [d] }
    s.performed pc next

/-- The scalar registers that a word reads, with their files. -/
def State.scalarReads (s : State) (srcs : List (BitVec 5)) : List (Nat × Nat) :=
  (srcs.filter fun r => r ≠ 0).map fun r => (s.cur.ct.fileOf r.toNat, r.toNat)

/-- The handle and control registers that a word of CT reads, with their files (04 R96). -/
def ctFiles : Instr → List (Nat × Nat)
  | .hget _ _ a _ | .hmov _ _ a | .hview _ _ a _ _ => [(4, a.toNat)]
  | .hadv _ d _ _ => [(4, d.toNat)]
  | .csrr _ _ n => [(5, n.toNat)]
  | .eret _ => [(5, 1), (5, 2)]
  | .uiret _ => [(5, 2), (5, 9)]
  | _ => []

/-- Every register that the word of CT reads. -/
def State.ctReads (s : State) (srcs : List (BitVec 5)) : List (Nat × Nat) :=
  s.scalarReads srcs ++ (match decodeCt s.cur.prologue s.cur.ct.ir with | .ok i => ctFiles i | .error _ => [])

/-- Steps 5 and 6 of a word that has left step 4. -/
def ctStep5 (t : Tok) (srcs : List (BitVec 5)) (f : State → CtRes) (s : State) : State :=
  match s.readRegs .ct (s.ctReads srcs) with
  | .error s => s
  | .ok s => ctFinish t (f s)

/-- CT stands at a boundary where an asynchronous trap, an interrupt or a pre-emption is to be taken: the word acts only where it raises a
synchronous trap, which comes first (16 R369). -/
def ctTrial (t : Tok) (srcs : List (BitVec 5)) (d : BitVec 5) (data : State → Bool) (f : State → CtRes) (s : State) : State :=
  match s.ctAccept t with
  | .error (c, i) => s.ctTrap c i
  | .ok v =>
    match v.ctWaits t data with
    | (false, _) => s
    | (true, v) =>
      if v.interlocked srcs d then s
      else match f v with
        | .trap c i v => v.ctTrap c i
        | _ => s

/-- One attempt of CT at its word in this mc (05 R98). -/
def ctRun (t : Tok) (srcs : List (BitVec 5)) (d : BitVec 5) (data : State → Bool) (f : State → CtRes) (s : State) : State :=
  if !s.ctRuns then (if s.ctMay && s.cur.ct.trapDue.isNone then ctTrial t srcs d data f s else s)
  else match s.ctAccept t with
    | .error (c, i) => s.ctTrap c i
    | .ok s =>
      match s.ctWaits t data with
      | (false, s) => s
      | (true, s) => if s.interlocked srcs d then s else ctStep5 t srcs f s

/-- The meaning of a CT word whose work is f, waiting for nothing beyond its WAIT byte. -/
def ctWord (t : Tok) (srcs : List (BitVec 5)) (d : BitVec 5) (f : State → CtRes) (s : State) : Out :=
  .next (ctRun t srcs d (fun _ => true) f s)

/-- The next word's offset. -/
def State.pcNext (s : State) : Nat := s.cur.ct.pc + 8

/-- Completes in one mc and goes to the next word. -/
def CtRes.plain (s : State) : CtRes := .done s s.pcNext 1 1

/-- The word completes after `lat` mc, and CT begins its next word in the mc after that (05 R100, last row). -/
def CtRes.after (lat : Nat) (s : State) : CtRes := .done s s.pcNext (lat + 1) lat

/-- The result v, an input from outside (15 R364), readable after `lat` mc; CT goes on after `next`. -/
def CtRes.valueIn (d : BitVec 5) (v : W64) (lat next : Nat) (s : State) : CtRes :=
  match s.inputValue (s.cur.ct.pc / 8) v with
  | none => .wait s
  | some (v, s) => .done (s.wreg d v lat) s.pcNext next lat

/-- In a replay a word that acts on other agents completes at once and changes nothing (15 R364). -/
def CtRes.orReplay (s : State) (r : CtRes) : CtRes := if s.cur.replay.isSome then .plain s else r

/-- A refusal in step 5 that leaves the refused word in TRAPINFO0 (16 R368). -/
def CtRes.refuse (c : Cause) (s : State) : CtRes := .trap c [s.cur.ct.ir, trapInfo1 0 0 .ct 0, 0, 0] s

/-- A refusal that leaves an address in TRAPINFO0. -/
def CtRes.refuseAt (c : Cause) (a : W64) (s : State) : CtRes := .trap c [a, trapInfo1 0 0 .ct 0, 0, 0] s

/-- A CT access that did not pass its checks. -/
def CtRes.ofAcc (a : Access) (r : AccRes) (k : Tr → State → CtRes) (s0 : State) : CtRes :=
  match r with
  | .ok t s => k t s
  | .waits s => .wait s
  | .refuse c i race s => .trap c (if race then i else [i.getD 0 0, trapInfo1 0 0 .ct 0, 0, 0])
      s
  | .park c m tier s =>
    let wr := match a.kind with | .read => 0 | .write => 2 | .atomic => 4
    .left ((s.park .ct c ((if m then 1 else 0) + wr) a.va 0 (s0.cur.ct.pc / 8) tier none))
  | .isolate s => .left (s.isolation .ct a.va)

/-- A translation by CT with the faults of 08 R201, without a race check. -/
def ctTranslate (va : Nat) (k : AccKind) (s : State) (f : Tr → State → CtRes) : CtRes :=
  let acc : Access := { st := .ct, kind := k, scope := 0, va := va, scr := false, slot := s.cur.ct.pc / 8 }
  if 2 ^ 57 ≤ va then .refuseAt .pagePermission (BitVec.ofNat 64 va) s
  else match s.translate s.cur.part s.cur.die va k false with
    | (.ok t, s) => f t s
    | (.waits, s) => .wait s
    | (.fault .pagePermission _ _, s) => .refuseAt .pagePermission (BitVec.ofNat 64 va) s
    | (.fault .isolation _ _, s) => CtRes.ofAcc acc (.isolate s) (fun _ s => .wait s) s
    | (.fault c m tier, s) => CtRes.ofAcc acc (.park c m tier s) (fun _ s => .wait s) s

/-- CT reaches a granule that is no sync object and holds no error, without a race check (08 R208, 10 R242). -/
def ctReach (va : Nat) (k : AccKind) (s : State) (f : State → CtRes) : CtRes :=
  ctTranslate va k s fun t s =>
    if sget 0 (t.key / 64) s.marks ≠ 0 then .refuseAt .pagePermission (BitVec.ofNat 64 va) s
    else if s.badAt t then
      .trap .uncorrectable [] (s.badData { st := .ct, kind := k, scope := 0, va := va, scr := false, slot := s.cur.ct.pc / 8 } t)
    else f s

end Sys2Proof.Machine
end

