-- ==== Sys2Proof/Machine/Flags.lean ====
section
/-! DEFINITION. Flags.lean: the numeric status register NSTAT, its sticky bits and its write-one-to-clear (03 R83), and the
signed and unsigned comparisons that CT's branches and set instructions compute (05 R101, R106). -/

namespace Sys2Proof.Machine

/-- CSRW to NSTAT clears each bit written as 1 (03 R83). -/
def nstatWrite (old v : W64) : W64 := old &&& ~~~v &&& 0x1F

/-- 1 or 0, as SLT, SLTU and SLTI give it. -/
def boolWord (b : Bool) : W64 := if b then 1 else 0

def sLt (a b : W64) : Bool := decide (a.toInt < b.toInt)
def uLt (a b : W64) : Bool := decide (a.toNat < b.toNat)

/-- The six conditions of 05 R106. -/
inductive Cond where
  | eq | ne | lt | ge | ltu | geu
  deriving DecidableEq, Repr

def Cond.holds (c : Cond) (a b : W64) : Bool :=
  match c with
  | .eq => a = b
  | .ne => a ≠ b
  | .lt => sLt a b
  | .ge => !sLt a b
  | .ltu => uLt a b
  | .geu => !uLt a b

end Sys2Proof.Machine
end

