-- ==== Sys2Proof/Machine/CtArith.lean ====
section
/-! DEFINITION. CtArith.lean: CT's integer and immediate arithmetic (05 R101-R104). Results wrap modulo 2^64. -/

namespace Sys2Proof.Machine

/-- A result of two registers, readable after `lat` mc. -/
def ctReg3 (t : Tok) (d a b : BitVec 5) (lat : Nat) (f : W64 → W64 → W64) (s : State) : Out :=
  ctWord t [a, b] d (fun s => .done (s.wreg d (f (s.reg a) (s.reg b)) lat) s.pcNext 1 lat) s

/-- A result of one register. -/
def ctReg2 (t : Tok) (d a : BitVec 5) (f : W64 → W64) (s : State) : Out :=
  ctWord t [a] d (fun s => .plain (s.wreg d (f (s.reg a)) 1)) s

/-- Division and remainder: a zero divisor traps; one divide at a time (05 R100, R101). -/
def ctDivide (t : Tok) (d a b : BitVec 5) (f : W64 → W64 → W64) (s : State) : Out :=
  ctWord t [a, b] d (fun s =>
    if s.datum < s.cur.ct.divFree then .wait s
    else if s.reg b = 0 then .trap .divideByZero [s.cur.ct.ir, trapInfo1 0 0 .ct 0, s.reg a, 0] s
    else
      let s' := s.wreg d (f (s.reg a) (s.reg b)) 36
      .done (s'.onCt fun c => { c with divFree := s.datum + 36 }) s.pcNext 1 36) s

/-- High half of the signed product (05 R101). -/
def mulhS (a b : W64) : W64 := BitVec.ofInt 64 (a.toInt * b.toInt / 2 ^ 64)
/-- High half of the unsigned product. -/
def mulhU (a b : W64) : W64 := BitVec.ofNat 64 (a.toNat * b.toNat / 2 ^ 64)

/-- The shift amount b.bits(5, 0). -/
def shAmt (b : W64) : Nat := b.toNat % 64

/-- Count of leading zero bits; 64 for 0 (05 R102). -/
def clzW (a : W64) : W64 := BitVec.ofNat 64 (64 - bitLen a.toNat)
/-- Count of one bits. -/
def popcW (a : W64) : W64 := BitVec.ofNat 64 ((List.range 64).countP fun i => a.getLsbD i)

/-- Bits w − 1 to 0, sign-extended (05 R102). -/
def sextW (w : Nat) (a : W64) : W64 := BitVec.ofInt 64 (sint w a.toNat)
def zextW (w : Nat) (a : W64) : W64 := BitVec.ofNat 64 (a.toNat % 2 ^ w)

/-- IMM30 sign-extended to 64 bits (05 R103). -/
def imm30 (i : BitVec 30) : W64 := i.signExtend 64

def execCtNop (t : Tok) (s : State) : Out := ctWord t [] 0 (fun s => .plain s) s
def execAdd (t : Tok) (d a b : BitVec 5) (s : State) : Out := ctReg3 t d a b 1 (· + ·) s
def execSub (t : Tok) (d a b : BitVec 5) (s : State) : Out := ctReg3 t d a b 1 (· - ·) s
def execMul (t : Tok) (d a b : BitVec 5) (s : State) : Out := ctReg3 t d a b 3 (· * ·) s
def execMulh (t : Tok) (d a b : BitVec 5) (s : State) : Out := ctReg3 t d a b 3 mulhS s
def execMulhu (t : Tok) (d a b : BitVec 5) (s : State) : Out := ctReg3 t d a b 3 mulhU s
/-- Truncated toward zero; −2^63 / −1 gives −2^63 (05 R101). -/
def execDiv (t : Tok) (d a b : BitVec 5) (s : State) : Out := ctDivide t d a b BitVec.sdiv s
def execDivu (t : Tok) (d a b : BitVec 5) (s : State) : Out := ctDivide t d a b BitVec.udiv s
def execRem (t : Tok) (d a b : BitVec 5) (s : State) : Out := ctDivide t d a b BitVec.srem s
def execRemu (t : Tok) (d a b : BitVec 5) (s : State) : Out := ctDivide t d a b BitVec.umod s
def execAnd (t : Tok) (d a b : BitVec 5) (s : State) : Out := ctReg3 t d a b 1 (· &&& ·) s
def execOr (t : Tok) (d a b : BitVec 5) (s : State) : Out := ctReg3 t d a b 1 (· ||| ·) s
def execXor (t : Tok) (d a b : BitVec 5) (s : State) : Out := ctReg3 t d a b 1 (· ^^^ ·) s
def execShl (t : Tok) (d a b : BitVec 5) (s : State) : Out := ctReg3 t d a b 1 (fun x y => x <<< shAmt y) s
def execShr (t : Tok) (d a b : BitVec 5) (s : State) : Out := ctReg3 t d a b 1 (fun x y => x >>> shAmt y) s
def execSra (t : Tok) (d a b : BitVec 5) (s : State) : Out := ctReg3 t d a b 1 (fun x y => x.sshiftRight (shAmt y)) s
def execMin (t : Tok) (d a b : BitVec 5) (s : State) : Out := ctReg3 t d a b 1 (fun x y => if sLt y x then y else x) s
def execMax (t : Tok) (d a b : BitVec 5) (s : State) : Out := ctReg3 t d a b 1 (fun x y => if sLt x y then y else x) s
def execSlt (t : Tok) (d a b : BitVec 5) (s : State) : Out := ctReg3 t d a b 1 (fun x y => boolWord (sLt x y)) s
def execSltu (t : Tok) (d a b : BitVec 5) (s : State) : Out := ctReg3 t d a b 1 (fun x y => boolWord (uLt x y)) s
def execClz (t : Tok) (d a : BitVec 5) (s : State) : Out := ctReg2 t d a clzW s
def execPopc (t : Tok) (d a : BitVec 5) (s : State) : Out := ctReg2 t d a popcW s
def execSext (t : Tok) (d a : BitVec 5) (w : BitVec 30) (s : State) : Out := ctReg2 t d a (sextW w.toNat) s
def execZext (t : Tok) (d a : BitVec 5) (w : BitVec 30) (s : State) : Out := ctReg2 t d a (zextW w.toNat) s
def execAddi (t : Tok) (d a : BitVec 5) (imm : BitVec 30) (s : State) : Out := ctReg2 t d a (· + imm30 imm) s
def execAndi (t : Tok) (d a : BitVec 5) (imm : BitVec 30) (s : State) : Out := ctReg2 t d a (· &&& imm30 imm) s
def execOri (t : Tok) (d a : BitVec 5) (imm : BitVec 30) (s : State) : Out := ctReg2 t d a (· ||| imm30 imm) s
def execXori (t : Tok) (d a : BitVec 5) (imm : BitVec 30) (s : State) : Out := ctReg2 t d a (· ^^^ imm30 imm) s
def execShli (t : Tok) (d a : BitVec 5) (imm : BitVec 30) (s : State) : Out := ctReg2 t d a (· <<< imm.toNat) s
def execShri (t : Tok) (d a : BitVec 5) (imm : BitVec 30) (s : State) : Out := ctReg2 t d a (· >>> imm.toNat) s
def execSrai (t : Tok) (d a : BitVec 5) (imm : BitVec 30) (s : State) : Out := ctReg2 t d a (fun x => x.sshiftRight imm.toNat) s
def execSlti (t : Tok) (d a : BitVec 5) (imm : BitVec 30) (s : State) : Out :=
  ctReg2 t d a (fun x => boolWord (sLt x (imm30 imm))) s
/-- IMM32 sign-extended (05 R104). -/
def execLi (t : Tok) (d : BitVec 5) (imm : BitVec 32) (s : State) : Out :=
  ctWord t [] d (fun s => .plain (s.wreg d (imm.signExtend 64) 1)) s
/-- The low half is replaced, the high half kept. -/
def execLiwLo (t : Tok) (d : BitVec 5) (imm : BitVec 32) (s : State) : Out :=
  ctReg2 t d d (fun x => x.extractLsb' 32 32 ++ imm) s
/-- The high half is replaced, the low half kept. -/
def execLiwHi (t : Tok) (d : BitVec 5) (imm : BitVec 32) (s : State) : Out :=
  ctReg2 t d d (fun x => imm ++ x.extractLsb' 0 32) s

end Sys2Proof.Machine
end

