-- ==== Sys2Proof/Machine/CtFlow.lean ====
section
/-! DEFINITION. CtFlow.lean: branches and jumps with the target check of 05 R105, BRQ (05 R108), and the hardware loops
(14 R345, R346). -/

namespace Sys2Proof.Machine

/-- The check of a transfer's target (05 R105). -/
def targetBad (l : Lease) (t : Int) : Option Cause :=
  if t % 8 ≠ 0 then some .misaligned else if t < 0 || (l.codesize : Int) ≤ t then some .fetchBound else none

/-- A taken branch pops every loop whose body does not hold the target (14 R346). -/
def exitLoops (t : Nat) : List LoopEntry → List LoopEntry
  | [] => []
  | e :: r => if e.body ≤ t && t ≤ e.endOff then e :: r else exitLoops t r

/-- PC + 8 × OFF30 of the word's own offset. -/
def relTarget (s : State) (off : BitVec 30) : Int := (s.cur.ct.pc : Int) + 8 * off.toInt

/-- A checked transfer: f's effect, then the target, in 3 mc. -/
def transfer (tgt : Int) (f : State → State) (s : State) : CtRes :=
  match targetBad s.cur tgt with
  | some c => .refuseAt c (BitVec.ofInt 64 tgt) s
  | none => .done (f s) tgt.toNat 3 1

/-- The loops a taken JMP, branch or BRQ leaves. -/
def leaveLoops (tgt : Int) (s : State) : State := s.onCt fun c => { c with loops := exitLoops tgt.toNat c.loops }

/-- The conditional branches; a not-taken branch's target is checked too (05 R106). -/
def ctBranch (t : Tok) (a b : BitVec 5) (off : BitVec 30) (c : Cond) (s : State) : Out :=
  ctWord t [a, b] 0 (fun s =>
    let tgt := relTarget s off
    if c.holds (s.reg a) (s.reg b) then transfer tgt (leaveLoops tgt) s
    else match targetBad s.cur tgt with
      | some c => .refuseAt c (BitVec.ofInt 64 tgt) s
      | none => .plain s) s

def execBeq (t : Tok) (a b : BitVec 5) (off : BitVec 30) (s : State) : Out := ctBranch t a b off .eq s
def execBne (t : Tok) (a b : BitVec 5) (off : BitVec 30) (s : State) : Out := ctBranch t a b off .ne s
def execBlt (t : Tok) (a b : BitVec 5) (off : BitVec 30) (s : State) : Out := ctBranch t a b off .lt s
def execBge (t : Tok) (a b : BitVec 5) (off : BitVec 30) (s : State) : Out := ctBranch t a b off .ge s
def execBltu (t : Tok) (a b : BitVec 5) (off : BitVec 30) (s : State) : Out := ctBranch t a b off .ltu s
def execBgeu (t : Tok) (a b : BitVec 5) (off : BitVec 30) (s : State) : Out := ctBranch t a b off .geu s

/-- PC := PC + 8 × IMM30 (05 R107). -/
def execJmp (t : Tok) (off : BitVec 30) (s : State) : Out :=
  ctWord t [] 0 (fun s => transfer (relTarget s off) (leaveLoops (relTarget s off)) s) s

/-- The link register takes PC + 8 (05 R107). -/
def execJal (t : Tok) (d : BitVec 5) (off : BitVec 30) (s : State) : Out :=
  ctWord t [] d (fun s => transfer (relTarget s off) (fun s => s.wreg d (BitVec.ofNat 64 s.pcNext) 1) s) s

/-- The target s[A] + IMM30 is read before the link is written (05 R107). The sum is taken modulo 2^64 and read as an unsigned
offset (DESIGN CHOICE, log entry 75: the rule writes no modulus and no sign). -/
def execJr (t : Tok) (d a : BitVec 5) (imm : BitVec 30) (s : State) : Out :=
  ctWord t [a] d (fun s =>
    transfer ((s.reg a + imm30 imm).toNat : Int) (fun s => s.wreg d (BitVec.ofNat 64 s.pcNext) 1) s) s

/-- BRQ waits for a bit, checks its target, then pops the bit (05 R108). On a bad target the word's token pops stay taken, as those
of every word that traps in step 5, while the bit stays queued (DEDUCED from 05 R98 and R99, log entry 76). Resumed past step 4 on a queue
that a handler's BRQ has emptied meanwhile, it finds no bit and goes on as not taken (DESIGN CHOICE, log entry 96). -/
def execBrq (t : Tok) (q : BitVec 2) (sense : BitVec 1) (off : BitVec 30) (s : State) : Out :=
  .next (ctRun t [] 0 (fun s => sget [] q.toNat s.cur.oq ≠ []) (fun s =>
    let tgt := relTarget s off
    match targetBad s.cur tgt with
    | some c => .refuseAt c (BitVec.ofInt 64 tgt) s
    | none =>
      let bits := sget [] q.toNat s.cur.oq
      let s := s.onCur fun l => { l with oq := sset [] q.toNat bits.tail l.oq }
      if bits.head? = some (decide (sense = 1)) then .done (leaveLoops tgt s) tgt.toNat 3 1 else .plain s) s)

/-- ⌈n / d⌉ for n > 0, else 0. -/
def tripCount (n d : Int) : Nat := if n ≤ 0 then 0 else ((n + d - 1) / d).toNat

/-- Opens a counted loop (14 R345). -/
def execLoop (t : Tok) (i a : BitVec 5) (step : BitVec 12) (body : BitVec 18) (s : State) : Out :=
  ctWord t [i, a] 0 (fun s =>
    let endOff := s.cur.ct.pc + 8 * body.toNat
    let start : Int := if i = 0 then 0 else (s.reg i).toInt
    let bound := (s.reg a).toInt
    let st := step.toInt
    let trips := if 0 < st then tripCount (bound - start) st else tripCount (start - bound) (-st)
    if s.cur.codesize ≤ endOff then .refuseAt .fetchBound (BitVec.ofNat 64 endOff) s
    else if trips = 0 then .done s (endOff + 8) 3 1
    else if 4 ≤ s.cur.ct.loops.length then .refuse .illegalOperand s
    else .plain (s.onCt fun c => { c with loops := ⟨i, st, start, trips, 0, c.pc + 8, endOff⟩ :: c.loops })) s

/-- Closes the innermost loop at its end offset (14 R346). -/
def execEndl (t : Tok) (s : State) : Out :=
  ctWord t [] ((s.cur.ct.loops.head?.map (fun e => e.idx)).getD 0) (fun s =>
    match s.cur.ct.loops with
    | [] => .refuse .illegalOperand s
    | e :: r =>
      if e.endOff ≠ s.cur.ct.pc then .refuse .illegalOperand s
      else
        let k := e.done + 1
        let s := s.wreg e.idx (BitVec.ofInt 64 (e.start + k * e.step)) 1
        if k < e.trips then
          .done (s.onCt fun c => { c with loops := { e with done := k } :: r }) e.body 1 1
        else .plain (s.onCt fun c => { c with loops := r })) s

end Sys2Proof.Machine
end

