-- ==== Sys2Proof/Machine/CtHandle.lean ====
section
/-! DEFINITION. CtHandle.lean: the handle instructions HSET to HCLR (05 R115-R117), which stall while the written handle is in
use (04 R89). -/

namespace Sys2Proof.Machine

/-- A word that writes handle k, once no ring word names it (04 R89). -/
def ctHandle (t : Tok) (srcs : List (BitVec 5)) (k : BitVec 5) (f : State → Except Cause Handle) (s : State) : Out :=
  ctWord t srcs 0 (fun s =>
    if sget 0 k.toNat s.cur.inUse ≠ 0 then .wait s
    else match f s with
      | .error c => .refuse c s
      | .ok h => .plain (s.setHandle k.toNat h)) s

/-- Quarter q of the handle := s[A]. -/
def execHset (t : Tok) (d a : BitVec 5) (q : BitVec 2) (s : State) : Out :=
  ctHandle t [a] d (fun s => .ok (hPut (s.handle d.toNat) (64 * q.toNat + 63) (64 * q.toNat) (s.reg a).toNat)) s

/-- s[D] := quarter q of the handle. -/
def execHget (t : Tok) (d a : BitVec 5) (q : BitVec 2) (s : State) : Out :=
  ctWord t [] d (fun s =>
    .plain (s.wreg d (BitVec.ofNat 64 (hField (s.handle a.toNat) (64 * q.toNat + 63) (64 * q.toNat))) 1)) s

def execHmov (t : Tok) (d a : BitVec 5) (s : State) : Out := ctHandle t [] d (fun s => .ok (s.handle a.toNat)) s

/-- Moves the origin, and the scale plane by as many rows or planes (05 R116). -/
def hAdvance (h : Handle) (k : Int) (axis : Nat) : Handle :=
  let sc : Int := hScaleRow h
  let (delta, sdelta) := match axis with
    | 0 => (k, -k)
    | 1 => (k * hStride1 h, k * (sc - hStride1 h))
    | _ => (k * hStride2 h, k * ((hDim1 h : Int) * sc - hStride2 h))
  let h' := hPut h 120 64 (((hBase h : Int) + delta) % 2 ^ 57).toNat
  if fmtScaled (hFmt h) then hPut h' 223 192 (((hScaleOff h : Int) + sdelta) % 2 ^ 32).toNat else h'

def execHadv (t : Tok) (d a : BitVec 5) (axis : BitVec 2) (s : State) : Out :=
  ctHandle t [a] d (fun s => .ok (hAdvance (s.handle d.toNat) (s.reg a).toInt axis.toNat)) s

/-- The view of a handle by sel (05 R117). -/
def hView (h : Handle) (b : W64) (sel : Nat) : Except Cause Handle :=
  let x := b.toNat
  match sel with
  | 0 => .ok (hPut (hPut (hPut h 175 160 (nbits x 15 0)) 191 176 (nbits x 31 16)) 63 48 (nbits x 47 32))
  | 1 => .ok (hPut (hPut h 159 128 (nbits x 31 0)) 47 16 (nbits x 63 32))
  | 2 =>
    if hSpace h = spGlobal then .ok (hPut h 249 248 spView)
    else if hSpace h = spView then .ok (hPut h 249 248 spGlobal)
    else .error .illegalOperand
  | _ => .ok (hPut (hPut (hPut (hPut h 255 250 (nbits x 5 0)) 227 226 (nbits x 7 6)) 232 228 (nbits x 12 8)) 223 192 (nbits x 63 32))

def execHview (t : Tok) (d a b : BitVec 5) (sel : BitVec 2) (s : State) : Out :=
  ctHandle t [b] d (fun s => hView (s.handle a.toNat) (s.reg b) sel.toNat) s

def execHclr (t : Tok) (d : BitVec 5) (s : State) : Out := ctHandle t [] d (fun _ => .ok 0) s

end Sys2Proof.Machine
end

