-- ==== Sys2Proof/Machine/CtIssue.lean ====
section
/-! DEFINITION. CtIssue.lean: placing words into the rings: ISSUE, ISSUER and the placement event (05 R118-R120), with the
push-time checks of 02 R51, the REP body rules of 09 R234 and the in-use counts of 04 R89. -/

namespace Sys2Proof.Machine

/-! ## Rings -/

def Lease.stream (l : Lease) (st : Stream) : StreamState :=
  match st with | .ct => {} | .ld => l.ld | .cp => l.cp | .sd => l.sd
def Lease.setStream (l : Lease) (st : Stream) (x : StreamState) : Lease :=
  match st with | .ct => l | .ld => { l with ld := x } | .cp => { l with cp := x } | .sd => { l with sd := x }
def State.onStream (s : State) (st : Stream) (f : StreamState → StreamState) : State :=
  s.onCur fun l => l.setStream st (f (l.stream st))
def State.onRing (s : State) (st : Stream) (f : Ring → Ring) : State := s.onStream st fun x => { x with ring := f x.ring }

/-- The word in a ring slot; ring words lie in the window (11 R262). -/
def State.ringWord (s : State) (st : Stream) (slot : Nat) : W64 :=
  BitVec.ofNat 64 (readLe s.mem (s.cur.winKey ((s.cur.stream st).ring.base + 8 * slot)) 8)

/-! ## The handles a ring word names (04 R89) -/

/-- Adds a handle number once. -/
def consHandle (b : Bool) (h : BitVec 4) (r : List Nat) : List Nat := if b && !r.contains h.toNat then h.toNat :: r else r

/-- DST of an array product names a tensor through G (07 R170). -/
def dstTensor (f : BitVec 8) : Bool := f.getLsbD 6 && f.extractLsb' 1 2 = (0 : BitVec 2)

/-- Handle numbers that a ring word of stream st names. -/
def namedHandles (st : Stream) (i : Instr) : List Nat :=
  let two (dh sh : BitVec 4) (dq : BitVec 1) (r : List Nat) : List Nat :=
    consHandle (!(dq = 1 && st = .ld)) dh (consHandle (!(dq = 1 && st = .sd)) sh r)
  match i with
  | .copy _ dh sh _ => two dh sh 0 []
  | .copyDq _ dh sh _ => two dh sh 1 []
  | .copyp _ dh sh xh dq _ => two dh sh dq [xh.toNat]
  | .gath _ dh sh xh dq _ _ => two dh sh dq [xh.toNat]
  | .scat _ dh sh xh dq _ => two dh sh dq [xh.toNat]
  | .pref _ sh _ | .flush _ sh _ | .inval _ sh _ | .dcmpf _ sh _ => [sh.toNat]
  | .atomv _ dh sh dq _ _ => two dh sh dq []
  | .rread _ dh sh dq _ => two dh sh dq []
  | .rwrite _ dh sh dq _ => two dh sh dq []
  | .rwriteWin _ dh sh dq _ => two dh sh dq []
  | .ratom _ dh sh xh _ _ _ _ fetch => consHandle (fetch = 1) dh (consHandle true sh [xh.toNat])
  | .kvget _ xh _ _ _ | .kvput _ xh _ _ _ => [xh.toNat]
  | .job _ sh _ _ => [sh.toNat]
  | .outq _ sh _ m _ => consHandle (m ≠ 0) sh []
  | .wlapp _ dh sh _ _ => two dh sh 0 []
  | .wltake _ dh sh _ _ _ _ => two dh sh 0 []
  | .wlseal _ sh _ _ => [sh.toNat]
  | .mxld _ g _ _ => [g.toNat]
  | .mxmul _ h g _ f _ | .mxlut _ h g _ f _ => consHandle (dstTensor f) g [h.toNat]
  | .mxbs _ h g _ _ _ => [g, g + 1, g + 2].foldr (consHandle true) [h.toNat]
  | .mxdrain _ g _ f _ => consHandle (dstTensor f) g []
  | .mxcfg _ h imm => consHandle (imm.toNat / 2 ^ 16 ≠ 3) h []
  | .selk _ h g _ _ => consHandle true h (consHandle true g [(g + 1).toNat])
  | .vfrs _ _ h _ | .vld _ _ h _ _ | .vst _ _ h _ _ | .cpWlapp _ _ h _ _ => [h.toNat]
  | _ => []

def Lease.useHandles (l : Lease) (hs : List Nat) : Lease :=
  { l with inUse := hs.foldl (fun u h => sset 0 h (sget 0 h u + 1) u) l.inUse }
def Lease.freeHandles (l : Lease) (hs : List Nat) : Lease :=
  { l with inUse := hs.foldl (fun u h => sset 0 h (sget 0 h u - 1) u) l.inUse }

/-! ## Placement -/

/-- WAIT and SIGNAL of a word. -/
def isRep : Instr → Option Nat
  | .lsRep _ _ len | .cpRep _ _ len => some len.toNat
  | _ => none

/-- The push-time refusal of word w for stream st, in the order of 02 R52; a body word of a REP with tokens, or that is a REP,
is refused (09 R234). -/
def pushCheck (l : Lease) (st : Stream) (w : W64) : Except (Cause × W64) Instr :=
  match decodeChecked l.vregs st w with
  | .error c => .error (c, 0)
  | .ok i =>
    let t := tokOf w
    if (l.stream st).ring.bodyLeft ≠ 0 && (t.wait.toNat % 64 ≠ 0 || t.sig.toNat % 64 ≠ 0 || (isRep i).isSome) then
      .error (.illegalOperand, 0)
    else match l.creditBad st t with
      | some (c, q) => .error (c, BitVec.ofNat 64 (q + l.creditOf q * 2 ^ 16))
      | none => .ok i

/-- The break bit of the ring word that CT places: that of an inline word of an ISSUE, or of an ISSUER (15 R360). -/
def State.placedBreak (s : State) : Bool :=
  let c := s.cur.ct
  let w := if opcodeOf c.ir = 0x38 then c.pc / 8 + c.idx + 1 else c.pc / 8
  s.targeted && s.breakBit (2 * w + 1)

/-- Places an accepted word at the ring's tail. -/
def State.place (s : State) (st : Stream) (w : W64) (i : Instr) : State :=
  let r := (s.cur.stream st).ring
  let b := s.placedBreak
  let k := s.cur.winKey (r.base + 8 * r.tail)
  let s := { s with mem := writeLe s.mem k w.toNat 8 }
  let s := s.onCur fun l => (l.accept st (tokOf w)).useHandles (namedHandles st i)
  s.onRing st fun r =>
    { r with tail := (r.tail + 1) % r.slots, count := r.count + 1, brk := sset false r.tail b r.brk,
             bodyLeft := match isRep i with | some n => n | none => r.bodyLeft - 1 }

/-- One iteration of 05 R118: none while the ring is full. -/
def placeWord (s : State) (st : Stream) (w : W64) (idx : Nat) : Option (Except (Cause × List W64) State) :=
  let r := (s.cur.stream st).ring
  if r.slots ≤ r.count then none
  else match pushCheck s.cur st w with
    | .error (c, i2) => some (.error (c, [w, trapInfo1 0 1 st idx, i2, 0]))
    | .ok i => some (.ok (s.place st w i))

/-- A word is refused at push: the trap is taken on the ISSUE or ISSUER (02 R51), which waits for TE = 1 with the word unplaced (16 R369;
DEDUCED, log entry 95). -/
def pushRefused (c : Cause) (info : List W64) (s : State) : CtRes :=
  if s.cur.ct.trapCtl.getLsbD 0 then .trap c info s else .wait s

/-- ISSUE's work in one mc: the word of index IDX is placed, and after the last one CT goes on behind the block. TRAPINFO0 of its
FETCH_BOUND is the offset behind the block (DEDUCED, log entry 77: 05 R118 names none). -/
def issueWork (tgt : BitVec 2) (n : BitVec 12) (s : State) : CtRes :=
  let st := Stream.ofIndex tgt.toNat
  let pc := s.cur.ct.pc
  let after := pc + 8 * (n.toNat + 1)
  let i := s.cur.ct.idx
  if s.cur.codesize < after then .refuseAt .fetchBound (BitVec.ofNat 64 after) s
  else if n.toNat ≤ i then .done s after 1 1
  else
    let w := sget 0 (pc / 8 + i + 1) s.cur.code
    match placeWord s st w i with
    | none => .wait s
    | some (.error (c, info)) => pushRefused c info s
    | some (.ok s) => .wait (s.onCt fun c => { c with idx := i + 1, did := s.datum + 1 })

/-- ISSUER's work: the word s[A] is placed. -/
def issuerWork (tgt : BitVec 2) (a : BitVec 5) (s : State) : CtRes :=
  match placeWord s (Stream.ofIndex tgt.toNat) (s.reg a) 0 with
  | none => .wait s
  | some (.error (c, info)) => pushRefused c info s
  | some (.ok s) => .plain s

/-- The placements take one mc each (05 R100, R118). -/
def execIssue (t : Tok) (tgt : BitVec 2) (n : BitVec 12) (s : State) : Out := ctWord t [] 0 (issueWork tgt n) s

/-- One word from a register (05 R119). -/
def execIssuer (t : Tok) (tgt : BitVec 2) (a : BitVec 5) (s : State) : Out :=
  ctWord t [a] 0 (issuerWork tgt a) s

/-- A slot of a full ring came free: CT's stalled ISSUE or ISSUER goes on placing (05 R120). -/
def execRingPlacement (l : Nat) (s : State) : Out :=
  .next (onLease l s fun s =>
    if !s.cur.ct.wdone then s
    else match decodeCt false s.cur.ct.ir with
      | .ok (.issue t tgt n) => ctRun t [] 0 (fun _ => true) (issueWork tgt n) s
      | .ok (.issuer t tgt a) => ctRun t [a] 0 (fun _ => true) (issuerWork tgt a) s
      | _ => s)

end Sys2Proof.Machine
end

