-- ==== Sys2Proof/Machine/Fabric.lean ====
section
/-! DEFINITION. Fabric.lean: requests that leave the package (17 R392-R394): the peer that serves them, the numbers by which their
answers return, and the data of remote pages (08 R192, R193). -/

namespace Sys2Proof.Machine

/-- A result register is outstanding until its request answers. -/
def never : Nat := 2 ^ 64

/-- The request numbers, oldest first. -/
def State.addReq (s : State) (r : Req) : State := { s with reqs := s.reqs ++ [{ r with num := s.nextReq }], nextReq := s.nextReq + 1 }

/-- The package of a place offset; none outside the pod or without a peer entry or a station (17 R393, R394). -/
def State.farPkg (s : State) (dp : Int) : Option (Nat × Nat) :=
  let p := (s.pod : Int) + dp
  if p < 0 || 1023 < p || !s.stationUp s.cur.die then none
  else ((s.part s.cur.part).peerOf p.toNat).map fun e => (p.toNat, nbits e 47 42)

/-- Kinds of a message on the fabric: 0 read, 1 write, 2-10 AMO by operation, 11 CAS, 12 window write, 13 page read, 14 page
write, 15 window close; 16 read result, 17 write acknowledged, 18 atomic result, 19 refused with a cause, 20 page data, 21 page
acknowledged, 22 result and 23 refusal of a RATOM request. 32 more: the address is an HBM-space address of the far package with
its key slot above bit 48; 64 more: an atomic that uses no window (DESIGN CHOICE, log entry 19). -/
def State.sendFabric (s : State) (pkg rp aid kind n va data cmp : Nat) (bs : List Byte) : State :=
  { s with out := s.out ++ [.fabric pkg rp s.cur.part aid kind n va data cmp bs] }

/-- The package and partition that serve a remote page that has translated (08 R192, 17 R394). -/
def State.leafPkg (s : State) (t : Tr) : Nat × Nat := (s.leafPeer s.cur.part t.leaf).getD (s.pod, 64)

/-- The address a request to a remote page carries. -/
def Tr.farAddr (t : Tr) : Nat := t.slot * 2 ^ 48 + t.pa

/-- Where `farBuf` holds a granule of a remote page. -/
def Tr.farKey (t : Tr) : Nat := nbits t.leaf.toNat 11 1 * 2 ^ 48 + t.pa / 64 * 64

/-- n bytes of a remote page inside one granule, if they have come. -/
def State.farPeek (s : State) (t : Tr) (n : Nat) : Option (List Byte) :=
  (s.farBuf.find? fun b => b.1 = s.cur.id && b.2.1 = t.farKey).map fun b => (b.2.2.drop (t.pa % 64)).take n

def State.farForget (s : State) (t : Tr) : State :=
  { s with farBuf := s.farBuf.filter fun b => !(b.1 = s.cur.id && b.2.1 = t.farKey) }

/-- The longest naturally aligned request from address va that covers no more than n bytes: of 64 bytes at most (17 R392). -/
def fabricLen (va n : Nat) : Nat :=
  match [64, 32, 16, 8, 4, 2].find? fun k => va % k = 0 && k ≤ n with
  | some k => k
  | none => Nat.min n 1

/-- Asks for the granule of va, which lies in a remote page, once. -/
def State.farAsk (s : State) (st : Stream) (t : Tr) (va : Nat) : State :=
  let l := s.cur
  if s.reqs.any fun r => r.lease = l.id && r.size = 64 && r.va = t.farKey then s
  else
    let (pkg, rp) := s.leafPkg t
    let r : Req :=
      { num := 0, lease := l.id, aid := l.aidOf st, part := l.part, die := l.die, kind := .load, va := t.farKey, key := 0, size := 64,
        atHome := false, due := never, virt := some (va / 64 * 64) }
    let n := s.nextReq
    (s.addReq r).sendFabric pkg rp (l.aidOf st) 32 n (t.slot * 2 ^ 48 + t.pa / 64 * 64) 64 0 []

/-- The translated location of a byte of the lease's partition, remote pages included. -/
def State.trOf (s : State) (va : Nat) : Option Tr :=
  match s.walk s.cur.part va with
  | .error _ => none
  | .ok (e, shift) =>
    let pa := nbits e.toNat 47 16 * 2 ^ 16 + va % 2 ^ shift
    some ⟨eTier e, pa, physKey s.cur.part (eTier e) pa, nbits e.toNat 54 48, e⟩

/-- mc from the request of a granule of global memory to its data: translation and the latency of its line (08 R196); the data of a
remote page come with their answer. -/
def State.globalMc (s : State) (va : Nat) : Nat :=
  match s.trOf va with
  | some t => s.transMc s.cur.part s.cur.die va + (if t.tier = 3 then 0 else s.lineMc s.cur.die t.key)
  | none => 0

/-- The n bytes from va, those of remote pages as they came. -/
def State.rowData (s : State) (va n : Nat) : List Byte :=
  (List.range n).map fun i =>
    match s.trOf (va + i) with
    | none => 0
    | some t => if t.tier = 3 then ((s.farPeek t 1).getD []).getD 0 0 else (s.unitRead s.cur.part (va + i) 1).getD 0 0

/-- Forgets the remote granules of the n bytes from va. -/
def State.forgetRow (s : State) (va n : Nat) : State :=
  (List.range ((va % 64 + n + 63) / 64)).foldl (fun s k =>
    match s.trOf (va / 64 * 64 + 64 * k) with
    | some t => if t.tier = 3 then s.farForget t else s
    | none => s) s

end Sys2Proof.Machine
end

