-- ==== Sys2Proof/Machine/CtMem.lean ====
section
/-! DEFINITION. CtMem.lean: LDS, STS, AMO and CAS (05 R110-R114) and the arrival of their requests at the home (08 R196). The
access is translated in step 5; the bytes are read or written, and races found, when the request arrives. -/

namespace Sys2Proof.Machine

/-- The read-modify-write operations of 05 R112 on size-byte values. -/
def amoOp (op size old v : Nat) : Nat :=
  let m := 2 ^ (8 * size)
  let smin (a b : Nat) : Nat := if sint (8 * size) a ≤ sint (8 * size) b then a else b
  let smax (a b : Nat) : Nat := if sint (8 * size) a ≤ sint (8 * size) b then b else a
  match op with
  | 0 => (old + v) % m
  | 1 => old &&& v
  | 2 => old ||| v
  | 3 => old ^^^ v
  | 4 => smin old v
  | 5 => smax old v
  | 6 => Nat.min old v
  | 7 => Nat.max old v
  | _ => v

/-- A size-byte value extended to 64 bits. -/
def extendTo (size : Nat) (sx : Bool) (v : Nat) : W64 :=
  if sx then BitVec.ofInt 64 (sint (8 * size) v) else BitVec.ofNat 64 v

/-- mc from issue to result of a hit at the home, h hops away (08 R196). -/
def resultMc (h : Nat) : Nat := 48 + 40 * h

/-- STS words of the lease in focus that have not completed (05 R111; 10 R239). -/
def State.storesOut (s : State) : Nat :=
  (s.reqs.filter fun r => r.lease = s.cur.id && r.kind = .store && r.cmd.isNone && !r.told).length +
  (s.cur.doneQ.filter fun d => d.stream = .ct && d.op = 0x2F && s.datum < d.due).length

/-- The mc at which a CT request reaches its home: behind the earlier requests of its lease to the same granule (05 R114), and behind the
completed stores that it must follow (10 R239). -/
def State.homeDue (s : State) (read : Bool) (tr : Tr) : Nat :=
  let mine := s.reqs.filter fun r => r.lease = s.cur.id && r.cmd.isNone && r.atHome && !r.back && r.key / 64 = tr.key / 64
  mine.foldl (fun m r => Nat.max m r.due)
    (Nat.max (s.datum + arriveMc (s.hopsFor read s.cur.die tr.key)) ((s.ahead tr).getD 0))

/-- The mc in which an STS completes, where that is before its home performs it (10 R239): with parcel scope in the next, the plot's port
taking it at once; with die scope and a home on another die 24 mc on, at the die's egress (DESIGN CHOICE, log entry 14). -/
def State.storeTold (s : State) (scope : Nat) (tr : Tr) : Option Nat :=
  if scope = 0 then some (s.datum + 1)
  else if scope = 1 && (tr.tier = 3 || keyHome tr.key ≠ s.cur.die) then some (s.datum + arriveMc 0)
  else none

/-- A race of this access must be refused at the word (10 R260): CT waits for the check that its home makes. -/
def State.asksHome (s : State) (tr : Tr) : Bool :=
  s.cur.race = 2 && !s.cur.prologue && s.clockStore && tr.tracked && s.cur.replay.isNone

/-- The request of a CT memory word leaves, with its destination register outstanding. A word whose race must be refused waits for its
home; any other goes on with the next word. -/
def sendCt (t : Tok) (r : Req) (tr : Tr) (d : BitVec 5) (s : State) : CtRes :=
  let far := tr.tier = 3
  let told := if r.kind = .store && !s.asksHome tr then s.storeTold r.scope tr else none
  let q := s.part s.cur.part
  let x := q.agent r.aid
  let r := { r with asks := s.asksHome tr, told := told.isSome, clk := q.gen * 2 ^ 16 + x.count,
                    due := if far then never else s.homeDue (r.kind = .load) tr }
  let n := s.nextReq
  let s := s.addReq r
  let s := match told with
    | none => s
    | some due =>
      let s := if tr.tracked && s.cur.race ≠ 0 && s.clockStore && !s.cur.prologue then s.setAgent s.cur.part r.aid { x with dirty := true } else s
      s.onCur fun l => { l with doneQ := l.doneQ ++ [{ stream := .ct, sig := t.sig, slot := r.slot, op := r.opc, due := due }] }
  let s := if d = 0 then s else s.onCt fun ct => { ct with ready := sset 0 d.toNat never ct.ready }
  let s := if far then s.sendFabric (s.leafPkg tr).1 (s.leafPkg tr).2 r.aid
      (32 + (match r.kind with | .load => 0 | .store => 1 | .amo => 66 + r.op | _ => 75)) n tr.farAddr
      (match r.kind with | .load => r.size | _ => r.data) r.cmp (match r.kind with | .load => [] | _ => leBytes r.data r.size) else s
  if r.asks then .wait (s.onCt fun c => { c with wait := .sent }) else .sent s s.pcNext 1

/-- Before its access, a CT memory word translates: a miss of the plot's TLB takes the time of the shared TLB or the walk, during which CT
stays at the word (18 R406). None once the translation stands. -/
def ctWalks (va : Nat) (s : State) : Option State :=
  match s.cur.ct.wait with
  | .walk t => if s.datum < t then some s else none
  | _ =>
    let mc := s.transMc s.cur.part s.cur.die va
    if mc = 0 || s.cur.replay.isSome then none
    else
      let r := s.lookup s.cur.part s.cur.die va
      some (if r.1.isNone then r.2 else r.2.onCt fun c => { c with wait := .walk (s.datum + mc) })

/-- The path of a CT memory word: effective address, alignment, translation, checks, and the request to its home. In a replay it goes nowhere
(15 R364). -/
def ctMemory (t : Tok) (srcs : List (BitVec 5)) (d a : BitVec 5) (c : BitVec 5) (imm : BitVec 16) (k : AccKind) (kind : ReqKind)
    (op : Nat) (val cmp : State → Nat) (s : State) : Out :=
  ctWord t srcs d (fun s =>
    let size := 2 ^ WellFormed.memSz c
    let ea := s.reg a + imm.signExtend 64
    if nbits ea.toNat 63 57 ≠ 0 then .refuseAt .pagePermission ea s
    else if ea.toNat % size ≠ 0 then .refuseAt .misaligned ea s
    else if s.cur.ct.wait = .sent || (kind = .store && 8 ≤ s.storesOut) then .wait s
    else match ctWalks ea.toNat s with
    | some s => .wait s
    | none =>
      let acc : Access :=
        { st := .ct, kind := k, scope := (WellFormed.memScope c).toNat, va := ea.toNat, scr := false, slot := s.cur.ct.pc / 8 }
      CtRes.ofAcc acc (s.accessAt true acc false) (fun tr s =>
        let l := s.cur
        let r : Req :=
          { num := 0, lease := l.id, aid := l.aidOf .ct, part := l.part, die := l.die, kind := kind, va := ea.toNat,
            tier := tr.tier, pa := tr.pa, key := tr.key, slotKey := tr.slot, leaf := tr.leaf, size := size, sx := WellFormed.memSx c,
            dreg := d.toNat, data := val s, cmp := cmp s, op := op, scope := acc.scope, sig := t.sig, slot := acc.slot,
            opc := opcodeOf l.ct.ir, virt := some ea.toNat, atHome := tr.tier ≠ 3 && l.replay.isNone }
        if l.replay.isNone then sendCt t r tr d s
        else if kind = .store then .plain s
        else
          let s := s.addReq { r with due := never }
          .sent (if d = 0 then s else s.onCt fun ct => { ct with ready := sset 0 d.toNat never ct.ready }) s.pcNext 1) s) s

def execLds (t : Tok) (d a : BitVec 5) (c : BitVec 5) (imm : BitVec 16) (s : State) : Out :=
  ctMemory t [a] d a c imm .read .load 0 (fun _ => 0) (fun _ => 0) s

def execSts (t : Tok) (a b : BitVec 5) (c : BitVec 5) (imm : BitVec 16) (s : State) : Out :=
  ctMemory t [a, b] 0 a c imm .write .store 0 (fun s => (s.reg b).toNat % 2 ^ (8 * 2 ^ WellFormed.memSz c)) (fun _ => 0) s

def execAmo (t : Tok) (d a b : BitVec 5) (c : BitVec 5) (m : BitVec 4) (imm : BitVec 16) (s : State) : Out :=
  ctMemory t [a, b] d a c imm .atomic .amo m.toNat (fun s => (s.reg b).toNat % 2 ^ (8 * 2 ^ WellFormed.memSz c)) (fun _ => 0) s

/-- The expected value is s[D] (05 R113). -/
def execCas (t : Tok) (d a b : BitVec 5) (c : BitVec 5) (imm : BitVec 16) (s : State) : Out :=
  ctMemory t [a, b, d] d a c imm .atomic .cas 0 (fun s => (s.reg b).toNat % 2 ^ (8 * 2 ^ WellFormed.memSz c))
    (fun s => (s.reg d).toNat % 2 ^ (8 * 2 ^ WellFormed.memSz c)) s

/-- What a request does at its home: the bytes afterwards, when it writes, for the old value. -/
def Req.newValue (r : Req) (old : Nat) : Option Nat :=
  match r.kind with
  | .load => none
  | .store => some r.data
  | .amo => some (amoOp r.op r.size old r.data)
  | .cas => if old = r.cmp then some r.data else none
  | .affp => none

/-- The group of lease l stands stopped (15 R355). -/
def State.stoppedAt (s : State) (l : Nat) : Bool := match s.lease? l with | some l => l.frozen | none => false
def State.hold (s : State) (x : HeldInput) : State := { s with heldIn := s.heldIn ++ [x] }

/-- The result of a request is taken by the lease's CT: the register is written and the word completes (05 R111-R113). -/
def State.takeAnswer (s : State) (r : Req) (old mc : Nat) : State :=
  asLease r.lease s fun s =>
    let (v, s) := if r.kind = .store then (0, s) else (s.inputValue r.slot (extendTo r.size r.sx old)).getD (0, s)
    let s := if r.kind = .store || r.dreg = 0 then s
      else s.onCt fun c => { c.setReg r.dreg v with ready := sset 0 r.dreg mc c.ready }
    if r.told || (r.kind = .store && r.sig = 0) then s
    else
      let d : Done := { stream := .ct, sig := r.sig, slot := r.slot, op := r.opc, vc := s.cur.vc, due := mc }
      s.onCur fun l => { l with doneQ := l.doneQ ++ [d] }

/-- The result of a request reaches the lease's CT, which takes it once it does not stand stopped (15 R355). -/
def State.answer (s : State) (r : Req) (old mc : Nat) : State :=
  if s.stoppedAt r.lease then s.hold (.answer r old mc) else s.takeAnswer r old mc

/-- The translated location of a request. -/
def Req.tr (r : Req) : Tr := { tier := r.tier, pa := r.pa, key := r.key, slot := r.slotKey, leaf := r.leaf }

/-- The access that a CT request makes. -/
def Req.access (r : Req) : Access :=
  { st := .ct, kind := match r.kind with | .load => .read | .store => .write | _ => .atomic, scope := r.scope, va := r.va,
    scr := false, slot := r.slot, req := some r.num, clk := if r.told then some r.clk else none }

/-- The race check and the counts of an access of a lease that was early, as it arrives at its home (10 R253): the state, or a race that
must be refused (10 R260). -/
def State.homeArrival (s : State) (lease : Nat) (a : Access) (t : Tr) : Except (Cause × List W64 × State) State :=
  if (s.lease? lease).isNone then .ok s
  else
    let back (s' : State) : State := s'.focus s.cur.id
    match (s.focus lease).accessHome a t with
    | .ok s' => .ok (back (if a.req.isSome then s'.onCur fun l => l.noRaces a.raceKey else s'))
    | .error (c, i, s') => .error (c, i, back s')

/-- A request arrives at its home. -/
def Req.arrives (r : Req) (s : State) : Except (Cause × List W64 × State) State := s.homeArrival r.lease r.access r.tr

/-- mc from a request's issue to its result (08 R196). -/
def Req.resultMc (r : Req) (s : State) : Nat := if r.kind = .load then s.lineMc r.die r.key else s.homeMc r.die r.key

/-- A request takes effect at its home when it arrives there and its check passes; its result is on the way back until the latency of its
line has run (08 R196, 10 R239). `z` is the state before its check. -/
def homePerform (r : Req) (z s : State) : State :=
  let mc := z.datum + (r.resultMc z - arriveMc (z.hopsFor (r.kind = .load) r.die r.key))
  let link := isHostKey r.key && z.lineOf r.key = 0
  let left := if r.kind = .store then s.reqs.filter (fun x => x.num ≠ r.num)
    else s.reqs.map (fun x => if x.num = r.num then { x with back := true, due := mc, onLink := link } else x)
  let s := { s with reqs := left }
  let (bs, s) := s.readTr r.tr r.size false
  let old := leNat bs
  let s := match r.newValue old with
    | some v => s.writeTr r.tr (leBytes v r.size) false
    | none => s
  s.answer r old (if r.kind = .store then s.datum else mc)

/-- A CT that waits for a request's check goes on with the next word. -/
def Req.goesOn (r : Req) (s : State) : State :=
  if !r.asks then s else if s.stoppedAt r.lease then s.hold (.goOn r.lease) else asLease r.lease s fun s => s.performed s.pcNext 1

/-- A request whose race is refused is not performed, and CT traps on its word (10 R260). -/
def Req.refused (r : Req) (c : Cause) (i : List W64) (s : State) : State :=
  asLease r.lease { s with reqs := s.reqs.filter fun x => x.num ≠ r.num } fun s =>
    let s := if r.dreg = 0 then s else s.onCt fun ct => { ct with ready := sset 0 r.dreg s.datum ct.ready }
    if s.cur.frozen then s.hold (.trap s.cur.id c i) else s.ctTrap c i

/-- AFFP at its record's home: the record is updated or its prefetch started, and the word completes (13 R338). -/
def affpHome (r : Req) (s : State) : State :=
  let s := { s with reqs := s.reqs.filter fun x => x.num ≠ r.num }
  let s := if r.op = 0 then affTouch r.part r.va r.cmp r.data s else affPrefetch r.part r.va r.cmp s
  if s.stoppedAt r.lease then s.hold (.done r.lease 0 []) else asLease r.lease s fun s => ctFinish (tokOf s.cur.ct.ir) (.after 0 s)

/-- A request at its home: an uncorrectable error that has arisen there halts the partition (08 R208); a race is refused or recorded; else it
is performed. -/
def homeEffect (r : Req) (s : State) : State :=
  if s.badAt r.tr then asLease r.lease s fun s => s.badData r.access r.tr
  else if r.kind = .affp then affpHome r s
  else match r.arrives s with
    | .ok x => r.goesOn (homePerform r s x)
    | .error (c, i, x) => r.refused c i x

/-- Results that have come back (10 R239). -/
def State.settleReqs (s : State) : State := { s with reqs := s.reqs.filter (fun r => !(r.back && r.due ≤ s.datum)) }

/-- The access of a CT in a replay: it goes nowhere, and its value comes from the log (15 R364). -/
def State.replays (s : State) (r : Req) : Bool :=
  match s.lease? r.lease with
  | some l => l.replay.isSome && r.cmd.isNone
  | none => false

/-- The request with number k arrives at its home. -/
def execHomeAccess (k : Nat) (s : State) : Out :=
  .next (match s.reqs.find? (fun r => r.num = k && !r.back && (r.atHome || s.replays r)) with
    | none => s
    | some r =>
      if r.atHome then homeEffect r s
      else ({ s with reqs := s.reqs.filter (fun x => x.num ≠ k) }).answer r 0 s.datum)

end Sys2Proof.Machine
end

