-- ==== Sys2Proof/Machine/CtSys.lean ====
section
/-! DEFINITION. CtSys.lean: the system instructions TRAP, ERET, TREN, UIRET, CSRR and CSRW with every control register of 04 R93
(05 R121-R125), the counter and clock reads (14 R348, R349, R351), TMARK of CT (15 R363), and the entry and delivery events
(16 R369, 05 R124). -/

namespace Sys2Proof.Machine

/-- LEASEINFO (04 R95). -/
def Lease.info (l : Lease) : W64 :=
  BitVec.ofNat 64 (l.accrows * 2 ^ 31 + l.vregs * 2 ^ 24 + l.die * 2 ^ 21 + l.col * 2 ^ 19 + l.row * 2 ^ 17 +
    (if l.ori then 2 ^ 16 else 0) + l.shape * 2 ^ 12 + l.aid)

/-- HUSEi: four 16-bit in-use counts (04 R93). -/
def Lease.huse (l : Lease) (i : Nat) : W64 :=
  BitVec.ofNat 64 ((List.range 4).foldl (fun x j => x + sget 0 (4 * i + j) l.inUse % 65536 * 2 ^ (16 * j)) 0)

/-- ACCWINi: the value written, or the one of the grant (04 R92). -/
def Lease.accWin (l : Lease) (i : Nat) : W64 :=
  sget (BitVec.ofNat 64 (32 * i + (if 32 * (i + 1) ≤ l.accrows then 32 * 2 ^ 9 else 0))) i l.ct.accwin
def winBase (w : W64) : Nat := nbits w.toNat 8 0
def winRows (w : W64) : Nat := nbits w.toNat 18 9

/-- The value a CSRR reads; none for a number that is not in the map (04 R93). -/
def State.csr (s : State) (n : Nat) : Option W64 :=
  let l := s.cur
  let c := l.ct
  match n with
  | 0x000 => some c.trapCause
  | 0x001 => some c.trapPc
  | 0x002 => some c.trapCtl
  | 0x004 => some c.info0
  | 0x005 => some c.info1
  | 0x006 => some c.info2
  | 0x007 => some c.info3
  | 0x008 => some c.uivec
  | 0x009 => some c.uipc
  | 0x010 => some (BitVec.ofNat 64 l.race)
  | 0x011 => some (s.firstOf 16 l).ct.vcmode
  | 0x012 => some c.nstat
  | 0x013 => some l.info
  | 0x014 => some c.cerr
  | 0x015 => some (BitVec.ofNat 64 l.kernel)
  | _ =>
    if 0x018 ≤ n && n < 0x01C then some (l.huse (n - 0x018))
    else if 0x020 ≤ n && n < 0x030 then some (l.accWin (n - 0x020))
    else none

/-- CP has issued every word placed in its ring, but for a word at which it stands refused at issue and those behind it (04 R94, 22 R419). -/
def Lease.cpDrained (l : Lease) : Bool :=
  l.cp.ring.count = 0 || (match l.cp.stop with | some r => !r.late | none => false)

/-- What CSRW does to a register (04 R93, R94; 05 R125): none while it waits for CP's ring. -/
def State.csrWrite (s : State) (n : Nat) (v : W64) : Option (Except Cause State) :=
  let l := s.cur
  match n with
  | 0x001 => some (.ok (s.onCt fun c => { c with trapPc := v }))
  | 0x002 => some (.ok (s.onCt fun c => { c with trapCtl := (c.trapCtl &&& 0xC) ||| (v &&& 3) }))
  | 0x008 => some (.ok (s.onCt fun c => { c with uivec := v }))
  | 0x009 => some (.ok (s.onCt fun c => { c with uipc := v }))
  | 0x011 =>
    if l.chin.isSome then some (.error .privileged)
    else if !l.cpDrained then none
    else some (.ok (s.onCt fun c => { c with vcmode := v &&& 1 }))
  | 0x012 => some (.ok (s.onCt fun c => { c with nstat := nstatWrite c.nstat v ||| c.nstatNow }))
  | _ =>
    if 0x020 ≤ n && n < 0x030 then
      let w := v &&& 0x7FFFF
      if l.accrows < winBase w + winRows w then some (.error .illegalOperand)
      else if !l.cpDrained then none
      else some (.ok (s.onCt fun c => { c with accwin := sput (n - 0x020) w c.accwin }))
    else some (.error .illegalOperand)

def execCsrr (t : Tok) (d : BitVec 5) (num : BitVec 16) (s : State) : Out :=
  ctWord t [] d (fun s => match s.csr num.toNat with
    | some v => .plain (s.wreg d v 1)
    | none => .refuse .illegalOperand s) s

def execCsrw (t : Tok) (a : BitVec 5) (num : BitVec 16) (s : State) : Out :=
  ctWord t [a] 0 (fun s => match s.csrWrite num.toNat (s.reg a) with
    | none => .wait s
    | some (.error c) => .refuse c s
    | some (.ok s) => .plain (s.onCt fun c => c.rewritten 5 num.toNat)) s

/-- TRAP_INSTR with TRAPPC naming the following word (05 R121). Its own pushes are made as the word is done (DEDUCED, log entry 13). -/
def execTrap (t : Tok) (imm : BitVec 16) (s : State) : Out :=
  ctWord t [] 0 (fun s =>
    if !s.regsWritten then .wait s
    else
      let slot := s.cur.ct.pc / 8
      let next := (s.cur.ct.goOn s.pcNext s.datum).resume
      let s := s.signals .ct t.sig slot (opcodeOf s.cur.ct.ir) s.cur.vc
      let s := s.onCur Lease.spent
      .left (s.enterTrap true .trapInstr [imm.setWidth 64, trapInfo1 0 0 .ct 0, 0, 0] next)) s

/-- Restarts every ring stream that stands at a refusal whose trap has been entered (16 R370). -/
def Lease.restart (l : Lease) : Lease :=
  let f (x : StreamState) : StreamState :=
    match x.stop with | some r => if r.entered then { x with stop := none } else x | none => x
  { l with ld := f l.ld, cp := f l.cp, sd := f l.sd }

/-- The word completes and CT resumes at a resume point (05 R123, R124). -/
def ctReturn (t : Tok) (f : Lease → Lease) (s : State) : CtRes :=
  let s := s.signals .ct t.sig (s.cur.ct.pc / 8) (opcodeOf s.cur.ct.ir) s.cur.vc
  .left ((s.onCur fun l => f l.spent).onCt fun c => { c with nextMc := s.datum + 3, did := s.datum + 1 })

/-- TE := 1 and the return to TRAPPC (05 R123); RSUP, if set, stands from here (16 R370). -/
def execEret (t : Tok) (s : State) : Out :=
  ctWord t [] 0 (fun s =>
    ctReturn t (fun l =>
      let l := { l.restart with rsupOn := l.ct.trapCtl.getLsbD 1, ct := { l.ct with trapCtl := l.ct.trapCtl ||| 1 } }
      l.resumeAt l.ct.trapPc) s) s

def execTren (t : Tok) (s : State) : Out :=
  ctWord t [] 0 (fun s => .plain (s.onCt fun c => { c with trapCtl := c.trapCtl ||| 1 })) s

/-- s24-s31 are the ordinary registers again, UIACT is cleared and CT resumes at UIPC (05 R124). UIRET waits until every scalar
result in flight is written (DESIGN CHOICE, log entry 74: the rule states that wait for the delivery only). -/
def execUiret (t : Tok) (s : State) : Out :=
  ctWord t [] 0 (fun s =>
    if !s.cur.ct.trapCtl.getLsbD 2 then .refuse .illegalOperand s
    else if !s.regsWritten then .wait s
    else ctReturn t (fun l =>
      let l := { l with ct := { l.ct with trapCtl := l.ct.trapCtl &&& ~~~4#64 } }
      l.resumeAt l.ct.uipc) s) s

/-! ## Counters and clocks -/

/-- The datum counter in the mc of step 5 (14 R348). -/
def execRdcyc (t : Tok) (d : BitVec 5) (s : State) : Out :=
  ctWord t [] d (fun s => .valueIn d (BitVec.ofNat 64 (s.datumAt s.cur.die)) 1 1 s) s
/-- The group's virtual cycle counter. -/
def execRdvc (t : Tok) (d : BitVec 5) (s : State) : Out :=
  ctWord t [] d (fun s => .plain (s.wreg d (BitVec.ofNat 64 s.cur.vc) 1)) s

/-- Copies the 28 counters and the count of counted mc; `.clr` zeroes them (14 R351). -/
def execPcsel (t : Tok) (m : BitVec 4) (s : State) : Out :=
  ctWord t [] 0 (fun s => .plain (s.onCur fun l =>
    let l := { l with snap := sset 0 0x1C l.counted l.ctrs }
    if m = 1 then { l with ctrs := [], counted := 0 } else l)) s

/-- Snapshot or live value of an index of 14 R351. -/
def Lease.pcValue (l : Lease) (i : Nat) : Nat :=
  if i < 0x1D then sget 0 i l.snap
  else if i < 0x2C then l.visible (i - 0x20)
  else if i < 0x3C then l.held_ (i - 0x30)
  else l.creditOf (i - 0x40)

def execPcrd (t : Tok) (d : BitVec 5) (idx : BitVec 16) (s : State) : Out :=
  ctWord t [] d (fun s => .valueIn d (BitVec.ofNat 64 (s.cur.pcValue idx.toNat)) 1 1 s) s

/-- Clock state of one agent of the lease (14 R349). -/
def execClkrd (t : Tok) (d a : BitVec 5) (sel : BitVec 4) (s : State) : Out :=
  ctWord t [a] d (fun s =>
    let q := s.part s.cur.part
    let x := q.agent (s.cur.aidOf (Stream.ofIndex (sel.toNat / 4)))
    match sel.toNat % 4 with
    | 0 => .valueIn d ((clockWord q.gen x.count).setWidth 64) 1 1 s
    | 1 =>
      if 4095 < (s.reg a).toNat then .refuse .illegalOperand s
      else
        let st := Stream.ofIndex (sel.toNat / 4)
        let n := (s.reg a).toNat
        .valueIn d ((vecAt q.gen x.know n).setWidth 64) (if s.cur.knows st n then 1 else knowMc) 1 (s.fetchKnow st n)
    | _ => .valueIn d (BitVec.ofNat 64 ((if x.folded then 2 else 0) + if x.dirty then 1 else 0)) 1 1 s) s

/-- A TYPE 2 trace record at its completion (15 R363). -/
def execTmark (t : Tok) (tag : BitVec 16) (s : State) : Out :=
  ctWord t [] 0 (fun s =>
    .plain (s.trace 2 .ct (s.cur.ct.pc / 8) (if s.cur.prologue then 0 else s.cur.vc) tag.toNat 0)) s

/-! ## Asynchronous traps and user-level interrupts -/

/-- The oldest by mc, in stream order within one mc (16 R369). -/
def oldestStop (l : List (Stream × StopRec)) : Option (Stream × StopRec) :=
  l.foldl (fun acc x => match acc with
    | none => some x
    | some y => if x.2.mc < y.2.mc then some x else some y) none

/-- Takes the oldest asynchronous trap at CT's boundary: a ring stream's refusal, or a CLOCK_FOLD, which comes after refusals of
the same mc (16 R369; 05 R122). -/
def takeAsync (s : State) : State :=
  let l := s.cur
  if !s.atBoundary || !l.ct.trapCtl.getLsbD 0 then s
  else
    let fold := l.folds.head?
    match oldestStop l.pendingStops, fold with
    | some (st, r), f =>
      if (match f with | some x => decide (x.1 < r.mc) | none => false) then takeFold s
      else
        let s := s.onStream st fun x => { x with stop := some { r with entered := true } }
        s.enterTrap false r.cause [r.i0, r.i1, r.i2, r.i3] s.cur.ct.resume
    | none, some _ => takeFold s
    | none, none => s
where
  takeFold (s : State) : State :=
    match s.cur.folds with
    | [] => s
    | (_, _, r) :: rest => (s.onCur fun l => { l with folds := rest }).enterTrap false .clockFold (infoOf r) s.cur.ct.resume

/-- An asynchronous trap of lease l is taken. -/
def execTrapEntry (l : Nat) (s : State) : Out := .next (onLease l s takeAsync)

/-- Delivery of a pending user-level interrupt (05 R124); at a boundary where a pre-emption begins it stays pending (16 R381). -/
def deliverUirq (s : State) : State :=
  if !s.atBoundary || !s.cur.ct.uirqDue || s.saveDue then s
  else (s.onCur Lease.leaveGrp).onCt fun c =>
    let c := c.rewrittenIn 5 [2, 9]
    { c with
      uipc := c.resume, trapCtl := (c.trapCtl ||| 4) &&& ~~~8#64, pc := c.uivec.toNat / 8 * 8, accd := false, wdone := false, idx := 0,
      wait := .none, begun := false, nextMc := s.datum + 3 }

def execUirqDelivery (l : Nat) (s : State) : Out := .next (onLease l s deliverUirq)

end Sys2Proof.Machine
end

