-- ==== Sys2Proof/Machine/RingOps.lean ====
section
/-! DEFINITION. RingOps.lean: what the three ring streams share: the word at the head of a ring and within a REP body (09 R234,
14 R347), leaving a slot (04 R89), refusals at issue and after it (02 R51, 06 R135, 09 R219), HOLD, REP, NOP and TMARK, and the
completion of commands with the values they send to queues (01 R18, 11 R265-R267). -/

namespace Sys2Proof.Machine

/-! ## The word to issue -/

/-- The slot a stream issues from next. -/
def Ring.cur (r : Ring) : Nat :=
  match r.rep with
  | some p => if p.left ≤ 1 then r.head else (p.first + p.pos) % r.slots
  | none => r.head

/-- A word stands there. -/
def Ring.has (r : Ring) : Bool :=
  match r.rep with
  | some p => if p.left ≤ 1 then 0 < r.count else p.pos < r.count
  | none => 0 < r.count

def Lease.curSlot (l : Lease) (st : Stream) : Nat := (l.stream st).ring.cur
def State.curWord (s : State) (st : Stream) : W64 := s.ringWord st (s.cur.curSlot st)

/-- The word leaves its slot: the head moves and its handles' counts fall (04 R89). -/
def State.dropHead (s : State) (st : Stream) : State :=
  let w := s.ringWord st (s.cur.stream st).ring.head
  let hs := match decode st w with
    | .ok i => namedHandles st i
    | .error _ => []
  (s.onCur fun l => l.freeHandles hs).onRing st fun r =>
    { r with head := (r.head + 1) % r.slots, count := r.count - 1 }

/-- Closes the body of the REP in execution: the number after its last command is known. -/
def Lease.closeRep (l : Lease) (st : Stream) : Lease :=
  { l with reps := l.reps.map fun x => if x.stream = st && x.last.isNone then { x with last := some l.nextSeq } else x }

/-- The word at the issue slot has issued: an ordinary word leaves its slot; a body word leaves it in the last repetition, and
the REP's position moves on. -/
def State.advanceRing (s : State) (st : Stream) : State :=
  let s := s.onStream st fun x => { x with broken := false }
  match (s.cur.stream st).ring.rep with
  | none => s.dropHead st
  | some p =>
    let s := if p.left ≤ 1 then s.dropHead st else s
    if p.pos + 1 < p.len then s.onRing st fun r => { r with rep := some { p with pos := p.pos + 1 } }
    else if 1 < p.left then s.onRing st fun r => { r with rep := some { p with pos := 0, left := p.left - 1 } }
    else (s.onRing st fun r => { r with rep := none }).onCur fun l => l.closeRep st

/-- Passes over the words of a REP body whose count is 0, as far as they are placed (09 R234). -/
def State.passBody (s : State) (st : Stream) : Nat → State
  | 0 => s
  | n + 1 =>
    match (s.cur.stream st).ring.rep with
    | some p =>
      if p.left ≠ 0 || (s.cur.stream st).ring.count = 0 then s
      else
        let s := s.dropHead st
        let q : Option Rep := if p.pos + 1 < p.len then some { p with pos := p.pos + 1 } else none
        (s.onRing st fun r => { r with rep := q }).passBody st n
    | none => s

/-! ## Refusals -/

/-- Stops a stream at a refusal: `late` after issue, else at its issue slot (02 R51, 06 R135, 09 R219). The vc of a refusal of CP at
issue is an input of the log, and a replay stops with no trap (15 R364). -/
def State.stopStream (s : State) (st : Stream) (c : Cause) (i : List W64) (late loader : Bool) : State :=
  if c = .uncorrectable then s
  else
  let r : StopRec := StopRec.mk c (i.getD 0 0) (i.getD 1 0) (i.getD 2 0) (i.getD 3 0) s.datum late s.cur.replay.isSome loader
  let s := if st = .cp && !late then ((s.input 2 (s.cur.stream st).ring.head [] fun _ => false).map (·.2)).getD s else s
  s.onStream st fun x => { x with stop := some r }

/-- TRAPINFO0-3 of an issue-time refusal that names the word, or an address for MISALIGNED and PAGE_PERMISSION (16 R367, R368). -/
def State.issueInfo (s : State) (st : Stream) (c : Cause) (a : Nat) : List W64 :=
  [if c = .misaligned || c = .pagePermission then BitVec.ofNat 64 a else s.curWord st, trapInfo1 (s.cur.curSlot st) 2 st 0, 0, 0]

/-- An issue-time refusal of the word at the issue slot. -/
def State.refuseIssue (s : State) (st : Stream) (c : Cause) (a : Nat) : State :=
  s.stopStream st c (s.issueInfo st c a) false false

/-! ## Running, HOLD and completion -/

/-- What stands for the stream's head word among the retries of a lease. -/
def headRetry : Nat := 2 ^ 64

/-- The head of stream st has no earlier access of the stream to wait for that is to be retried (11 R287). -/
def Lease.headTurn (l : Lease) (st : Stream) : Bool :=
  match l.retries.find? fun r => r.1 = st with
  | some r => r.2 = headRetry
  | none => true

/-- The head of stream st has been tried again. -/
def Lease.headTried (l : Lease) (st : Stream) : Lease := { l with retries := l.retries.filter fun r => !(r.1 = st && r.2 = headRetry) }

/-- The stream may issue: it is not stopped, faulted, frozen, held by a save or its lease's end, has no access to retry (11 R287), and
its issue mc is reached. -/
def State.streamRuns (s : State) (st : Stream) : Bool :=
  let l := s.cur
  (l.st = .running || l.st = .parked) && !l.frozen && !l.prologue && (l.stream st).stop.isNone && !s.faulted st &&
  (l.stream st).retry.isNone && l.headTurn st && (l.stream st).nextMc ≤ s.datum && !l.saving

/-- Numbers of the stream's commands that have not completed at mc now, but for an AT. -/
def Lease.busySeqs (l : Lease) (now : Nat) (st : Stream) : List Nat :=
  (l.doneQ.filter (fun d => d.stream = st && now < d.due)).map (fun d => d.seq) ++
  (l.heldDone.filter (fun d => d.stream = st)).map (fun d => d.seq) ++
  match st with
  | .cp => l.pend.map (fun p => p.seq) ++ l.arr.map (fun a => a.seq) ++ (l.load.toList.map fun x => x.seq) ++
      l.cfgQ.map (fun c => c.seq)
  | st => (l.cmds.filter (fun c => c.stream = st)).map (fun c => c.seq)

/-- With them an AT whose pin stands: it completes as its pinned command issues (14 R343). -/
def Lease.openSeqs (l : Lease) (now : Nat) (st : Stream) : List Nat :=
  (if st = .cp && l.pin.isSome then [l.pinSeq] else []) ++ l.busySeqs now st

/-- HOLD: every earlier command of the stream but an AT has completed, an earlier REP included, but not the REP that encloses the word
(09 R234, 19 R408). -/
def Lease.holdMet (l : Lease) (now : Nat) (st : Stream) : Bool :=
  (l.busySeqs now st).isEmpty &&
  !(l.reps.any (fun x => x.stream = st && x.last.isSome && decide ((if st = .cp then l.vc else now) < x.due)))

/-- The next command number. -/
def State.takeSeq (s : State) : Nat × State := (s.cur.nextSeq, s.onCur fun l => { l with nextSeq := l.nextSeq + 1 })

/-- A completion, whose pushes act at the end of its mc. One that completes now releases now (01 R18, 10 R251). -/
def State.addDone (s : State) (d : Done) : State :=
  let (v, s) := if d.sig.toNat % 64 = 0 || s.datum < d.due then (none, s)
    else let (v, s) := s.release d.stream d.slot; (some v, s)
  s.onCur fun l => { l with doneQ := l.doneQ ++ [{ d with vec := v }] }

/-- The value a completed command sends to a queue (06 R155-R157; 11 R265-R267). -/
def State.sendQ (s : State) (st : Stream) (q : PendQ) (bit : Option Bool) : State :=
  let s := match q with
    | .none => s
    | .vpush v => s.onCur fun l => { l with dqOut := l.dqOut ++ [v] }
    | .vtos v => s.onCur fun l => { l with sret := l.sret ++ [v] }
    | .vout b => s.onCur fun l => { l with oq := sset [] 2 (sget [] 2 l.oq ++ [b]) l.oq }
  match bit with
  | some b => s.onCur fun l => { l with oq := sset [] st.index (sget [] st.index l.oq ++ [b]) l.oq }
  | none => s

/-- One completion acts, unless its outcome bit finds the queue full: then it and later completions of its stream are held
(11 R267). -/
def State.completeOne (s : State) (d : Done) : State :=
  let l := s.cur
  if l.heldDone.any (fun x => x.stream = d.stream) || (d.bit.isSome && 32 ≤ (sget [] d.stream.index l.oq).length) then
    s.onCur fun l => { l with heldDone := l.heldDone ++ [{ d with vec := none }] }
  else (s.sendQ d.stream d.q d.bit).signals d.stream d.sig d.slot d.op l.vc d.vec

/-- Insertion by a key, later elements after equal ones. -/
def insertBy {α : Type} (k : α → Nat) (x : α) : List α → List α
  | [] => [x]
  | y :: r => if k x < k y then x :: y :: r else y :: insertBy k x r
def sortBy {α : Type} (k : α → Nat) (l : List α) : List α := l.foldl (fun acc x => insertBy k x acc) []

/-- REPs whose body has completed complete too (09 R234), behind the completions of their stream that are held (11 R267). -/
def State.completeReps (s : State) : State :=
  let l := s.cur
  let ready (x : RepWait) : Bool := match x.last with
    | none => false
    | some n => x.due ≤ (if x.stream = .cp then l.vc else s.datum) && !(l.heldDone.any fun d => d.stream = x.stream) &&
        !((l.openSeqs s.datum x.stream).any (fun k => x.first ≤ k && decide (k < n)))
  let s := s.onCur fun l => { l with reps := l.reps.filter (fun x => !ready x) }
  (l.reps.filter ready).foldl (fun s x => s.signals x.stream x.sig x.slot x.op l.vc) s

/-- The completions of the lease in focus that are due act: in the order of their mc, and in issue order within one mc (11 R267). -/
def State.complete (s : State) : State :=
  let l := s.cur
  if l.st = .halted || l.frozen then s
  else
    let held := l.heldDone
    let due := sortBy Done.due (sortBy Done.seq (l.doneQ.filter (fun d => d.due ≤ s.datum)))
    let s := s.onCur fun l => { l with heldDone := [], doneQ := l.doneQ.filter (fun d => !(d.due ≤ s.datum)) }
    ((held ++ due).foldl State.completeOne s).completeReps

def execCompletion (l : Nat) (s : State) : Out := .next (onLease l s State.complete)

/-! ## LD and SD words from WAIT to issue (09 R209) -/

/-- What the issue of an LD or SD command answers. -/
inductive LsRes where
  | ok (s : State)
  /-- It waits at the stream head. -/
  | wait (s : State)
  | refuse (c : Cause) (a : Nat)
  /-- A refusal with its own TRAPINFO; `late` where it is taken as one found after issue, as a race on a read at issue (10 R260). -/
  | refuseWith (c : Cause) (i : List W64) (late : Bool) (s : State)
  /-- The stream is parked, frozen or made to wait by an access at issue; the word stays in its slot. -/
  | left (s : State)

/-- A refusal gives the pops back and keeps the records of the granules that passed before it (10 R253; DEDUCED, log entry 17). -/
def State.unpop (s0 : State) (st : Stream) (s : State) : State :=
  let a := s0.cur.aidOf st
  (s.onCur fun l => { l with tq := s0.cur.tq }).onPart s0.cur.part fun q =>
    q.setAgent a { q.agent a with know := (s0.agent s0.cur.part a).know }

/-- The command holds a footprint entry (09 R212). -/
def Cmd.inTable (c : Cmd) : Bool := c.kind ≠ .card && c.kind ≠ .pref

/-- All 16 footprint entries are held (09 R212). -/
def Lease.fpFull (l : Lease) : Bool := 16 ≤ (l.cmds.filter Cmd.inTable).length

/-- The WAIT byte of stream st's head lets it issue, but for GRP; a word with GRP waits for its footprint entry here too, so that the
words of a sync point issue in one mc (02 R38, 09 R209, R212). -/
def State.headWaits (s : State) (st : Stream) (t : Tok) : Bool :=
  let l := s.cur
  (waitHold t.wait && !l.holdMet s.datum st) || (l.lacking st t.wait).isSome ||
  (waitGrp t.wait && l.fpFull && !(opcodeOf (s.curWord st) ∈ [0x00, 0x10, 0x15]))

/-- LD's or SD's head is a word with GRP whose every other condition is met. -/
def State.lsReady (st : Stream) (s : State) : Bool :=
  let t := tokOf (s.curWord st)
  s.streamRuns st && (s.cur.stream st).ring.has && waitGrp t.wait && !s.headWaits st t

/-- GRP of a ring stream lets its word issue: the stream of every other parcel has passed the sync point, or holds its word of it with
every other condition met (02 R38). -/
def State.grpAll (s : State) (st : Stream) (ready : State → Bool) : Bool :=
  let l := s.cur
  let k := l.grpCount st
  (((s.groupOf l).filterMap s.lease?).filter (fun x => x.id ≠ l.id)).all fun x =>
    k < x.grpCount st || (x.grpCount st = k && ready (s.focus x.id))

/-- The word leaves its sync point. -/
def State.grpNext (s : State) (st : Stream) (t : Tok) : State :=
  if waitGrp t.wait then s.onCur fun l => l.setGrp st (l.grpCount st + 1) else s

/-- The ring word at the head of stream st may issue in this mc (09 R209). -/
def State.lsGoes (s : State) (st : Stream) (t : Tok) : Bool :=
  s.streamRuns st && (s.cur.stream st).ring.has && !s.headWaits st t && (!waitGrp t.wait || s.grpAll st (State.lsReady st))

/-- The handles that the head word of ring stream st reads, with their file (04 R96). -/
def State.headReads (s : State) (st : Stream) : List (Nat × Nat) :=
  match decode st (s.curWord st) with
  | .ok i => (namedHandles st i).map fun h => (4, h)
  | .error _ => []

/-- A word of LD or SD issues, unless a register it reads has an uncorrectable error (04 R96). -/
def lsIssue (f : Stream → State → LsRes) (st : Stream) (s : State) : LsRes :=
  match s.readRegs st (s.headReads st) with
  | .error s => .left s
  | .ok s => f st s

/-- One attempt of LD or SD to issue its head word: WAIT, then its pops, then the work of the entry (09 R209). -/
def lsRun (t : Tok) (f : Stream → State → LsRes) (s : State) : State :=
  let st := s.curStream
  let k := s.cur.grpCount st
  if !s.lsGoes st t then s
  else
    match lsIssue f st (((s.grpNext st t).takePops st t.wait).onCur fun l => (l.noRaces st.index).headTried st) with
    | .ok s2 => (s2.advanceRing st).onStream st fun x => { x with nextMc := s.datum + 1 }
    | .wait _ => s
    | .refuse c a => (s.onCur fun l => l.headTried st).refuseIssue st c a
    | .refuseWith c i late s2 => ((s.unpop st s2).onCur fun l => l.setGrp st k).stopStream st c i late false
    | .left s2 => (s.unpop st s2).onCur fun l => l.setGrp st k

def lsWord (t : Tok) (f : Stream → State → LsRes) (s : State) : Out := .next (lsRun t f s)

/-- A command that completes in the mc of its issue (09 R235). -/
def lsDone (t : Tok) (mc : Nat) (st : Stream) (s : State) : State :=
  let (k, s) := s.takeSeq
  s.addDone { stream := st, sig := t.sig, slot := s.cur.curSlot st, op := opcodeOf (s.curWord st), vc := s.cur.vc, seq := k, due := s.datum + mc }

def execLsNop (t : Tok) (s : State) : Out := lsWord t (fun st s => .ok (lsDone t 0 st s)) s

/-- A TYPE 2 record at the mc of issue (15 R363). -/
def execLsTmark (t : Tok) (tag : BitVec 20) (s : State) : Out :=
  lsWord t (fun st s => .ok (lsDone t 0 st (s.trace 2 st (s.cur.curSlot st) s.cur.vc tag.toNat 0))) s

/-- The start of a REP: it waits for its body as a `RepWait`; its word leaves the ring, and its body starts after it (09 R234,
14 R347). -/
def repWork (t : Tok) (cnt len : Nat) (st : Stream) (s : State) : State :=
  let slot := s.cur.curSlot st
  let op := opcodeOf (s.curWord st)
  let (k, s) := s.takeSeq
  let w := RepWait.mk st t.sig slot op (k + 1) (if cnt = 0 then some (k + 1) else none)
    (if st = .cp then s.cur.vc + 1 else s.datum + 1)
  let s := ((s.onCur fun l => { l with reps := l.reps ++ [w] }).dropHead st).onStream st fun x => { x with broken := false }
  s.onRing st fun r => { r with rep := some { first := r.head, len := len, left := cnt, pos := 0 } }

def execLsRep (t : Tok) (cnt : BitVec 16) (len : BitVec 8) (s : State) : Out :=
  .next (
    let st := s.curStream
    if !s.lsGoes st t then s
    else ((repWork t cnt.toNat len.toNat st ((s.grpNext st t).takePops st t.wait)).passBody st 255).onStream st fun x =>
        { x with nextMc := s.datum + 1 })

end Sys2Proof.Machine
end

