-- ==== Sys2Proof/Machine/CpOps.lean ====
section
/-! DEFINITION. CpOps.lean: what CP does with the word at its head: its reads, path and latency (06 R131, R132), whether it can
start, waits, or pauses the counter (06 R132, R133; 07 R168; 14 R341-R344), its issue, pending results and their writeback (06
R133, R134), and the scratchpad accesses of CP (06 R152). -/

namespace Sys2Proof.Machine

/-! ## Reads, path and latency -/

/-- Distinct main-file registers a word reads (06 R132); of an XOP only the sources its graph declares (06 R160). -/
def mainReads (l : Lease) (i : Instr) : Nat :=
  let srcs : List (BitVec 8) := match i with
    | .xop _ slot _ a b c _ => [a, b, c].take (gSrc (sget [] slot.toNat l.xop))
    | i => (WellFormed.desigs i).filterMap fun x => if x.2 then none else some x.1
  ((srcs.filter (fun x => x.toNat < 64)).map (fun x => x.toNat)).eraseDups.length

/-- Issue cycles of a word (06 R132). -/
def issueCycles (l : Lease) (i : Instr) : Nat := Nat.max 1 ((mainReads l i + 1) / 2)

/-- Writeback path (1 FMA, 2 ALU, 3 cross-lane, 4 custom, 5 load, 0 none) and latency (06 R131, 07 R181, R182). -/
def pathLat (l : Lease) (i : Instr) : Nat × Nat :=
  let g (b : BitVec 1) (x y : Nat) : Nat × Nat := (3, if b = 1 then y else x)
  match i with
  | .vadd .. | .vsub .. | .vmul .. | .vfma .. | .vfms .. | .vfnma .. | .vtab .. | .vimul .. | .vimad .. => (1, 4)
  | .vrcp .. | .vrsq .. | .vexp2 .. | .vlog2 .. => (1, 8)
  | .vdiv .. | .vsqrt .. => (1, 12)
  | .vmin .. | .vmax .. | .vabs .. | .vneg .. | .vscale .. | .viadd .. | .visub .. | .vand .. | .vor .. | .vxor .. | .vnot ..
  | .vshl .. | .vshr .. | .vsra .. | .vimin .. | .vimax .. | .vcmp .. | .vsel .. | .vclass .. | .vmov .. | .vli .. | .vliHi ..
  | .vidx .. => (2, 1)
  | .vcvt .. | .vpack .. | .vunpk .. => (2, 2)
  | .vqnt .. | .vdeq .. => (2, 4)
  | .vrot _ _ _ b _ | .vslide _ _ _ b _ | .vbcast _ _ _ b _ => g b 2 4
  | .vperm _ _ _ _ b => g b 4 8
  | .vpart _ _ _ _ b _ => g b 6 10
  | .vred _ _ _ m | .vscan _ _ _ m => g (m.extractLsb' 4 1) 8 12
  | .xop _ slot .. => (4, gLat (sget [] slot.toNat l.xop))
  | .vld .. | .vfrs .. => (5, 6)
  | .vpop .. => (5, 2)
  | .mxrd .. => (0, 4)
  | .mxwr .. | .mxzero .. | .vst .. | .vtos .. | .vout .. | .cpWlapp .. => (0, 2)
  | .vpush .. => (0, 1)
  | _ => (0, 0)

/-! ## Data queues (06 R155-R157) -/

/-- Values on their way to a queue. -/
def Lease.queued_ (l : Lease) (p : PendQ → Bool) : Nat :=
  (l.pend.filter (fun x => p x.q)).length + ((l.doneQ ++ l.heldDone).filter (fun x => p x.q)).length

def PendQ.isPush : PendQ → Bool | .vpush _ => true | _ => false
def PendQ.isTos : PendQ → Bool | .vtos _ => true | _ => false
def PendQ.isOut : PendQ → Bool | .vout _ => true | _ => false

/-- A place of the CP→SD data queue is free, reserved places counted. -/
def Lease.dqFree (l : Lease) : Bool := l.dqOut.length + l.queued_ PendQ.isPush < 16

/-- The queue that a word takes from or gives to lets it go on. -/
def Lease.dataReady (l : Lease) : Instr → Bool
  | .vpop .. => !l.dqIn.isEmpty
  | .vpush .. => l.dqFree
  | .vtos .. => l.sret.length + l.queued_ PendQ.isTos < 8
  | .vout .. => (sget [] 2 l.oq).length + l.queued_ PendQ.isOut < 32
  | _ => true

/-! ## Array engines (07 R168) -/

def ArrCmd.emits (a : ArrCmd) : Bool := a.f.getLsbD 6
/-- A command that takes activation rows has not fed its last. -/
def ArrCmd.feeding (a : ArrCmd) : Bool := a.kind ≠ .drain && a.doneAt.isNone

/-- The word waits for an array engine or for SELK (07 R168, 13 R327). -/
def Lease.arrayBusy (l : Lease) : Instr → Bool
  | .mxmul _ _ _ _ f _ | .mxlut _ _ _ _ f _ =>
      l.arr.any ArrCmd.feeding || (f.getLsbD 6 && l.arr.any (fun a => a.kind = .drain))
  | .mxbs .. => l.arr.any ArrCmd.feeding || l.arr.any (fun a => a.kind = .drain)
  | .mxdrain .. => l.arr.any ArrCmd.emits
  | .mxld .. | .mxswap .. => l.load.isSome
  | .mxcfg .. => l.cfgQ.any (fun c => c.op = 5)
  | .selk .. => l.cfgQ.any (fun c => c.op = 0x0D)
  | _ => false

/-! ## Whether the head can start -/

/-- MISS mode of the group (04 R94); a replay always runs in it (15 R364). -/
def State.missMode (s : State) : Bool := s.cur.replay.isSome || (s.firstOf 16 s.cur).ct.vcmode.getLsbD 0

/-- What CP does with its head in this vc. -/
inductive CpGo where
  | wait | pause | start | issue
  deriving DecidableEq, Repr

/-- CP stands ready at its head, a drain of CHAIN or UNCHAIN apart (12 R303). -/
def State.cpStands (s : State) : Bool :=
  s.streamRuns .cp && (s.cur.stream .cp).ring.has && !s.cur.pause &&
  (match s.cur.load with | some x => !x.late && !x.parked | none => true)

/-- CP may act in this mc: a drain of CHAIN or UNCHAIN holds its issue, but not a word that has begun to issue. -/
def State.cpRuns (s : State) : Bool := s.cpStands && (!s.cur.cpHold || s.cur.cpStart.isSome)

/-- The decision of 06 R132 and R133 under the pin of 14 R343, GRP apart, for a word of c issue cycles. -/
def State.cpGoOwn (s : State) (i : Instr) (t : Tok) (c : Nat) : CpGo :=
  let l := s.cur
  let at_ := l.vc + c - 1
  let (path, lat) := pathLat l i
  if l.vc < l.portFree then .wait
  else if waitHold t.wait && !l.holdMet s.datum .cp then .wait
  else if l.arrayBusy i then .wait
  else if (match l.pin with | some p => (at_ : Int) < p || (s.missMode && p < (at_ : Int)) | none => false) then .wait
  else if path ≠ 0 && l.pend.any (fun x => x.path = path && x.due = at_ + lat) then .wait
  else if (l.lacking .cp t.wait).isSome || !l.dataReady i then .pause
  else if c = 1 then .issue else .start

/-- CP's head word. -/
def State.cpHead (s : State) : Option Instr :=
  match decode .cp (s.curWord .cp) with
  | .ok i => if s.cpRuns then some i else none
  | .error _ => none

/-- CP's head is a word with GRP that could issue in c cycles from this vc, GRP apart. -/
def State.cpReady (c : Nat) (s : State) : Bool :=
  match s.cpHead with
  | some i =>
    let t := tokOf (s.curWord .cp)
    waitGrp t.wait && s.cur.cpStart.isNone && (match s.cpGoOwn i t c with | .issue => true | .start => true | _ => false)
  | none => false

/-- Issue cycles of the head word; the words of one sync point take as many as the one of them that needs most, so that they issue in
one vc (02 R38, 06 R132). -/
def State.cpCycles (s : State) (i : Instr) (t : Tok) : Nat :=
  let own := issueCycles s.cur i
  if !waitGrp t.wait then own
  else
    let l := s.cur
    let mates := ((s.groupOf l).filterMap s.lease?).filter fun x =>
      x.id ≠ l.id && (x.grpCount .cp = l.grpCount .cp || (x.grpCount .cp = l.grpCount .cp + 1 && x.cpStart.isSome))
    mates.foldl (fun c x => match (s.focus x.id).cpHead with | some j => Nat.max c (issueCycles x j) | none => c) own

/-- What CP does with its head word in this vc. A pop or queue wait pauses only where the word could start (14 R341); a wait for GRP
leaves the counter running (R342). -/
def State.cpGo (s : State) (i : Instr) (t : Tok) : CpGo :=
  match s.cur.cpStart with
  | some k => if k < s.cur.vc then .issue else .wait
  | none =>
    let c := s.cpCycles i t
    if waitGrp t.wait && !s.grpAll .cp (State.cpReady c) then .wait else s.cpGoOwn i t c

/-! ## Issue -/

/-- What the issue of a CP word answers. -/
inductive CpRes where
  | ok (s : State)
  | refuse (c : Cause) (a : Nat)
  /-- With its own TRAPINFO, after the records of the granules that passed. -/
  | refuseWith (c : Cause) (i : List W64) (s : State)
  /-- An uncorrectable error of what the word reads has halted the partition (04 R96). -/
  | halts (s : State)
  /-- To the loader (06 R162). -/
  | refuseLoader (i : List W64)

/-- The word has issued at this vc: CP goes on. -/
def State.cpIssued (s : State) : State :=
  (s.advanceRing .cp).onCur fun l =>
    { l with lastIssue := some l.vc, portFree := l.vc + 1, pin := none, cpStart := none }

/-- The refused word stays unissued, its pops and sync point undone. -/
def State.cpRefused (s0 s : State) (k : Nat) (c : Cause) (i : List W64) (loader : Bool) : State :=
  (((s0.unpop .cp s).onCur fun l => { l.setGrp .cp k with cpStart := none }).stopStream .cp c i false loader)

/-- The registers and handles that a CP word reads (04 R96). -/
def Lease.cpReads (l : Lease) (i : Instr) : List (Nat × Nat) :=
  let srcs : List (BitVec 8) := match i with
    | .xop _ slot _ a b c _ => [a, b, c].take (gSrc (sget [] slot.toNat l.xop))
    | i => (WellFormed.desigs i).filterMap fun x => if x.2 then none else some x.1
  ((srcs.filter (fun x => x.toNat < 192)).map fun x => (if x.toNat < 64 then 0 else 1, x.toNat)) ++
  (namedHandles .cp i).map fun h => (4, h)

/-- Performs the issue of word i, whose sync point stood at k before it. -/
def cpPerform (i : Instr) (t : Tok) (k : Nat) (f : State → CpRes) (s : State) : State :=
  match ((s.takePops .cp t.wait).onCur fun l => l.noRaces 2).readRegs .cp (s.cur.cpReads i) with
  | .error s => s
  | .ok s1 =>
    match f s1 with
    | .ok s2 => s2.cpIssued
    | .refuse c a => s.cpRefused s k c (s.issueInfo .cp c a) false
    | .refuseWith c i s2 => s.cpRefused s2 k c i false
    | .refuseLoader i => s.cpRefused s k .xopUnloaded i true
    | .halts s => s

/-- One attempt of CP at its head word i (06 R132). -/
def cpRun (i : Instr) (t : Tok) (f : State → CpRes) (s : State) : State :=
  if !s.cpRuns then s
  else
    let k := s.cur.grpCount .cp
    match s.cpGo i t with
    | .wait => s
    | .pause => s
    | .issue =>
      if s.cur.cpStart.isSome then cpPerform i t (if waitGrp t.wait then k - 1 else k) f s
      else cpPerform i t k f (s.grpNext .cp t)
    | .start => (s.grpNext .cp t).onCur fun l => { l with cpStart := some l.vc }

def cpWord (i : Instr) (t : Tok) (f : State → CpRes) (s : State) : Out := .next (cpRun i t f s)

/-! ## Vector registers -/

/-- The lanes of a designator over the whole parcel, by global lane index (06 R130, 04 R91). -/
def State.vec (s : State) (x : BitVec 8) : Lanes :=
  let l := s.cur
  if 192 ≤ x.toNat then (List.range l.n).flatMap fun g => (List.range 128).map fun j => constLane (x.toNat % 64) g j
  else (List.range l.n).flatMap fun g => sget zeroLanes (vKey l.die (l.plot g) x.toNat) s.vfile

/-- The writes of a parcel-wide value into a register of each plot. -/
def Lease.vecWrites (l : Lease) (x : Nat) (v : Lanes) : List (Nat × Lanes) :=
  (List.range l.n).map fun g => (vKey l.die (l.plot g) x, (v.drop (128 * g)).take 128)

/-- A command that completes `lat` vc after its issue with the given writes, flags and queue value. -/
def State.addPend (s : State) (i : Instr) (t : Tok) (writes : List (Nat × Lanes)) (fl : Nat) (q : PendQ) : State :=
  let (k, s) := s.takeSeq
  let l := s.cur
  let (path, lat) := pathLat l i
  let p := Pend.mk k (l.vc + lat) path (l.curSlot .cp) (opcodeOf (s.curWord .cp)) t.sig writes none fl q none
  if lat = 0 then
    s.addDone { stream := .cp, sig := t.sig, slot := p.slot, op := p.op, vc := l.vc, seq := k, due := s.datum }
  else s.onCur fun l => { l with pend := l.pend ++ [p] }

/-- The result v of a vector word: destination d and the path's last-result register (06 R131). -/
def State.vecResult (s : State) (i : Instr) (t : Tok) (d : BitVec 8) (v : Lanes) (fl : Nat) : State :=
  let l := s.cur
  let path := (pathLat l i).1
  let last := if 1 ≤ path && path ≤ 4 then l.vecWrites (127 + path) v else []
  s.addPend i t (l.vecWrites d.toNat v ++ last) fl .none

/-- A vector word that computes v and its flags from the registers. -/
def vecWord (i : Instr) (t : Tok) (d : BitVec 8) (f : State → Lanes × Nat) (s : State) : Out :=
  cpWord i t (fun s => let r := f s; .ok (s.vecResult i t d r.1 r.2)) s

/-- Lane-wise forms: values and the union of the flags. -/
def laneFlags (r : List (W32 × Nat)) : Lanes × Nat := (r.map (·.1), r.foldl (fun a x => a ||| x.2) 0)
def map1 (f : W32 → W32 × Nat) (a : Lanes) : Lanes × Nat := laneFlags (a.map f)
def map2 (f : W32 → W32 → W32 × Nat) (a b : Lanes) : Lanes × Nat := laneFlags ((a.zip b).map fun x => f x.1 x.2)
def map3 (f : W32 → W32 → W32 → W32 × Nat) (a b c : Lanes) : Lanes × Nat :=
  laneFlags ((a.zip (b.zip c)).map fun x => f x.1 x.2.1 x.2.2)

/-! ## Writeback (06 R133, R134) -/

/-- Writes registers; of two writes to one register in a vc the later-issued remains. -/
def State.writeVecs (s : State) (ws : List (Nat × Lanes)) : State :=
  { s with vfile := ws.foldl (fun f w => sset zeroLanes w.1 w.2 f) s.vfile }

/-- The registers written, and their duplicates, hold no error (04 R96). -/
def State.vecsRewritten (s : State) (ws : List (Nat × Lanes)) : State :=
  if s.cur.ct.bad.isEmpty then s
  else s.onCt fun c => ws.foldl (fun c w => c.rewritten (if w.1 % 256 < 64 then 0 else 1) (w.1 % 256)) c

/-- The bank rows a command writes. -/
def State.writeAccs (s : State) (ws : List (Nat × Lanes)) (clearKind : Bool) : State :=
  let kinds := if clearKind then ws.foldl (fun m w => sset false w.1 false m) s.accInt else s.accInt
  let s : State := { s with accs := ws.foldl (fun m w => sset zeroLanes w.1 w.2 m) s.accs, accInt := kinds }
  if s.cur.ct.bad.isEmpty then s else s.onCt fun c => ws.foldl (fun c w => c.rewritten 6 (w.1 % 512)) c

/-! ## CP's accesses to the scratchpad (06 R152) -/

/-- Race-checks and records window granules in order, each read or written, as accesses of stream st, or of a command of it in flight
(09 R219). -/
def scratchCheckOf (ex : Bool) (cmd : Option Nat) (st : Stream) (slot : Nat) (scope : Nat) :
    List (AccKind × Nat) → State → Except (Cause × List W64 × State) State
  | [], s => .ok s
  | g :: r, s =>
    match s.accessScratch
        { st := st, kind := g.1, scope := scope, va := g.2, scr := true, late := st ≠ .cp, slot := slot, cmd := cmd, exempt := ex } with
    | .ok _ s => scratchCheckOf ex cmd st slot scope r s
    | .refuse c i _ s => .error (c, i, s)
    | _ => .ok s

/-- The accesses of a word at its issue: one of CP that RSUP exempts is performed once, whole and unchecked (06 R152, 16 R370). -/
def scratchCheck (st : Stream) (slot : Nat) (scope : Nat) (gs : List (AccKind × Nat)) (s : State) : Except (Cause × List W64 × State) State :=
  let ex := st = .cp && s.cur.rsupWord st slot
  match scratchCheckOf ex none st slot scope gs s with
  | .ok s => .ok (if ex then s.rsupDone else s)
  | .error e => .error e

/-- Accesses of one kind. -/
def asKind (k : AccKind) (gs : List Nat) : List (AccKind × Nat) := gs.map fun g => (k, g)

/-- The window accesses of a command in flight. -/
def Cmd.scratchCheck (c : Cmd) (k : AccKind) (gs : List Nat) (s : State) : Except (Cause × List W64 × State) State :=
  scratchCheckOf false (some c.seq) c.stream c.slot c.scope (asKind k gs) s

/-- Window bytes as CP and the array see them: CP's stores count from their issue, in issue order (06 R152). -/
def State.cpBytes (s : State) (a n : Nat) : List Byte :=
  s.cur.stores.foldl (fun bs x => bs.mapIdx fun i b =>
    if x.2.1 ≤ a + i && a + i < x.2.1 + x.2.2.length then x.2.2.getD (a + i - x.2.1) b else b) (s.winBytes a n)

/-- A store over bytes of earlier ones that are still to land. -/
def patchStores (a : Nat) (bs : List Byte) (xs : List (Nat × Nat × List Byte)) : List (Nat × Nat × List Byte) :=
  xs.map fun x => (x.1, x.2.1, x.2.2.mapIdx fun i b =>
    if a ≤ x.2.1 + i && x.2.1 + i < a + bs.length then bs.getD (x.2.1 + i - a) b else b)

/-- Bytes that the array writes into the window. -/
def State.cpWrite (s : State) (a : Nat) (bs : List Byte) : State :=
  (s.onCur fun l => { l with stores := patchStores a bs l.stores }).winWrite a bs

/-- A store of the command to come: other agents see its bytes from the command's completion (06 R152). -/
def State.cpStore (s : State) (a : Nat) (bs : List Byte) : State :=
  s.onCur fun l => { l with stores := l.stores ++ [(l.nextSeq, a, bs)] }

/-- The stores of command k land, those issued after them staying above them. -/
def State.cpFlush (s : State) (k : Nat) : State :=
  s.cur.stores.foldl (fun s x =>
    if x.1 = k then (s.onCur fun l => { l with stores := patchStores x.2.1 x.2.2 l.stores }).winWrite x.2.1 x.2.2
    else s.onCur fun l => { l with stores := l.stores ++ [x] }) (s.onCur fun l => { l with stores := [] })

/-- A due result is written and its command completes: pushes and queue values act at the end of the mc (01 R18). -/
def State.finishPend (s : State) (p : Pend) : State :=
  let s := match p.accRow with
    | none => (s.writeVecs p.writes).vecsRewritten p.writes
    | some (_, clr) => s.writeAccs p.writes clr
  let s := (s.flag p.flags).cpFlush p.seq
  s.addDone { stream := .cp, sig := p.sig, slot := p.slot, op := p.op, vc := p.due, seq := p.seq, q := p.q, due := s.datum }

/-- A scratch handle as a CP word names it (06 R152): the checks of 04 R88, then SPACE. -/
def Lease.cpHandle (l : Lease) (h : Handle) : Option Cause :=
  orElseC (l.handleCheck h) (if hSpace h ≠ spScratch then some .handleInvalid else none)

end Sys2Proof.Machine
end

