-- ==== Sys2Proof/Machine/Vector.lean ====
section
/-! DEFINITION. Vector.lean: the vector pipe (chapter 06): arithmetic, integer, comparison, conversion, cross-lane and move
forms, the scratchpad and queue forms, custom opcodes, NOP and TMARK of CP. A meaning answers through `cpWord`. -/

namespace Sys2Proof.Machine

/-! ## Floating point (06 R136-R139) -/

def execVadd (t : Tok) (d a b : BitVec 8) (s : State) : Out :=
  vecWord (.vadd t d a b) t d (fun s => map2 fadd (s.vec a) (s.vec b)) s
def execVsub (t : Tok) (d a b : BitVec 8) (s : State) : Out :=
  vecWord (.vsub t d a b) t d (fun s => map2 fsub (s.vec a) (s.vec b)) s
def execVmul (t : Tok) (d a b : BitVec 8) (s : State) : Out :=
  vecWord (.vmul t d a b) t d (fun s => map2 fmul (s.vec a) (s.vec b)) s
def execVfma (t : Tok) (d a b c : BitVec 8) (s : State) : Out :=
  vecWord (.vfma t d a b c) t d (fun s => map3 ffma (s.vec a) (s.vec b) (s.vec c)) s
def execVfms (t : Tok) (d a b c : BitVec 8) (s : State) : Out :=
  vecWord (.vfms t d a b c) t d (fun s => map3 ffms (s.vec a) (s.vec b) (s.vec c)) s
def execVfnma (t : Tok) (d a b c : BitVec 8) (s : State) : Out :=
  vecWord (.vfnma t d a b c) t d (fun s => map3 ffnma (s.vec a) (s.vec b) (s.vec c)) s

/-- A form that raises no flag. -/
def quiet2 (f : W32 → W32 → W32) (a b : W32) : W32 × Nat := (f a b, 0)
def quiet1 (f : W32 → W32) (a : W32) : W32 × Nat := (f a, 0)

def execVmin (t : Tok) (d a b : BitVec 8) (s : State) : Out :=
  vecWord (.vmin t d a b) t d (fun s => map2 (quiet2 fmin) (s.vec a) (s.vec b)) s
def execVmax (t : Tok) (d a b : BitVec 8) (s : State) : Out :=
  vecWord (.vmax t d a b) t d (fun s => map2 (quiet2 fmax) (s.vec a) (s.vec b)) s
def execVabs (t : Tok) (d a : BitVec 8) (s : State) : Out :=
  vecWord (.vabs t d a) t d (fun s => map1 (quiet1 fabs) (s.vec a)) s
def execVneg (t : Tok) (d a : BitVec 8) (s : State) : Out :=
  vecWord (.vneg t d a) t d (fun s => map1 (quiet1 fneg) (s.vec a)) s

/-- VDIV by its kind M (06 R138). -/
def divLane (m : Nat) (a b : W32) : W32 × Nat :=
  match m with
  | 0 => fdiv a b
  | 1 => if b = 0 then (0xFFFFFFFF, flagDZ) else (a.sdiv b, 0)
  | _ => if b = 0 then (0xFFFFFFFF, flagDZ) else (a / b, 0)

def execVdiv (t : Tok) (d a b m : BitVec 8) (s : State) : Out :=
  vecWord (.vdiv t d a b m) t d (fun s => map2 (divLane m.toNat) (s.vec a) (s.vec b)) s
def execVsqrt (t : Tok) (d a : BitVec 8) (s : State) : Out :=
  vecWord (.vsqrt t d a) t d (fun s => map1 fsqrt (s.vec a)) s
def execVrcp (t : Tok) (d a : BitVec 8) (s : State) : Out :=
  vecWord (.vrcp t d a) t d (fun s => map1 frcp (s.vec a)) s
def execVrsq (t : Tok) (d a : BitVec 8) (s : State) : Out :=
  vecWord (.vrsq t d a) t d (fun s => map1 frsq (s.vec a)) s
def execVexp2 (t : Tok) (d a : BitVec 8) (s : State) : Out :=
  vecWord (.vexp2 t d a) t d (fun s => map1 fexp2 (s.vec a)) s
def execVlog2 (t : Tok) (d a : BitVec 8) (s : State) : Out :=
  vecWord (.vlog2 t d a) t d (fun s => map1 flog2 (s.vec a)) s

/-- Slope and intercept of segment k; slopes of a table at grant are 1.0 (07 R176). -/
def Table.coef (x : Table) (k : Nat) : W32 × W32 := (sget 0x3F800000 k x.a, sget 0 k x.b)
/-- An activation table on one lane. -/
def Table.eval (x : Table) (v : W32) : W32 × Nat := tableEval x.lo x.wexp x.coef v

def execVtab (t : Tok) (d a : BitVec 8) (tab : BitVec 2) (s : State) : Out :=
  vecWord (.vtab t d a tab) t d (fun s => map1 (sget {} tab.toNat s.cur.cfg.tabs : Table).eval (s.vec a)) s
def execVscale (t : Tok) (d a : BitVec 8) (k : BitVec 9) (s : State) : Out :=
  vecWord (.vscale t d a k) t d (fun s => map1 (fun x => fscale x k.toInt) (s.vec a)) s

/-! ## Integer and bitwise (06 R140-R143) -/

/-- Wraps or clamps an exact result (06 R140). -/
def satLane (m : Nat) (x : Int) : W32 × Nat :=
  match m with
  | 0 => (BitVec.ofInt 32 x, 0)
  | 1 =>
    let y := clampInt x (-2147483648) 2147483647
    (BitVec.ofInt 32 y, if y = x then 0 else flagSA)
  | _ =>
    let y := clampInt x 0 4294967295
    (BitVec.ofInt 32 y, if y = x then 0 else flagSA)

/-- Lanes as integers: unsigned for the unsigned saturating form. -/
def asInt (m : Nat) (x : W32) : Int := if m = 2 then (x.toNat : Nat) else x.toInt

def execViadd (t : Tok) (d a b m : BitVec 8) (s : State) : Out :=
  vecWord (.viadd t d a b m) t d (fun s =>
    map2 (fun x y => satLane m.toNat (asInt m.toNat x + asInt m.toNat y)) (s.vec a) (s.vec b)) s
def execVisub (t : Tok) (d a b m : BitVec 8) (s : State) : Out :=
  vecWord (.visub t d a b m) t d (fun s =>
    map2 (fun x y => satLane m.toNat (asInt m.toNat x - asInt m.toNat y)) (s.vec a) (s.vec b)) s

/-- VIMUL by its M (06 R140). -/
def imulLane (m : Nat) (x y : W32) : W32 :=
  match m with
  | 0 => x * y
  | 1 => (BitVec.ofInt 64 (x.toInt * y.toInt)).extractLsb' 32 32
  | _ => (BitVec.ofNat 64 (x.toNat * y.toNat)).extractLsb' 32 32

def execVimul (t : Tok) (d a b m : BitVec 8) (s : State) : Out :=
  vecWord (.vimul t d a b m) t d (fun s => map2 (quiet2 (imulLane m.toNat)) (s.vec a) (s.vec b)) s
def execVimad (t : Tok) (d a b c : BitVec 8) (s : State) : Out :=
  vecWord (.vimad t d a b c) t d (fun s => map3 (fun x y z => (x * y + z, 0)) (s.vec a) (s.vec b) (s.vec c)) s
def execVand (t : Tok) (d a b : BitVec 8) (s : State) : Out :=
  vecWord (.vand t d a b) t d (fun s => map2 (quiet2 (· &&& ·)) (s.vec a) (s.vec b)) s
def execVor (t : Tok) (d a b : BitVec 8) (s : State) : Out :=
  vecWord (.vor t d a b) t d (fun s => map2 (quiet2 (· ||| ·)) (s.vec a) (s.vec b)) s
def execVxor (t : Tok) (d a b : BitVec 8) (s : State) : Out :=
  vecWord (.vxor t d a b) t d (fun s => map2 (quiet2 (· ^^^ ·)) (s.vec a) (s.vec b)) s
def execVnot (t : Tok) (d a : BitVec 8) (s : State) : Out :=
  vecWord (.vnot t d a) t d (fun s => map1 (quiet1 (~~~ ·)) (s.vec a)) s
def execVshl (t : Tok) (d a b : BitVec 8) (s : State) : Out :=
  vecWord (.vshl t d a b) t d (fun s => map2 (quiet2 fun x y => x <<< sh5 y) (s.vec a) (s.vec b)) s
def execVshr (t : Tok) (d a b : BitVec 8) (s : State) : Out :=
  vecWord (.vshr t d a b) t d (fun s => map2 (quiet2 fun x y => x >>> sh5 y) (s.vec a) (s.vec b)) s
def execVsra (t : Tok) (d a b : BitVec 8) (s : State) : Out :=
  vecWord (.vsra t d a b) t d (fun s => map2 (quiet2 fun x y => x.sshiftRight (sh5 y)) (s.vec a) (s.vec b)) s

/-- The smaller lane, signed for M = 0. -/
def iminLane (m : Nat) (x y : W32) : W32 := if (if m = 0 then x.toInt ≤ y.toInt else x.toNat ≤ y.toNat) then x else y
def imaxLane (m : Nat) (x y : W32) : W32 := if (if m = 0 then x.toInt ≤ y.toInt else x.toNat ≤ y.toNat) then y else x

def execVimin (t : Tok) (d a b m : BitVec 8) (s : State) : Out :=
  vecWord (.vimin t d a b m) t d (fun s => map2 (quiet2 (iminLane m.toNat)) (s.vec a) (s.vec b)) s
def execVimax (t : Tok) (d a b m : BitVec 8) (s : State) : Out :=
  vecWord (.vimax t d a b m) t d (fun s => map2 (quiet2 (imaxLane m.toNat)) (s.vec a) (s.vec b)) s

/-- −1, 0 or 1 by the TYPE of 06 R141. -/
def cmpLane (ty : Nat) (x y : W32) : Int :=
  match ty with
  | 0 => fcmp x y
  | 1 => if x.toInt < y.toInt then -1 else if x = y then 0 else 1
  | _ => if x.toNat < y.toNat then -1 else if x = y then 0 else 1

/-- The predicate of VCMP (06 R141). -/
def predLane (m : Nat) (x y : W32) : Bool :=
  let ty := m / 8 % 4
  let nan := ty = 0 && (isNan32 x || isNan32 y)
  let c := cmpLane ty x y
  match m % 8 with
  | 0 => !nan && c = 0
  | 1 => nan || c ≠ 0
  | 2 => !nan && c < 0
  | 3 => !nan && c ≤ 0
  | 4 => !nan && 0 < c
  | 5 => !nan && 0 ≤ c
  | _ => nan

def execVcmp (t : Tok) (d a b m : BitVec 8) (s : State) : Out :=
  vecWord (.vcmp t d a b m) t d (fun s => map2 (quiet2 fun x y => maskLane (predLane m.toNat x y)) (s.vec a) (s.vec b)) s
def execVsel (t : Tok) (d a b c : BitVec 8) (s : State) : Out :=
  vecWord (.vsel t d a b c) t d (fun s => map3 (fun x y z => (if z ≠ 0 then x else y, 0)) (s.vec a) (s.vec b) (s.vec c)) s

/-- The one-hot class of a lane (06 R142). -/
def classLane (x : W32) : W32 :=
  let neg := x.getLsbD 31
  let k : Nat := match dec32 x with
    | .nan => 0
    | .inf s => if s then 1 else 8
    | .fin _ m _ =>
      if m = 0 then (if neg then 4 else 5)
      else if x.toNat / 2 ^ 23 % 256 = 0 then (if neg then 3 else 6)
      else (if neg then 2 else 7)
  BitVec.ofNat 32 (2 ^ k)

def execVclass (t : Tok) (d a : BitVec 8) (s : State) : Out :=
  vecWord (.vclass t d a) t d (fun s => map1 (quiet1 classLane) (s.vec a)) s
def execVmov (t : Tok) (d a : BitVec 8) (s : State) : Out :=
  vecWord (.vmov t d a) t d (fun s => (s.vec a, 0)) s
def execVli (t : Tok) (d : BitVec 8) (imm : BitVec 24) (s : State) : Out :=
  vecWord (.vli t d imm) t d (fun s => (List.replicate (128 * s.cur.n) (imm.signExtend 32), 0)) s
def execVliHi (t : Tok) (d : BitVec 8) (imm : BitVec 24) (s : State) : Out :=
  vecWord (.vliHi t d imm) t d (fun s => (List.replicate (128 * s.cur.n) (imm.setWidth 32 <<< 8), 0)) s

/-- Adds STEP × idx to each lane (06 R143). -/
def execVidx (t : Tok) (d a : BitVec 8) (g : BitVec 1) (step : BitVec 16) (s : State) : Out :=
  vecWord (.vidx t d a g step) t d (fun s =>
    ((s.vec a).mapIdx fun j x => x + step.signExtend 32 * BitVec.ofNat 32 (if g = 1 then j else j % 128), 0)) s

/-! ## Conversion and packing (06 R144-R146) -/

/-- Element e of width w packed in lanes (06 R145). -/
def packedAt (w : Nat) (v : Lanes) (e : Nat) : Nat := (lane v (e / (32 / w))).toNat / 2 ^ (w * (e % (32 / w))) % 2 ^ w

/-- Packs element codes of width w into 128 lanes, zero above them. -/
def packCodes (w : Nat) (es : List Nat) : Lanes :=
  (List.range 128).map fun j => BitVec.ofNat 32 ((List.range (32 / w)).foldl
    (fun a k => a + es.getD (j * (32 / w) + k) 0 % 2 ^ w * 2 ^ (w * k)) 0)

/-- Applies a function of 128 lanes to each lane group. -/
def perGroup (f : Lanes → Lanes × Nat) (n : Nat) (v : Lanes) : Lanes × Nat :=
  let rs := (List.range n).map fun g => f ((v.drop (128 * g)).take 128)
  (rs.flatMap (·.1), rs.foldl (fun a r => a ||| r.2) 0)

/-- The lane's value as read in a format: the bits above it are ignored (06 R130). -/
def readFmt (code : Nat) (x : W32) : Fv := decCode code (x.toNat % 2 ^ fmtWidth code)
def cvtLane (fa fb : Nat) (sat : Bool) (x : W32) : W32 × Nat :=
  let r := cvt (readFmt fa x) fb sat
  (BitVec.ofNat 32 r.1, r.2)

def execVcvt (t : Tok) (d a : BitVec 8) (fa fb : BitVec 6) (sat : BitVec 1) (s : State) : Out :=
  vecWord (.vcvt t d a fa fb sat) t d (fun s => map1 (cvtLane fa.toNat fb.toNat (sat = 1)) (s.vec a)) s

/-- VPACK in one lane group: 256 converted elements. -/
def packGroup (fa fb : Nat) (sat : Bool) (a b : Lanes) : Lanes × Nat :=
  let rs := (a ++ b).map fun x => cvt (readFmt fa x) fb sat
  (packCodes (fmtWidth fb) (rs.map (·.1)), rs.foldl (fun x r => x ||| r.2) 0)

def execVpack (t : Tok) (d a b : BitVec 8) (fa fb : BitVec 6) (sat : BitVec 1) (s : State) : Out :=
  vecWord (.vpack t d a b fa fb sat) t d (fun s =>
    let va := s.vec a
    let vb := s.vec b
    let rs := (List.range s.cur.n).map fun g =>
      packGroup fa.toNat fb.toNat (sat = 1) ((va.drop (128 * g)).take 128) ((vb.drop (128 * g)).take 128)
    (rs.flatMap (·.1), rs.foldl (fun x r => x ||| r.2) 0)) s

/-- VUNPK in one lane group: part p. -/
def unpackGroup (fa fb p : Nat) (sat : Bool) (a : Lanes) : Lanes × Nat :=
  laneFlags ((List.range 128).map fun i =>
    let r := cvt (decCode fa (packedAt (fmtWidth fa) a (128 * p + i))) fb sat
    (BitVec.ofNat 32 r.1, r.2))

def execVunpk (t : Tok) (d a b : BitVec 8) (fa fb : BitVec 6) (sat : BitVec 1) (s : State) : Out :=
  vecWord (.vunpk t d a b fa fb sat) t d (fun s =>
    perGroup (unpackGroup fa.toNat fb.toNat b.toNat (sat = 1)) s.cur.n (s.vec a)) s

/-- VQNT in one lane group: packed elements, and the four scales in lane 127. -/
def quantGroup (fb : Nat) (a : Lanes) : Lanes × Nat :=
  let bs := (List.range 4).map fun b => mxQuant fb ((a.drop (32 * b)).take 32)
  let v := packCodes (fmtWidth fb) (bs.flatMap (·.2.1))
  let scales := BitVec.ofNat 32 (leNat (bs.map fun b => BitVec.ofNat 8 b.1))
  (v.take 127 ++ [scales], bs.foldl (fun x b => x ||| b.2.2) 0)

def execVqnt (t : Tok) (d a : BitVec 8) (fa fb : BitVec 6) (sat : BitVec 1) (s : State) : Out :=
  vecWord (.vqnt t d a fa fb sat) t d (fun s => perGroup (quantGroup fb.toNat) s.cur.n (s.vec a)) s

/-- VDEQ in one lane group. -/
def dequantGroup (fa : Nat) (a : Lanes) : Lanes × Nat :=
  laneFlags ((List.range 128).map fun j =>
    mxDequant fa ((lane a 127).toNat / 2 ^ (8 * (j / 32)) % 256) (packedAt (fmtWidth fa) a j))

def execVdeq (t : Tok) (d a : BitVec 8) (fa fb : BitVec 6) (sat : BitVec 1) (s : State) : Out :=
  vecWord (.vdeq t d a fa fb sat) t d (fun s => perGroup (dequantGroup fa.toNat) s.cur.n (s.vec a)) s

/-! ## Cross-lane forms (06 R147-R151) -/

/-- Applies a function of a range of lanes: the whole parcel with G, else each lane group (06 R147). -/
def overRange (g : Bool) (n : Nat) (f : Lanes → Lanes × Nat) (v : Lanes) : Lanes × Nat :=
  if g then f v else perGroup f n v

/-- The combinations of 06 R148. -/
def combine (op : Nat) (x y : W32) : W32 × Nat :=
  match op with
  | 0 => fadd x y
  | 1 => (fmax x y, 0)
  | 2 => (fmin x y, 0)
  | 3 => (x + y, 0)
  | 4 => (imaxLane 0 x y, 0)
  | 5 => (iminLane 0 x y, 0)
  | 6 => (x &&& y, 0)
  | 7 => (x ||| y, 0)
  | 8 => (x ^^^ y, 0)
  | _ => (x + y, 0)

/-- One level of the tree. -/
def pairUp (op : Nat) : Lanes → Lanes × Nat
  | x :: y :: r =>
    let c := combine op x y
    let q := pairUp op r
    (c.1 :: q.1, c.2 ||| q.2)
  | v => (v, 0)

/-- The tree of 06 R148 over at most 2^k lanes. -/
def reduceTree (op : Nat) : Nat → Lanes → W32 × Nat
  | 0, v => (lane v 0, 0)
  | k + 1, v =>
    if v.length ≤ 1 then (lane v 0, 0)
    else
      let p := pairUp op v
      let q := reduceTree op k p.1
      (q.1, p.2 ||| q.2)

def reduceRange (op : Nat) (v : Lanes) : Lanes × Nat :=
  let r := reduceTree op 11 (if op = 9 then v.map (fun x => if x ≠ 0 then 1 else 0) else v)
  (v.map fun _ => r.1, r.2)

def execVred (t : Tok) (d a m : BitVec 8) (s : State) : Out :=
  vecWord (.vred t d a m) t d (fun s => overRange (m.getLsbD 4) s.cur.n (reduceRange (m.toNat % 16)) (s.vec a)) s

/-- The identities of 06 R149. -/
def identity_ (op : Nat) : W32 :=
  match op with
  | 1 => 0xFF800000 | 2 => 0x7F800000 | 4 => 0x80000000 | 5 => 0x7FFFFFFF | _ => 0

/-- A NaN written by a floating-point scan is canonical (06 R149). -/
def canonLane (op : Nat) (x : W32) : W32 := if op < 3 && isNan32 x then nan32 else x

/-- The prefixes from y on, in index order. -/
def scanFrom (op : Nat) (y : W32) : Lanes → List (W32 × Nat)
  | [] => []
  | x :: r =>
    let c := combine op y x
    c :: scanFrom op c.1 r

def scanRange (op : Nat) (ex : Bool) (v : Lanes) : Lanes × Nat :=
  match v with
  | [] => ([], 0)
  | x :: r =>
    let ps := (x, 0) :: scanFrom op x r
    let (vs, fl) := laneFlags ps
    let out := if ex then identity_ op :: vs.take r.length else vs
    (out.map (canonLane op), fl)

def execVscan (t : Tok) (d a m : BitVec 8) (s : State) : Out :=
  vecWord (.vscan t d a m) t d (fun s =>
    overRange (m.getLsbD 4) s.cur.n (scanRange (m.toNat % 16) (m.getLsbD 5)) (s.vec a)) s

/-- Two-source form of `overRange`. -/
def overRange2 (g : Bool) (n : Nat) (f : Lanes → Lanes → Lanes) (a b : Lanes) : Lanes :=
  if g then f a b
  else (List.range n).flatMap fun k => f ((a.drop (128 * k)).take 128) ((b.drop (128 * k)).take 128)

def permRange (a b : Lanes) : Lanes := b.map fun x => if x.toNat < a.length then lane a x.toNat else 0

def execVperm (t : Tok) (d a b : BitVec 8) (g : BitVec 1) (s : State) : Out :=
  vecWord (.vperm t d a b g) t d (fun s => (overRange2 (g = 1) s.cur.n permRange (s.vec a) (s.vec b), 0)) s

/-- Lane (j + k) mod span. -/
def rotRange (k : Int) (v : Lanes) : Lanes := v.mapIdx fun j _ => lane v (((j : Int) + k) % (v.length : Int)).toNat
/-- Lane j + k where it lies in the range, else 0. -/
def slideRange (k : Int) (v : Lanes) : Lanes :=
  v.mapIdx fun j _ => if 0 ≤ (j : Int) + k && (j : Int) + k < v.length then lane v ((j : Int) + k).toNat else 0

def execVrot (t : Tok) (d a : BitVec 8) (g : BitVec 1) (k : BitVec 12) (s : State) : Out :=
  vecWord (.vrot t d a g k) t d (fun s => overRange (g = 1) s.cur.n (fun v => (rotRange k.toInt v, 0)) (s.vec a)) s
def execVslide (t : Tok) (d a : BitVec 8) (g : BitVec 1) (k : BitVec 12) (s : State) : Out :=
  vecWord (.vslide t d a g k) t d (fun s => overRange (g = 1) s.cur.n (fun v => (slideRange k.toInt v, 0)) (s.vec a)) s

/-- A lane beyond the parcel is refused at issue (06 R150). -/
def execVbcast (t : Tok) (d a : BitVec 8) (g : BitVec 1) (n : BitVec 11) (s : State) : Out :=
  cpWord (.vbcast t d a g n) t (fun s =>
    if g = 1 && 128 * s.cur.n ≤ n.toNat then .refuse .illegalOperand 0
    else
      let r := overRange (g = 1) s.cur.n (fun v => (v.map fun _ => lane v n.toNat, 0)) (s.vec a)
      .ok (s.vecResult (.vbcast t d a g n) t d r.1 r.2)) s

/-- The partition list of 06 R151 with its kinds. -/
def partRange (kind : Nat) (a b : Lanes) : Lanes :=
  let js := List.range a.length
  let list := js.filter (fun j => lane a j ≠ 0) ++ js.filter (fun j => lane a j = 0)
  list.map fun j =>
    let on := lane a j ≠ 0
    match kind with
    | 0 => BitVec.ofNat 32 j
    | 1 => lane b j
    | 2 => if on then BitVec.ofNat 32 j else 0xFFFFFFFF
    | _ => if on then lane b j else 0

def execVpart (t : Tok) (d a b : BitVec 8) (g : BitVec 1) (kind : BitVec 2) (s : State) : Out :=
  vecWord (.vpart t d a b g kind) t d (fun s =>
    (overRange2 (g = 1) s.cur.n (partRange kind.toNat) (s.vec a) (if kind.toNat % 2 = 1 then s.vec b else s.vec a), 0)) s

/-! ## Scratchpad, queues and CT (06 R152-R157) -/

/-- VTOS: the lane goes to the scalar return queue at t + 2 (06 R156). -/
def execVtos (t : Tok) (d : BitVec 8) (m : BitVec 4) (n : BitVec 11) (s : State) : Out :=
  cpWord (.vtos t d m n) t (fun s =>
    if 128 * s.cur.n ≤ n.toNat then .refuse .illegalOperand 0
    else
      let x := lane (s.vec d) n.toNat
      .ok (s.addPend (.vtos t d m n) t [] 0 (.vtos (if m = 1 then x.signExtend 64 else x.setWidth 64)))) s

/-- VFRS: 4 bytes to every lane (06 R154). -/
def execVfrs (t : Tok) (d : BitVec 8) (h : BitVec 4) (imm : BitVec 24) (s : State) : Out :=
  cpWord (.vfrs t d h imm) t (fun s =>
    let l := s.cur
    let hh := s.handle h.toNat
    let a := hBase hh + 4 * imm.toNat
    match l.cpHandle hh with
    | some c => .refuse c 0
    | none =>
      if a % 4 ≠ 0 then .refuse .misaligned a
      else if !l.winOk a (a + 4) then .refuse .scratchBounds 0
      else match scratchCheck .cp (l.curSlot .cp) 0 (asKind .read (granulesOf a 4)) s with
        | .error (c, i, s) => .refuseWith c i s
        | .ok s =>
          let x := BitVec.ofNat 32 (leNat (s.cpBytes a 4))
          .ok (s.vecResult (.vfrs t d h imm) t d (List.replicate (128 * l.n) x) 0)) s

/-- VPOP: the head entry of the LD→CP queue (06 R155). -/
def execVpop (t : Tok) (d : BitVec 8) (s : State) : Out :=
  cpWord (.vpop t d) t (fun s =>
    .ok ((s.vecResult (.vpop t d) t d (s.cur.dqIn.headD []) 0).onCur fun l => { l with dqIn := l.dqIn.tail })) s

/-- VPUSH: an entry of the CP→SD queue at t + 1 (06 R155). -/
def execVpush (t : Tok) (d : BitVec 8) (s : State) : Out :=
  cpWord (.vpush t d) t (fun s => .ok (s.addPend (.vpush t d) t [] 0 (.vpush (s.vec d)))) s

/-- VOUT: an outcome bit at t + 2 (06 R157). -/
def execVout (t : Tok) (d : BitVec 8) (m : BitVec 4) (imm : BitVec 24) (s : State) : Out :=
  cpWord (.vout t d m imm) t (fun s =>
    let v := s.vec d
    let n := imm.toNat
    if m.toNat = 2 && 128 * s.cur.n ≤ n then .refuse .illegalOperand 0
    else
      let b := match m.toNat with
        | 0 => v.any (fun x => x ≠ 0)
        | 1 => v.all (fun x => x ≠ 0)
        | _ => lane v n ≠ 0
      .ok (s.addPend (.vout t d m imm) t [] 0 (.vout b))) s

/-- Bytes moved per lane group (06 R153). -/
def vldBytes (m : Nat) : Nat := match m with | 1 => 256 | 2 => 128 | 3 => 64 | _ => 512

/-- Window addresses of the lane groups (06 R153). -/
def vldAddrs (l : Lease) (base imm m : Nat) : List Nat :=
  let b := vldBytes m
  (List.range l.n).map fun g => base + (if m = 4 then imm * 512 else (imm * l.n + g) * b)

/-- The first address that fails, in lane-group order (06 R153). -/
def vldBad (l : Lease) (b : Nat) : List Nat → Option (Cause × Nat)
  | [] => none
  | a :: r =>
    if a % 64 ≠ 0 then some (.misaligned, a)
    else if !l.winOk a (a + b) then some (.scratchBounds, 0)
    else vldBad l b r

/-- The checks of VLD and VST before any byte moves: the lane groups' addresses, checked and recorded. -/
def vldChecked (h : BitVec 4) (m : BitVec 4) (imm : BitVec 24) (k : AccKind) (s : State) (go : List Nat → State → State) : CpRes :=
  let l := s.cur
  let hh := s.handle h.toNat
  match l.cpHandle hh with
  | some c => .refuse c 0
  | none =>
    let b := vldBytes m.toNat
    let as := vldAddrs l (hBase hh) imm.toNat m.toNat
    match vldBad l b as with
    | some (c, a) => .refuse c a
    | none =>
      match scratchCheck .cp (l.curSlot .cp) 0 (asKind k ((if m.toNat = 4 then as.take 1 else as).flatMap fun a => granulesOf a b)) s with
      | .error (c, i, s) => .refuseWith c i s
      | .ok s => .ok (go as s)

/-- Lanes of bytes, zero above them, for one lane group. -/
def loadLanes (b : List Byte) : Lanes := bytesLanes 128 (b ++ List.replicate (512 - b.length) 0)

def execVld (t : Tok) (d : BitVec 8) (h m : BitVec 4) (imm : BitVec 24) (s : State) : Out :=
  cpWord (.vld t d h m imm) t (fun s => vldChecked h m imm .read s fun as s =>
    s.vecResult (.vld t d h m imm) t d (as.flatMap fun a => loadLanes (s.cpBytes a (vldBytes m.toNat))) 0) s

/-- Stores the lanes moved of each lane group. -/
def storeGroups (b : Nat) (v : Lanes) : List Nat → Nat → State → State
  | [], _, s => s
  | a :: r, g, s => storeGroups b v r (g + 1) (s.cpStore a (lanesBytes ((v.drop (128 * g)).take (b / 4))))

def execVst (t : Tok) (d : BitVec 8) (h m : BitVec 4) (imm : BitVec 24) (s : State) : Out :=
  cpWord (.vst t d h m imm) t (fun s => vldChecked h m imm .write s fun as s =>
    (storeGroups (vldBytes m.toNat) (s.vec d) as 0 s).addPend (.vst t d h m imm) t [] 0 .none) s

/-! ## NOP, TMARK and custom opcodes (06 R159-R162) -/

def execCpNop (t : Tok) (s : State) : Out :=
  cpWord (.cpNop t) t (fun s => .ok (s.addPend (.cpNop t) t [] 0 .none)) s

def execCpTmark (t : Tok) (tag : BitVec 20) (s : State) : Out :=
  cpWord (.cpTmark t tag) t (fun s =>
    .ok ((s.trace 2 .cp (s.cur.curSlot .cp) s.cur.vc tag.toNat 0).addPend (.cpTmark t tag) t [] 0 .none)) s

/-- TRAPINFO3 of XOP_UNLOADED: the address of the slot's record, 0 for none (13 R324); XOPTAB is a signed offset (02 R59). -/
def State.xopRecord (s : State) (slot : Nat) : Nat :=
  let l := s.cur
  if l.xoptab = 0 then 0
  else
    let e := s.unitLe l.part ((l.kernel + l.xoptab + 8 * slot) % 2 ^ 64) 8
    if e = 0 then 0 else (l.kernel + e) % 2 ^ 64

/-- The value checks of an XOP against the loaded graph (06 R160). -/
def xopBad (l : Lease) (r : List Byte) (d a b c e : BitVec 8) : Option Cause :=
  let srcs := [a, b, c]
  if (srcs.drop (gSrc r)).any (fun x => x ≠ 0) || (gRes r = 1 && e ≠ 0) || (gRes r = 2 && e = d) then some .illegalOperand
  else if (srcs.take (gSrc r)).any (fun x => !WellFormed.desigInFile l.vregs x) ||
      (gRes r = 2 && !WellFormed.desigInFile l.vregs e) then some .regBounds
  else none

def execXop (t : Tok) (slot : BitVec 5) (d a b c e : BitVec 8) (s : State) : Out :=
  cpWord (.xop t slot d a b c e) t (fun s =>
    let l := s.cur
    let r := sget [] slot.toNat l.xop
    if r = [] then
      .refuseLoader [s.curWord .cp, trapInfo1 (l.curSlot .cp) 2 .cp 0, slot.setWidth 64, BitVec.ofNat 64 (s.xopRecord slot.toNat)]
    else match xopBad l r d a b c e with
      | some k => .refuse k 0
      | none =>
        let vs := ([a, b, c].take (gSrc r)).map s.vec
        let rs := (List.range (128 * l.n)).map fun j => gLane r (vs.map fun v => lane v j)
        let v0 := rs.map (·.1)
        let w := l.vecWrites d.toNat v0 ++ l.vecWrites 131 v0 ++
          (if gRes r = 2 then l.vecWrites e.toNat (rs.map (·.2.1)) else [])
        .ok (s.addPend (.xop t slot d a b c e) t w (rs.foldl (fun x y => x ||| y.2.2) 0) .none)) s

/-! ## Pins and repetition (14 R343, R344, R347) -/

/-- The target vc of AT. -/
def atTarget (l : Lease) (rel : BitVec 1) (tg : Nat) : Int :=
  if rel = 1 then ((l.lastIssue.getD 0 + tg : Nat) : Int)
  else
    let lo : Int := (l.vc : Int) - 2 ^ 38
    lo + ((tg : Int) - lo) % 2 ^ 39

/-- AT is consumed as it reaches the head; a following AT replaces its pin. -/
def atPinDo (rel : BitVec 1) (target : BitVec 39) (s : State) : State :=
  if !(s.streamRuns .cp && (s.cur.stream .cp).ring.has) then s
  else
    let (k, s) := s.takeSeq
    (s.advanceRing .cp).onCur fun l => { l with pin := some (atTarget l rel target.toNat), pinSeq := k }

def execAtPin (_t : Tok) (rel : BitVec 1) (target : BitVec 39) (s : State) : Out := .next (atPinDo rel target s)

/-- CP's head is an AT, which replaces the pin and is not the pinned command (14 R343). -/
def State.headIsAt (s : State) : Bool := match decode .cp (s.curWord .cp) with | .ok (.atPin ..) => true | _ => false

/-- The pinned command has not issued at the end of vc P in MISS mode: it is refused and the pin consumed (14 R344); a drain of CHAIN or
UNCHAIN leaves the counter running and is no excuse (R342). -/
def missPin (s : State) : State :=
  match s.cur.pin with
  | none => s
  | some p =>
    let l := s.cur
    if !s.cpStands || !s.missMode || (l.vc : Int) < p || l.cpStart.isSome || s.headIsAt then s
    else if l.replay.isSome then s.askStop 128
    else
      (s.stopStream .cp .scheduleMiss
        [s.curWord .cp, trapInfo1 (l.curSlot .cp) 2 .cp 0, BitVec.ofInt 64 p, BitVec.ofNat 64 l.vc] false false).onCur
        fun l => { l with pin := none }

def execScheduleMiss (l : Nat) (s : State) : Out := .next (onLease l s missPin)

def execCpRep (t : Tok) (cnt : BitVec 16) (len : BitVec 8) (s : State) : Out :=
  .next (
    if !s.cpRuns then s
    else match s.cpGo (.cpRep t cnt len) t with
      | .issue =>
        let s := if s.cur.cpStart.isSome then s else s.grpNext .cp t
        ((repWork t cnt.toNat len.toNat .cp (s.takePops .cp t.wait)).passBody .cp 255).onCur fun l =>
          { l with lastIssue := some l.vc, portFree := l.vc + 1, pin := none, cpStart := none }
      | .start => (s.grpNext .cp t).onCur fun l => { l with cpStart := some l.vc }
      | _ => s)

end Sys2Proof.Machine
end

