-- ==== Sys2Proof/Machine/Array.lean ====
section
/-! DEFINITION. Array.lean: the array (chapter 07): loading and swapping weights, the output chain, products, drains, accumulator
moves, and what the array does in one vc. Array times are kept on the array's own clock, which stands while a held row waits for
its FIFO (07 R183). -/

namespace Sys2Proof.Machine

/-! ## Elements in memory -/

/-- The n element codes of width w packed in bytes (03 R68). -/
def codesOf (w n : Nat) (bs : List Byte) : List Nat :=
  (List.range n).map fun e =>
    if w = 4 then (bs.getD (e / 2) 0).toNat / 2 ^ (4 * (e % 2)) % 16
    else leNat ((List.range (w / 8)).map fun k => bs.getD (e * (w / 8) + k) 0)

/-- Bytes of element codes of width 8, 16 or 32. -/
def bytesOf (w : Nat) (cs : List Nat) : List Byte := cs.flatMap fun c => leBytes c (w / 8)

/-- Window bytes of row r of plane p of a scratch handle. -/
def State.winRow (s : State) (h : Handle) (p r : Nat) : List Byte := s.cpBytes (hRowAt h p r).toNat (hRowBytes h)
/-- Window bytes of its scale-plane row. -/
def hScaleAt (h : Handle) (p r : Nat) : Nat := hBase h + hScaleOff h + (p * hDim1 h + r) * hScaleRow h
def State.winScale (s : State) (h : Handle) (p r : Nat) : List Byte :=
  if fmtScaled (hFmt h) then s.cpBytes (hScaleAt h p r) (hScaleRow h) else []

/-! ## Formats (03 R73) -/

/-- Formats of a weight tile. -/
def weightFmt (f : Nat) : Bool := f ∈ [0x02, 0x03, 0x04, 0x05, 0x06, 0x07, 0x08, 0x09, 0x0A]
/-- The pairs of 03 R73. -/
def pairOk (h g : Nat) : Bool :=
  (h = 0x02 && (g = 0x02 || g = 0x08 || g = 0x0A)) || (h = 0x03 && g = 0x03) ||
  ((h = 0x04 || h = 0x05) && (g = 0x04 || g = 0x05)) || (h = 0x09 && g = 0x09) ||
  (h = 0x06 && (g = 0x06 || g = 0x07)) || (h = 0x07 && g = 0x07)
/-- Formats a chain row can have (07 R171). -/
def chainFmt (f : Nat) : Bool := f ∈ [0x02, 0x03, 0x04, 0x05, 0x09]
/-- The tag of sign nibbles. -/
def tagSgn : Nat := 0x3F

/-! ## Weight columns (07 R172) -/

/-- A column's codes, block scales and flags from its row of bytes: CB4 through the codebook and INT4G through the prologue
become BF16; sign nibbles fill the first DIM0 groups (DEDUCED, log entry 18). -/
def decodeCol (l : Lease) (h : Handle) (sgn : Bool) (bs sc : List Byte) : List Nat × List Nat × Nat :=
  let n := hDim0 h
  if sgn then (codesOf 4 n bs, [], 0)
  else match hFmt h with
    | 0x08 => ((codesOf 4 n bs).map fun c => sget 0 (hCb h * 16 + c) l.cb, [], 0)
    | 0x0A =>
      let rs := (codesOf 4 n bs).mapIdx fun k q =>
        let e := leNat ((sc.drop (4 * (k / hGroup h))).take 4)
        int4gDequant (sint 4 q) (sint 4 (e / 2 ^ 16)) (e % 2 ^ 16)
      (rs.map (·.1), [], rs.foldl (fun a r => a ||| r.2) 0)
    | f => (codesOf (fmtWidth f) n bs, sc.map (fun b => b.toNat), 0)

/-- Column j of a tile. -/
def WTile.setCol (w : WTile) (j : Nat) (cs ss : List Nat) : WTile :=
  { w with cols := sset [] j cs w.cols, scales := sset [] j ss w.scales }

/-! ## The products (03 R74-R77) -/

/-- The format in which a tile's codes stand: CB4 and INT4G hold BF16. -/
def tileFmt (tag : Nat) : Nat := if tag = 0x08 || tag = 0x0A then 0x02 else tag

/-- Blocks of n elements. -/
def blocks (n : Nat) : Nat → List Nat → List (List Nat)
  | 0, _ => []
  | k + 1, v => v.take n :: blocks n k (v.drop n)

/-- Extends codes with zeros to length n. -/
def padTo (n : Nat) (v : List Nat) : List Nat := v.take n ++ List.replicate (n - v.length) 0

/-- MXLUT's value of group g for nibble c. -/
def lutFloat (as : List Nat) (g c : Nat) : W32 × Nat := lutSum (((as.drop (4 * g)).take 4).map (decCode 0x02)) c
def lutInt (as : List Nat) (g c : Nat) : W32 :=
  (((as.drop (4 * g)).take 4).mapIdx fun i a =>
    BitVec.ofInt 32 (if c / 2 ^ i % 2 = 1 then -(sint 8 a) else sint 8 a)).foldl (· + ·) 0

/-- The partial sum of column j: activation codes of format hf (and scales) against the tile, over K (03 R74-R77). -/
def colSum (k hf : Nat) (w : WTile) (as sa : List Nat) (j : Nat) : W32 × Nat :=
  let a := padTo k as
  let c := padTo k (sget [] j w.cols)
  let wf := tileFmt w.tag
  if w.tag = tagSgn then
    (List.range (k / 4)).foldl (fun p g =>
      if hf = 0x09 then (p.1 + lutInt a g (c.getD g 0), 0)
      else
        let t := lutFloat a g (c.getD g 0)
        let r := fadd p.1 t.1
        (r.1, p.2 ||| t.2 ||| r.2)) (0, 0)
  else if hf = 0x09 then
    ((a.zip c).foldl (fun p x => p + BitVec.ofInt 32 (sint 8 x.1 * sint 8 x.2)) 0, 0)
  else if hf = 0x06 || hf = 0x07 then
    ((blocks 32 (k / 32) a).zip (blocks 32 (k / 32) c)).zipIdx.foldl (fun p x =>
      let t := blockDot (mxElem hf) (mxElem wf) x.1.1 x.1.2 (sa.getD x.2 127) ((sget [] j w.scales).getD x.2 127)
      let r := fadd p.1 t.1
      (r.1, p.2 ||| t.2 ||| r.2)) (0, 0)
  else
    (a.zip c).foldl (fun p x =>
      let r := peStep p.1 (decCode hf x.1) (decCode wf x.2)
      (r.1, p.2 ||| r.2)) (0, 0)

/-- Flags of the sixteen sums that MXLUT forms of every group of four, whatever the weights select (03 R77). -/
def groupFlags (k : Nat) (as : List Nat) : Nat :=
  (List.range (k / 4)).foldl (fun f g => (List.range 16).foldl (fun f c => f ||| (lutFloat (padTo k as) g c).2) f) 0

/-- Partial sums of one row, with flags. -/
def rowSums (k wd hf : Nat) (w : WTile) (as sa : List Nat) : Lanes × Nat :=
  let r := laneFlags ((List.range wd).map (colSum k hf w as sa))
  if w.tag = tagSgn && hf ≠ 0x09 then (r.1, r.2 ||| groupFlags k as) else r

/-! ## The accumulator (07 R165, R180) -/

/-- The bank row key and lane of logical row m, column j of a window (07 R165). -/
def accCell (l : Lease) (base rows m j : Nat) : Nat × Nat :=
  let pr := if l.ori then j / 128 else m / rows
  let pc := if l.ori then m / rows else j / 128
  (accKey l.die ((l.row + pr) * 4 + l.col + pc) (base + m % rows), j % 128)

/-- Plots that share a 128-column slice of the output. -/
def Lease.accQ (l : Lease) : Nat := if l.ori then shapeCols l.shape else shapeRows l.shape

def State.accGet (s : State) (c : Nat × Nat) : W32 := lane (sget zeroLanes c.1 s.accs) c.2
/-- Writes a cell; a write leaves no error in it (04 R96). -/
def State.accSet (s : State) (c : Nat × Nat) (v : W32) (int : Bool) : State :=
  let s : State :=
    { s with accs := sset zeroLanes c.1 ((sget zeroLanes c.1 s.accs).set c.2 v) s.accs, accInt := sset false c.1 int s.accInt }
  if s.cur.ct.bad.isEmpty then s
  else s.onCt fun ct => { ct with bad := ct.bad.filter fun b => b.file ≠ 6 || b.reg ≠ c.1 % 512 || b.word ≠ cellWord c }

/-- One column of a row of sums is written: cleared, or accumulated with one rounding or modulo 2^32 (03 R74, R75). -/
def accumulate (x : RowWrite) (a : ArrCmd) (j : Nat) (s : State) : Nat × State :=
  let c := accCell s.cur a.base a.rows x.row j
  let p := x.vals.getD j 0
  if x.clr then (0, s.accSet c p x.int)
  else match s.readCells [c] with
  | .error s => (0, s)
  | .ok s =>
    let o := s.accGet c
    if x.int then
      let e := o.toInt + p.toInt
      (if e < -2147483648 || 2147483647 < e then flagOF else 0, s.accSet c (o + p) true)
    else
      let r := fadd o p
      (r.2, s.accSet c r.1 false)

/-! ## The output chain (07 R171) -/

/-- One value through the stages: its OFMT code and flags. -/
def chainValue (g : OutCfg) (f : BitVec 8) (tab : Nat) (int : Bool) (j : Nat) (y : W32) : Nat × Nat :=
  let bias := f.getLsbD 5
  let act := f.getLsbD 4
  let rq := f.getLsbD 3
  if int && !bias && !act && !rq then cvt (decCode 0x0B y.toNat) g.ofmt g.osat
  else
    let y0 : W32 := if int then BitVec.ofNat 32 (cvt (decCode 0x0B y.toNat) 0x01 false).1 else y
    let r1 := if bias then fadd y0 (sget 0 j g.bias) else (y0, 0)
    let r2 := if act then (sget {} tab g.tabs : Table).eval r1.1 else (r1.1, 0)
    let r3 := if rq then fmul r2.1 (sget 0x3F800000 j g.scale) else (r2.1, 0)
    let c := cvt (dec32 r3.1) g.ofmt g.osat
    (c.1, r1.2 ||| r2.2 ||| r3.2 ||| c.2)

/-- The array's clock. -/
def Lease.avc (l : Lease) : Nat := l.vc - l.arrShift

def dstOf (f : BitVec 8) : Nat := (f.extractLsb' 1 2).toNat
def tabOf (imm : BitVec 20) : Nat := imm.toNat / 2 ^ 17 % 4
def mcntOf (imm : BitVec 20) : Nat := imm.toNat % 2048
def finOf (imm : BitVec 20) : Bool := imm.getLsbD 19

/-- Opcode of an array command. -/
def ArrKind.op : ArrKind → Nat
  | .mul => 3 | .lut => 4 | .bs => 6 | .drain => 7

/-- A finished row leaves through the chain to its destination; one for the data queue can be taken from the next mc (11 R265). -/
def emitRow (a : ArrCmd) (e : RowEmit) (s : State) : Nat × State :=
  let vs := e.vals.getD []
  let rs := vs.mapIdx fun j y => chainValue a.cfg a.f (tabOf a.imm) (e.ints.getD j false) j y
  let fl := rs.foldl (fun x r => x ||| r.2) 0
  let w := fmtWidth a.cfg.ofmt
  let codes := rs.map (·.1)
  if !e.emit then (0, s)
  else match dstOf a.f with
    | 0 =>
      let g := if a.kind = .bs then a.g2 else a.g
      (fl, s.cpWrite (hRowAt g e.plane e.out).toNat (bytesOf w (codes.take (hDim0 g))))
    | 1 =>
      let row : Lanes := (bytesOf w codes).map fun b => b.setWidth 32
      (fl, s.onCur fun l => { l with fifo := l.fifo ++ [row], fifoAt := l.fifoAt ++ [l.vc] })
    | _ =>
      let bs := bytesOf w codes
      let n := 128 * s.cur.n
      let v := bytesLanes n (bs ++ List.replicate (4 * n - bs.length) 0)
      let d : Done := { stream := .cp, sig := 0, slot := a.slot, op := a.kind.op, q := .vpush v, due := s.datum }
      (fl, s.onCur fun l => { l with doneQ := l.doneQ ++ [d] })

/-! ## What the array does at the start of a vc -/

def Lease.arrCmd? (l : Lease) (seq : Nat) : Option ArrCmd := l.arr.find? (fun a => a.seq = seq)
def State.onArr (s : State) (seq : Nat) (f : ArrCmd → ArrCmd) : State :=
  s.onCur fun l => { l with arr := l.arr.map fun a => if a.seq = seq then f a else a }

/-- Where a row of the chain goes: 0 a tensor, 1 a FIFO, 2 the data queue; none for a masked row. -/
def Lease.rowDst (l : Lease) (e : RowEmit) : Option Nat := if e.emit then (l.arrCmd? e.cmd).map fun a => dstOf a.f else none

/-- Rows in their order as far as they find places, f of the FIFO and d of the data queue, and the rows from the first that finds none. -/
def Lease.fitRows (l : Lease) : Nat → Nat → List RowEmit → List RowEmit × List RowEmit
  | _, _, [] => ([], [])
  | f, d, e :: r =>
    let go (f d : Nat) : List RowEmit × List RowEmit := let x := l.fitRows f d r; (e :: x.1, x.2)
    match l.rowDst e with
    | some 1 => if f = 0 then ([], e :: r) else go (f - 1) d
    | some 2 => if d = 0 then ([], e :: r) else go f (d - 1)
    | _ => go f d

/-- Rows due for emission in this vc: those that find places, and those from the first that finds none. The places that earlier VPUSHes
have reserved count as taken (07 R183, R184). -/
def Lease.dueRows (l : Lease) : List RowEmit × List RowEmit :=
  l.fitRows (8 - l.fifo.length) (16 - (l.dqOut.length + l.queued_ PendQ.isPush)) (l.rowE.filter fun e => e.due ≤ l.avc)

/-- The first row without a place goes to destination dst. -/
def Lease.rowStuck (l : Lease) (dst : Nat) : Bool :=
  match l.dueRows.2 with | e :: _ => l.rowDst e = some dst | [] => false

/-- Chain back-pressure of 07 R184. -/
def Lease.backPressure (l : Lease) : Bool := l.rowStuck 2
/-- A row that its full FIFO holds (07 R183). -/
def Lease.fifoHeld (l : Lease) : Bool := l.rowStuck 1

/-- A write of this vc: a vector result or a column of sums (07 R166: in issue order). -/
inductive VcWrite where
  | pend (p : Pend)
  | col (x : RowWrite)

def VcWrite.seq : VcWrite → Nat
  | .pend p => p.seq
  | .col x => x.cmd

/-- The column of a row's sums that the array writes at its time v. -/
def writeColAt (v : Nat) (s : State) (x : RowWrite) : State :=
  match s.cur.arrCmd? x.cmd with
  | none => s
  | some a =>
    let (f, s) := accumulate x a (v - x.due) s
    s.onArr x.cmd fun a => { a with flags := a.flags ||| f }

def writeOne (s : State) : VcWrite → State
  | .pend p => s.finishPend p
  | .col x => writeColAt s.cur.avc s x

/-- All writes due at this vc, in issue order. -/
def vcWrites (array : Bool) (s : State) : State :=
  let l := s.cur
  let ps := (l.pend.filter (fun p => p.due ≤ l.vc)).map VcWrite.pend
  let cs := if array then (l.rowW.filter (fun x => x.due ≤ l.avc)).map VcWrite.col else []
  let s := (sortBy VcWrite.seq (ps ++ cs)).foldl writeOne s
  s.onCur fun l =>
    { l with pend := l.pend.filter (fun p => !(p.due ≤ l.vc)),
             rowW := if array then l.rowW.filter (fun x => !(x.due + l.width ≤ l.avc + 1)) else l.rowW }

/-- Values of an accumulator row, and the kind of the bank row that holds each column (07 R180). -/
def accRowVals (s : State) (a : ArrCmd) (m : Nat) : Lanes × List Bool :=
  let cs := (List.range s.cur.width).map fun j => accCell s.cur a.base a.rows m j
  (cs.map s.accGet, cs.map fun c => sget false c.1 s.accInt)

/-- Rows are read for emission; MXDRAIN with CLR clears them (07 R171, R180). The clear of a row stands after every other write of
its vc, as its read does (DESIGN CHOICE, log entry 78). -/
def readRow (s : State) (e : RowEmit) : State :=
  match s.cur.arrCmd? e.cmd with
  | none => s
  | some a => match s.readCells ((List.range s.cur.width).map fun j => accCell s.cur a.base a.rows e.row j) with
  | .error s => s
  | .ok s =>
    let (vs, k) := accRowVals s a e.row
    let s := s.onCur fun l => { l with rowE := l.rowE.map fun x =>
      if x.cmd = e.cmd && x.readAt = e.readAt && x.out = e.out then { x with vals := some vs, ints := if a.kind = .drain then k else x.ints } else x }
    if a.kind = .drain && a.f.getLsbD 7 then
      (List.range s.cur.width).foldl (fun s j => s.accSet (accCell s.cur a.base a.rows e.row j) 0 false) s
    else s

/-- What the array writes to the accumulator at its time v, and the rows that it reads there. -/
def arrayAt (v : Nat) (s : State) : State :=
  let s := (s.cur.rowW.filter fun x => x.due ≤ v && v < x.due + s.cur.width).foldl (writeColAt v) s
  (s.cur.rowE.filter fun e => e.vals.isNone && e.readAt ≤ v).foldl readRow s

/-- The results that an array held by a full queue owes the accumulator are written, in the array's own order (16 R379, R387). -/
def finishRows (s : State) : State :=
  let l := s.cur
  let last := l.rowW.foldl (fun m x => Nat.max m (x.due + l.width)) l.avc
  ((List.range (last - l.avc)).foldl (fun s k => arrayAt (l.avc + k) s) s).onCur fun l => { l with rowW := [] }

def emitDue (s : State) (e : RowEmit) : State :=
  match s.cur.arrCmd? e.cmd with
  | none => s
  | some a =>
    let (f, s) := emitRow a e s
    s.onArr e.cmd fun a => { a with flags := a.flags ||| f }

/-- A command of the array completes: its flags and signals; MXBS leaves both weight buffers empty (07 R179). -/
def finishArr (s : State) (a : ArrCmd) : State :=
  let s := s.flag a.flags
  let s := if a.kind = .bs then s.onCur fun l => { l with wact := {}, wshd := {}, rowprog := 0 } else s
  s.addDone { stream := .cp, sig := a.sig, slot := a.slot, op := a.kind.op, vc := s.cur.vc, seq := a.seq, due := s.datum }

/-- A configuration write or a selection completes (07 R175, 13 R327): the selections land and the counts rise. -/
def finishCfg (s : State) (c : CfgCmd) : State :=
  let s := match c.cfg with
    | some g => s.onCur fun l => { l with cfg := g }
    | none => s
  let s := s.cpFlush c.seq
  let s := c.selCnt.foldl (fun s e =>
    let k := c.selRec + 0x440 + 4 * e
    (s.cpWrite k (leBytes (leNat (s.cpBytes k 4) + 1) 4)).settle (s.cur.winKey k)) s
  s.addDone { stream := .cp, sig := c.sig, slot := c.slot, op := c.op, vc := s.cur.vc, seq := c.seq, due := s.datum }

/-- A weight load completes. -/
def finishLoad (s : State) (x : LoadCmd) : State :=
  let s := (s.flag x.flags).onCur fun l =>
    { l.noRaces (x.seq + 4) with wshd := { l.wshd with tag := if x.sgn then tagSgn else hFmt x.g }, load := none, rowprog := 0 }
  s.addDone { stream := .cp, sig := x.sig, slot := x.slot, op := 1, vc := s.cur.vc, seq := x.seq, due := s.datum }

/-- The array's part of a vc before CP issues: reads for emission, emissions and completions. -/
def arrayStart (s : State) : State :=
  let l := s.cur
  let s := (l.rowE.filter (fun e => e.vals.isNone && e.readAt ≤ l.avc)).foldl readRow s
  let now := s.cur.rowE.filter (fun e => e.due ≤ l.avc)
  let s := now.foldl emitDue s
  let s := s.onCur fun l => { l with rowE := l.rowE.filter (fun e => !(e.due ≤ l.avc)) }
  let fin := s.cur.arr.filter fun a => match a.doneAt with | some d => decide (d ≤ l.avc) | none => false
  let s := fin.foldl finishArr s
  s.onCur fun l => { l with arr := l.arr.filter fun a => !(fin.any (fun b => b.seq = a.seq)) }

/-- Rows that find places go, before one that finds none (07 R183, R184). -/
def emitFitting (s : State) : State :=
  let (now, rest) := s.cur.dueRows
  (now.foldl emitDue s).onCur fun l => { l with rowE := rest ++ l.rowE.filter fun e => !(e.due ≤ l.avc) }

/-- The start of a vc: results are written (06 R134), then the array moves unless its FIFO holds a row (07 R183), then
configuration writes and loads complete. In a pause by chain back-pressure the rows before the one without a place go (R184). -/
def vcStart (s : State) : State :=
  if s.cur.pause then (if s.cur.backPressure then emitFitting s else s)
  else
    let held := s.cur.fifoHeld
    let s := vcWrites (!held) s
    let s := if held then (emitFitting s).onCur fun l => { l with arrHeld := true } else arrayStart s
    let due := s.cur.cfgQ.filter (fun c => c.op ≠ 2 && c.due ≤ s.cur.vc)
    let s := due.foldl finishCfg s
    let s := s.onCur fun l => { l with cfgQ := l.cfgQ.filter (fun c => !(c.op ≠ 2 && c.due ≤ l.vc)) }
    match s.cur.load with
    | some x => (match x.doneAt with
      | some d => if d ≤ s.cur.vc then finishLoad s x else s
      | none => s)
    | none => s

/-- Results and array events of the lease's vc. -/
def execVectorWriteback (l : Nat) (s : State) : Out := .next (onLease l s vcStart)

/-! ## Intake at the end of a vc (07 R167, R177-R179) -/

/-- Row r of H as codes and scales; beyond DIM1, zeros. -/
def actRow (s : State) (h : Handle) (r : Nat) : List Nat × List Nat :=
  if r < hDim1 h then (codesOf (fmtWidth (hFmt h)) (hDim0 h) (s.winRow h 0 r), (s.winScale h 0 r).map (fun b => b.toNat))
  else ([], [])

/-- A row enters the array at the array's present time: its sums are on their way, and its emission when the command emits. -/
def enterRow (a : ArrCmd) (row out plane : Nat) (emit : Bool) (as sa : List Nat) (s : State) : State :=
  let l := s.cur
  let now := l.avc
  let extra := if a.kind = .lut then 4 else 0
  let (vs, fl) := rowSums l.kLen l.width (hFmt a.h) l.wact as sa
  let int := hFmt a.h = 0x09
  let w : RowWrite := RowWrite.mk a.seq row (now + l.kLen + 3 + extra) vs (a.f.getLsbD 7) int
  let rd := now + l.kLen + l.width + 2 + extra
  let e : RowEmit := RowEmit.mk a.seq row out plane rd (rd + 6) emit none (List.replicate l.width int)
  let s := s.onCur fun l => { l with rowW := l.rowW ++ [w], rowE := if a.emits then l.rowE ++ [e] else l.rowE }
  s.onArr a.seq fun a => { a with taken := a.taken + 1, lastIn := now, flags := a.flags ||| fl }

/-- Completion time after a row that enters now (07 R167). -/
def lastDone (l : Lease) (a : ArrCmd) : Nat :=
  l.avc + l.kLen + l.width + (if a.emits then 8 else 2) + (if a.kind = .lut then 4 else 0)

/-- Takes the head of the incoming chain FIFO, which stands with the parcel before it; rows enter it at vc f and leave it later. -/
def popFifo (s : State) : Option (List Byte × State) :=
  match s.cur.chin.bind s.lease? with
  | none => none
  | some p =>
    match p.fifo, p.fifoAt with
    | r :: rest, t :: ts =>
      if t < s.cur.vc then
        some (r.map (fun x => x.setWidth 8), asLease p.id s fun s => s.onCur fun l => { l with fifo := rest, fifoAt := ts })
      else none
    | _, _ => none

/-- The next row of MXMUL or MXLUT, if it enters in this vc. -/
def mulIntake (a : ArrCmd) (s : State) : State :=
  let now := s.cur.avc
  let free := a.taken = 0 || a.lastIn < now
  if !(a.t + a.taken ≤ now && free) then s
  else
    let s := if finOf a.imm then
        match popFifo s with
        | none => s
        | some (bs, s) =>
          enterRow a a.taken a.taken 0 true (codesOf (fmtWidth (hFmt a.h)) (bs.length * 8 / fmtWidth (hFmt a.h)) bs) [] s
      else
        let (as, sa) := actRow s a.h a.taken
        enterRow a a.taken a.taken 0 true as sa s
    match s.cur.arrCmd? a.seq with
    | some b => if b.taken = a.mcnt then s.onArr a.seq fun x => { x with doneAt := some (lastDone s.cur x) } else s
    | none => s

/-- vc between entries of MXBS. -/
def bsStride (l : Lease) : Nat := Nat.max 64 (l.width / 2 + 8)

/-- The tile of an expert; one beyond the planes of the weights is a tile of zeros, whose sums are +0 (DESIGN CHOICE, log entry 79). -/
def loadTile (s : State) (h : Handle) (e : Nat) : WTile :=
  if hDim2 h ≤ e then { tag := hFmt h }
  else (List.range (Nat.min s.cur.width (hDim1 h))).foldl (fun w j =>
    let r := decodeCol s.cur h false (s.winRow h e j) (s.winScale h e j)
    w.setCol j r.1 r.2.1) { tag := hFmt h }

def entExpert (e : Nat) : Nat := e / 2 ^ 96 % 2 ^ 16
def entSlot (e : Nat) : Nat := e / 2 ^ 112 % 2 ^ 16
def entBlk (e : Nat) : Nat := e / 2 ^ 64 % 2 ^ 32

/-- Table entry b (13 R330). -/
def bsEntry (s : State) (a : ArrCmd) (b : Nat) : Nat := leNat (s.cpBytes (hRowAt a.g1 0 b).toNat 16)

/-- Row i of entry e is emitted (07 R179). -/
def bsEmits (a : ArrCmd) (e i : Nat) : Bool :=
  e / 2 ^ i % 2 = 1 && 64 * entBlk e + i < hDim1 a.g2 && entExpert e < hDim2 a.g && entSlot e < hDim2 a.g2

/-- One vc of MXBS: at the start of a load slot an entry is read and its tile loaded, and the tile loaded before is swapped in;
a row of the entry before enters. `mcnt` is the first entry, `entry` counts the entries read. -/
def bsIntake (a : ArrCmd) (s : State) : State :=
  let l := s.cur
  let st := bsStride l
  let n := hDim1 a.g1
  if l.avc < a.t then s
  else
    let k := (l.avc - a.t) / st
    let i := (l.avc - a.t) % st
    let b0 := a.mcnt
    let s := if i = 0 then
        let s := s.onCur fun l => { l with wact := l.wshd }
        let s := s.onArr a.seq fun x => { x with ent := x.entNext }
        let s := if 0 < k then s.onCur fun l => { l with rowprog := b0 + k - 1 } else s
        if b0 + k < n then
          let e := bsEntry s a (b0 + k)
          let t := loadTile s a.g (entExpert e)
          (s.onCur fun l => { l with wshd := t }).onArr a.seq fun x => { x with entNext := e, entry := b0 + k + 1 }
        else s
      else s
    if 0 < k && i < 64 then
      match s.cur.arrCmd? a.seq with
      | none => s
      | some a' =>
        let r := 64 * entBlk a'.ent + i
        let (as, sa) := actRow s a.h r
        let s := enterRow a' i r (entSlot a'.ent) (bsEmits a a'.ent i) as sa s
        if b0 + k = n && i = 63 then s.onArr a.seq fun x => { x with doneAt := some (lastDone s.cur x) } else s
    else s

/-! ## The weight load in flight (07 R172, R173) -/

/-- The global bytes of a row: element bytes and scale bytes, as (address, count). -/
def loadRanges (h : Handle) (j : Nat) : List (Nat × Nat) :=
  [((hRowAt h 0 j).toNat, hRowBytes h)] ++ (if fmtScaled (hFmt h) then [(hScaleAt h 0 j, hScaleRow h)] else [])

/-- A column is written into the shadow buffer. -/
def writeCol (s : State) (x : LoadCmd) (j : Nat) (bs sc : List Byte) : State :=
  let (cs, ss, fl) := decodeCol s.cur x.g x.sgn bs sc
  s.onCur fun l => { l with wshd := l.wshd.setCol j cs ss, load := l.load.map fun x => { x with flags := x.flags ||| fl } }

/-- Checks the granules of a global row as reads of CP; the mc at which its data arrives. With `ex` the row's read is performed
unchecked (07 R173). -/
def globalRow (ex : Bool) (x : LoadCmd) : List Nat → Nat → State → Except (AccRes × Nat) (Nat × State)
  | [], due, s => .ok (due, s)
  | va :: r, due, s =>
    let a : Access := { st := .cp, kind := .read, scope := 0, va := va, scr := false, late := true, slot := x.slot, cmd := some x.seq, exempt := ex }
    let mc := s.globalMc va
    match s.accessGlobal a false with
    | .ok t s =>
      if t.tier = 3 && (s.farPeek t 1).isNone then .error (.waits (s.farAsk .cp t va), va)
      else globalRow ex x r (Nat.max due (s.datum + mc)) s
    | e => .error (e, va)

/-- Requests row j from global memory (07 R172), or meets its fault (07 R173). -/
def requestRow (x : LoadCmd) (s : State) : State :=
  let gs := (loadRanges x.g x.next).flatMap fun q => granulesOf q.1 q.2
  let stopLate (c : Cause) (i : List W64) (s : State) : State :=
    (s.stopStream .cp c i true false).onCur fun l => { l with load := l.load.map fun y => { y with late := true } }
  let ex := s.cur.rsupWord .cp x.slot
  let link := gs.any fun va => match s.trOf va with | some t => isHostKey t.key && s.lineOf t.key = 0 | none => false
  match globalRow ex x gs (s.datum + 1) s with
  | .ok (due, s) =>
    let s := if ex then s.rsupDone else s
    s.onCur fun l =>
      { l with load := l.load.map fun y => { y with next := y.next + 1, out := y.out ++ [(x.next, due)],
                                                       onLink := if link then y.onLink ++ [x.next] else y.onLink }, rowprog := x.next + 1 }
  | .error (.refuse c i race s, va) =>
    stopLate c (if race then i
      else [s.ringWord .cp x.slot, trapInfo1 x.slot 3 .cp 0, BitVec.ofNat 64 x.next, BitVec.ofNat 64 va]) s
  | .error (.park c m tier s, va) =>
    (s.park .cp c ((if m then 1 else 0) + 8) va x.next x.slot tier (some x.seq)).onCur fun l =>
      { l with load := l.load.map fun y => { y with parked := true } }
  | .error (.isolate s, va) => s.isolation .cp va
  | .error (.waits s, _) => s
  | .error (.ok _ s, _) => s

/-- One vc of a load: the next row is read from scratchpad or requested from global memory. The rows of zeros of a load from global
memory are written one per vc, as its rows are requested, and its completion is fixed behind them (DESIGN CHOICE, log entry 80). -/
def loadStep (s : State) : State :=
  let l := s.cur
  match l.load with
  | none => s
  | some x =>
    if x.doneAt.isSome && hSpace x.g ≠ spScratch then s
    else if l.width ≤ x.next then
      if hSpace x.g ≠ spScratch && x.out.isEmpty && x.doneAt.isNone then
        s.onCur fun l => { l with load := some { x with doneAt := some (l.vc + if x.pro then 12 else 8) } }
      else s
    else if hDim1 x.g ≤ x.next then
      s.onCur fun l => { l with wshd := l.wshd.setCol x.next [] [], load := some { x with next := x.next + 1 }, rowprog := x.next + 1 }
    else if hSpace x.g = spScratch then
      let s := writeCol s x x.next (s.winRow x.g 0 x.next) (s.winScale x.g 0 x.next)
      s.onCur fun l => { l with load := l.load.map fun y => { y with next := x.next + 1 }, rowprog := x.next + 1 }
    else if s.faulted .cp || (l.cp.stop.isSome && x.late) || l.saving then s
    else requestRow { x with parked := false, late := false } (s.onCur fun l => { l with load := some { x with parked := false, late := false } })

/-- The data of row j of lease l's load arrives: its column is written, and after the last row the completion is fixed. -/
def execMxldRowArrival (l j : Nat) (s : State) : Out :=
  .next (onLease l s fun s =>
    match s.cur.load with
    | none => s
    | some x =>
      if !(x.out.any (fun o => o.1 = j)) then s
      else
        let rd (q : Nat × Nat) : List Byte := if x.lost.contains j then List.replicate q.2 0xFF else s.rowData q.1 q.2
        let bs := ((loadRanges x.g j).map rd)
        match s.input 2 x.slot bs.flatten fun _ => false with
        | none => s
        | some (all, s) =>
        let s := (loadRanges x.g j).foldl (fun s q => s.forgetRow q.1 q.2) s
        let n := (bs.getD 0 []).length
        let s := writeCol s x j (all.take n) (all.drop n)
        s.onCur fun l => { l with load := l.load.map fun y =>
          let out := y.out.filter (fun o => o.1 ≠ j)
          { y with out := out, onLink := y.onLink.filter (fun k => k ≠ j), lost := y.lost.filter (fun k => k ≠ j),
                   doneAt := if out.isEmpty && l.width ≤ y.next then some (l.vc + if y.pro then 12 else 8) else y.doneAt } })

/-! ## The end of a vc -/

/-- A save stops MXBS before its next entry, and a command of a chain FIFO at its next row (16 R379). -/
def ArrCmd.stopsNow (a : ArrCmd) (l : Lease) : Bool :=
  l.saving && (match a.kind with
    | .bs => l.avc ≤ a.t || (l.avc - a.t) % bsStride l = 0
    | _ => finOf a.imm || (a.emits && dstOf a.f = 1))

/-- The command stops with its progress: MXBS at the entry whose rows come next. -/
def stopArr (a : ArrCmd) (s : State) : State :=
  let l := s.cur
  let next := if a.kind = .bs && a.t < l.avc then a.mcnt + (l.avc - a.t) / bsStride l - 1 else a.mcnt
  (s.onArr a.seq fun x => { x with stopped := true, mcnt := next }).onCur fun l =>
    if a.kind = .bs then { l with rowprog := next } else l

/-- Intake of a command in this vc. -/
def intake (s : State) (a : ArrCmd) : State :=
  if a.stopped then s
  else if a.stopsNow s.cur then stopArr a s
  else match a.kind with
    | .bs => bsIntake a s
    | _ => mulIntake a s

/-- Rows enter, weight rows are read, and an MXSWAP of this vc takes effect after them (07 R169). -/
def vcEnd (s : State) : State :=
  if s.cur.pause then s
  else
    let s := if s.cur.arrHeld then s.onCur fun l => { l with arrShift := l.arrShift + 1, arrHeld := false }
      else (s.cur.arr.filter ArrCmd.feeding).foldl intake s
    let s := loadStep s
    let sw := s.cur.cfgQ.filter (fun c => c.op = 2)
    let s := sw.foldl (fun s c => (s.onCur fun l => { l with wact := l.wshd, wshd := l.wact }).addDone
      { stream := .cp, sig := c.sig, slot := c.slot, op := 2, vc := s.cur.vc, seq := c.seq, due := s.datum }) s
    s.onCur fun l => { l with cfgQ := l.cfgQ.filter (fun c => c.op ≠ 2) }

/-- A row leaves a chain FIFO for the array, and the other intake of the vc. -/
def execChainRowEnter (l : Nat) (s : State) : Out := .next (onLease l s vcEnd)

/-! ## The words -/

/-- The array time at which a word issued now starts. -/
def Lease.arrNow (l : Lease) : Nat := l.avc

/-- The destination's requirements (07 R171). -/
def dstBad (l : Lease) (f : BitVec 8) (g : Handle) (mcnt : Option Nat) : Option Cause :=
  if !f.getLsbD 6 then none
  else match dstOf f with
    | 0 =>
      orElseC (l.handleCheck g) (firstBad [(hSpace g ≠ spScratch, .handleInvalid), (hFmt g ≠ l.cfg.ofmt, .formatInvalid),
        (l.width < hDim0 g || (match mcnt with | some m => decide (hDim1 g < m) | none => false), .illegalOperand)])
    | 1 => firstBad [(l.chout.isNone, .illegalOperand), (!chainFmt l.cfg.ofmt, .formatInvalid)]
    | _ => none

/-- Window acc: BASE, ROWS (04 R92). -/
def Lease.window (l : Lease) (acc : BitVec 4) : Nat × Nat := (winBase (l.accWin acc.toNat), winRows (l.accWin acc.toNat))

/-- The activation handle's requirements (07 R177); the bounds of its scale plane come before them (DESIGN CHOICE, log entry 98). -/
def actBad (l : Lease) (h : Handle) (fin : Bool) (mcnt : Nat) : Option Cause :=
  if fin then firstBad [(l.chin.isNone, .illegalOperand), (!chainFmt (hFmt h), .formatInvalid)]
  else orElseC (l.cpHandle h) (firstBad [(!l.scaleOk h, .scratchBounds), (l.kLen < hDim0 h || hDim1 h < mcnt, .illegalOperand)])

/-- Bytes of rows 0 to n − 1 of a handle's plane and of its scale rows, as (address, count). -/
def rowSpans (h : Handle) (p n : Nat) : List (Nat × Nat) :=
  ((List.range n).map fun r => ((hRowAt h p r).toNat, hRowBytes h)) ++
  (if fmtScaled (hFmt h) then (List.range n).map fun r => (hScaleAt h p r, hScaleRow h) else [])

/-- Race checks of spans read, then of spans written. -/
def spansCheck (slot : Nat) (rd wr : List (Nat × Nat)) (s : State) : Except (Cause × List W64 × State) State :=
  let gs (qs : List (Nat × Nat)) : List Nat := qs.flatMap fun q => granulesOf q.1 q.2
  scratchCheck .cp slot 0 (asKind .read (gs rd) ++ asKind .write (gs wr)) s

/-- Rows written by a command with a tensor destination. -/
def outSpans (f : BitVec 8) (g : Handle) (n : Nat) : List (Nat × Nat) := if dstTensor f then rowSpans g 0 n else []

/-- The issue of MXMUL or MXLUT (07 R177, R178). -/
def issueMul (kind : ArrKind) (t : Tok) (h g acc : BitVec 4) (f : BitVec 8) (imm : BitVec 20) (s : State) : CpRes :=
  let l := s.cur
  let hh := s.handle h.toNat
  let gh := s.handle g.toNat
  let (base, rows) := l.window acc
  let m := mcntOf imm
  let fin := finOf imm
  let tag := l.wact.tag
  let bad := orElseC (firstBad [
      (kind = .mul && (tag = 0 || tag = tagSgn), .illegalOperand), (kind = .lut && tag ≠ tagSgn, .formatInvalid),
      (rows = 0 || rows * l.accQ < m, .regBounds)])
    (orElseC (actBad l hh fin m) (orElseC (firstBad [
      (if kind = .lut then !(hFmt hh = 0x02 || hFmt hh = 0x09) else !pairOk (hFmt hh) tag, .formatInvalid)])
      (dstBad l f gh (some m))))
  match bad with
  | some c => .refuse c 0
  | none =>
    match spansCheck (l.curSlot .cp) (if fin then [] else rowSpans hh 0 m) (outSpans f gh m) s with
    | .error (c, i, s) => .refuseWith c i s
    | .ok s =>
      let (k, s) := s.takeSeq
      let a : ArrCmd :=
        { seq := k, kind := kind, t := l.arrNow, slot := l.curSlot .cp, sig := t.sig, f := f, imm := imm, base := base,
          rows := rows, h := hh, g := gh, cfg := l.cfg, mcnt := m }
      .ok (s.onCur fun l => { l with arr := l.arr ++ [a] })

def execMxmul (t : Tok) (h g acc : BitVec 4) (f : BitVec 8) (imm : BitVec 20) (s : State) : Out :=
  cpWord (.mxmul t h g acc f imm) t (issueMul .mul t h g acc f imm) s
def execMxlut (t : Tok) (h g acc : BitVec 4) (f : BitVec 8) (imm : BitVec 20) (s : State) : Out :=
  cpWord (.mxlut t h g acc f imm) t (issueMul .lut t h g acc f imm) s

/-- The spans MXBS reads and writes, from its table as it stands at issue. -/
def bsSpans (s : State) (a : ArrCmd) (b0 : Nat) : List (Nat × Nat) × List (Nat × Nat) :=
  let es := ((List.range (hDim1 a.g1)).drop b0).map fun b => ((hRowAt a.g1 0 b).toNat, bsEntry s a b)
  let rows (e : Nat) : List Nat := (List.range 64).map fun i => 64 * entBlk e + i
  let row (h : Handle) (p r : Nat) : List (Nat × Nat) :=
    ((hRowAt h p r).toNat, hRowBytes h) :: (if fmtScaled (hFmt h) then [(hScaleAt h p r, hScaleRow h)] else [])
  (es.flatMap fun e => (e.1, 16) ::
      ((if entExpert e.2 < hDim2 a.g then (List.range (hDim1 a.g)).flatMap (row a.g (entExpert e.2)) else []) ++
       ((rows e.2).filter (fun r => r < hDim1 a.h)).flatMap (row a.h 0)),
   es.flatMap fun e => ((List.range 64).filter (bsEmits a e.2)).flatMap fun i => row a.g2 (entSlot e.2) (64 * entBlk e.2 + i))

/-- Row progress as MXBS finds it (07 R164, R179): that of an interrupted walk, and not the rows of a load or the entries of a walk
that is under way. -/
def Lease.bsStart (l : Lease) : Nat := if l.load.isSome || l.arr.any (fun a => a.kind = .bs) then 0 else l.rowprog

/-- The issue of MXBS (07 R179); it goes on behind the entries that an interrupted walk completed. -/
def issueBs (t : Tok) (h g acc : BitVec 4) (f : BitVec 8) (imm : BitVec 20) (s : State) : CpRes :=
  let l := s.cur
  let hh := s.handle h.toNat
  let g0 := s.handle g.toNat
  let g1 := s.handle (g.toNat + 1)
  let g2 := s.handle (g.toNat + 2)
  let (base, rows) := l.window acc
  let wf := hFmt g0
  let bad := orElseC (firstBad [(rows = 0 || rows * l.accQ < 64, .regBounds)])
    (orElseC (actBad l hh false 0) (orElseC (l.cpHandle g0) (orElseC (firstBad [
        (!l.scaleOk g0, .scratchBounds), (!weightFmt wf || wf = 0x08 || wf = 0x0A || !pairOk (hFmt hh) wf, .formatInvalid),
        (l.kLen < hDim0 g0 || l.width < hDim1 g0, .illegalOperand)])
      (orElseC (l.cpHandle g1) (orElseC (firstBad [(hFmt g1 ≠ 0x0C, .formatInvalid), (hDim0 g1 < 16, .illegalOperand)])
        (dstBad l f g2 none))))))
  match bad with
  | some c => .refuse c 0
  | none =>
    let b0 := l.bsStart
    let a : ArrCmd :=
      { seq := 0, kind := .bs, t := l.arrNow, slot := l.curSlot .cp, sig := t.sig, f := f, imm := imm, base := base,
        rows := rows, h := hh, g := g0, g1 := g1, g2 := g2, cfg := l.cfg, mcnt := b0,
        doneAt := if hDim1 g1 ≤ b0 then some (l.arrNow + 1) else none }
    let (rd, wr) := bsSpans s a b0
    match spansCheck (l.curSlot .cp) rd wr s with
    | .error (c, i, s) => .refuseWith c i s
    | .ok s =>
      let (k, s) := s.takeSeq
      .ok (s.onCur fun l => { l with arr := l.arr ++ [{ a with seq := k }] })

def execMxbs (t : Tok) (h g acc : BitVec 4) (f : BitVec 8) (imm : BitVec 20) (s : State) : Out :=
  cpWord (.mxbs t h g acc f imm) t (issueBs t h g acc f imm) s

/-- The issue of MXDRAIN (07 R180): row m is read at t + m and emitted at t + m + 8. -/
def issueDrain (t : Tok) (g acc : BitVec 4) (f : BitVec 8) (imm : BitVec 20) (s : State) : CpRes :=
  let l := s.cur
  let gh := s.handle g.toNat
  let (base, rows) := l.window acc
  let m := mcntOf imm
  match orElseC (firstBad [(rows = 0 || rows * l.accQ < m, .regBounds)]) (dstBad l f gh (some m)) with
  | some c => .refuse c 0
  | none =>
    match spansCheck (l.curSlot .cp) [] (outSpans f gh m) s with
    | .error (c, i, s) => .refuseWith c i s
    | .ok s =>
      let (k, s) := s.takeSeq
      let now := l.arrNow
      let a : ArrCmd :=
        { seq := k, kind := .drain, t := now, slot := l.curSlot .cp, sig := t.sig, f := f, imm := imm, base := base, rows := rows,
          g := gh, cfg := l.cfg, mcnt := m, taken := m, doneAt := some (now + m + 7) }
      let es := (List.range m).map fun r => RowEmit.mk k r r 0 (now + r) (now + r + 8) true none []
      let s := s.onCur fun l => { l with arr := l.arr ++ [a], rowE := l.rowE ++ es }
      .ok ((es.take 1).foldl readRow s)

def execMxdrain (t : Tok) (g acc : BitVec 4) (f : BitVec 8) (imm : BitVec 20) (s : State) : Out :=
  cpWord (.mxdrain t g acc f imm) t (issueDrain t g acc f imm) s

/-- MXLD (07 R172): checks at issue; from scratchpad it completes at t + W + 8, or t + W + 12 with PRO. The bounds of its scale plane
are checked after its requirements (DESIGN CHOICE, log entry 98). -/
def issueLoad (t : Tok) (g : BitVec 4) (pro sgn : BitVec 1) (s : State) : CpRes :=
  let l := s.cur
  let h := s.handle g.toNat
  let f := hFmt h
  let bad := orElseC (l.handleCheck h) (firstBad [
    (hSpace h = spRemote || hSpace h = spView, .handleInvalid),
    ((sgn = 1 && f ≠ 0x0C) || (sgn = 0 && !weightFmt f) || (decide (pro = 1) != (f = 0x08 || f = 0x0A)), .formatInvalid),
    (l.width < hDim1 h || (if sgn = 1 then l.kLen / 4 else l.kLen) < hDim0 h, .illegalOperand),
    (!l.scaleOk h, .scratchBounds)])
  match bad with
  | some c => .refuse c 0
  | none =>
    let rd := if hSpace h = spScratch then rowSpans h 0 (hDim1 h) else []
    match spansCheck (l.curSlot .cp) rd [] s with
    | .error (c, i, s) => .refuseWith c i s
    | .ok s =>
      let (k, s) := s.takeSeq
      let x : LoadCmd :=
        { seq := k, t := l.vc, slot := l.curSlot .cp, sig := t.sig, g := h, pro := pro = 1, sgn := sgn = 1,
          doneAt := if hSpace h = spScratch then some (l.vc + l.width + (if pro = 1 then 12 else 8)) else none }
      .ok (s.onCur fun l => { l with load := some x, rowprog := 0 })

def execMxld (t : Tok) (g : BitVec 4) (pro sgn : BitVec 1) (s : State) : Out :=
  cpWord (.mxld t g pro sgn) t (issueLoad t g pro sgn) s

/-- MXSWAP: the exchange serves rows that enter after this vc (07 R169, R174). -/
def execMxswap (t : Tok) (s : State) : Out :=
  cpWord (.mxswap t) t (fun s =>
    let l := s.cur
    let (k, s) := s.takeSeq
    let c : CfgCmd := { seq := k, due := l.vc, slot := l.curSlot .cp, op := 2, sig := t.sig }
    .ok (s.onCur fun l => { l with cfgQ := l.cfgQ ++ [c] })) s

/-- An activation table from its 528-byte record (07 R176); none where LO is not finite or a reserved byte is set. -/
def readTable (b : List Byte) : Option Table :=
  let lo : W32 := BitVec.ofNat 32 (recLe b 0 4)
  let fin := match dec32 lo with | .fin .. => true | _ => false
  if !fin || ((b.drop 5).take 11).any (fun x => x ≠ 0) then none
  else
    let co (off k : Nat) : W32 := BitVec.ofNat 32 (recLe b (off + 8 * k) 4)
    some
      { lo := lo, wexp := sint 8 (recLe b 4 1),
        a := (List.range 64).foldl (fun m k => sset 0x3F800000 k (co 0x10 k) m) [],
        b := (List.range 64).foldl (fun m k => sset 0 k (co 0x14 k) m) [] }

/-- The configuration that an item gives (07 R175): none is a record refused with ILLEGAL_OPERAND. -/
def cfgItem (l : Lease) (item imm : Nat) (b : List Byte) : Option OutCfg :=
  let vs := bytesLanes l.width b
  match item with
  | 0 => some { l.cfg with bias := vs.zipIdx.foldl (fun m x => sset 0 x.2 x.1 m) [] }
  | 1 => some { l.cfg with scale := vs.zipIdx.foldl (fun m x => sset 0x3F800000 x.2 x.1 m) [] }
  | 2 => (readTable b).map fun x => { l.cfg with tabs := sset {} (imm % 4) x l.cfg.tabs }
  | _ => some { l.cfg with ofmt := imm % 64, osat := imm / 64 % 2 = 1 }

/-- A vector or record of MXCFG: the checks of 04 R88 that read no DIM field, then SPACE and FMT, then the bytes read (07 R175). -/
def cfgBad (l : Lease) (h : Handle) (fmt n : Nat) : Option Cause :=
  firstBad [(hFmt h = 0, .handleInvalid), (!fmtDefined (hFmt h), .formatInvalid), (hDd h ≠ 0 || hDp h ≠ 0, .handleInvalid),
    (hSpace h ≠ spScratch, .handleInvalid), (hFmt h ≠ fmt, .formatInvalid), (!l.winOk (hBase h) (hBase h + n), .scratchBounds)]

/-- The issue of MXCFG (07 R175). One that meets a race in TRAP mode is refused with it, though 07 R186 names no race among its causes:
07 R168 gives it a race check and 10 R253 and R260 refuse what meets one (DEDUCED, log entry 97). -/
def issueCfg (t : Tok) (h : BitVec 4) (imm : BitVec 20) (s : State) : CpRes :=
  let l := s.cur
  let hh := s.handle h.toNat
  let item := imm.toNat / 2 ^ 16
  let n := if item = 2 then 528 else 4 * l.width
  match if item = 3 then none else cfgBad l hh (if item = 2 then 0x0C else 0x01) n with
  | some c => .refuse c 0
  | none =>
    match spansCheck (l.curSlot .cp) (if item = 3 then [] else [(hBase hh, n)]) [] s with
    | .error (c, i, s) => .refuseWith c i s
    | .ok s =>
      match cfgItem l item (imm.toNat % 2 ^ 16) (if item = 3 then [] else s.cpBytes (hBase hh) n) with
      | none => .refuseWith .illegalOperand (s.issueInfo .cp .illegalOperand 0) s
      | some g =>
        let (k, s) := s.takeSeq
        let c : CfgCmd :=
          { seq := k, due := l.vc + (if item = 3 then 1 else 16), slot := l.curSlot .cp, op := 5, sig := t.sig, cfg := some g }
        .ok (s.onCur fun l => { l with cfgQ := l.cfgQ ++ [c] })

def execMxcfg (t : Tok) (h : BitVec 4) (imm : BitVec 20) (s : State) : Out :=
  cpWord (.mxcfg t h imm) t (issueCfg t h imm) s

/-! ## Accumulator moves (07 R181, R182) -/

/-- The window's checks for row offset r. -/
def accBad (l : Lease) (acc : BitVec 4) (r : Nat) : Option Cause :=
  let w := l.window acc
  firstBad [(w.2 = 0, .regBounds), (w.2 ≤ r, .illegalOperand)]

/-- A pending write of bank rows. -/
def State.addAcc (s : State) (i : Instr) (t : Tok) (ws : List (Nat × Lanes)) (clr : Bool) : State :=
  let s := s.addPend i t ws 0 .none
  s.onCur fun l => { l with pend := l.pend.dropLast ++ (l.pend.getLast?.map fun p => { p with accRow := some (0, clr) }).toList }

def execMxzero (t : Tok) (acc : BitVec 4) (s : State) : Out :=
  cpWord (.mxzero t acc) t (fun s =>
    let l := s.cur
    let (base, rows) := l.window acc
    if rows = 0 then .refuse .regBounds 0
    else
      let ws := l.plots.flatMap fun q => (List.range rows).map fun r => (accKey l.die q (base + r), zeroLanes)
      .ok (s.addAcc (.mxzero t acc) t ws true)) s

def execMxrd (t : Tok) (acc : BitVec 4) (v : BitVec 8) (r : BitVec 9) (s : State) : Out :=
  cpWord (.mxrd t acc v r) t (fun s =>
    let l := s.cur
    match accBad l acc r.toNat with
    | some c => .refuse c 0
    | none => match s.readRegs .cp [(6, (l.window acc).1 + r.toNat)] with
    | .error s => .halts s
    | .ok s =>
      let row := (l.window acc).1 + r.toNat
      let x := l.plots.flatMap fun q => sget zeroLanes (accKey l.die q row) s.accs
      .ok (s.addPend (.mxrd t acc v r) t (l.vecWrites v.toNat x) 0 .none)) s

def execMxwr (t : Tok) (acc : BitVec 4) (v : BitVec 8) (r : BitVec 9) (s : State) : Out :=
  cpWord (.mxwr t acc v r) t (fun s =>
    let l := s.cur
    match accBad l acc r.toNat with
    | some c => .refuse c 0
    | none =>
      let row := (l.window acc).1 + r.toNat
      let x := s.vec v
      let ws := l.plots.zipIdx.map fun q => (accKey l.die q.1 row, (x.drop (128 * q.2)).take 128)
      .ok (s.addAcc (.mxwr t acc v r) t ws false)) s

end Sys2Proof.Machine
end

