-- ==== Sys2Proof/Machine/LsOps.lean ====
section
/-! DEFINITION. LsOps.lean: what LD and SD commands share: the walk of a command (09 R211, R221-R224, R231), footprints and their
edges (09 R212-R216), completion, late refusals and parking (09 R218, R219), and the movement of walk bytes (09 R217). -/

namespace Sys2Proof.Machine

/-! ## Commands of the lease in focus -/

def Lease.cmd? (l : Lease) (k : Nat) : Option Cmd := l.cmds.find? (fun c => c.seq = k)
def State.onCmd (s : State) (k : Nat) (f : Cmd → Cmd) : State :=
  s.onCur fun l => { l with cmds := l.cmds.map fun c => if c.seq = k then f c else c }

/-! ## Footprints (09 R212-R214) -/

/-- Granules from byte a to before byte b. -/
def mkRange (space : Nat) (a b : Int) (written : Bool) : FpRange :=
  let lo := a.toNat / 64
  let n := (b.toNat + 63) / 64 - lo
  { space := space, gran := lo, ng := Nat.min n 0xFFFFF, written := written }

/-- The range of a handle's extent, with its scale plane; none for an empty tensor. -/
def hRange (h : Handle) (scale written : Bool) : List FpRange :=
  match hExtent h with
  | none => []
  | some (a, b) =>
    let c := (hBase h : Int) + hScaleOff h
    let n := hScaleBytes h
    if scale && n ≠ 0 then [mkRange (hSpace h) (intMin a c) (intMax b (c + n)) written] else [mkRange (hSpace h) a b written]

/-- Two ranges overlap (09 R214). -/
def FpRange.meets (x y : FpRange) : Bool :=
  x.space = y.space && (x.space = spRemote ||
    ((y.ng = 0xFFFFF || x.gran < y.gran + y.ng) && (x.ng = 0xFFFFF || y.gran < x.gran + x.ng)))

/-- An edge joins the two footprints (09 R214). -/
def fpEdge (x y : List FpRange) : Bool := x.any fun a => y.any fun b => a.meets b && (a.written || b.written)
def fpOverlap (x y : List FpRange) : Bool := x.any fun a => y.any fun b => a.meets b

/-- A 73-bit range of an entry (09 R213). -/
def FpRange.bits (x : FpRange) : Nat := x.space * 2 ^ 71 + x.gran % 2 ^ 51 * 2 ^ 20 + x.ng

/-- The ranges of a command's footprint entry (09 R213): RANGE0 the first range that is read, RANGE1 the first that is written, RANGE2
the next of either (DEDUCED, log entry 87); a RATOM's are its target and DH (21 R414). -/
def Cmd.fpRanges (c : Cmd) : List (Option FpRange) :=
  if c.kind = .ratom then [c.fp[0]?, c.fp[1]?, none]
  else
    let rd := c.fp.find? fun x => !x.written
    let wr := c.fp.find? fun x => x.written
    [rd, wr, c.fp.find? fun x => some x ≠ rd && some x ≠ wr]

/-- The 256-bit footprint entry of a command (09 R213); WR and RVAL have bit k for RANGE k. -/
def Cmd.fpEntry (c : Cmd) (aid : Nat) : List Byte :=
  let rs := c.fpRanges
  let mask (f : Option FpRange → Bool) : Nat := rs.foldr (fun r n => 2 * n + if f r then 1 else 0) 0
  let rng (k : Nat) : Nat := match rs.getD k none with | some x => x.bits | none => 0
  leBytes (2 ^ 255 + mask (fun r => r.any fun x => x.written) * 2 ^ 252 + mask (fun r => r.isSome) * 2 ^ 249 + aid * 2 ^ 237 +
    c.mseq * 2 ^ 221 + rng 2 * 2 ^ 146 + rng 1 * 2 ^ 73 + rng 0) 32

/-- Commands whose edges lead to a new footprint. -/
def Lease.edgesTo (l : Lease) (fp : List FpRange) : List Nat :=
  (l.cmds.filter (fun c => fpEdge c.fp fp)).map (fun c => c.seq)

/-! ## Walks -/

/-- Bytes of one run or queue entry. -/
def runBytes (c : Cmd) : Nat :=
  match c.kind with
  | .pattern | .patternIn | .patternOut => patN c 0
  | .card => patN c 4
  | .copyOut | .scatOut | .rwriteOut | .rwinOut | .gath | .scat => hRowBytes c.dst
  | _ => hRowBytes c.src

/-- Element bytes of the walk: the runs end there and a scale plane follows. -/
def elemBytes (c : Cmd) : Nat :=
  match c.kind with
  | .copy | .rread | .rwrite | .rwin => hWalkBytes c.src
  | _ => c.total

/-- Bytes left in the run at i. -/
def runLeft (c : Cmd) (i : Nat) : Nat :=
  if i < elemBytes c then Nat.min (elemBytes c - i) (runBytes c - i % runBytes c) else c.total - i

def Loc.left : Loc → Nat
  | .scr a => 64 - a % 64
  | .glob a _ => 64 - a % 64
  | .far a => 64 - a % 64
  | .fill i => 8 - i
  | _ => 64

/-- Walk byte j belongs to the same access to its granule as byte j − 1: it lies in that granule beyond it, or for a remote handle's side
directly behind it (10 R240). -/
def Cmd.sameAccess (c : Cmd) (side : Cmd → Nat → Loc) (j : Nat) : Bool :=
  j < c.total && (match side c (j - 1), side c j with
    | .scr a, .scr b => a / 64 = b / 64 && a < b
    | .glob a v, .glob b w => a / 64 = b / 64 && a < b && v = w
    | .far a, .far b => a / 64 = b / 64 && b = a + 1
    | _, _ => false)

/-- Walk bytes of one access to a granule from byte i on, through the runs that meet in it. -/
def Cmd.granSpan (c : Cmd) (side : Cmd → Nat → Loc) : Nat → Nat → Nat
  | 0, _ => 0
  | fuel + 1, i =>
    let n := Nat.min (runLeft c i) (side c i).left
    if c.sameAccess side (i + n) then n + c.granSpan side fuel (i + n) else n

/-- Walk byte at which a command began: a card's RESUME (09 R218, R231). -/
def Cmd.first (c : Cmd) : Nat := if c.kind = .card then patN c 9 else 0

def Loc.sameGran : Loc → Loc → Bool
  | .scr a, .scr b => a / 64 = b / 64
  | .glob a v, .glob b w => a / 64 = b / 64 && v = w
  | _, _ => false

/-! ## Completion -/

/-- The edges that leave command c at its completion: its agent releases, and the agents of the later commands acquire (09 R214,
10 R237, R251). -/
def State.releaseEdges (s : State) (c : Cmd) : State :=
  let later := (s.cur.cmds.filter fun x => x.deps.contains c.seq).map (·.stream)
  if later.isEmpty then s
  else
    let (v, s) := s.release c.stream c.slot
    later.eraseDups.foldl (fun s st => s.acquire st v) s

/-- Command k completes: its entry is freed, the edges from it are released, its flags are set and its signals act at the end of
the mc (09 R212, R214, R235). -/
def State.finishCmd (s : State) (k : Nat) (bit : Option Bool) : State :=
  match s.cur.cmd? k with
  | none => s
  | some c =>
    let s := (s.flag c.flags).releaseEdges c
    let s := s.onCur fun l =>
      { l.noRaces (k + 4) with retries := l.retries.filter (fun r => r.2 ≠ k), cmds := (l.cmds.filter (fun x => x.seq ≠ k)).map fun x => { x with deps := x.deps.filter (fun d => d ≠ k) } }
    s.addDone { stream := c.stream, sig := c.sig, slot := c.slot, op := c.op, vc := s.cur.vc, bit := bit, seq := k, due := s.datum }

/-- A card completes: STATUS where asked, in a replay only inside the window (15 R364); the JOB completes with its last card (09 R231,
R232). -/
def State.finishCard (s : State) (c : Cmd) : State :=
  let s := (if patN c 1 % 2 = 1 && (s.cur.replay.isNone || hSpace c.aux = spScratch) then s.cardWrite c 4 (leBytes 1 4) else s).releaseEdges c
  let s := s.onCur fun l =>
    { l with retries := l.retries.filter (fun r => r.2 ≠ c.seq), cmds := (l.cmds.filter (fun x => x.seq ≠ c.seq)).map fun x =>
      { x with deps := x.deps.filter (fun d => d ≠ c.seq), total := if x.seq = c.parent then x.total - 1 else x.total } }
  match s.cur.cmd? c.parent with
  | some j => if j.total = 0 then s.finishCmd j.seq none else s
  | none => s

/-! ## Late refusals and parking (09 R218, R219) -/

/-- The stream of command k stops at a refusal found after issue, with the command in its retry register. A stream already
stopped leaves it waiting. -/
def State.lateStop (s : State) (k : Nat) (cause : Cause) (i : List W64) : State :=
  match s.cur.cmd? k with
  | none => s
  | some c =>
    let x := s.cur.stream c.stream
    if x.stop.isSome || x.retry.isSome then s
    else (s.stopStream c.stream cause i true false).onStream c.stream fun x => { x with retry := some k }

/-- TRAPINFO of a late refusal other than a race (16 R368). -/
def Cmd.lateInfo (c : Cmd) (a : Nat) : List W64 :=
  [c.word, trapInfo1 c.slot 3 c.stream 0, BitVec.ofNat 64 c.offset, BitVec.ofNat 64 a]

/-- A recoverable fault of command c at va. -/
def State.parkCmd (s : State) (c : Cmd) (cause : Cause) (malformed : Bool) (k : AccKind) (va tier : Nat) : State :=
  let fl := (if malformed then 1 else 0) + (match k with | .read => 0 | .write => 2 | .atomic => 4) + (if c.kind = .card then 16 else 0)
  (s.park c.stream cause fl va c.offset c.slot tier (some c.seq)).onCmd c.seq fun c => { c with parked := true }

/-- A fault entry of command k is unresolved. -/
def State.cmdFaulted (s : State) (k : Nat) : Bool :=
  let q := s.part s.cur.part
  (q.faultWait ++ q.faultOpen).any fun e => e.lease = s.cur.id && e.cmd = some k

/-- What a command's access that did not pass leaves. -/
def State.cmdStop (s : State) (c : Cmd) (k : AccKind) (va : Nat) : AccRes → State
  | .ok _ s => s
  | .waits s => s
  | .refuse cause i race s' =>
    (if (s.cur.stream c.stream).stop.isSome && cause ≠ .uncorrectable then s else s').lateStop c.seq cause (if race then i else c.lateInfo va)
  | .park cause m tier s => s.parkCmd c cause m k va tier
  | .isolate s => s.isolation c.stream va

/-! ## Accesses -/

/-- The access of command c at a byte. -/
def Cmd.access (c : Cmd) (k : AccKind) (va : Nat) : Access :=
  { st := c.stream, kind := k, scope := c.scope, va := va, scr := false, late := true, slot := c.slot, cmd := some c.seq }

/-- A granule is reached: checked and recorded when `fresh`, else only translated again. -/
def touchLoc (c : Cmd) (k : AccKind) (loc : Loc) (fresh : Bool) (s : State) : AccRes :=
  match loc with
  | .scr a => if fresh then s.accessScratch (c.access k a) else .ok ⟨4, 0, s.cur.winKey a, 127, 0⟩ s
  | .glob va view =>
    if fresh || s.cur.replay.isSome then s.accessGlobal (c.access k va) view
    else match s.translate s.cur.part s.cur.die va k view with
      | (.ok t, s) => .ok t s
      | (.waits, s) => .waits s
      | (.fault .pagePermission _ _, s) => .refuse .pagePermission [] false s
      | (.fault .isolation _ _, s) => .isolate s
      | (.fault cause m t, s) => .park cause m t s
  | _ => .ok ⟨5, 0, 0, 127, 0⟩ s

/-- The bank of a window byte among the 32 of each plot of the parcel (08 R189, R190). -/
def Lease.bankOf (l : Lease) (a : Nat) : Nat := a / 512 % (32 * l.n)

/-- The copy engine's access holds the byte's line, and so its bank, in the next mc (DEDUCED, log entry 47); `id` names the access. -/
def State.holdBank (s : State) (id a : Nat) : State :=
  s.onCur fun l => if l.banks.contains (a / 512, id) then l else { l with banks := (a / 512, id) :: l.banks }

/-- The bank of a window byte serves another copy-engine access in this mc (08 R190). -/
def Lease.bankTaken (l : Lease) (id a : Nat) : Bool :=
  l.banks.any fun b => l.bankOf (512 * b.1) = l.bankOf a && (b.2 ≠ id || b.1 ≠ a / 512)

/-- The accesses of a command to a window: 0 its reads, 1 its writes. -/
def State.copyId (s : State) (c : Cmd) (side : Nat) : Nat := (s.cur.id * 2 ^ 32 + c.seq) * 2 + side

/-- The n bytes at a location. -/
def readLoc (c : Cmd) (loc : Loc) (t : Tr) (n : Nat) (s : State) : List Byte × State :=
  match loc with
  | .scr a => (s.winBytes a n, s.holdBank (s.copyId c 0) a)
  | .glob _ view => s.readTr t n view
  | .dq => (c.buf.take n, s)
  | .absent => let (k, s) := s.nextFree; ((List.range n).map fun i => Config.freeByte (k * 64 + i), s)
  | .fill i => (((List.range n).map fun k => BitVec.ofNat 8 (patN c 8 / 256 ^ ((i + k) % 8))), s)
  | _ => (List.replicate n 0, s)

def writeLoc (c : Cmd) (loc : Loc) (t : Tr) (bs : List Byte) (s : State) : State :=
  match loc with
  | .scr a => (s.winWrite a bs).holdBank (s.copyId c 1) a
  | .glob _ view => s.writeTr t bs view
  | _ => s

def Loc.va : Loc → Nat
  | .scr a => a | .glob a _ => a | .far a => a | _ => 0

/-! ## Queue sides (09 R221) -/

/-- Only the oldest command of a stream with a queue side moves (09 R221). -/
def Lease.dqTurn (l : Lease) (c : Cmd) : Bool :=
  !(l.cmds.any fun x => x.stream = c.stream && x.seq < c.seq &&
    (x.kind.fromDq || x.kind.toDq || x.kind = .atomvOut) && (x.kind.fromDq = c.kind.fromDq || x.kind = .atomvOut || c.kind = .atomvOut))

/-- The bytes of a queue entry. -/
def entryBytes (v : Lanes) : List Byte := lanesBytes v

/-- Drops the queue entries of rows that a SCAT skips, up to the next row it moves (09 R224). -/
def State.skipRows (s : State) (k : Nat) : State :=
  match s.cur.cmd? k with
  | none => s
  | some c =>
    if c.kind ≠ .scatOut || (c.offset < c.total && c.offset % runBytes c ≠ 0) then s
    else
      let next := if c.total ≤ c.offset then c.imm else (idxSrc c (c.offset / runBytes c)).toNat
      let n := Nat.min (next - c.sent) s.cur.dqOut.length
      (s.onCur fun l => { l with dqOut := l.dqOut.drop n }).onCmd k fun c => { c with sent := c.sent + n }

/-- At the start of a run of a queue side: an entry is taken, unless the run already has one, or a free place is needed. None: it
waits. -/
def dqBegin (c : Cmd) (s : State) : Option State :=
  if c.offset % runBytes c ≠ 0 || (c.kind.fromDq && !c.buf.isEmpty) then some s
  else if c.kind = .scatOut && c.sent < (idxSrc c (c.offset / runBytes c)).toNat then
    none
  else if c.kind.fromDq then
    match s.cur.dqOut with
    | [] => none
    | v :: r => some ((s.onCur fun l => { l with dqOut := r }).onCmd c.seq fun c => { c with buf := (entryBytes v).take (runBytes c), sent := c.sent + 1 })
  else if c.kind.toDq then (if 16 ≤ s.cur.dqIn.length then none else some s)
  else some s

/-- At the end of a run: the entry enters the queue. -/
def dqEnd (k : Nat) (s : State) : State :=
  match s.cur.cmd? k with
  | none => s
  | some c =>
    if c.kind.toDq && c.offset % runBytes c = 0 then
      let n := 128 * s.cur.n
      let v := bytesLanes n (c.buf ++ List.replicate (4 * n - c.buf.length) 0)
      (s.onCur fun l => { l with dqIn := l.dqIn ++ [v] }).onCmd k fun c => { c with buf := [] }
    else s

/-! ## Remote sides (09 R229) -/

/-- The lease a window write inside the package reaches: same partition and top-left plot on the target die (09 R229). -/
def State.winTarget (s : State) (die : Nat) : Option Lease :=
  s.leases.find? fun l => !l.prologue && l.part = s.cur.part && l.die = die && l.row = s.cur.row && l.col = s.cur.col &&
    (l.st = .running || l.st = .parked)

/-- Command c waits for the answer to a request that leaves the package; `virt` is the address that a page table of the package translated
for it. -/
def State.askFar (s : State) (c : Cmd) (to_ : Nat × Nat) (virt : Option Nat) (kind va data cmp : Nat) (bs : List Byte) : State :=
  let n := s.nextReq
  let l := s.cur
  let r : Req :=
    { num := 0, lease := l.id, aid := l.aidOf c.stream, part := l.part, die := l.die, kind := .load, va := va, key := 0,
      size := data, atHome := false, due := 0, cmd := some c.seq, virt := virt }
  ((s.addReq r).onCmd c.seq fun c => { c with nextReq := some n }).sendFabric to_.1 to_.2 (l.aidOf c.stream) kind n va data cmp bs

/-- A request to a remote handle's package (17 R394). -/
def State.sendFar (s : State) (c : Cmd) (kind va data cmp : Nat) (bs : List Byte) : State :=
  match s.farPkg (hDp (if kind = 1 || kind = 12 then c.dst else c.src)) with
  | none => s.lateStop c.seq .remoteUnreachable (c.lateInfo va)
  | some x => s.askFar c x none kind va data cmp bs

/-- The field die of a place offset, where the issuing die can reach it (02 R41, 17 R420). -/
def State.dieAt (s : State) (dd : Int) : Option Nat :=
  let d := (s.cur.die : Int) + dd
  if 0 ≤ d && d ≤ 7 && s.joined s.cur.die d.toNat then some d.toNat else none

/-- The field die of a place offset in another package (02 R41). -/
def State.farDie (s : State) (dd : Int) : Option Nat :=
  let d := (s.cur.die : Int) + dd
  if 0 ≤ d && d ≤ 7 then some d.toNat else none

/-- A chunk written into a window of the package (09 R229): checked as an access of the issuing agent at the target. It waits while the
target's group stands stopped (15 R355). -/
def windowWrite (c : Cmd) (off : Nat) (bs : List Byte) (s : State) : Except State State :=
  match (s.dieAt (hDd c.dst)).bind s.winTarget with
  | none => .error (s.lateStop c.seq .remoteUnreachable (c.lateInfo off))
  | some t =>
    let id := s.copyId c 1
    if !t.winOk off (off + bs.length) then .error (s.lateStop c.seq .scratchBounds (c.lateInfo off))
    else if t.bankTaken id off then .error s
    else if t.frozen && !(s.groupOf t).contains s.cur.id then .error s
    else
      let key := t.winKey off
      match s.raceCheck { c.access .write off with scr := true } key with
      | .error (cause, i, s) => .error (s.lateStop c.seq cause i)
      | .ok s =>
        let own := (s.groupOf t).contains s.cur.id
        let log (s : State) : State := if own then s else ((s.input 4 (s.landSlot t off) bs fun _ => false).map (·.2)).getD s
        let s := asLease t.id s fun s => (log s).holdBank id off
        .ok { s with mem := writeBytes s.mem key bs }

/-! ## Moving bytes (09 R217) -/

/-- Command c may go on among those of its stream that retry faulted accesses (11 R287). -/
def Lease.retryTurn (l : Lease) (c : Cmd) : Bool :=
  match l.retries.find? fun r => r.1 = c.stream with
  | some r => r.2 = c.seq
  | none => true

/-- The command is held on a data queue: another's turn, no entry, or no place (16 R379). -/
def State.queueHeld (s : State) (c : Cmd) : Bool := (c.kind.fromDq || c.kind.toDq) && (!s.cur.dqTurn c || (dqBegin c s).isNone)

/-- A command or card that was moving at a stop edge, inside its segment: it goes on to the segment's end, or as far as its data queue
lets it, before the dump is written (15 R355). -/
def State.endsSegment (s : State) (c : Cmd) : Bool :=
  (s.part s.cur.part).dbg.edge.isSome && c.kind.moves && !s.queueHeld c && c.offset % 65536 ≠ 0

/-- Nothing but an answer or the time keeps the command: no fault, trap, edge, stop, or earlier retry of its stream. -/
def State.cmdMay (s : State) (c : Cmd) : Bool :=
  let x := s.cur.stream c.stream
  !(c.kind = .card && c.sent = 0) && c.deps.isEmpty && !s.cmdFaulted c.seq && (!s.cur.frozen || s.endsSegment c) &&
  !(x.retry = some c.seq && x.stop.isSome) && s.cur.retryTurn c

/-- The command may go on now. -/
def State.cmdGoes (s : State) (c : Cmd) : Bool := s.cmdMay c && c.nextReq.isNone && c.ready ≤ s.datum

/-- A retry command goes on after ERET (09 R219). -/
def State.unretry (s : State) (c : Cmd) : State :=
  let s := if (s.cur.stream c.stream).retry = some c.seq then s.onStream c.stream fun x => { x with retry := none } else s
  if c.parked then s.onCmd c.seq fun c => { c with parked := false } else s

/-- What a command does in an mc; once it has moved on, or has met its next fault, its retry is over (11 R287). -/
def cmdStep (k : Nat) (f : State → State) (s : State) : State :=
  let t := f s
  if !(s.cur.retries.any fun r => r.2 = k) then t
  else match s.cur.cmd? k, t.cur.cmd? k with
    | some a, some b =>
      if a.offset = b.offset && a.buf = b.buf && !t.cmdFaulted k then t
      else t.onCur fun l => { l with retries := l.retries.filter fun r => r.2 ≠ k }
    | _, _ => t

/-- The bytes after the present chunk's end have been performed. The bytes that a command with no queue destination holds are those
that come next. -/
def State.advanceCmd (s : State) (k n : Nat) : State :=
  dqEnd k (s.onCmd k fun c => { c with offset := c.offset + n, buf := if c.kind.toDq then c.buf else c.buf.drop n })

def Loc.outside : Loc → Bool
  | .glob .. => true
  | .far _ => true
  | _ => false

/-- Bytes that a command of LD or a job card brings in from outside the windows are inputs of the log (15 R364). -/
def chunkIn (c : Cmd) (i : Nat) (bs : List Byte) (s : State) : Option (List Byte × State) :=
  if (cmdSrc c i).outside && !(cmdDst c i).outside && (c.stream = .ld || c.kind = .card) then
    s.input c.stream.index c.slot bs fun sl => s.cur.cmds.any fun x => x.seq ≠ c.seq && x.stream = c.stream && x.slot = sl
  else some (bs, s)

/-- Walk byte i is the first of its granule that the command reaches on a side. -/
def Cmd.reaches (c : Cmd) (side : Cmd → Nat → Loc) (i : Nat) : Bool := i = c.first || !(side c (i - 1)).sameGran (side c i)

/-- Writes bytes that lie in one run and one destination granule: true when it is done at once. Requests that leave the package are
naturally aligned and of 64 bytes at most (17 R392), but for those into a window. -/
def storeBytes (c : Cmd) (i : Nat) (bs : List Byte) (s : State) : Bool × State :=
  match cmdDst c i with
  | .dq => (true, (s.onCmd c.seq fun c => { c with buf := c.buf ++ bs }).advanceCmd c.seq bs.length)
  | .far va =>
    if s.cur.replay.isSome then (true, s.advanceCmd c.seq bs.length)
    else if c.kind = .rwin || c.kind = .rwinOut then
      if hDp c.dst = 0 then
        match windowWrite c va bs s with
        | .error s => (false, s)
        | .ok s => (true, s.advanceCmd c.seq bs.length)
      else match s.farDie (hDd c.dst) with
        | none => (false, s.lateStop c.seq .remoteUnreachable (c.lateInfo va))
        | some d => (false, s.sendFar c 12 va bs.length (d * 16 + s.cur.row * 4 + s.cur.col) bs)
    else let bs := bs.take (fabricLen va bs.length); (false, s.sendFar c 1 va bs.length 0 bs)
  | d =>
    let taken := match d with | .scr a => s.cur.bankTaken (s.copyId c 1) a | _ => false
    if taken then (false, s)
    else match touchLoc c .write d (c.reaches cmdDst i) s with
    | .ok t s =>
      if t.tier = 3 then
        let bs := bs.take (fabricLen d.va bs.length)
        (false, s.askFar c (s.leafPkg t) (some d.va) 33 t.farAddr bs.length 0 bs)
      else (true, (writeLoc c d t bs s).advanceCmd c.seq bs.length)
    | r => (false, s.cmdStop c .write d.va r)

/-- Writes bytes of one destination granule, run after run, as one access (10 R240). -/
def storeSpan (k : Nat) : Nat → List Byte → State → Bool × State
  | 0, _, s => (true, s)
  | fuel + 1, bs, s =>
    match s.cur.cmd? k with
    | none => (true, s)
    | some c =>
      if bs.isEmpty then (true, s)
      else
        let n := match cmdDst c c.offset with | .far _ => bs.length | d => Nat.min (runLeft c c.offset) d.left
        match storeBytes c c.offset (bs.take n) s with
        | (true, s) => storeSpan k fuel (bs.drop n) s
        | r => r

/-- What the read of a source granule gives. -/
inductive Gather where
  | got (bs : List Byte) (s : State)
  | waits (s : State)
  | stops (s : State)

/-- Reads the bytes of the run at walk byte j that lie in its source granule. -/
def gatherRun (c : Cmd) (j : Nat) (s : State) : Gather :=
  let sl := cmdSrc c j
  let n := Nat.min (runLeft c j) sl.left
  let taken := match sl with | .scr a => s.cur.bankTaken (s.copyId c 0) a | _ => false
  if taken then .waits s
  else match sl with
  | .far va =>
    if s.cur.replay.isSome then (match chunkIn c j (List.replicate n 0) s with | some (bs, s) => .got bs s | none => .waits s)
    else .waits (s.sendFar c 0 va (fabricLen va n) 0 [])
  | _ =>
    match touchLoc c .read sl (c.reaches cmdSrc j) s with
    | .waits s => .waits s
    | .ok t s' =>
      let r : Option (List Byte × State) := if t.tier = 3 then (s'.farPeek t n).map fun bs => (bs, s'.farForget t) else some (readLoc c sl t n s')
      match r with
      | none => .waits (s'.farAsk c.stream t sl.va)
      | some (bs, s') => match chunkIn c j bs s' with
        | some (bs, s') => .got bs s'
        | none => .waits s
    | r => .stops (s.cmdStop c .read sl.va r)

/-- Reads, in one piece, the bytes from walk byte j on that lie in its source granule, run after run (10 R240). -/
def gather (c : Cmd) (j : Nat) : Nat → State → Gather
  | 0, s => gatherRun c j s
  | fuel + 1, s =>
    match gatherRun c j s with
    | .got bs s =>
      if bs.isEmpty || c.kind.toDq || !c.sameAccess cmdSrc (j + bs.length) then .got bs s
      else match gather c (j + bs.length) fuel s with
        | .got cs s => .got (bs ++ cs) s
        | _ => .got bs s
    | r => r

/-- Bytes of the destination granule at walk byte i: they are written in one piece (10 R240), up to the end of the segment when the
lease is being saved (09 R218). -/
def partLen (c : Cmd) (i : Nat) (saving : Bool) : Nat :=
  let n := c.granSpan cmdDst 64 i
  if saving then Nat.min n (65536 - i % 65536) else n

/-- One step of command k: a source granule is read, or a destination granule within `budget` is written: the bytes performed, or none
when it cannot go on. Bytes before a refused or faulting source granule are performed. -/
def moveChunk (k budget : Nat) (s : State) : Option Nat × State :=
  match s.cur.cmd? k with
  | none => (none, s)
  | some c0 =>
    if c0.total ≤ c0.offset then (none, s)
    else match dqBegin c0 s with
      | none => (none, s)
      | some s =>
        match s.cur.cmd? k with
        | none => (none, s)
        | some c =>
          let i := c.offset
          let have_ := if c.kind.toDq then 0 else c.buf.length
          let need := partLen c i s.cur.saving
          let put (bs : List Byte) (s : State) : Option Nat × State :=
            let (done, s) := storeSpan k 64 bs s
            (if done then some bs.length else none, s)
          if budget < need then (none, s)
          else if need ≤ have_ then put (c.buf.take need) s
          else match gather c (i + have_) 64 s with
            | .got bs s =>
              let bs := if c.lost then bs.map fun _ => 0xFF#8 else bs
              let s := if c.lost then s.onCmd k fun c => { c with lost := false } else s
              if c.kind.toDq then put bs s else (some 0, s.onCmd k fun c => { c with buf := c.buf ++ bs })
            | .waits s => (none, s)
            | .stops s' => if have_ ≠ 0 then put c.buf s else (none, s')

/-- Moves up to `budget` bytes, in at most `fuel` steps. -/
def moveBytes (k : Nat) : Nat → Nat → State → State
  | 0, _, s => s
  | fuel + 1, budget, s =>
    if budget = 0 then s
    else match moveChunk k budget s with
      | (none, s) => s
      | (some n, s) => moveBytes k fuel (budget - n) s

/-- The last walk byte has been performed. -/
def State.walkEnd (s : State) (k : Nat) : State :=
  match s.cur.cmd? k with
  | none => s
  | some c =>
    if !c.kind.moves || c.offset < c.total || (c.kind = .scatOut && c.sent < c.imm) then s
    else if c.kind = .card then s.finishCard c
    else s.finishCmd k c.bit

/-! ## Issue -/

/-- A command of the word at the issue slot. -/
def State.newCmd (s : State) (t : Tok) (kind : CmdKind) (scope : BitVec 2) : Cmd :=
  let st := s.curStream
  { seq := s.cur.nextSeq, stream := st, slot := s.cur.curSlot st, word := s.curWord st, kind := kind, scope := scope.toNat, sig := t.sig,
    op := opcodeOf (s.curWord st), ready := s.datum + 1 }

/-- mc from the engine to the home of a destination byte (08 R196). -/
def State.storeMc (s : State) (loc : Loc) : Nat :=
  match loc with
  | .glob va _ => (match s.trOf va with | some t => if t.tier = 3 then 0 else arriveMc (dieHops s.cur.die (keyHome t.key)) | none => 0)
  | _ => 0

/-- mc to the first byte at a global address (08 R196). -/
def State.latencyOf (s : State) (loc : Loc) : Nat :=
  match loc with
  | .glob va _ => Nat.max 1 (s.globalMc va)
  | _ => 1

/-- mc from the issue of a command to its first byte: it has been read, and for a move has come to the home of its destination
(08 R196, 09 R217). -/
def State.moveMc (s : State) (c : Cmd) : Nat :=
  s.latencyOf (cmdSrc c 0) + if c.kind.moves && !c.kind.toDq then s.storeMc (cmdDst c c.offset) else 0

/-- Accepts a memory command: one of 16 footprint entries, with the edges that lead to it (09 R212, R214). -/
def acceptCmd (c : Cmd) (s : State) : LsRes :=
  if s.cur.fpFull then .wait s
  else
    let c := { c with deps := s.cur.edgesTo c.fp, ready := s.datum + s.moveMc c, mseq := s.cur.memSeq }
    .ok (s.onCur fun l => { l with nextSeq := l.nextSeq + 1, memSeq := (l.memSeq + 1) % 65536, cmds := l.cmds ++ [c] })

/-- A command that moves nothing completes one mc after issue (09 R235), with its end marker. -/
def emptyCmd (t : Tok) (bit : Option Bool) (s : State) : LsRes :=
  let st := s.curStream
  let (k, s) := s.takeSeq
  .ok (s.addDone
    { stream := st, sig := t.sig, slot := s.cur.curSlot st, op := opcodeOf (s.curWord st), vc := s.cur.vc, bit := bit, seq := k,
      due := s.datum + 1 })

/-- Refused by the first check that fails, else f. -/
def checked (bad : Option Cause) (f : LsRes) : LsRes :=
  match bad with
  | some c => .refuse c 0
  | none => f

/-- The checks of 04 R88 and of the scale plane for a handle used with it. -/
def Lease.fullCheck (l : Lease) (h : Handle) : Option Cause :=
  orElseC (l.handleCheck h) (firstBad [(!l.scaleOk h, .scratchBounds)])

end Sys2Proof.Machine
end

