-- ==== Sys2Proof/Machine/LsCopy.lean ====
section
/-! DEFINITION. LsCopy.lean: the moving commands of LD and SD: COPY and its queue forms (09 R220, R221), COPYP (R222, R223), GATH
and SCAT (R224), RREAD and RWRITE (R229), JOB and its cards (R231, R232), and the unit of movement of the copy engines (R217). -/

namespace Sys2Proof.Machine

/-! ## COPY (09 R220, R221) -/

/-- Walk bytes of a handle with its scale plane. -/
def hTotal (h : Handle) : Nat := hWalkBytes h + hScaleBytes h

/-- The checks that two walks copied into one another share. -/
def pairBad (d h : Handle) : Option Cause :=
  firstBad [(hFmt h ≠ hFmt d, .formatInvalid),
    (hDim0 h ≠ hDim0 d || hDim1 h ≠ hDim1 d || hDim2 h ≠ hDim2 d, .illegalOperand)]

/-- The checks of a handle whose rows are queue entries (09 R221). -/
def queueBad (l : Lease) (h : Handle) : Option Cause :=
  firstBad [(fmtScaled (hFmt h), .formatInvalid), (l.n * 512 < hRowBytes h, .illegalOperand)]

/-- Issues a command that moves `total` bytes under the footprint given, unless it moves nothing. -/
def moveCmd (t : Tok) (c : Cmd) (total : Nat) (fp : List FpRange) (s : State) : LsRes :=
  if total = 0 then emptyCmd t c.bit s else acceptCmd { c with total := total, fp := fp } s

def execCopy (t : Tok) (dh sh : BitVec 4) (scope : BitVec 2) (s : State) : Out :=
  lsWord t (fun _ s =>
    let l := s.cur
    let d := s.handle dh.toNat
    let h := s.handle sh.toNat
    let src := hRange h true false
    let dst := hRange d true true
    checked (orElseC (l.fullCheck d) (orElseC (l.fullCheck h) (orElseC
      (firstBad [(hSpace h = spRemote || hSpace d = spRemote, .handleInvalid)]) (orElseC (pairBad d h)
      (firstBad [(fpOverlap src dst, .illegalOperand)])))))
      (moveCmd t { s.newCmd t .copy scope with dst := d, src := h } (hTotal h) (src ++ dst) s)) s

def execCopyDq (t : Tok) (dh sh : BitVec 4) (scope : BitVec 2) (s : State) : Out :=
  lsWord t (fun st s =>
    let l := s.cur
    let h := s.handle (if st = .ld then sh else dh).toNat
    let kind : CmdKind := if st = .ld then .copyIn else .copyOut
    checked (orElseC (l.handleCheck h) (orElseC (firstBad [(hSpace h = spRemote, .handleInvalid)]) (queueBad l h)))
      (moveCmd t { s.newCmd t kind scope with dst := h, src := h } (hWalkBytes h) (hRange h false (st = .sd)) s)) s

/-! ## COPYP (09 R222, R223) -/

/-- The pattern record at window offset a: LEN0 CNT1-3 SSTR1-3 DSTR1-3 SOFF DOFF FLAGS, and the reserved word. -/
def patRecord (bs : List Byte) : List Int × Nat :=
  let u (o : Nat) : Int := (recLe bs o 4 : Nat)
  let i (o : Nat) : Int := sint 32 (recLe bs o 4)
  ([u 0, u 4, u 8, u 0xC, i 0x10, i 0x14, i 0x18, i 0x1C, i 0x20, i 0x24, sint 64 (recLe bs 0x28 8), sint 64 (recLe bs 0x30 8),
    u 0x38], recLe bs 0x3C 4)

/-- Lowest byte and the byte after the highest of a pattern side: base, offset field, first stride field. -/
def patExtent (c : Cmd) (base : Nat) (off str : Nat) : Int × Int :=
  let span (k : Nat) : Int := ((patN c (k + 1) - 1 : Nat) : Int) * patF c (str + k)
  let lo := intMin 0 (span 0) + intMin 0 (span 1) + intMin 0 (span 2)
  let hi := intMax 0 (span 0) + intMax 0 (span 1) + intMax 0 (span 2)
  ((base : Int) + patF c off + lo, (base : Int) + patF c off + hi + patN c 0)

/-- A scratch side of a pattern leaves the window or touches a ring byte. -/
def patSideBad (l : Lease) (c : Cmd) (h : Handle) (off str : Nat) : Bool :=
  let x := patExtent c (hBase h) off str
  hSpace h = spScratch && (x.1 < 0 || (l.windowBytes : Int) < x.2 ||
    !(l.winOk x.1 x.2 || (List.range (patN c 1 * patN c 2 * patN c 3)).all fun r =>
      let a := (hBase h : Int) + patF c off + patOff c str (r * patN c 0)
      l.winOk a (a + patN c 0)))

def patRange (c : Cmd) (h : Handle) (off str : Nat) (written : Bool) : List FpRange :=
  let x := patExtent c (hBase h) off str
  [mkRange (hSpace h) x.1 x.2 written]

/-- Reads n window bytes at a as the issuing agent under the command's scope, with their race checks; a race is a late refusal (10
R260). -/
def issueRead (scope : BitVec 2) (a n : Nat) (s : State) (k : List Byte → State → LsRes) : LsRes :=
  if !s.cur.winOk a (a + n) then .refuse .scratchBounds 0
  else
    let st := s.curStream
    match scratchCheck st (s.cur.curSlot st) scope.toNat (asKind .read (granulesOf a n)) s with
    | .error (c, i, s) => .refuseWith c i true s
    | .ok s => k (s.winBytes a n) s

def execCopyp (t : Tok) (dh sh xh : BitVec 4) (dq : BitVec 1) (scope : BitVec 2) (s : State) : Out :=
  lsWord t (fun st s =>
    let l := s.cur
    let useD := dq = 0 || st = .sd
    let useS := dq = 0 || st = .ld
    let d := if useD then s.handle dh.toNat else 0
    let h := if useS then s.handle sh.toNat else 0
    let x := s.handle xh.toNat
    let kind : CmdKind := if dq = 0 then .pattern else if st = .ld then .patternIn else .patternOut
    checked (orElseC (if useD then l.handleCheck d else none) (orElseC (if useS then l.handleCheck h else none)
      (orElseC (l.handleCheck x) (firstBad [
        ((useD && hSpace d = spRemote) || (useS && hSpace h = spRemote) || hSpace x ≠ spScratch, .handleInvalid),
        (hFmt x ≠ 0x0C, .formatInvalid)]))))
      (issueRead scope (hBase x) 64 s fun bs s =>
        let (p, res) := patRecord bs
        let c := { s.newCmd t kind scope with dst := d, src := h, pat := p }
        let total := patN c 0 * patN c 1 * patN c 2 * patN c 3
        let eom := patN c 12
        let c := { c with bit := if eom % 2 = 1 then some (eom / 2 % 2 = 1) else none }
        let src := if useS then patRange c h 10 4 false else []
        let dst := if useD then patRange c d 11 7 true else []
        if 4 ≤ eom || res ≠ 0 || 2 ^ 40 ≤ total || (dq = 1 && l.n * 512 < patN c 0) then .refuse .patternInvalid 0
        else if total = 0 then emptyCmd t c.bit s
        else if (useS && patSideBad l c h 10 4) || (useD && patSideBad l c d 11 7) then .refuse .scratchBounds 0
        else if fpOverlap src dst then .refuse .illegalOperand 0
        else moveCmd t c total (src ++ dst) s)) s

/-! ## GATH and SCAT (09 R224) -/

/-- The index list's checks. -/
def indexBad (l : Lease) (x : Handle) : Option Cause :=
  orElseC (l.handleCheck x) (firstBad [(hSpace x ≠ spScratch, .handleInvalid), (hFmt x ≠ 0x0B, .formatInvalid),
    (hDim1 x ≠ 1 || hDim2 x ≠ 1 || hDim0 x = 0, .illegalOperand)])

/-- The pairs of source and destination rows that GATH moves, flattened; −1 stands for a row of zeros. -/
def gathPairs (keep : Bool) (rows : Nat) (idx : List Int) : List Int :=
  (idx.mapIdx fun i k =>
    if 0 ≤ k && k < (rows : Int) then [k, (i : Int)] else if keep then [] else [-1, (i : Int)]).flatten
/-- The pairs that SCAT moves. A row of SH that SH does not have, −2, has no stated bytes (DESIGN CHOICE, log entry 83). -/
def scatPairs (rows have_ : Nat) (idx : List Int) : List Int :=
  (idx.mapIdx fun i k => if 0 ≤ k && k < (rows : Int) then [if i < have_ then (i : Int) else -2, k] else []).flatten

/-- The signed 32-bit elements of bytes. -/
def ints32 (bs : List Byte) : List Int := (bytesLanes (bs.length / 4) bs).map fun w => w.toInt

def execGath (t : Tok) (dh sh xh : BitVec 4) (dq : BitVec 1) (scope : BitVec 2) (m : BitVec 4) (s : State) : Out :=
  lsWord t (fun _ s =>
    let l := s.cur
    let h := s.handle sh.toNat
    let d := if dq = 0 then s.handle dh.toNat else h
    let x := s.handle xh.toNat
    checked (orElseC (if dq = 0 then l.handleCheck d else none) (orElseC (l.handleCheck h) (orElseC (indexBad l x) (firstBad [
      (hSpace h = spRemote || hSpace d = spRemote, .handleInvalid),
      (hFmt h ≠ hFmt d || fmtScaled (hFmt h), .formatInvalid),
      (hDim0 h ≠ hDim0 d || (dq = 0 && hDim1 d < hDim0 x) || (dq = 1 && l.n * 512 < hRowBytes h), .illegalOperand)]))))
      (issueRead scope (hBase x) (4 * hDim0 x) s fun bs s =>
        let pairs := gathPairs (m = 1) (hDim1 h) (ints32 bs)
        let c := { s.newCmd t (if dq = 0 then .gath else .gathIn) scope with src := h, dst := d, idxs := pairs }
        moveCmd t c (pairs.length / 2 * hRowBytes h) (hRange h false false ++ (if dq = 0 then hRange d false true else [])) s)) s

def execScat (t : Tok) (dh sh xh : BitVec 4) (dq : BitVec 1) (scope : BitVec 2) (s : State) : Out :=
  lsWord t (fun _ s =>
    let l := s.cur
    let d := s.handle dh.toNat
    let h := if dq = 0 then s.handle sh.toNat else d
    let x := s.handle xh.toNat
    checked (orElseC (l.handleCheck d) (orElseC (if dq = 0 then l.handleCheck h else none) (orElseC (indexBad l x) (firstBad [
      (hSpace h = spRemote || hSpace d = spRemote, .handleInvalid),
      (hFmt h ≠ hFmt d || fmtScaled (hFmt h), .formatInvalid),
      (hDim0 h ≠ hDim0 d || (dq = 1 && l.n * 512 < hRowBytes d), .illegalOperand)]))))
      (issueRead scope (hBase x) (4 * hDim0 x) s fun bs s =>
        let pairs := scatPairs (hDim1 d) (if dq = 0 then hDim1 h else hDim0 x) (ints32 bs)
        let c := { s.newCmd t (if dq = 0 then .scat else .scatOut) scope with
          src := h, dst := d, idxs := pairs, imm := hDim0 x }
        let fp := (if dq = 0 then hRange h false false else []) ++ hRange d false true
        if dq = 0 then moveCmd t c (pairs.length / 2 * hRowBytes h) fp s
        else acceptCmd { c with total := pairs.length / 2 * hRowBytes h, fp := fp } s)) s

/-! ## RREAD and RWRITE (09 R229) -/

/-- The checks of a remote handle beside its own: which side is remote, DP, DD and SCOPE. 09 R229 names no causes for the first three: they
take HANDLE_INVALID and ILLEGAL_OPERAND (DESIGN CHOICE, log entry 101). -/
def remoteBad (d h : Handle) (far : Handle) (hasPair : Bool) (win : Bool) (scope : Nat) : Option Cause :=
  orElseC (firstBad [(hasPair && (hSpace d = spRemote) = (hSpace h = spRemote), .handleInvalid),
      (hSpace far ≠ spRemote, .handleInvalid)])
    (orElseC (if hasPair then pairBad d h else none) (firstBad [
      (if win then hDp far = 0 && hDd far = 0 else hDp far = 0 || hDd far ≠ 0, .illegalOperand),
      (scope < (if hDp far = 0 then 1 else 3), .illegalOperand)]))

def execRread (t : Tok) (dh sh : BitVec 4) (dq : BitVec 1) (scope : BitVec 2) (s : State) : Out :=
  lsWord t (fun _ s =>
    let l := s.cur
    let h := s.handle sh.toNat
    let d := if dq = 0 then s.handle dh.toNat else h
    checked (orElseC (if dq = 0 then l.fullCheck d else none) (orElseC (l.handleCheck h) (orElseC
      (if dq = 0 then none else queueBad l h) (orElseC (remoteBad d h h (dq = 0) false scope.toNat)
      (firstBad [((s.farPkg (hDp h)).isNone, .remoteUnreachable)])))))
      (moveCmd t { s.newCmd t (if dq = 0 then .rread else .rreadIn) scope with dst := d, src := h }
        (if dq = 0 then hTotal h else hWalkBytes h) (hRange h true false ++ (if dq = 0 then hRange d true true else [])) s)) s

/-- RWRITE with M = 0 or, with `win`, M = 1: a window's die must be a field die, and its route cross at most one UALink switch (02 R41,
09 R229; how many switches a route crosses: DESIGN CHOICE, log entry 82). -/
def rwriteWork (t : Tok) (dh sh : BitVec 4) (dq : BitVec 1) (scope : BitVec 2) (win : Bool) (kind kindQ : CmdKind) (s : State) : LsRes :=
  let l := s.cur
  let d := s.handle dh.toNat
  let h := if dq = 0 then s.handle sh.toNat else d
  let off := win && (if hDp d = 0 then s.dieAt (hDd d) else s.farDie (hDd d)).isNone
  let switched := match s.farPkg (hDp d) with | some x => 1 < Config.switches s.pod x.1 | none => true
  let far := off || (if hDp d = 0 then false else if win then switched else (s.farPkg (hDp d)).isNone)
  checked (orElseC (l.handleCheck d) (orElseC (if dq = 0 then l.fullCheck h else none) (orElseC
    (if dq = 0 then none else queueBad l d) (orElseC (remoteBad d h d (dq = 0) win scope.toNat)
    (firstBad [(far, .remoteUnreachable)])))))
    (moveCmd t { s.newCmd t (if dq = 0 then kind else kindQ) scope with dst := d, src := h }
      (if dq = 0 then hTotal h else hWalkBytes d) ((if dq = 0 then hRange h true false else []) ++ hRange d true true) s)

def execRwrite (t : Tok) (dh sh : BitVec 4) (dq : BitVec 1) (scope : BitVec 2) (s : State) : Out :=
  lsWord t (fun _ s => rwriteWork t dh sh dq scope false .rwrite .rwriteOut s) s
def execRwriteWin (t : Tok) (dh sh : BitVec 4) (dq : BitVec 1) (scope : BitVec 2) (s : State) : Out :=
  lsWord t (fun _ s => rwriteWork t dh sh dq scope true .rwin .rwinOut s) s

/-! ## JOB (09 R231, R232) -/

/-- The fields of a card, in the order of `cardOff`. -/
def cardFields (b : List Byte) : List Int :=
  [(recLe b 0 1 : Nat), (recLe b 1 1 : Nat), (recLe b 8 8 : Nat), (recLe b 0x10 8 : Nat), (recLe b 0x18 4 : Nat),
   (recLe b 0x1C 4 : Nat), sint 64 (recLe b 0x20 8), sint 64 (recLe b 0x28 8), (recLe b 0x30 8 : Nat), (recLe b 0x38 8 : Nat)]

/-- Extent of a side of a card. -/
def cardRange (c : Cmd) (k : Nat) (written : Bool) : FpRange :=
  let span := ((patN c 5 - 1 : Nat) : Int) * patF c (k + 6)
  mkRange spGlobal (patF c (k + 2) + intMin 0 span) (patF c (k + 2) + intMax 0 span + patN c 4) written

/-- A card's command, waiting for its scheduler entry; none where it is refused. -/
def cardCmd (c : Cmd) (k : Nat) (b : List Byte) : Option Cmd :=
  let c := { c with kind := .card, pat := cardFields b, card := k, parent := c.seq, seq := c.seq + 1 + k, sig := 0 }
  let kind := patN c 0
  let total := patN c 4 * patN c 5
  let resume := recLe b 0x38 8
  let dst := cardRange c 1 true
  let src := cardRange c 0 false
  let fill := kind = 2
  if (kind ≠ 1 && kind ≠ 2) || 2 ≤ patN c 1 || recLe b 2 2 ≠ 0 || 2 ^ 57 ≤ patN c 2 || 2 ^ 57 ≤ patN c 3 ||
    (fill && (patN c 2 ≠ 0 || patF c 6 ≠ 0)) || total ≤ resume || (!fill && src.meets dst) then none
  else some { c with total := total, offset := resume, fp := if fill then [dst] else [src, dst] }

/-- Gives scheduler entries of a die to waiting cards, 256 at most, the submitters in turn (R232). -/
def State.acceptCards (s : State) (d : Nat) : Nat → State
  | 0 => s
  | fuel + 1 =>
    let last := sget 0 d s.jobLast
    let on := s.leases.filter fun l => l.die = d
    let held := (on.flatMap fun l => l.cmds.filter fun c => c.kind = .card && c.sent = 1).length
    let wait := on.filter fun l => l.cmds.any fun c => c.kind = .card && c.sent = 0
    if 256 ≤ held then s
    else match (wait.find? fun l => decide (last < l.id)).or wait.head? with
      | none => s
      | some l =>
        let s := asLease l.id s fun s =>
          match s.cur.cmds.find? fun c => c.kind = .card && c.sent = 0 with
          | none => s
          | some c =>
            let deps := (s.cur.cmds.filter fun x => x.seq < c.seq && x.seq ≠ c.parent && fpEdge x.fp c.fp).map fun x => x.seq
            s.onCmd c.seq fun c => { c with sent := 1, deps := deps, ready := s.datum + s.moveMc c }
        State.acceptCards { s with jobLast := sset 0 d l.id s.jobLast } d fuel

/-- Reads the cards of a global handle with the checks of 08 R201, whose faults are refusals at issue (09 R236); a race is a late
refusal (10 R260). -/
def globalCards (scope : BitVec 2) (st : Stream) (slot : Nat) : List Nat → State → List Byte → (List Byte → State → LsRes) → LsRes
  | [], s, acc, k => k acc s
  | va :: r, s, acc, k =>
    match s.accessGlobal { st := st, kind := .read, scope := scope.toNat, va := va, scr := false, late := true, slot := slot } false with
    | .ok t s =>
      if t.tier = 3 then
        match s.farPeek t (64 - va % 64) with
        | none => .left (s.farAsk st t va)
        | some bs => globalCards scope st slot r s (acc ++ bs) k
      else
        let (bs, s) := s.readTr t (64 - va % 64) false
        globalCards scope st slot r s (acc ++ bs) k
    | .waits s => .left s
    | .refuse c i race s => .refuseWith c (if race then i else s.issueInfo st c va) race s
    | .park c _ _ s => .refuseWith c (s.issueInfo st c va) false s
    | .isolate s => .left (s.isolation st va)

/-- JOB. 09 R232 names no causes for an SH of another SPACE or FMT: they take HANDLE_INVALID and FORMAT_INVALID (DESIGN CHOICE, log entry
101). -/
def execJob (t : Tok) (sh : BitVec 4) (scope : BitVec 2) (n : BitVec 20) (s : State) : Out :=
  lsWord t (fun st s =>
    let l := s.cur
    let h := s.handle sh.toNat
    let n := n.toNat
    let accept (bs : List Byte) (s : State) : LsRes :=
      let c := { s.newCmd t .job scope with aux := h, total := n }
      let cards := (List.range n).map fun k => cardCmd c k ((bs.drop (64 * k)).take 64)
      if cards.any Option.isNone then .refuse .patternInvalid 0
      else match acceptCmd { c with fp := [mkRange (hSpace h) (hBase h) (hBase h + 64 * n : Nat) false] } s with
        | .ok s =>
          let s := s.onCur fun l => { l with nextSeq := l.nextSeq + n, cmds := l.cmds ++ cards.filterMap id }
          .ok (s.acceptCards l.die 64)
        | r => r
    checked (orElseC (l.handleCheck h) (firstBad [
      (hSpace h ≠ spScratch && hSpace h ≠ spGlobal, .handleInvalid), (hFmt h ≠ 0x0C, .formatInvalid)]))
      (if hSpace h = spScratch then issueRead scope (hBase h) (64 * n) s accept
       else globalCards scope st (l.curSlot st) (granulesOf (hBase h) (64 * n)) s [] fun bs s =>
         match s.input st.index (l.curSlot st) (bs.take (64 * n)) fun sl => s.cur.cmds.any fun x => x.stream = st && x.slot = sl with
         | none => .wait s
         | some (bs, s) => accept bs (s.forgetRow (hBase h) (64 * n)))) s

/-! ## The copy engines (09 R217) -/

/-- One unit of command k: at most 512 walk bytes. While its lease is being pre-empted or stopped a command goes on to the end of its
segment only (09 R218; 15 R355). -/
def copyUnit (k : Nat) (s : State) : State :=
  cmdStep k (fun s => match s.cur.cmd? k with
  | none => s
  | some c =>
    if !c.kind.moves || !s.cmdGoes c || ((c.kind.fromDq || c.kind.toDq) && !s.cur.dqTurn c) then s
    else
      let s := s.unretry c
      let n := if s.cur.saving || s.cur.frozen then Nat.min 512 ((65536 - c.offset % 65536) % 65536) else 512
      ((moveBytes k 1536 n (s.skipRows k)).skipRows k).walkEnd k) s

end Sys2Proof.Machine
end

