-- ==== Sys2Proof/Machine/LsSlice.lean ====
section
/-! DEFINITION. LsSlice.lean: the commands that the slice operators perform at the homes: PREF, FLUSH, INVAL, DCMPF (09 R225, R226)
and ATOMV (09 R227), one operation at a time (12 R314). -/

namespace Sys2Proof.Machine

/-! ## Issue -/

/-- SPACE of a maintenance command's range. -/
def rangeBad (h : Handle) (view : Bool) : Option Cause :=
  firstBad [(!(hSpace h = spGlobal || (view && hSpace h = spView)), .handleInvalid)]

/-- Issues a maintenance command over the walk of a handle. -/
def maintain (t : Tok) (sh : BitVec 4) (scope : BitVec 2) (kind : CmdKind) (view : Bool) (fp : Handle → List FpRange) (s : State) :
    LsRes :=
  let h := s.handle sh.toNat
  checked (orElseC (s.cur.handleCheck h) (rangeBad h view))
    (moveCmd t { s.newCmd t kind scope with src := h, dst := h } (hWalkBytes h) (fp h) s)

def execPref (t : Tok) (sh : BitVec 4) (scope : BitVec 2) (s : State) : Out :=
  lsWord t (fun _ s => maintain t sh scope .pref true (fun _ => []) s) s
def execFlush (t : Tok) (sh : BitVec 4) (scope : BitVec 2) (s : State) : Out :=
  lsWord t (fun _ s => maintain t sh scope .flush false (fun h => hRange h false true) s) s
def execInval (t : Tok) (sh : BitVec 4) (scope : BitVec 2) (s : State) : Out :=
  lsWord t (fun _ s => maintain t sh scope .inval false (fun h => hRange h false true) s) s
/-- The footprint stands under both spaces. -/
def execDcmpf (t : Tok) (sh : BitVec 4) (scope : BitVec 2) (s : State) : Out :=
  lsWord t (fun _ s => maintain t sh scope .dcmpf true (fun h =>
    (hRange h false true).flatMap fun r => [{ r with space := spGlobal }, { r with space := spView }]) s) s

/-- The operations of ATOMV that a format has (09 R227). -/
def atomvFmt (m fmt : Nat) : Bool :=
  if m < 8 then fmt = 0x0B else if m = 8 then fmt = 0x01 || fmt = 0x02 else fmt = 0x01

/-- Elements of a walk. -/
def hElems (h : Handle) : Nat := hDim0 h * hDim1 h * hDim2 h

/-- An SH with fewer elements than DH is refused (DESIGN CHOICE, log entry 81: 09 R227 names no outcome). -/
def execAtomv (t : Tok) (dh sh : BitVec 4) (dq : BitVec 1) (scope : BitVec 2) (m : BitVec 4) (s : State) : Out :=
  lsWord t (fun _ s =>
    let l := s.cur
    let d := s.handle dh.toNat
    let h := if dq = 0 then s.handle sh.toNat else d
    let kind : CmdKind := if dq = 0 then .atomv else .atomvOut
    checked (orElseC (l.handleCheck d) (orElseC (if dq = 0 then l.handleCheck h else none) (firstBad [
      (hSpace d ≠ spGlobal || (dq = 0 && hSpace h ≠ spScratch), .handleInvalid),
      (hFmt h ≠ hFmt d || !atomvFmt m.toNat (hFmt d), .formatInvalid),
      (hElems h < hElems d, .illegalOperand)])))
      (moveCmd t { s.newCmd t kind scope with dst := d, src := h, m := m.toNat } (hElems d)
        ((if dq = 0 then hRange h false false else []) ++ hRange d false true) s)) s

/-! ## Maintenance operations -/

/-- Walk bytes from i that lie in one line of 128 bytes and in one row. -/
def linePart (h : Handle) (i n : Nat) : Nat :=
  Nat.min (128 - addr64 (hWalkAt h i) % 128) (hRowBytes h - i % hRowBytes h) |> Nat.min n

/-- Address of the granule part of walk byte i. -/
def maintAddr (c : Cmd) : Nat := addr64 (hWalkAt c.src c.offset)

/-- Passes over n walk bytes; the command completes with its last. -/
def maintStep (c : Cmd) (n : Nat) (s : State) : State :=
  let s := s.onCmd c.seq fun c => { c with offset := c.offset + n }
  if c.total ≤ c.offset + n then s.finishCmd c.seq none else s

/-- PREF of a line: a fill, counted; a page that is write-blocked or cannot be reached is passed over (09 R225). -/
def prefLine (c : Cmd) (n : Nat) (s : State) : State :=
  let a := maintAddr c
  if s.cur.replay.isSome then maintStep c n s
  else match s.translate s.cur.part s.cur.die a .read (hSpace c.src = spView) with
  | (.ok t, s) => maintStep c n (if eBit t.leaf 60 then s else s.touchLine s.cur.part a t)
  | (.waits, s) => s
  | (.fault .isolation _ _, s) => s.isolation c.stream a
  | (.fault _ _ _, s) => maintStep c n s

/-- FLUSH or, with `drop`, INVAL of a line (09 R225). -/
def flushPart (c : Cmd) (n : Nat) (drop : Bool) (s : State) : State :=
  let a := maintAddr c
  if s.cur.replay.isSome then maintStep c n s
  else match s.translate s.cur.part s.cur.die a .read false with
  | (.ok t, s) => maintStep c n (s.flushLine t.slot t.key drop)
  | (.waits, s) => s
  | (.fault .isolation _ _, s) => s.isolation c.stream a
  | (.fault _ _ _, s) => maintStep c n s

/-- DCMPF of the line's granules (09 R226): a page without a view or not present is passed over; W = 0 is refused. -/
def dcmpfLine (c : Cmd) (n : Nat) (s : State) : State :=
  let a := maintAddr c
  if s.cur.replay.isSome then maintStep c n s
  else match s.walk s.cur.part a with
  | .error _ => maintStep c n s
  | .ok (e, _) =>
    if !eBit e 57 then maintStep c n s
    else match s.translate s.cur.part s.cur.die a .write false with
      | (.ok t, s) =>
        let s := s.reconcile t
        maintStep c n (if a / 64 = (a + n - 1) / 64 then s else s.reconcile { t with key := t.key / 64 * 64 + 64 })
      | (.waits, s) => s
      | (.fault .isolation _ _, s) => s.isolation c.stream a
      | (.fault .pagePermission _ _, s) => s.lateStop c.seq .pagePermission (c.lateInfo a)
      | (.fault _ _ _, s) => maintStep c n s

/-! ## ATOMV (09 R227) -/

/-- The new value of an element under operation m and format, with the NSTAT bits. -/
def atomvOp (m fmt old v : Nat) : Nat × Nat :=
  let a := BitVec.ofNat 32 old
  let b := BitVec.ofNat 32 v
  if m < 8 then (amoOp m 4 old v, 0)
  else if fmt = 0x02 then addBf16 old v
  else if m = 8 then ((fadd a b).1.toNat, (fadd a b).2)
  else ((if m = 9 then fmin a b else fmax a b).toNat, 0)
where
  /-- old + v rounded once to BF16, nearest even. -/
  addBf16 (old v : Nat) : Nat × Nat :=
    match decF bf16 old, decF bf16 v with
    | .fin s m e, .fin t n d =>
      let (x, k) := sumTerms [(s, m, e), (t, n, d)]
      if x = 0 then (if s && t && m = 0 && n = 0 then 0x8000 else 0, 0) else cvtToFp bf16 (.fin (x < 0) x.natAbs k) false
    | .nan, _ => (bf16.canon, 0)
    | _, .nan => (bf16.canon, 0)
    | .inf s, .inf t => if s = t then (infCode bf16 s, 0) else (bf16.canon, flagNV)
    | .inf s, _ => (infCode bf16 s, 0)
    | _, .inf t => (infCode bf16 t, 0)

/-- The parts of an element of n bytes at address a, one for each granule. -/
def elemParts (a n : Nat) : List (Nat × Nat) :=
  let k := 64 - a % 64
  if n ≤ k then [(a, n)] else [(a, k), (a + k, n - k)]

/-- Checks the parts of an element at a global address. -/
def globalParts (c : Cmd) (k : AccKind) : List (Nat × Nat) → State → Except State (List (Tr × Nat) × State)
  | [], s => .ok ([], s)
  | (a, n) :: r, s =>
    match s.accessGlobal (c.access k a) false with
    | .ok t s => (globalParts c k r s).map fun x => ((t, n) :: x.1, x.2)
    | res => .error (s.cmdStop c k a res)

/-- Reads the parts of an element. -/
def readParts : List (Tr × Nat) → State → List Byte × State
  | [], s => ([], s)
  | (t, n) :: r, s =>
    let (bs, s) := s.readTr t n false
    let (cs, s) := readParts r s
    (bs ++ cs, s)
def writeParts : List (Tr × Nat) → List Byte → State → State
  | [], _, s => s
  | (t, n) :: r, bs, s => writeParts r (bs.drop n) (s.writeTr t (bs.take n) false)

/-- The source element of an ATOMV: scratch, or the popped entries (elements packed from byte 0). None: it waits or has stopped. -/
def atomvSource (c : Cmd) (w : Nat) (s : State) : Option (List Byte) × State :=
  if c.kind = .atomvOut then
    if c.buf.length < w then
      match s.cur.dqOut with
      | [] => (none, s)
      | v :: r =>
        let b := entryBytes v
        (some (b.take w), (s.onCur fun l => { l with dqOut := r }).onCmd c.seq fun c => { c with buf := b })
    else (some (c.buf.take w), s)
  else
    let a := (elemAt c.src c.offset w).toNat
    match c.scratchCheck .read ((elemParts a w).map (·.1)) s with
    | .error (cause, i, s) => (none, s.lateStop c.seq cause i)
    | .ok s => (some (s.winBytes a w), s)

/-- An element in a remote page goes over the fabric, which has no floating-point atomics (17 R392). -/
def farElem (c : Cmd) (parts : List (Tr × Nat)) (bs : List Byte) (s : State) : State :=
  match parts with
  | [(t, _)] =>
    if 8 ≤ c.m then s.lateStop c.seq .remoteUnreachable (c.lateInfo (addr64 (elemAt c.dst c.offset 4)))
    else s.askFar c (s.leafPkg t) (some (addr64 (elemAt c.dst c.offset 4))) (98 + c.m) t.farAddr (leNat bs) 0 bs
  | _ => s.lateStop c.seq .remoteUnreachable (c.lateInfo (addr64 (elemAt c.dst c.offset 4)))

/-- One element of an ATOMV at its home. -/
def atomvElem (c : Cmd) (s : State) : State :=
  let w := fmtWidth (hFmt c.dst) / 8
  if c.kind = .atomvOut && !s.cur.dqTurn c then s
  else match atomvSource c w s with
    | (none, s) => s
    | (some bs, s) =>
      match globalParts c .atomic (elemParts (addr64 (elemAt c.dst c.offset w)) w) s with
      | .error s => s
      | .ok (parts, s) =>
        if parts.any fun x => x.1.tier = 3 then farElem c parts bs s
        else
        let (old, s) := readParts parts s
        let (v, fl) := atomvOp c.m (hFmt c.dst) (leNat old) (leNat bs)
        let s := writeParts parts (leBytes v w) s
        let s := s.onCmd c.seq fun c => { c with offset := c.offset + 1, buf := c.buf.drop w, flags := c.flags ||| fl }
        if c.total ≤ c.offset + 1 then s.finishCmd c.seq none else s

/-! ## One slice operation -/

/-- One slice operation of command k of the lease in focus. A command of a lease being pre-empted starts no new segment. -/
def sliceUnit (k : Nat) (s : State) : State :=
  match s.cur.cmd? k with
  | none => s
  | some c =>
    if !c.kind.slice || !s.cmdGoes c then s
    else cmdStep k (fun s =>
      let s := s.unretry c
      let n := linePart c.src c.offset c.total
      match c.kind with
      | .pref => prefLine c n s
      | .flush => flushPart c n false s
      | .inval => flushPart c n true s
      | .dcmpf => dcmpfLine c n s
      | _ => atomvElem c s) s

end Sys2Proof.Machine
end

