-- ==== Sys2Proof/Machine/Links.lean ====
section
/-! DEFINITION. Links.lean: the die links: flits, credits, acknowledgement and replay (17 R397, R398, 21 R417), retraining and
modules that go down (17 R399, R420), and the messages of remote atomics on their way between dies (21 R415). -/

namespace Sys2Proof.Machine

/-! ## Ends of a module -/

def State.setModule (s : State) (m : Nat) (x : Module) : State := { s with links := sput m x s.links }
/-- The end that sends toward B, or toward A. -/
def Module.sender (x : Module) (toB : Bool) : LinkEnd := if toB then x.a else x.b
def Module.receiver (x : Module) (toB : Bool) : LinkEnd := if toB then x.b else x.a
def Module.setSender (x : Module) (toB : Bool) (e : LinkEnd) : Module := if toB then { x with a := e } else { x with b := e }
def Module.setReceiver (x : Module) (toB : Bool) (e : LinkEnd) : Module := if toB then { x with b := e } else { x with a := e }

/-- A flit header (17 R397). -/
def flitHdr (seq ack crd kind : Nat) : BitVec 32 :=
  BitVec.ofNat 32 (seq % 4096 * 2 ^ 20 + ack % 4096 * 2 ^ 8 + crd % 16 * 16 + kind % 16)
def hdrSeq (h : BitVec 32) : Nat := nbits h.toNat 31 20
def hdrAck (h : BitVec 32) : Nat := nbits h.toNat 19 8
def hdrCrd (h : BitVec 32) : Nat := nbits h.toNat 7 4
def hdrKind (h : BitVec 32) : Nat := nbits h.toNat 3 0

/-- The CRC of a flit: CRC-32 of its header and its payload of 60 bytes (17 R397); a flit without a payload carries zeros. -/
def flitCrc (h : BitVec 32) (p : List Byte) : BitVec 32 :=
  BitVec.ofNat 32 (crc32 (leBytes h.toNat 4 ++ p ++ List.replicate (60 - p.length) 0))

/-- The header an end sends: its ACK and CRD go with every flit. -/
def LinkEnd.hdr (e : LinkEnd) (seq kind : Nat) : BitVec 32 := flitHdr seq (e.expect + 4095) e.crdUnits kind

/-! ## Messages (21 R415; DESIGN CHOICE, log entry 19) -/

/-- Kinds of a message: 1 request (24 bytes), 2 result, 3 close, 4 refusal (16 bytes); then source die, destination die and home slice, at a
bridge die that of the other package with its die above bit 5. A close names the source's package (0 this one), or on its way to
another package that package and its partition. -/
def msgLen (b : Byte) : Nat := if b = 1 then 24 else 16
def msgByte (m : List Byte) (k : Nat) : Nat := (m.getD k 0).toNat

def requestMsg (src dst slice : Nat) (r : RatomReq) : List Byte :=
  packLe [(1, 1), (src, 1), (dst, 1), (slice, 1), (r.num, 4), (r.part, 1), (r.aid, 2), (r.req, 2), (r.op, 1), (r.size, 1), (0, 9)]
def resultMsg (src dst slice num old : Nat) : List Byte := packLe [(2, 1), (src, 1), (dst, 1), (slice, 1), (num, 4), (old, 8)]
def refusalMsg (src dst slice num : Nat) : List Byte := packLe [(4, 1), (src, 1), (dst, 1), (slice, 1), (num, 4), (0, 8)]
def closeMsg (src dst slice part aid pkg rpart : Nat) : List Byte :=
  packLe [(3, 1), (src, 1), (dst, 1), (slice, 1), (part, 1), (aid, 2), (pkg, 2), (rpart, 1), (0, 6)]

/-- The messages of a payload. -/
def splitMsgs : Nat → List Byte → List (List Byte)
  | 0, _ => []
  | n + 1, bs =>
    match bs with
    | [] => []
    | b :: _ => if b = 0 then [] else bs.take (msgLen b) :: splitMsgs n (bs.drop (msgLen b))

/-- The module of an edge that a slice's messages use: its own number, else the lowest that is up (21 R415). -/
def State.moduleFor (s : State) (edge slice : Nat) : Nat :=
  let own := edge * 8 + slice % 8
  if (s.moduleOf own).up then own
  else match (List.range 8).find? fun k => (s.moduleOf (edge * 8 + k)).up with
    | some k => edge * 8 + k
    | none => own

/-- The die after d on a path. -/
def nextOn (d : Nat) : List Nat → Option Nat
  | a :: b :: r => if a = d then some b else nextOn d (b :: r)
  | _ => none

/-- Queues a message at die d for its next edge. -/
def State.sendMsg (s : State) (d : Nat) (m : List Byte) : State :=
  let src := msgByte m 1
  let dst := msgByte m 2
  let path := (s.route src dst).getD (dieRoute src dst)
  let next := (nextOn d path).or (nextOn d ((s.route d dst).getD (dieRoute d dst)))
  match next.bind fun n => (edgeIdx d n).map fun e => (n, e) with
  | none => s
  | some (_, e) =>
    let k := s.moduleFor e (msgByte m 3)
    let x := s.moduleOf k
    let toB := (dieEdges.getD e (0, 0)).1 = d
    let snd := x.sender toB
    s.setModule k (x.setSender toB { snd with queue := snd.queue ++ [m] })

/-- A message leaves the links at its destination, or goes on to its next edge. -/
def State.takeMsg (s : State) (d : Nat) (m : List Byte) : State :=
  if msgByte m 2 ≠ d then s.sendMsg d m
  else
    let num := recLe m 4 4
    match msgByte m 0 with
    | 1 => { s with turn := s.turn ++ [.event (.ratomRequestArrival num)] }
    | 2 =>
      let f (r : RatomReq) : RatomReq :=
        if r.num % 2 ^ 32 = num then { r with results := r.results ++ [recLe m 8 8], home := if r.home = 256 then msgByte m 3 else r.home } else r
      { s with ratoms := s.ratoms.map f, foreign := s.foreign.map f, turn := s.turn ++ [.event (.ratomResultArrival num)] }
    | 4 =>
      let f (r : RatomReq) : RatomReq := if r.num % 2 ^ 32 = num then { r with refused := true } else r
      { s with ratoms := s.ratoms.map f, foreign := s.foreign.map f, turn := s.turn ++ [.event (.ratomResultArrival num)] }
    | _ =>
      if 8 ≤ d then { s with out := s.out ++ [.fabric (recLe m 7 2) (msgByte m 9) (msgByte m 4) (recLe m 5 2) 15 0 (msgByte m 3) 0 0 []] }
      else match s.windows.findIdx? fun w =>
          w.slice = d * 32 + msgByte m 3 && w.part = msgByte m 4 && w.pkg = recLe m 7 2 && w.aid = recLe m 5 2 with
      | none => s
      | some k => { s with turn := s.turn ++ [.event (.windowClose k)] }

/-! ## Receiving (17 R398) -/

/-- A good flit's ACK and CRD reach the sender of the opposite direction. -/
def LinkEnd.readAck (e : LinkEnd) (now : Nat) (h : BitVec 32) : LinkEnd :=
  let n := (hdrAck h + 4096 - e.acked) % 4096
  let n := if n ≤ e.replay.length then n else 0
  { e with acked := (e.acked + n) % 4096, replay := e.replay.drop n, timer := if n = 0 then e.timer else now,
           sendFrom := (match e.sendFrom with | some k => if n ≤ k then some (k - n) else some 0 | none => none),
           credits := e.credits + 8 * ((hdrCrd h + 16 - e.crdSeen) % 16), crdSeen := hdrCrd h }

/-- A DATA flit's buffer slot is free again: one credit is counted. -/
def LinkEnd.countCredit (e : LinkEnd) : LinkEnd :=
  if e.crdPart = 7 then { e with crdPart := 0, crdUnits := (e.crdUnits + 1) % 16 } else { e with crdPart := e.crdPart + 1 }

/-- A dropped DATA flit asks for one NAK until a flit is accepted. -/
def LinkEnd.drop (e : LinkEnd) : LinkEnd := if e.nakSent then e else { e with nakSent := true, nakOut := true }

/-- Failures a receiver has counted within 1,200,000 mc (17 R399). -/
def LinkEnd.recentFails (e : LinkEnd) (now : Nat) : Nat := (e.fails.filter fun f => now < f + 1200000).length

/-- The messages that the far end has not accepted, then those queued. -/
def LinkEnd.unsent (snd rcv : LinkEnd) : List (List Byte) :=
  let n := (rcv.expect + 4096 - (snd.acked + 1)) % 4096
  (snd.replay.drop n).flatMap (fun f => splitMsgs 4 f.2) ++ snd.queue

/-- A module goes down: each sender's messages that were not accepted move to the edge's remaining modules, or wait (17 R420). -/
def State.moduleDown (s : State) (m : Nat) : State :=
  let x := s.moduleOf m
  let ms (toB : Bool) : List (List Byte) := (x.sender toB).unsent (x.receiver toB)
  let clear (e : LinkEnd) : LinkEnd := { e with replay := [], queue := [], wire := [], sendFrom := none, nakOut := false }
  let s := s.setModule m { x with up := false, retraining := none, a := clear x.a, b := clear x.b }
  let put (toB : Bool) (s : State) : State :=
    (ms toB).foldl (fun s msg =>
      let k := s.moduleFor (m / 8) (msgByte msg 3)
      let y := s.moduleOf k
      let e := y.sender toB
      s.setModule k (y.setSender toB { e with queue := e.queue ++ [msg] })) s
  put false (put true s)

/-- A flit leaves an end, `flight` mc long. -/
def LinkEnd.put (e : LinkEnd) (at_ : Nat) (h : BitVec 32) (p : List Byte) : LinkEnd :=
  { e with wire := e.wire ++ [(at_, h, p, flitCrc h p)], sentAck := hdrAck h, sentCrd := hdrCrd h }

/-- Starts a retrain, which RETRAIN flits announce (17 R399): it ends within 24,000 mc. -/
def State.startRetrain (s : State) (m : Nat) (wide : Bool) : State :=
  let x := s.moduleOf m
  let tell (e : LinkEnd) : LinkEnd := e.put (s.datum + if x.wide then 24 else 28) (e.hdr 0 4) []
  s.setModule m { x with a := tell x.a, b := tell x.b, wide := wide, retraining := some (s.datum + 1 + Config.retrainTime (m * 2 ^ 32 + x.retrains) % 24000),
                         retrains := x.retrains + 1 }

/-- A receiver counts a failed flit; the fourth within 1 ms retrains the module to x32, or takes it down at x32. -/
def State.countFail (s : State) (m : Nat) (toB : Bool) : State :=
  let x := s.moduleOf m
  let e := x.receiver toB
  let e := { e with fails := s.datum :: e.fails.filter (fun f => decide (s.datum < f + 1200000)), crcTotal := e.crcTotal + 1 }
  let s := s.setModule m (x.setReceiver toB e)
  if e.recentFails s.datum < 4 || x.retraining.isSome then s
  else if x.wide then s.startRetrain m false
  else s.moduleDown m

/-- The flit has left the wire. -/
def State.offWire (s : State) (m : Nat) (toB : Bool) (h : BitVec 32) (p : List Byte) : State :=
  let x := s.moduleOf m
  let e := x.sender toB
  match e.wire with
  | (_, h', p', _) :: r => if h' = h && p' = p then s.setModule m (x.setSender toB { e with wire := r }) else s
  | [] => s

/-- Die that an end of a module stands on. -/
def dieOfEnd (m : Nat) (atB : Bool) : Nat := let e := dieEdges.getD (m / 8) (0, 0); if atB then e.2 else e.1

/-- Retransmission from the oldest unacknowledged flit (go-back-N). -/
def LinkEnd.startReplay (e : LinkEnd) : LinkEnd :=
  if e.replay.isEmpty then { e with sendFrom := none } else { e with sendFrom := some 0, fresh := true }

/-- A flit whose CRC holds is read by its KIND (17 R397, R398): DATA, IDLE, NAK or RETRAIN, which tells of the retrain under way; an
undefined KIND counts as a failure. -/
def goodFlit (m : Nat) (toB : Bool) (h : BitVec 32) (p : List Byte) (s : State) : State :=
  let x := s.moduleOf m
  let e := (x.receiver toB).readAck s.datum h
  match hdrKind h with
  | 1 =>
    let e := e.countCredit
    if hdrSeq h ≠ e.expect then s.setModule m (x.setReceiver toB e.drop)
    else
      let e := { e with expect := (e.expect + 1) % 4096, nakSent := false }
      (splitMsgs 4 p).foldl (fun s msg => s.takeMsg (dieOfEnd m toB) msg) (s.setModule m (x.setReceiver toB e))
  | 2 => s.setModule m (x.setReceiver toB e)
  | 3 => s.setModule m (x.setReceiver toB e.startReplay)
  | 4 => s.setModule m (x.setReceiver toB e)
  | _ => s.countFail m toB

/-- A flit arrives: one that fails its CRC is not read at all, and counts; one sent as DATA takes its credit and asks for its NAK still. -/
def flitArrives (data : Bool) (m : Nat) (toB : Bool) (h : BitVec 32) (p : List Byte) (crc : BitVec 32) (s : State) : State :=
  let s := s.offWire m toB h p
  let x := s.moduleOf m
  if !x.up then s
  else if crc = flitCrc h p then goodFlit m toB h p s
  else (if data then s.setModule m (x.setReceiver toB (x.receiver toB).countCredit.drop) else s).countFail m toB

def execDataFlitReceive (m : Nat) (toB : Bool) (hdr : BitVec 32) (payload : List (BitVec 8)) (crc : BitVec 32) (s : State) : Out :=
  .next (flitArrives true m toB hdr payload crc s)

def execNakReceive (m : Nat) (toB : Bool) (hdr : BitVec 32 × BitVec 32) (s : State) : Out :=
  .next (flitArrives false m toB hdr.1 [] hdr.2 s)

def execIdleFlit (m : Nat) (toB : Bool) (hdr : BitVec 32 × BitVec 32) (s : State) : Out :=
  .next (flitArrives false m toB hdr.1 [] hdr.2 s)

/-- The replay timer of an end runs out: 4,096 mc with flits unacknowledged, the module not retraining (21 R417). -/
def LinkEnd.timerOut (e : LinkEnd) (now : Nat) : Bool := !e.replay.isEmpty && !e.fresh && decide (e.timer + 4096 ≤ now)

def execReplayTimerExpiry (m : Nat) (atB : Bool) (s : State) : Out :=
  .next (
    let x := s.moduleOf m
    let e := x.sender (!atB)
    if !x.up || x.retraining.isSome || !e.timerOut s.datum then s
    else s.setModule m (x.setSender (!atB) e.startReplay))

/-- The retrain completes: counts restart and each sender replays from its oldest unacknowledged flit (17 R399). -/
def execRetrainComplete (m : Nat) (s : State) : Out :=
  .next (
    let x := s.moduleOf m
    match x.retraining with
    | none => s
    | some t =>
      if s.datum < t then s
      else
        let f (e : LinkEnd) : LinkEnd := { e.startReplay with fails := [] }
        s.setModule m { x with retraining := none, a := f x.a, b := f x.b })

/-- A health-policy request, performed while the module carries no traffic, retrains it to x64 (17 R399). -/
def execHealthPolicyRetrain (m : Nat) (s : State) : Out :=
  .next (
    let x := s.moduleOf m
    let quiet (e : LinkEnd) : Bool := e.queue.isEmpty && e.replay.isEmpty && e.wire.isEmpty
    if !x.up || x.retraining.isSome || !quiet x.a || !quiet x.b then s else s.startRetrain m true)

/-! ## Sending -/

/-- Messages that fit in one payload of 60 bytes. -/
def packFlit : Nat → List (List Byte) → List Byte × List (List Byte)
  | room, [] => (List.replicate room 0, [])
  | room, m :: r =>
    if room < m.length then (List.replicate room 0, m :: r)
    else
      let (bs, rest) := packFlit (room - m.length) r
      (m ++ bs, rest)

/-- What an end sends in an mc, `flight` mc long: NAK, a replayed flit, a new flit, or IDLE when ACK or CRD has changed (17 R398). The
first flit of a replay restarts the replay timer as it leaves (21 R417). -/
def LinkEnd.send (e : LinkEnd) (now flight : Nat) : LinkEnd :=
  let put (e : LinkEnd) (h : BitVec 32) (p : List Byte) : LinkEnd := e.put (now + flight) h p
  let idle (e : LinkEnd) : LinkEnd :=
    let h := e.hdr 0 2
    if hdrAck h = e.sentAck && hdrCrd h = e.sentCrd then e else put e h []
  if e.nakOut then put { e with nakOut := false } (e.hdr 0 3) []
  else if e.credits = 0 then idle e
  else match e.sendFrom with
    | some k =>
      match e.replay[k]? with
      | some (seq, p) =>
        put { e with credits := e.credits - 1, sendFrom := if k + 1 < e.replay.length then some (k + 1) else none,
                     timer := if e.fresh then now else e.timer, fresh := false } (e.hdr seq 1) p
      | none => { e with sendFrom := none, fresh := false }
    | none =>
      if e.queue.isEmpty || 128 ≤ e.replay.length then idle e
      else
        let (p, rest) := packFlit 60 e.queue
        let e' := { e with queue := rest, credits := e.credits - 1, nextSeq := (e.nextSeq + 1) % 4096,
                           replay := e.replay ++ [(e.nextSeq, p)], timer := if e.replay.isEmpty then now else e.timer }
        put e' (e.hdr e.nextSeq 1) p

/-- Every module that carries something sends (17 R399: nothing while it retrains). -/
def State.linksSend (s : State) : State :=
  { s with links := s.links.map fun (k, x) =>
      if !x.up || x.retraining.isSome then (k, x)
      else
        let f := if x.wide then 24 else 28
        (k, { x with a := x.a.send s.datum f, b := x.b.send s.datum f }) }

/-- The events of the links that fall due. -/
def State.linkEvents (s : State) : List Instr :=
  s.links.flatMap fun (k, x) =>
    let deliver (toB : Bool) : List Instr := ((x.sender toB).wire.filter fun w => w.1 ≤ s.datum).map fun w =>
      match hdrKind w.2.1 with
      | 3 => .nakReceive k toB (w.2.1, w.2.2.2)
      | 2 => .idleFlit k toB (w.2.1, w.2.2.2)
      | _ => .dataFlitReceive k toB w.2.1 w.2.2.1 w.2.2.2
    let timer (atB : Bool) : List Instr :=
      if x.up && x.retraining.isNone && (x.sender (!atB)).timerOut s.datum then [.replayTimerExpiry k atB] else []
    deliver true ++ deliver false ++ timer false ++ timer true ++
      (match x.retraining with | some t => if t ≤ s.datum then [Instr.retrainComplete k] else [] | none => [])

/-! ## Detours (17 R420) -/

/-- Takes the messages that wait on edges with no module up and queues them again where a route now leads. -/
def State.requeue (s : State) : State :=
  (List.range 112).foldl (fun s m =>
    let x := s.moduleOf m
    if x.up || s.edgeUp (m / 8) then s
    else
      let go (toB : Bool) (s : State) : State :=
        let x := s.moduleOf m
        let e := x.sender toB
        let d := dieOfEnd m (!toB)
        let (move, stay) := e.queue.partition fun msg =>
          (s.route (msgByte msg 1) (msgByte msg 2)).isSome || (s.route d (msgByte msg 2)).isSome
        move.foldl (fun s msg => s.sendMsg d msg) (s.setModule m (x.setSender toB { e with queue := stay }))
      go false (go true s)) s

/-- Hops of a shortest path over edges that are up. -/
def State.upHops (s : State) (a b : Nat) : Option Nat := (List.range 10).find? fun n => (spread s n [a]).contains b

/-- Firmware fixes a detour: a shortest route over edges that are up, for a pair whose route of R188 is cut. -/
def execDetourFixed (a b : Nat) (path : List Nat) (s : State) : Out :=
  .next (
    if pathUp s (dieRoute a b) || path.head? ≠ some a || path.getLast? ≠ some b || !pathUp s path ||
        s.upHops a b ≠ some (path.length - 1) then s
    else
      { s with detours := (s.detours.filter fun (d : Nat × Nat × List Nat) => !(d.1 = a && d.2.1 = b)) ++ [(a, b, path)] }.requeue)

end Sys2Proof.Machine
end

