-- ==== Sys2Proof/Machine/Ratom.lean ====
section
/-! DEFINITION. Ratom.lean: RATOM (09 R228, 21 R414): its requests, their arrival at the home slice with its windows of results
(17 R400), the results, the resend timer (21 R416) and the retries and closes of windows. -/

namespace Sys2Proof.Machine

/-! ## Issue -/

/-- RATOM. The rule names no causes for handles of another SPACE, or a remote target with DP = 0 or DD not 0: HANDLE_INVALID and
ILLEGAL_OPERAND, as R220 has them for COPY's handles (DESIGN CHOICE, log entry 101). -/
def execRatom (t : Tok) (dh sh xh : BitVec 4) (scope : BitVec 2) (m : BitVec 4) (same w64 fetch : BitVec 1) (s : State) : Out :=
  lsWord t (fun _ s =>
    let l := s.cur
    let h := s.handle sh.toNat
    let x := s.handle xh.toNat
    let d := s.handle dh.toNat
    let size := if w64 = 1 then 8 else 4
    let cas := m.toNat = 9
    let n := if cas then hDim0 x / 2 else hDim0 x
    let far := hSpace h = spRemote
    let opnds := hDim0 x * size
    checked (orElseC (if fetch = 1 then l.handleCheck d else none) (orElseC (l.handleCheck h) (orElseC (l.handleCheck x) (firstBad [
      ((!far && hSpace h ≠ spGlobal) || hSpace x ≠ spScratch || (fetch = 1 && hSpace d ≠ spScratch), .handleInvalid),
      (far && (hDp h = 0 || hDd h ≠ 0), .illegalOperand),
      ((cas && hDim0 x % 2 = 1) || n = 0 || (fetch = 1 && hElems d < n), .illegalOperand),
      (!l.winOk (hBase x) (hBase x + opnds : Nat) || (fetch = 1 && !(List.range n).all fun i => l.winOk (elemAt d i size) (elemAt d i size + size)),
        .scratchBounds),
      (far && (s.farPkg (hDp h)).isNone, .remoteUnreachable)]))))
      (if hBase h % size ≠ 0 then .refuse .misaligned (hBase h)
       else
        let c := { s.newCmd t .ratom scope with
          dst := d, src := h, aux := x, m := m.toNat, total := n, imm := same.toNat + 2 * w64.toNat + 4 * fetch.toNat }
        let bytes := if same = 1 then size else n * size
        acceptCmd { c with fp := mkRange (hSpace h) (hBase h) (hBase h + bytes : Nat) true ::
          (if fetch = 1 then hRange d false true else []) } s)) s

def Cmd.elemSize (c : Cmd) : Nat := if c.imm / 2 % 2 = 1 then 8 else 4
/-- Target address of element e (09 R228). -/
def Cmd.target (c : Cmd) (e : Nat) : Nat := hBase c.src + (if c.imm % 2 = 1 then 0 else e * c.elemSize)

/-! ## Sending -/

/-- Requests of an agent that have not returned a result for every send (21 R416). -/
def State.outstanding (s : State) (part aid : Nat) : List RatomReq := s.ratoms.filter fun r => r.part = part && r.aid = aid

/-- The home slice is not known yet: the one of a remote handle's target. -/
def farHome : Nat := 256

/-- Sends a copy of a request on its way: to its home die, or to the bridge die from which it leaves for another package. With no station
up it goes nowhere, until it is sent again. -/
def State.launchReq (s : State) (die : Nat) (r : RatomReq) : State :=
  if r.pkg ≠ 0 then
    match s.fabricBridge die with
    | some b => s.sendMsg die (requestMsg die b (r.home % 32) r)
    | none => s
  else if r.guarded then s.takeMsg die (requestMsg die (r.home / 32) (r.home % 32) r)
  else s

/-- A source operand of element e: one value, or for cas the expected and the new value. -/
def ratomOperand (c : Cmd) (s : State) : Except State (Nat × Nat × State) :=
  let z := c.elemSize
  let k := if c.m = 9 then 2 else 1
  let a := hBase c.aux + c.offset * k * z
  match c.scratchCheck .read (granulesOf a (k * z)) s with
  | .error (cause, i, s) => .error (s.lateStop c.seq cause i)
  | .ok s =>
    let v (j : Nat) : Nat := leNat (s.winBytes (a + j * z) z)
    .ok (if k = 2 then (v 1, v 0, s) else (v 0, 0, s))

/-- In a replay an element goes nowhere, and its result, where asked, comes from the log (15 R364). -/
def replayElem (c : Cmd) (s : State) : State :=
  let z := c.elemSize
  let r := if c.imm / 4 % 2 = 0 then some ([], s)
    else s.input c.stream.index c.slot (List.replicate z 0) fun sl => s.cur.cmds.any fun x => x.seq ≠ c.seq && x.stream = c.stream && x.slot = sl
  match r with
  | none => s
  | some (bs, s) =>
    let s := (s.winWrite (elemAt c.dst c.offset z).toNat bs).onCmd c.seq fun c => { c with offset := c.offset + 1 }
    if c.total ≤ c.offset + 1 then s.finishCmd c.seq none else s

/-- Element e of command k has its result, or its request is outstanding. -/
def State.elemSent (s : State) (c : Cmd) (e : Nat) : Bool :=
  c.idxs.contains e || s.ratoms.any fun r => r.lease = s.cur.id && r.cmd = c.seq && r.elem = e

/-- Sends the next element of command k as a request (21 R415: one in an mc). -/
def ratomSend (k : Nat) : State → State := cmdStep k fun s =>
  match s.cur.cmd? k with
  | none => s
  | some c =>
    let l := s.cur
    let aid := l.aidOf c.stream
    if c.kind ≠ .ratom || !s.cmdGoes c || c.total ≤ c.offset || 64 ≤ (s.outstanding l.part aid).length then s
    else if s.elemSent c c.offset then s.onCmd k fun c => { c with offset := c.offset + 1 }
    else
      let s := s.unretry c
      let va := c.target c.offset
      if l.replay.isSome then replayElem c s
      else
      let req := sget 0 c.stream.index l.ratomCtr
      let emit (v cmp : Nat) (tr : Tr) (pkg : Option (Nat × Nat)) (s : State) : State :=
        let home := homeDie (if tr.tier = 3 then 0 else tr.tier) tr.pa
        let r : RatomReq :=
          { num := s.nextRatom, lease := l.id, part := l.part, aid := aid, req := req, cmd := k, elem := c.offset, key := tr.key,
            slotKey := tr.slot, leaf := tr.leaf, home := if tr.tier = 5 then farHome else home * 32 + homeSlice tr.pa, pkg := (match pkg with | some p => p.1 + 1 | none => 0),
            size := c.elemSize, op := c.m, data := v, cmp := cmp, guarded := pkg.isSome || home ≠ l.die, sends := 1, answered := 0,
            lastSend := s.datum, toHome := 1, results := [], farPart := (match pkg with | some p => p.2 | none => 0),
            farKind := (if tr.tier = 3 then 32 else 0) + (if c.m = 9 then 11 else 2 + c.m), farAddr := if tr.tier = 3 then tr.farAddr else va }
        let s := { s with ratoms := s.ratoms ++ [r], nextRatom := s.nextRatom + 1 }
        let s := s.onCur fun l => { l with ratomCtr := sset 0 c.stream.index ((req + 1) % 65536) l.ratomCtr }
        (s.onCmd k fun c => { c with offset := c.offset + 1 }).launchReq l.die r
      match ratomOperand c s with
      | .error s => s
      | .ok (v, cmp, s) =>
        if hSpace c.src = spRemote then
          match s.farPkg (hDp c.src) with
          | none => s.lateStop k .remoteUnreachable (c.lateInfo va)
          | some p => emit v cmp ⟨5, 0, 0, 127, 0⟩ (some p) s
        else match s.accessAt true (c.access .atomic va) false with
          | .ok t s => emit v cmp t (if t.tier = 3 then some (s.leafPkg t) else none) s
          | r => s.cmdStop c .atomic va r

/-! ## At the home slice (17 R400) -/

/-- Performs an atomic on a location: the old value (05 R112, R113). -/
def performAtomic (t : Tr) (op size data cmp : Nat) (s : State) : Nat × State :=
  let (bs, s) := s.readTr t size false
  let old := leNat bs
  let new : Option Nat := if op = 9 then (if old = cmp then some data else none) else some (amoOp op size old data)
  (old, match new with | some v => s.writeTr t (leBytes v size) false | none => s)

def RatomReq.tr (r : RatomReq) : Tr := ⟨keyTier r.key, keyPa r.key, r.key, r.slotKey, r.leaf⟩

def State.onRatom (s : State) (num : Nat) (f : RatomReq → RatomReq) : State :=
  { s with ratoms := s.ratoms.map fun r => if r.num % 2 ^ 32 = num % 2 ^ 32 then f r else r }
def State.onForeign (s : State) (num : Nat) (f : RatomReq → RatomReq) : State :=
  { s with foreign := s.foreign.map fun r => if r.num % 2 ^ 32 = num % 2 ^ 32 then f r else r }

/-- The atomic of a request at its home, with the race check and counts of its command's access (08 R206, 10 R253). None where it is refused:
a race (10 R260), or an uncorrectable error that has arisen there, which halts the partition (08 R208). -/
def RatomReq.perform (r : RatomReq) (s : State) : Option Nat × State :=
  let go (s : State) : Option Nat × State := let x := performAtomic r.tr r.op r.size r.data r.cmp s; (some x.1, x.2)
  match (s.lease? r.lease).bind fun l => l.cmd? r.cmd with
  | none => go s
  | some c =>
    let a := c.access .atomic (c.target r.elem)
    if s.badAt r.tr then (none, asLease r.lease s fun s => s.badData a r.tr)
    else match s.homeArrival r.lease a r.tr with
      | .ok s => go s
      | .error (cause, i, s) => (none, s.onRatom r.num fun r => { r with refusal := some (cause, i) })

/-- The atomic of another package's request at its home: the location arrives settled (10 R254). None where it is refused: a sync object, a
partition that has halted, or an uncorrectable error, which halts it. -/
def RatomReq.farPerform (r : RatomReq) (s : State) : Option Nat × State :=
  if (s.part r.part).pstate ≠ 0 || sget 0 (r.key / 64) s.marks ≠ 0 then (none, s)
  else if s.badAt r.tr then
    (none, s.haltLine r.part .uncorrectable
      { cause := .uncorrectable, engine := 6, aid := r.aid, addr := if r.farKind / 32 % 2 = 1 then 0 else r.farAddr, paddr := r.tr.pa,
        tier := r.tr.tier, die := r.home / 32 })
  else
    let x := performAtomic r.tr r.op r.size r.data r.cmp (s.countHome 8 r.part r.farAddr r.tr .atomic)
    (some x.1, x.2.settle r.key)

def Window.isOf (w : Window) (slice part pkg aid : Nat) : Bool := w.slice = slice && w.part = part && w.pkg = pkg && w.aid = aid

/-- What a guarded request meets at its slice. -/
inductive AtSlice where
  /-- No window is free. -/
  | full
  /-- It is refused, and not performed. -/
  | refused
  | result (old : Nat)
  deriving DecidableEq, Repr

/-- A guarded request at its slice: the old value from the window or by performing it. -/
def windowed (slice part pkg aid req : Nat) (perform : State → Option Nat × State) (s : State) : AtSlice × State :=
  let go (s : State) : AtSlice × State :=
    match s.windows.find? (fun w => w.isOf slice part pkg aid) with
    | none => (.full, s)
    | some w =>
      let j := req % 64
      match w.results.find? (fun e => e.1 = j && e.2.1 = req) with
      | some e => (.result e.2.2, s)
      | none =>
        match perform s with
        | (none, s) => (.refused, s)
        | (some old, s) =>
          let put (x : Window) : Window := if x.isOf slice part pkg aid then { x with results := sput j (req, old) x.results } else x
          (.result old, { s with windows := s.windows.map put })
  if s.windows.any (fun w => w.isOf slice part pkg aid) then go s
  else if 256 ≤ (s.windows.filter fun w => w.slice = slice).length then (.full, s)
  else go { s with windows := s.windows ++ [{ slice := slice, part := part, pkg := pkg, aid := aid }] }

/-- What a slice sends back toward die d. -/
def RatomReq.replyMsg (r : RatomReq) (d : Nat) : Option Nat → List Byte
  | some old => resultMsg (r.home / 32) d (r.home % 32) (r.num % 2 ^ 32) old
  | none => refusalMsg (r.home / 32) d (r.home % 32) (r.num % 2 ^ 32)

/-- The die of the source of a request: its lease's, or the one on which its agent was numbered. -/
def State.sourceDie (s : State) (r : RatomReq) : Nat :=
  match s.lease? r.lease with
  | some l => l.die
  | none => (s.part r.part).placeOf r.aid

/-- Sends what a slice answers to request r toward die d. -/
def State.replyTo (s : State) (r : RatomReq) (d : Nat) (old : Option Nat) : State := s.takeMsg (r.home / 32) (r.replyMsg d old)

/-- A request on its home die crosses no link: it is performed, and its result is back 48 mc after it was sent (08 R196). -/
def RatomReq.atOwnHome (r : RatomReq) (s : State) : State :=
  let (old, s) := r.perform s
  s.onRatom r.num fun r => { r with toHome := 0, results := old.toList, refused := old.isNone, resultAt := r.lastSend + 48 }

/-- A guarded request at its home slice. -/
def RatomReq.atHome (r : RatomReq) (s : State) : State :=
  match windowed r.home r.part 0 r.aid r.req r.perform s with
  | (.full, s) => s.onRatom r.num fun r => { r with retryAt := r.retryAt ++ [s.datum + 256] }
  | (.refused, s) => s.replyTo r (s.sourceDie r) none
  | (.result old, s) => s.replyTo r (s.sourceDie r) (some old)

/-- The bridge die at which another package's request for a home die entered, and its answer leaves. -/
def State.entryBridge (s : State) (home : Nat) : Nat := (s.fabricBridge home).getD 8

/-- Another package's request at its home slice: its window is the source's (17 R400). -/
def RatomReq.foreignAtHome (r : RatomReq) (s : State) : State :=
  match windowed r.home r.farPart r.pkg r.aid r.req r.farPerform s with
  | (.full, s) => s.onForeign r.num fun r => { r with retryAt := r.retryAt ++ [s.datum + 256] }
  | (.refused, s) => s.replyTo r (s.entryBridge (r.home / 32)) none
  | (.result old, s) => s.replyTo r (s.entryBridge (r.home / 32)) (some old)

/-- A request to another package leaves at its bridge die. -/
def RatomReq.leaves (r : RatomReq) (s : State) : State :=
  { s with out := s.out ++ [.fabric (r.pkg - 1) r.farPart r.part r.aid r.farKind r.req r.farAddr r.data r.cmp (leBytes r.data r.size)] }

/-- The request with number k reaches its home slice, or the bridge die from which it leaves. -/
def requestArrives (k : Nat) (s : State) : State :=
  match s.ratoms.find? (fun r => r.num % 2 ^ 32 = k % 2 ^ 32) with
  | some r =>
    if r.pkg ≠ 0 then r.leaves s
    else if r.guarded then r.atHome s
    else if r.toHome = 0 then s
    else r.atOwnHome s
  | none =>
    match s.foreign.find? (fun r => r.num % 2 ^ 32 = k % 2 ^ 32) with
    | some r => r.foreignAtHome s
    | none => s

def execRatomRequestArrival (k : Nat) (s : State) : Out := .next (requestArrives k s)

/-- A copy of the request that waits for a free window comes again. -/
def RatomReq.comesAgain (r : RatomReq) : RatomReq := { r with retryAt := r.retryAt.drop 1 }

/-- A copy of a request that found no free window comes again after 256 mc. -/
def execWindowRetry (k : Nat) (s : State) : Out :=
  .next (requestArrives k ((s.onRatom k RatomReq.comesAgain).onForeign k RatomReq.comesAgain))

/-- A close message reaches its slice: the window with index k is free. -/
def execWindowClose (k : Nat) (s : State) : Out := .next { s with windows := s.windows.eraseIdx k }

/-! ## Results (21 R416) -/

/-- A request of the source of r is outstanding to a slice, or to one not known yet. -/
def State.slicePending (s : State) (r : RatomReq) (slice : Nat) : Bool :=
  s.ratoms.any fun x => x.guarded && x.part = r.part && x.aid = r.aid && x.pkg = r.pkg && (x.home = slice || x.home = farHome)

/-- A window entry of `farOpen` that belongs to the source of r at the same package. -/
def RatomReq.opened (r : RatomReq) (o : Nat × Nat × Nat × Nat × Nat) : Bool :=
  o.1 = r.part && o.2.1 = r.aid && o.2.2.1 = r.pkg && o.2.2.2.1 = r.farPart

/-- A source with no request outstanding to a slice closes its window there; the close to another package's slice leaves by a bridge die
(17 R400). -/
def State.closeIfIdle (s : State) (die : Nat) (r : RatomReq) : State :=
  if !r.guarded then s
  else if r.pkg = 0 then
    if s.slicePending r r.home then s else s.takeMsg die (closeMsg die (r.home / 32) (r.home % 32) r.part r.aid 0 0)
  else
    let e := (r.part, r.aid, r.pkg, r.farPart, r.home)
    let all := if r.home = farHome || s.farOpen.contains e then s.farOpen else s.farOpen ++ [e]
    let (idle, left) := all.partition fun o => r.opened o && !s.slicePending r o.2.2.2.2
    let b := (s.fabricBridge die).getD 8
    idle.foldl (fun s o => s.sendMsg die (closeMsg die b o.2.2.2.2 r.part r.aid (r.pkg - 1) r.farPart)) { s with farOpen := left }

/-- Request r is no longer outstanding. -/
def State.forgetRatom (s : State) (r : RatomReq) (die : Nat) : State :=
  ({ s with ratoms := s.ratoms.filter fun x => x.num ≠ r.num } : State).closeIfIdle die r

/-- Drops the requests of command k of the lease in focus. -/
def State.dropRatoms (s : State) (k : Nat) : State :=
  let l := s.cur
  let mine := s.ratoms.filter fun r => r.lease = l.id && r.cmd = k
  let s := { s with ratoms := s.ratoms.filter fun r => !(r.lease = l.id && r.cmd = k) }
  mine.foldl (fun s r => s.closeIfIdle l.die r) s

/-- The first result of an element is written to DH, where asked; a race stops the command with the result still held. -/
def writeResult (c : Cmd) (r : RatomReq) (old : Nat) (s : State) : Except State State :=
  if c.imm / 4 % 2 = 0 then .ok s
  else
    let a := (elemAt c.dst r.elem r.size).toNat
    match c.scratchCheck .write (granulesOf a r.size) s with
    | .error (cause, i, s) => .error (s.lateStop c.seq cause i)
    | .ok s => .ok (s.winWrite a (leBytes old r.size))

/-- Request r of the lease in focus is refused, or its eighth send has gone without a result: its command stops at its element, which goes
again with the command; the requests of other elements go on (09 R219, R228, 21 R416; DEDUCED, log entry 19). A stream that has
stopped already leaves the refusal waiting. -/
def ratomStops (r : RatomReq) (s : State) : State :=
  match s.cur.cmd? r.cmd with
  | none => s.forgetRatom r s.cur.die
  | some c =>
    let x := s.cur.stream c.stream
    if x.stop.isSome || x.retry.isSome then s
    else
      let s := (s.forgetRatom r s.cur.die).onCmd c.seq fun c => { c with offset := Nat.min c.offset r.elem }
      match r.refusal with
      | some (cause, i) => s.lateStop c.seq cause i
      | none => s.lateStop c.seq .remoteUnreachable ({ c with offset := r.elem }.lateInfo (c.target r.elem))

/-- One result of request r is taken, or its refusal. -/
def resultArrives (r : RatomReq) (s : State) : State :=
  match r.results with
  | [] => if !r.refused then s else if r.haveResult then s.forgetRatom r s.cur.die else ratomStops r s
  | old :: rest =>
    let count (s : State) : State :=
      if r.sends ≤ r.answered + 1 then s.forgetRatom r s.cur.die
      else s.onRatom r.num fun x => { x with results := rest, answered := x.answered + 1, haveResult := true }
    match s.cur.cmd? r.cmd with
    | none => count s
    | some c =>
      if r.haveResult || c.idxs.contains r.elem then count s
      else if (s.cur.stream c.stream).stop.isSome && (s.cur.stream c.stream).retry = some c.seq then s
      else
      let s := if c.imm / 4 % 2 = 0 then s
        else ((s.input c.stream.index c.slot (leBytes old r.size) fun _ => false).map (·.2)).getD s
      match writeResult c r old (s.unretry c) with
        | .error s => s
        | .ok s =>
          let s := count (s.onCmd c.seq fun c => { c with idxs := c.idxs ++ [(r.elem : Int)] })
          if c.total ≤ c.idxs.length + 1 then s.finishCmd c.seq none else s

/-- A late result of a lease that has ended: it is discarded, and the last one closes the window. -/
def orphanResult (r : RatomReq) (s : State) : State :=
  if r.refused || r.sends ≤ r.answered + 1 then s.forgetRatom r (s.sourceDie r)
  else s.onRatom r.num fun x => { x with results := x.results.drop 1, answered := x.answered + 1 }

/-- The answer to another package's request has reached the bridge die, and leaves: the old value with its home slice, or a refusal. -/
def RatomReq.answers (r : RatomReq) (s : State) : State :=
  { s with foreign := s.foreign.filter fun x => x.num ≠ r.num,
           out := s.out ++ [match r.results with
             | old :: _ => .fabric (r.pkg - 1) r.farPart r.part r.aid 22 r.req r.farAddr old r.home []
             | [] => .fabric (r.pkg - 1) r.farPart r.part r.aid 23 r.req r.farAddr Cause.remoteUnreachable.code 0 []] }

def execRatomResultArrival (k : Nat) (s : State) : Out :=
  .next (match s.ratoms.find? (fun r => r.num % 2 ^ 32 = k % 2 ^ 32) with
    | none => match s.foreign.find? (fun r => r.num % 2 ^ 32 = k % 2 ^ 32) with
      | some r => r.answers s
      | none => s
    | some r => if (s.lease? r.lease).isSome then onLease r.lease s (resultArrives r) else orphanResult r s)

/-- Request r has had no answer for 16,384 mc after its last send (21 R416). -/
def RatomReq.timedOut (r : RatomReq) (now : Nat) : Bool :=
  r.guarded && !r.haveResult && !r.refused && r.results.isEmpty && decide (r.lastSend + 16384 ≤ now)

/-- No result for 16,384 mc: the request is sent again, or after eight sends the command stops (21 R416). -/
def execRatomResendTimer (k : Nat) (s : State) : Out :=
  .next (match s.ratoms.find? (fun r => r.num % 2 ^ 32 = k % 2 ^ 32) with
    | none => s
    | some r =>
      if !r.timedOut s.datum then s
      else onLease r.lease s fun s =>
        if r.sends < 8 then
          (s.onRatom r.num fun r => { r with sends := r.sends + 1, lastSend := s.datum }).launchReq s.cur.die r
        else ratomStops r s)

/-- The copies of a request whose wait for a free window is over. -/
def RatomReq.retries (r : RatomReq) (now : Nat) : List Instr := (r.retryAt.filter fun t => t ≤ now).map fun _ => .windowRetry r.num

/-- The events of remote atomics that fall due; results for a stopped group wait (15 R355). -/
def State.ratomEvents (s : State) : List Instr :=
  (s.foreign.flatMap fun r => r.retries s.datum) ++ s.ratoms.flatMap fun r =>
    let live := (match s.lease? r.lease with | some l => l.st ≠ .halted | none => true)
    if !live then []
    else
      (if !r.guarded && r.toHome = 1 && r.lastSend + 24 ≤ s.datum then [Instr.ratomRequestArrival r.num] else []) ++
      (if (!r.results.isEmpty || r.refused) && !s.stoppedAt r.lease && (r.guarded || r.resultAt ≤ s.datum) then [Instr.ratomResultArrival r.num] else []) ++
      r.retries s.datum ++
      (if r.timedOut s.datum then [Instr.ratomResendTimer r.num] else [])

end Sys2Proof.Machine
end

