-- ==== Sys2Proof/Machine/WorkList.lean ====
section
/-! DEFINITION. WorkList.lean: OUTQ (11 R268), RINGSET (11 R263), the work-list commands WLAPP, WLTAKE and WLSEAL of LD, SD and CP
(11 R270-R275, 06 R158), the compaction units that apply them (11 R271, R272, R274-R276), and QUIES (11 R277). -/

namespace Sys2Proof.Machine

/-! ## OUTQ (11 R268) -/

def execOutq (t : Tok) (sh : BitVec 4) (scope : BitVec 2) (m : BitVec 4) (imm : BitVec 20) (s : State) : Out :=
  lsWord t (fun _ s =>
    if m = 0 then emptyCmd t (some (imm.getLsbD 0)) s
    else
      let h := s.handle sh.toNat
      checked (orElseC (s.cur.handleCheck h) (firstBad [
        (hSpace h ≠ spScratch && hSpace h ≠ spGlobal, .handleInvalid)]))
        (if hBase h % 8 ≠ 0 then .refuse .misaligned (hBase h)
         else if hSpace h = spScratch && !s.cur.winOk (hBase h) (hBase h + 8 : Nat) then .refuse .scratchBounds 0
         else acceptCmd { s.newCmd t .outq scope with
           src := h, m := m.toNat, total := 8, fp := [mkRange (hSpace h) (hBase h) (hBase h + 8 : Nat) false] } s)) s

/-- The read of an OUTQ and its bit. -/
def outqRead (c : Cmd) (s : State) : State :=
  let loc := locAt (hSpace c.src) (hBase c.src)
  match touchLoc c .read loc true s with
  | .ok t s =>
    let other (sl : Nat) : Bool := s.cur.cmds.any fun x => x.seq ≠ c.seq && x.stream = c.stream && x.slot = sl
    let fin (bs : List Byte) (s : State) : State :=
      match (if loc.outside then s.input c.stream.index c.slot bs other else some (bs, s)) with
      | none => s
      | some (bs, s) => s.finishCmd c.seq (some ((leNat bs ≠ 0) = (c.m = 1)))
    if t.tier = 3 then
      match s.farPeek t 8 with
      | none => s.farAsk c.stream t loc.va
      | some bs => fin bs (s.farForget t)
    else
      let (bs, s) := readLoc c loc t 8 s
      fin bs s
  | r => s.cmdStop c .read loc.va r

/-! ## RINGSET (11 R263) -/

/-- Every word placed in a stream's ring has issued and completed. -/
def Lease.ringIdle (l : Lease) (now : Nat) (st : Stream) : Bool :=
  let x := l.stream st
  x.ring.count = 0 && x.ring.rep.isNone && (l.openSeqs now st).isEmpty && !(l.reps.any fun r => r.stream = st)

/-- Every word placed in the LD, CP and SD rings has issued and completed, job cards included. -/
def Lease.ringsIdle (l : Lease) (now : Nat) : Bool :=
  l.ringIdle now .ld && l.ringIdle now .cp && l.ringIdle now .sd && l.cmds.isEmpty

/-- A legal new ring for stream st (11 R263). -/
def Lease.ringLegal (l : Lease) (st : Stream) (b n : Nat) : Bool :=
  (n = 256 || n = 512 || n = 1024 || n = 2048 || n = 4096) && b % (8 * n) = 0 && b + 8 * n ≤ l.windowBytes &&
  !([Stream.ld, .cp, .sd].any fun x => x ≠ st && (l.stream x).ring.meets b (b + 8 * n : Nat))

def execRingset (t : Tok) (tgt : BitVec 2) (a b : BitVec 5) (s : State) : Out :=
  ctWord t [a, b] 0 (fun s =>
    let st := Stream.ofIndex tgt.toNat
    if !s.cur.ringsIdle s.datum || (s.cur.stream st).retry.isSome then .wait s
    else if !s.cur.ringLegal st (s.reg a).toNat (s.reg b).toNat then .refuse .illegalOperand s
    else .plain (s.onRing st fun _ => { base := (s.reg a).toNat, slots := (s.reg b).toNat })) s

/-! ## Handing over (11 R270, R271, R273-R275) -/

/-- The home die of a descriptor; 0 where its address does not translate. -/
def State.wlHome (s : State) (p desc : Nat) : Nat :=
  match s.unitTr p 0 desc .read with
  | some t => homeDie t.tier t.pa
  | none => 0

def State.handOver (s : State) (desc : Nat) (m : WlMsg) : State :=
  let d := s.wlHome s.cur.part desc
  { s with wl := sset [] d (sget [] d s.wl ++ [m]) s.wl }

/-- The checks of a set reference at issue (11 R270). -/
def setRefOk (h : Handle) (s : State) (f : LsRes) : LsRes :=
  if hBase h % 8 ≠ 0 then .refuse .misaligned (hBase h)
  else if !s.cur.winOk (hBase h) (hBase h + 8 : Nat) then .refuse .scratchBounds 0
  else f

/-- Command c reads its set reference as it first acts, when no edge leads to it any more (09 R214). None: a race stopped it. -/
def readSet (c : Cmd) (h : Handle) (s : State) : Option Nat × State :=
  match c.scratchCheck .read (granulesOf (hBase h) 8) s with
  | .error (cause, i, s) => (none, s.lateStop c.seq cause i)
  | .ok s => (some (leNat (s.winBytes (hBase h) 8)), s)

def execWlapp (t : Tok) (dh sh : BitVec 4) (scope : BitVec 2) (m : BitVec 4) (s : State) : Out :=
  lsWord t (fun _ s =>
    let l := s.cur
    let d := s.handle dh.toNat
    let h := s.handle sh.toNat
    checked (orElseC (l.handleCheck h) (orElseC (l.handleCheck d) (firstBad [
      (hSpace h ≠ spScratch || hSpace d ≠ spScratch, .handleInvalid), (hFmt h ≠ 0x0B, .formatInvalid),
      (hDim0 h ≠ 3 || hDim2 h ≠ 1, .illegalOperand)])))
      (setRefOk d s (if hDim1 h = 0 then emptyCmd t none s
        else acceptCmd { s.newCmd t .wlapp scope with
          src := h, dst := d, m := m.toNat, total := hDim1 h,
          fp := hRange h false false ++ [mkRange spScratch (hBase d) (hBase d + 8 : Nat) false] } s))) s

/-- Hands over rows from the command's offset on; a row is read with its race check. -/
def wlappRows (k : Nat) : Nat → State → State
  | 0, s => s
  | fuel + 1, s =>
    match s.cur.cmd? k with
    | none => s
    | some c =>
      if c.total ≤ c.offset then s.finishCmd k none
      else
        let a := (hRowAt c.src 0 c.offset).toNat
        match c.scratchCheck .read (granulesOf a 12) s with
        | .error (cause, i, s) => s.lateStop k cause i
        | .ok s =>
          let b := s.winBytes a 12
          let list := recLe b 0 4
          let s := if 2 ^ 31 ≤ list then s
            else s.handOver c.imm (.item s.cur.part c.imm (s.cur.aidOf c.stream) list (recLe b 4 4) (recLe b 8 4) (c.m = 1))
          wlappRows k fuel (s.onCmd k fun c => { c with offset := c.offset + 1 })

/-- WLAPP's turn: its set reference once (`sent`), then its rows. -/
def wlappTurn (c : Cmd) (s : State) : State :=
  if c.sent = 1 then wlappRows c.seq (c.total + 1) s
  else match readSet c c.dst s with
    | (none, s) => s
    | (some desc, s) => wlappRows c.seq (c.total + 1) (s.onCmd c.seq fun c => { c with imm := desc, sent := 1 })

/-- CP's form: the items of the lanes with a list (06 R158). The rules give the order of the items and the completion at t + 2, once every
item is handed over; the model hands all of them over as the word issues (DESIGN CHOICE, log entry 99). -/
def execCpWlapp (t : Tok) (d : BitVec 8) (h m : BitVec 4) (base : BitVec 24) (s : State) : Out :=
  cpWord (.cpWlapp t d h m base) t (fun s =>
    let hh := s.handle h.toNat
    match s.cur.cpHandle hh with
    | some c => .refuse c 0
    | none =>
      if hBase hh % 8 ≠ 0 then .refuse .misaligned (hBase hh)
      else if !s.cur.winOk (hBase hh) (hBase hh + 8 : Nat) then .refuse .scratchBounds 0
      else match scratchCheck .cp (s.cur.curSlot .cp) 0 [(.read, hBase hh)] s with
        | .error (c, i, s) => .refuseWith c i s
        | .ok s =>
          let desc := leNat (s.cpBytes (hBase hh) 8)
          let s0 := s
          let s := ((s.vec d).zipIdx).foldl (fun s x =>
            if x.1.msb then s
            else
              let n := base.toNat + x.2
              s.handOver desc (.item s.cur.part desc (s.cur.aidOf .cp) x.1.toNat n n (m = 1))) s
          let s := if s.cur.replay.isSome then s0 else s
          .ok (s.addPend (.cpWlapp t d h m base) t [] 0 .none)) s

def execWltake (t : Tok) (dh sh : BitVec 4) (scope : BitVec 2) (m : BitVec 4) (max : BitVec 8) (list : BitVec 12) (s : State) : Out :=
  lsWord t (fun _ s =>
    let l := s.cur
    let d := s.handle dh.toNat
    let h := s.handle sh.toNat
    checked (orElseC (l.handleCheck d) (orElseC (firstBad [(hSpace d ≠ spScratch, .handleInvalid), (hFmt d ≠ 0x0B, .formatInvalid),
      (hDim0 d < max.toNat + 1 || hDim1 d = 0 || hDim2 d = 0, .illegalOperand)])
      (orElseC (l.handleCheck h) (firstBad [(hSpace h ≠ spScratch, .handleInvalid)]))))
      (setRefOk h s (acceptCmd { s.newCmd t .wltake scope with
        dst := d, src := h, m := m.toNat, card := list.toNat, total := max.toNat, fp := hRange d false true } s))) s

def execWlseal (t : Tok) (sh : BitVec 4) (scope : BitVec 2) (stream : BitVec 2) (s : State) : Out :=
  lsWord t (fun _ s =>
    let h := s.handle sh.toNat
    checked (orElseC (s.cur.handleCheck h) (firstBad [(hSpace h ≠ spScratch, .handleInvalid)]))
      (setRefOk h s (acceptCmd { s.newCmd t .wlseal scope with
        src := h, m := stream.toNat, fp := [mkRange spScratch (hBase h) (hBase h + 8 : Nat) false] } s))) s

/-- The taken payloads go to DH, with their race check; then the command completes (11 R274). -/
def takeWrite (c : Cmd) (s : State) : State :=
  let bs := c.pat.flatMap fun v => leBytes v.toNat 4
  match s.input c.stream.index c.slot bs fun sl => s.cur.cmds.any fun x => x.seq ≠ c.seq && x.stream = c.stream && x.slot = sl with
  | none => s
  | some (bs, s) =>
  match c.scratchCheck .write (granulesOf (hBase c.dst) bs.length) s with
  | .error (cause, i, s) => s.lateStop c.seq cause i
  | .ok s => (s.winWrite (hBase c.dst) bs).finishCmd c.seq (if c.m = 1 then some (c.pat.getD 0 0 ≠ 0) else none)

/-- The next action of a queue or work-list command k of the lease in focus. -/
def listUnit (k : Nat) (s : State) : State :=
  match s.cur.cmd? k with
  | none => s
  | some c =>
    let replay := s.cur.replay.isSome
    if !s.cmdGoes c then s
    else if replay && (c.kind = .wlapp || c.kind = .wlseal) then s.finishCmd k none
    else match c.kind with
      | .outq => outqRead c (s.unretry c)
      | .wlapp => wlappTurn c (s.unretry c)
      | .wlseal => match readSet c c.src (s.unretry c) with
        | (none, s) => s
        | (some desc, s) => (s.handOver desc (.seal s.cur.part desc (s.cur.aid + c.m))).finishCmd k none
      | .wltake =>
        if c.sent = 1 then takeWrite c (s.unretry c)
        else if c.offset = 1 then s
        else if replay then
          (match s.replayNext c.stream.index with
          | some (pos, len, sl, _) =>
            if sl = c.slot then
              let bs := (s.replayTake c.stream.index pos len).1
              takeWrite { c with pat := (bytesLanes (len / 4) bs).map fun w => (w.toNat : Int) } s
            else if s.cur.cmds.any fun x => x.seq ≠ c.seq && x.stream = c.stream && x.slot = sl then s
            else s.askStop 64
          | none => s.askStop 32)
        else match readSet c c.src (s.unretry c) with
          | (none, s) => s
          | (some desc, s) =>
            (s.handOver desc (.take s.cur.part desc s.cur.id k c.card c.total)).onCmd k fun c => { c with imm := desc, offset := 1 }
      | _ => s

/-! ## The compaction unit (11 R270-R272, R274-R276) -/

/-- The compaction unit that serves a set. -/
def State.wlUnit (s : State) (p desc : Nat) : UnitId := ⟨9, s.wlHome p desc⟩

/-- A field of the descriptor, n bytes at offset o. -/
def State.dsc (s : State) (p desc o n : Nat) : Nat := s.unitLe p (desc + o) n
def State.dscSet (s : State) (p desc o n v : Nat) : State := s.unitWriteBy (s.wlUnit p desc) p (desc + o) (leBytes v n)

/-- Sets a FLAGS bit. -/
def State.wlFlag (s : State) (p desc bit : Nat) : State := s.dscSet p desc 0x0C 4 (s.dsc p desc 0x0C 4 ||| 2 ^ bit)

/-- n bytes from va lie in present HBM pages. -/
def State.inHbm (s : State) (p va n : Nat) : Bool :=
  (List.range ((va % 65536 + n + 65535) / 65536)).all fun i =>
    match s.unitTr p 0 (va + i * 65536) .read with
    | some t => t.tier = 0
    | none => false

/-- The descriptor is malformed (11 R270). -/
def wlBad (s : State) (p desc : Nat) : Bool :=
  let f := s.dsc p desc
  let mode := f 0 1
  let nlist := f 2 2
  let nprod := f 4 2
  let cap := f 6 2
  let items := f 8 4
  let area (o n : Nat) : Bool := f o 8 % 64 = 0 && s.inHbm p (f o 8) n
  2 ≤ mode || nlist = 0 || 4096 < nlist || nprod = 0 || 4096 < nprod || cap < nprod || 4096 < cap || items = 0 || 2 ^ 24 < items ||
  !area 0x10 (nlist * items * 8) || !area 0x18 (nlist * 8) || !area 0x20 (cap * 16) ||
  (mode = 1 && (f 0x28 8 = 0 || !area 0x28 (f 0x30 4 * 16))) || (mode = 0 && f 0x28 8 ≠ 0)

/-- The unit reads a descriptor, whose line is filled; an uncorrectable error halts the partition (08 R208), and nothing follows. -/
def State.dscTouch (s : State) (p desc : Nat) : State := s.unitTouch (s.wlUnit p desc) p desc 64

/-- Does f to a set that is not malformed. -/
def onSet (p desc : Nat) (s : State) (f : State → State) : State :=
  if desc % 64 ≠ 0 || !s.inHbm p desc 64 then s
  else
    let s := s.dscTouch p desc
    if (s.part p).pstate ≠ 0 || s.dsc p desc 0x0C 4 % 2 = 1 then s
    else if wlBad s p desc then s.wlFlag p desc 0
    else f s

/-- Index of the producer entry of an agent, else of the first free entry; true when found. -/
def prodEntry (s : State) (p desc aid : Nat) : Option (Nat × Bool) :=
  let at_ := s.dsc p desc 0x20 8
  let cap := s.dsc p desc 6 2
  let word (i : Nat) : Nat := s.unitLe p (at_ + 16 * i) 2
  match (List.range cap).find? fun i => nbits (word i) 15 15 = 1 && word i % 4096 = aid with
  | some i => some (i, true)
  | none => ((List.range cap).find? fun i => nbits (word i) 15 15 = 0).map fun i => (i, false)

def satAdd16 (v : Nat) : Nat := Nat.min 0xFFFF (v + 1)

/-- Appends an item whose sequence number is new (11 R272). -/
def wlAppend (p desc aid e payload : Nat) (s : State) : State :=
  let cap := s.dsc p desc 8 4
  let at_ := s.dsc p desc 0x18 8 + 8 * e
  let n := s.unitLe p at_ 4
  if n = cap then s.wlFlag p desc 1
  else
    let s := s.unitWriteBy (s.wlUnit p desc) p (s.dsc p desc 0x10 8 + 8 * (e * cap + n)) (packLe [(payload, 4), (aid % 4096, 2), (0, 2)])
    s.unitWriteBy (s.wlUnit p desc) p at_ (leBytes (n + 1) 4)

/-- One item (11 R272). -/
def wlItem (p desc aid e payload sq : Nat) (top : Bool) (s : State) : State :=
  onSet p desc s fun s =>
    if (s.dsc p desc 0 1 = 1) ≠ top then s.wlFlag p desc 5
    else if s.dsc p desc 1 1 = 1 then s.wlFlag p desc 2
    else match prodEntry s p desc aid with
      | none => s.wlFlag p desc 3
      | some (i, found) =>
        let q := s.dsc p desc 0x20 8 + 16 * i
        let s := if found then s else s.unitWriteBy (s.wlUnit p desc) p q (packLe [(aid % 4096 + 2 ^ 15, 2), (0, 2), (sq, 4), (0, 8)])
        if nbits (s.unitLe p q 2) 14 14 = 1 then s.wlFlag p desc 2
        else if s.dsc p desc 2 2 ≤ e then s.wlFlag p desc 7
        else
          let high := s.unitLe p (q + 4) 4
          let win := s.unitLe p (q + 8) 8
          let (high', win') := if high < sq then (sq, if 64 ≤ sq - high then 0 else win * 2 ^ (sq - high) % 2 ^ 64) else (high, win)
          if 63 < high' - sq then s.dscSet p desc 0x3C 2 (satAdd16 (s.dsc p desc 0x3C 2))
          else if nbits win' (high' - sq) (high' - sq) = 1 then s.dscSet p desc 0x3A 2 (satAdd16 (s.dsc p desc 0x3A 2))
          else
            let s := s.unitWriteBy (s.wlUnit p desc) p (q + 4) (packLe [(high', 4), (win' + 2 ^ (high' - sq), 8)])
            wlAppend p desc aid e payload s

/-- A seal (11 R275). -/
def wlSeal (p desc aid : Nat) (s : State) : State :=
  onSet p desc s fun s =>
    match prodEntry s p desc aid with
    | none => s.wlFlag p desc 3
    | some (i, found) =>
      let q := s.dsc p desc 0x20 8 + 16 * i
      let w := s.unitLe p q 2
      if found && nbits w 14 14 = 1 then s
      else
        let s := s.unitWriteBy (s.wlUnit p desc) p q (leBytes (aid % 4096 + 3 * 2 ^ 14) 2)
        let n := s.dsc p desc 0x38 2
        if n < s.dsc p desc 4 2 then s.dscSet p desc 0x38 2 (n + 1) else s.wlFlag p desc 6

/-- A take: the count and the payloads go back to the command (11 R274). -/
def wlTake (p desc lease cmd list max : Nat) (s : State) : State :=
  let give (ps : List Nat) (s : State) : State :=
    asLease lease s fun s => s.onCmd cmd fun c => { c with sent := 1, pat := (ps.length : Int) :: ps.map Int.ofNat }
  if desc % 64 ≠ 0 || !s.inHbm p desc 64 then give [] s
  else
  let s := s.dscTouch p desc
  if (s.part p).pstate ≠ 0 then s
  else if s.dsc p desc 0x0C 4 % 2 = 1 then give [] s
  else if wlBad s p desc then give [] (s.wlFlag p desc 0)
  else if s.dsc p desc 0 1 = 1 then give [] (s.wlFlag p desc 5)
  else if s.dsc p desc 1 1 = 1 then give [] s
  else if s.dsc p desc 2 2 ≤ list then give [] (s.wlFlag p desc 7)
  else
    let at_ := s.dsc p desc 0x18 8 + 8 * list
    let taken := s.unitLe p (at_ + 4) 4
    let k := Nat.min max (s.unitLe p at_ 4 - taken)
    let item (i : Nat) : Nat := s.dsc p desc 0x10 8 + 8 * (list * s.dsc p desc 8 4 + taken + i)
    let ps := (List.range k).map fun i => s.unitLe p (item i) 4
    give ps (s.unitWriteBy (s.wlUnit p desc) p (at_ + 4) (leBytes (taken + k) 4))

/-- The topology entries of expert e (13 R330): blocks in ascending order with their masks. -/
def topoOf (s : State) (p desc e : Nat) : List (Nat × Nat) :=
  let n := s.unitLe p (s.dsc p desc 0x18 8 + 8 * e) 4
  let pay (i : Nat) : Nat := s.unitLe p (s.dsc p desc 0x10 8 + 8 * (e * s.dsc p desc 8 4 + i)) 4
  ((List.range n).foldl (fun (m : SMap Nat) i => sset 0 (pay i / 64) (sget 0 (pay i / 64) m ||| 2 ^ (pay i % 64)) m) [])

/-- Takes the next k entries of a topology table: each is written, or does not fit and sets TOPOVF. -/
def writeTopo : Nat → TopoBuild → State → TopoBuild × State
  | 0, b, s => (b, s)
  | k + 1, b, s =>
    match b.left with
    | [] => (b, s)
    | (e, blk, mask) :: r =>
      let slot := sget 0 blk b.seen
      let b := { b with left := r, seen := sset 0 blk (slot + 1) b.seen }
      if s.dsc b.part b.desc 0x30 4 ≤ b.n then writeTopo k b (s.wlFlag b.part b.desc 4)
      else
        let s := s.unitWriteBy (s.wlUnit b.part b.desc) b.part (s.dsc b.part b.desc 0x28 8 + 16 * b.n) (packLe [(mask, 8), (blk, 4), (e, 2), (slot, 2)])
        writeTopo k { b with n := b.n + 1 } s

/-- The table of a quiescent set grows by four entries in an mc; TOPOCNT and STATE follow the last (11 R276). -/
def topoStep (b : TopoBuild) (s : State) : State :=
  let rest := s.wlBuilds.filter fun x => x.part ≠ b.part || x.desc ≠ b.desc
  let (b, s) := writeTopo 4 b s
  if b.left.isEmpty then ((({ s with wlBuilds := rest } : State)).dscSet b.part b.desc 0x34 4 b.n).dscSet b.part b.desc 1 1 1
  else { s with wlBuilds := rest ++ [b] }

/-- Quiescence at the end of an mc (11 R276). The first four entries of a topology table are written in the mc of quiescence (DEDUCED,
log entry 84). -/
def wlQuiesce (p desc : Nat) (s : State) : State :=
  onSet p desc s fun s =>
    let nlist := s.dsc p desc 2 2
    let c := s.dsc p desc 0x18 8
    match s.wlBuilds.find? fun x => x.part = p && x.desc = desc with
    | some b => topoStep b s
    | none =>
      if s.dsc p desc 1 1 = 1 || s.dsc p desc 0x38 2 ≠ s.dsc p desc 4 2 then s
      else if s.dsc p desc 0 1 = 0 then
        if (List.range nlist).all fun e => s.unitLe p (c + 8 * e) 4 = s.unitLe p (c + 8 * e + 4) 4 then s.dscSet p desc 1 1 1 else s
      else topoStep { part := p, desc := desc, left := (List.range nlist).flatMap fun e => (topoOf s p desc e).map fun x => (e, x.1, x.2) } s

def WlMsg.rank : WlMsg → Nat
  | .item .. => 0 | .seal .. => 1 | .take .. => 2
def WlMsg.set : WlMsg → Nat × Nat
  | .item p d .. => (p, d) | .seal p d .. => (p, d) | .take p d .. => (p, d)

/-- Takes the first message of a rank from die d's ingress. -/
def State.popWl (s : State) (d rank : Nat) : Option WlMsg × State :=
  let ms := sget [] d s.wl
  match ms.findIdx? fun m => m.rank = rank with
  | none => (none, s)
  | some i => (ms[i]?, { s with wl := sset [] d (ms.eraseIdx i) s.wl })

/-- Applies the first message of a rank. -/
def wlApply (d rank : Nat) (s : State) : State :=
  match s.popWl d rank with
  | (some (.item p desc aid e pay sq top), s) => wlItem p desc aid e pay sq top s
  | (some (.seal p desc aid), s) => wlSeal p desc aid s
  | (some (.take p desc l c list max), s) => wlTake p desc l c list max s
  | (none, s) => s

def execWorklistItem (d : Nat) (s : State) : Out := .next (wlApply d 0 s)
def execWorklistSealApply (d : Nat) (s : State) : Out := .next (wlApply d 1 s)
def execWorklistTakeApply (d : Nat) (s : State) : Out := .next (wlApply d 2 s)
def execWorklistQuiescence (p : Nat) (desc : BitVec 64) (s : State) : Out := .next (wlQuiesce p desc.toNat s)

/-- The order of a set's operations within an mc: appends, lowest AID first, seals, takes, lowest AID first (11 R271). -/
def State.wlOrder (s : State) (m : WlMsg) : Nat :=
  match m with
  | .item _ _ a .. => a
  | .seal .. => 4096
  | .take _ _ l c .. =>
    8192 + (match s.lease? l with
      | some x => x.aid + (match x.cmd? c with | some c => c.stream.index | none => 0)
      | none => 0)

/-- The events of the compaction units in this mc, and the ingress in its order. -/
def State.wlEvents (s : State) : List Instr × State :=
  let wl := s.wl.map fun (d, ms) => (d, sortBy (s.wlOrder) ms)
  let evs := wl.flatMap fun (d, ms) => ms.map fun m =>
    match m with
    | .item .. => Instr.worklistItem d
    | .seal .. => .worklistSealApply d
    | .take .. => .worklistTakeApply d
  let sets := ((wl.flatMap fun (_, ms) => ms.map WlMsg.set) ++ s.wlBuilds.map fun b => (b.part, b.desc)).eraseDups
  (evs ++ sets.map fun x => .worklistQuiescence x.1 (BitVec.ofNat 64 x.2), { s with wl := wl })

/-! ## QUIES (11 R277) -/

/-- s[D] of QUIES on a descriptor. -/
def quiesValue (s : State) (p desc : Nat) : W64 :=
  BitVec.ofNat 64 (s.dsc p desc 0x34 4 * 2 ^ 32 + (if s.dsc p desc 1 1 = 1 then 2 ^ 31 else 0) + s.dsc p desc 0x0C 4 % 256)

/-- The set is quiescent or malformed. -/
def quiesReady (s : State) (p desc : Nat) : Bool := s.dsc p desc 1 1 = 1 || s.dsc p desc 0x0C 4 % 2 = 1

/-- CT's word waits for an event of its own. -/
def State.ctSent (s : State) : State := s.onCt fun c => { c with wait := .sent }

/-- The answer to a word of a stopped CT waits: the word completes, or traps, after the stop (15 R355). -/
def ctHold (old : Ct) : CtRes → State
  | .done s _ _ lat =>
    let regs := (List.range 32).filterMap fun k => if s.cur.ct.reg k = old.reg k then none else some (k, s.cur.ct.reg k)
    (s.onCt fun _ => old).hold (.done s.cur.id lat regs)
  | .trap c i s => (s.onCt fun _ => old).hold (.trap s.cur.id c i)
  | .sent s _ _ | .wait s | .left s => s

/-- What waits for a lease. -/
def HeldInput.lease : HeldInput → Nat
  | .answer r _ _ => r.lease
  | .land l _ _ | .far l _ _ _ _ | .done l _ _ | .goOn l | .trap l _ _ => l

/-- The end of CT's word waits for the end of a stop. -/
def State.wordHeld (s : State) (l : Nat) : Bool := s.heldIn.any fun x =>
  match x with
  | .done k _ _ | .trap k _ _ | .goOn k => k = l
  | _ => false

/-- An event completes the word at which CT waits: its answer is f's. -/
def ctEvent (op : Nat) (f : State → CtRes) (s : State) : State :=
  if s.cur.ct.wait = .none || opcodeOf s.cur.ct.ir ≠ op || s.cur.st = .halted || s.wordHeld s.cur.id then s
  else if s.cur.frozen then ctHold s.cur.ct (f s)
  else ctFinish (tokOf s.cur.ct.ir) (f s)

def execQuies (t : Tok) (d a : BitVec 5) (s : State) : Out :=
  ctWord t [a] d (fun s =>
    let x := s.reg a
    if x ≠ 0 && s.cur.replay.isSome then .valueIn d 0 1 1 s
    else if x = 0 then
      match s.cur.sret with
      | [] => .wait s
      | v :: r => .plain ((s.onCur fun l => { l with sret := r }).wreg d v 1)
    else if s.cur.ct.wait ≠ .none then .wait s
    else if nbits x.toNat 63 57 ≠ 0 then .refuseAt .pagePermission x s
    else if x.toNat % 64 ≠ 0 then .refuseAt .misaligned x s
    else ctReach x.toNat .read s fun s => .wait s.ctSent) s

/-- The descriptor of a waiting QUIES. -/
def quiesSet (s : State) : Nat := (s.reg (BitVec.ofNat 5 (nbits s.cur.ct.ir.toNat 34 30))).toNat

/-- QUIES completes at the descriptor's read latency once its condition holds. -/
def execQuiesComplete (l : Nat) (s : State) : Out :=
  .next (onLease l s (ctEvent 0x49 fun s =>
    let p := s.cur.part
    let desc := quiesSet s
    if !quiesReady s p desc then .wait s
    else
      let lat := resultMc (dieHops s.cur.die (s.wlHome p desc))
      let d := BitVec.ofNat 5 (nbits s.cur.ct.ir.toNat 39 35)
      .valueIn d (quiesValue s p desc) lat (lat + 1) s))

end Sys2Proof.Machine
end

