-- ==== Sys2Proof/Machine/Models.lean ====
section
/-! DEFINITION. Models.lean: the tables of the model (chapter 13): codebooks (R317, R318), custom graphs (R319-R324), expert
selection and the bias record (R326-R329), the batching unit (R331-R336) and expert affinity (R337, R338). -/

namespace Sys2Proof.Machine

/-! ## Reads of CT of more than one granule -/

/-- Reads granules as CT at a scope, each with its checks, in order (05 R110). -/
def ctGranules (scope : Nat) : List (Nat × Nat) → State → List Byte → (List Byte → State → CtRes) → CtRes
  | [], s, acc, k => k acc s
  | (va, n) :: r, s, acc, k =>
    let a : Access := { st := .ct, kind := .read, scope := scope, va := va, scr := false, slot := s.cur.ct.pc / 8 }
    CtRes.ofAcc a (s.accessGlobal a false) (fun t s =>
      if t.tier = 3 then
        match s.farPeek t n with
        | none => .wait (s.farAsk .ct t va)
        | some bs => ctGranules scope r s (acc ++ bs) k
      else
        let (bs, s) := s.readTr t n false
        ctGranules scope r s (acc ++ bs) k) s

/-- The granule parts of n bytes from a. -/
def granuleParts (a n : Nat) : List (Nat × Nat) :=
  (granulesOf a n).map fun g => (g, Nat.min (a + n) (g / 64 * 64 + 64) - g)

/-- n bytes at va as CT reads them, with the alignment and address checks of 05 R110. -/
def ctRead (scope : Nat) (x : W64) (align n : Nat) (s : State) (k : List Byte → State → CtRes) : CtRes :=
  if nbits x.toNat 63 57 ≠ 0 then .refuseAt .pagePermission x s
  else if x.toNat % align ≠ 0 then .refuseAt .misaligned x s
  else ctGranules scope (granuleParts x.toNat n) s [] fun bs s =>
    match s.input 0 (s.cur.ct.pc / 8) bs fun sl => s.reqs.any fun r => r.lease = s.cur.id && r.slot = sl && r.cmd.isNone with
    | none => .wait s
    | some (bs, s) => k bs (s.forgetRow x.toNat n)

/-- mc until a read at va returns (08 R196). -/
def State.readMc (s : State) (va : Nat) : Nat := s.latencyOf (.glob va false)

/-! ## Codebooks (13 R317, R318) -/

def execCbld (t : Tok) (a : BitVec 5) (slot : BitVec 16) (s : State) : Out :=
  ctWord t [a] 0 (fun s =>
    if !s.cur.cpDrained || s.cur.load.isSome then .wait s
    else if (s.reg a).toNat % 32 ≠ 0 then .refuseAt .misaligned (s.reg a) s
    else ctRead 0 (s.reg a) 32 32 s fun bs s =>
      let lat := s.readMc (s.reg a).toNat + 2
      .after lat (s.onCur fun l => { l with cb := (List.range 16).foldl (fun m i =>
        sset 0 (slot.toNat % 32 * 16 + i) (recLe bs (2 * i) 2) m) l.cb })) s

/-! ## Custom graphs (13 R323) -/

def execXload (t : Tok) (a : BitVec 5) (slot : BitVec 16) (s : State) : Out :=
  ctWord t [a] 0 (fun s =>
    if !s.cur.cpDrained then .wait s
    else ctRead 0 (s.reg a) 64 256 s fun bs s =>
      if !gValid bs then .refuseAt .xopGraphInvalid (s.reg a) s
      else .after (s.readMc (s.reg a).toNat + 16) (s.onCur fun l => { l with xop := sset [] (slot.toNat % 32) bs l.xop })) s

def execXunld (t : Tok) (slot : BitVec 16) (s : State) : Out :=
  ctWord t [] 0 (fun s =>
    if !s.cur.cpDrained then .wait s
    else .after 1 (s.onCur fun l => { l with xop := sset [] (slot.toNat % 32) [] l.xop })) s

/-! ## Expert selection (13 R326, R327) -/

/-- The bias record's checks (13 R327, hG). -/
def Lease.recBad (l : Lease) (g : Handle) : Option (Cause × Nat) :=
  match orElseC (l.handleCheck g) (firstBad [(hSpace g ≠ spScratch, .handleInvalid), (hFmt g ≠ 0x0C, .formatInvalid)]) with
  | some c => some (c, 0)
  | none =>
    if hBase g % 64 ≠ 0 then some (.misaligned, hBase g)
    else if !l.winOk (hBase g) (hBase g + 2112 : Nat) then some (.scratchBounds, 0)
    else none

/-- A field of the bias record. -/
def State.recField (s : State) (g : Handle) (o n : Nat) : Nat := leNat (s.winBytes (hBase g + o) n)

/-- A field of the bias record as CP sees it. -/
def State.selField (s : State) (g : Handle) (o n : Nat) : Nat := leNat (s.cpBytes (hBase g + o) n)

/-- The device leaves the record settled where it writes (10 R254). -/
def State.recWrite (s : State) (g : Handle) (o : Nat) (bs : List Byte) : State :=
  let s := s.winWrite (hBase g + o) bs
  (granulesOf (hBase g + o) bs.length).foldl (fun s a => s.settle (s.cur.winKey a)) s

/-- The k selected columns of a row's biased keys, bit by bit from the top (13 R327), in ascending order. -/
def selectTop (k : Nat) (keys : List Nat) : List Nat :=
  let idx := List.range keys.length
  let step (acc : List Nat × List Nat) (b : Nat) : List Nat × List Nat :=
    let ones := acc.2.filter fun e => keys.getD e 0 / 2 ^ b % 2 = 1
    if k ≤ acc.1.length + ones.length then (acc.1, ones)
    else (acc.1 ++ ones, acc.2.filter fun e => keys.getD e 0 / 2 ^ b % 2 ≠ 1)
  let r := (List.range 16).foldl (fun acc i => step acc (15 - i)) (([] : List Nat), idx)
  let sel := r.1 ++ r.2.take (k - r.1.length)
  idx.filter fun e => sel.contains e

/-- Race-checks the key reads, row by row, then the selection writes (06 R152). -/
def selkAccess (h o : Handle) (k slot : Nat) (s : State) : Except (Cause × List W64 × State) State :=
  let rd := (List.range (hDim1 h)).flatMap fun r => granulesOf (hRowAt h 0 r).toNat (hRowBytes h)
  let wr := (List.range k).flatMap fun i => granulesOf (hRowAt o 0 i).toNat (4 * hDim1 h)
  scratchCheck .cp slot 0 (asKind .read rd ++ asKind .write wr) s

def execSelk (t : Tok) (h g : BitVec 4) (k : BitVec 5) (cnt : BitVec 1) (s : State) : Out :=
  cpWord (.selk t h g k cnt) t (fun s =>
    let l := s.cur
    let hh := s.handle h.toNat
    let gg := s.handle g.toNat
    let oo := s.handle (g.toNat + 1)
    let e := s.selField gg 0 2
    let n := k.toNat
    match orElseC (l.cpHandle hh) (firstBad [(hFmt hh ≠ 0x02 && hFmt hh ≠ 0x03, .formatInvalid)]) with
    | some c => .refuse c 0
    | none =>
      match l.recBad gg with
      | some (c, a) => .refuse c a
      | none =>
        match orElseC (firstBad [(e = 0 || 256 < e || hDim0 hh ≠ e || hDim0 hh < n, .illegalOperand)]) (orElseC (l.cpHandle oo)
          (firstBad [(hFmt oo ≠ 0x0B, .formatInvalid), (hDim0 oo < hDim1 hh || hDim1 oo < n, .illegalOperand)])) with
        | some c => .refuse c 0
        | none =>
          match selkAccess hh oo n (l.curSlot .cp) s with
          | .error (c, i, s) => .refuseWith c i s
          | .ok s =>
            let gen := s.selField gg 2 1 % 2
            let bias (x : Nat) : Int := sint 16 (s.selField gg (0x40 + 0x200 * gen + 2 * x) 2)
            let sels := (List.range (hDim1 hh)).map fun r =>
              let row := s.cpBytes (hRowAt hh 0 r).toNat (2 * e)
              selectTop n ((List.range e).map fun x => (clampInt ((recLe row (2 * x) 2 : Nat) + bias x) 0 65535).toNat)
            let s := sels.zipIdx.foldl (fun s (sel, r) => sel.zipIdx.foldl (fun s (x, i) =>
              s.cpStore ((hRowAt oo 0 i).toNat + 4 * r) (leBytes x 4)) s) s
            let (q, s) := s.takeSeq
            let lat := if hDim1 hh = 0 then 1 else 8 + 16 * ((hDim1 hh + 128 * l.n - 1) / (128 * l.n))
            let c : CfgCmd :=
              { seq := q, due := l.vc + lat, slot := l.curSlot .cp, op := 0x0D, sig := t.sig, selRec := hBase gg,
                selCnt := if cnt = 1 then sels.flatten else [], gen := gen }
            .ok (s.onCur fun l => { l with cfgQ := l.cfgQ ++ [c] })) s

/-- The snapshot: the counts are taken, COUNT is cleared, and the flip follows (13 R328). -/
def bupdSnap (g : Handle) (cnt : List Nat) (s : State) : CtRes :=
  let e := cnt.length
  let gen := s.recField g 2 1 % 2
  let s := s.recWrite g 0x440 (List.replicate (4 * e) 0)
  .wait (s.onCt fun c => { c with wait := .flip (s.datum + 64 + (e + 3) / 4) gen cnt })

/-- The counts: the record's own, which are snapshot at once, or those that software passes, once they have been read (13 R328, 08 R196). -/
def bupdCounts (g : Handle) (e : Nat) (x : W64) (s : State) : CtRes :=
  if x = 0 then bupdSnap g ((List.range e).map fun i => s.recField g (0x440 + 4 * i) 4) s
  else if x.toNat % 4 ≠ 0 then .refuseAt .misaligned x s
  else
    let mc := s.readMc x.toNat
    ctRead 2 x 4 (4 * e) s fun bs s =>
      .wait (s.onCt fun c => { c with wait := .counts (s.datum + mc) ((List.range e).map fun i => recLe bs (4 * i) 4) })

/-- The biases of the other generation, and the flip (13 R328). -/
def bupdFlip (g : Handle) (gen : Nat) (cnt : List Nat) (s : State) : State :=
  let e := cnt.length
  let tot := cnt.foldl (· + ·) 0
  let stp : Int := sint 16 (s.recField g 4 2)
  let new (i : Nat) : Nat :=
    let c := cnt.getD i 0
    let d : Int := if c * e < tot then stp else if tot < c * e then -stp else 0
    wrapInt 16 (clampInt (sint 16 (s.recField g (0x40 + 0x200 * gen + 2 * i) 2) + d) (-32768) 32767)
  let s := s.recWrite g (0x40 + 0x200 * (1 - gen)) ((List.range e).flatMap fun i => leBytes (new i) 2)
  let s := s.recWrite g 6 (leBytes (s.recField g 6 2 + 1) 2)
  s.recWrite g 2 [BitVec.ofNat 8 (1 - gen)]

def execBupd (t : Tok) (a b : BitVec 5) (s : State) : Out :=
  ctWord t [b] 0 (fun s =>
    let g := s.handle (a.toNat % 16)
    match s.cur.ct.wait with
    | .counts due cnt => if s.datum < due then .wait s else bupdSnap g cnt s
    | .flip due gen cnt => if s.datum < due then .wait s else .after 0 (bupdFlip g gen cnt s)
    | _ =>
      match s.cur.recBad g with
      | some (.misaligned, x) => .refuseAt .misaligned (BitVec.ofNat 64 x) s
      | some (c, _) => .refuse c s
      | none =>
        let e := s.recField g 0 2
        let gen := s.recField g 2 1 % 2
        if e = 0 || 256 < e then .refuse .illegalOperand s
        else if s.cur.cfgQ.any (fun c => c.op = 0x0D && c.selRec = hBase g && c.gen ≠ gen) then .wait s
        else bupdCounts g e (s.reg b) s) s

/-! ## Expert affinity (13 R337, R338) -/

/-- AFFP leaves for its record's home, where it acts as it arrives; CT waits for that (13 R338). -/
def sendAffp (table slot e pf : Nat) (s : State) : CtRes :=
  let l := s.cur
  match s.unitTr l.part 0 (table + 0x40 + 32 * slot) .read with
  | none => .wait s
  | some t =>
    let r : Req :=
      { num := 0, lease := l.id, aid := l.aidOf .ct, part := l.part, die := l.die, kind := .affp, va := table, tier := t.tier, pa := t.pa,
        key := t.key, slotKey := t.slot, leaf := t.leaf, size := 0, data := e, cmp := slot, op := pf, slot := l.ct.pc / 8,
        opc := opcodeOf l.ct.ir, virt := some table, due := s.datum + arriveMc (dieHops l.die (keyHome t.key)) }
    .wait ((s.addReq r).onCt fun c => { c with wait := .sent })

/-- AFFP checks its table, then acts at the record's home (13 R338). A nonzero expert with PF = 1 is refused; the table is neither
race-checked nor recorded, and left settled where it is written (DESIGN CHOICE, log entry 89). -/
def execAffp (t : Tok) (a b : BitVec 5) (pf : BitVec 16) (s : State) : Out :=
  ctWord t [a, b] 0 (fun s => .orReplay s <|
    let x := s.reg a
    let y := (s.reg b).toNat
    let slot := nbits y 31 16
    let e := nbits y 15 0
    let p := s.cur.part
    if s.cur.ct.wait = .sent then .wait s
    else if x.toNat % 64 ≠ 0 then .refuseAt .misaligned x s
    else if nbits x.toNat 63 57 ≠ 0 then .refuseAt .pagePermission x s
    else ctReach x.toNat .read s fun s =>
      if s.unitLe p x.toNat 2 ≤ slot || (pf = 0 && s.unitLe p (x.toNat + 2) 2 ≤ e) || (pf = 1 && e ≠ 0) then .refuse .illegalOperand s
      else ctReach (x.toNat + 0x40 + 32 * slot) (if pf = 0 then .write else .read) s (sendAffp x.toNat slot e pf.toNat)) s

/-! ## The batching unit (13 R331-R336) -/

def State.batcher (s : State) (p b : Nat) : Batcher := sget {} b (s.part p).batchers
def State.setBatcher (s : State) (p b : Nat) (x : Batcher) : State :=
  s.onPart p fun q => { q with batchers := sput b x q.batchers }
def State.onBatcher (s : State) (p b : Nat) (f : Batcher → Batcher) : State := s.setBatcher p b (f (s.batcher p b))

/-- Batcher b on its bridge die (13 R331). -/
def batchUnit (b : Nat) : UnitId := ⟨8, 8 + b % 2⟩

/-- Writes STATE of the control block, and its copy in BCSTAT; a change signals vector 6 (17 R390). -/
def State.batchState (s : State) (p b st : Nat) : State :=
  let x := s.batcher p b
  let s := (s.unitWriteBy (batchUnit b) p (x.addr.toNat + 2) [BitVec.ofNat 8 st]).setBatcher p b { x with state := st }
  if x.state = st then s else { s.fwWrote with out := s.out ++ [.msix p 6] }

/-- Sets a FLAGS bit of the block and STATE 2. A slot that is claimed is still filled (11 R280). -/
def State.batchError (s : State) (p b flag : Nat) : State :=
  let a := (s.batcher p b).addr.toNat + 3
  ((s.unitWriteBy (batchUnit b) p a (leBytes (s.unitLe p a 1 ||| flag) 1)).batchState p b 2).onBatcher p b fun x =>
    { x with stage := if x.claim.isSome then 2 else 0 }

def isPow2 (n : Nat) : Bool := n ≠ 0 && 2 ^ Nat.log2 n = n

/-- The control block or a table it names is malformed (13 R332). -/
def batchBad (s : State) (p a : Nat) : Bool :=
  let f (o n : Nat) : Nat := s.unitLe p (a + o) n
  let n := f 0 2
  let pool := f 0x10 8
  a % 256 ≠ 0 || !s.inHbm p a 256 || n = 0 || 256 < n || !isPow2 (f 0x30 4) || 65536 < f 0x30 4 || f 0x40 4 = 0 ||
  2 ^ 24 < f 0x40 4 || f 0x44 4 = 0 || 15 < f 0x48 1 || f 0x49 1 ≠ 0 || f 0x4A 2 = 0 || f 0x4C 4 ≠ 0 || f 0x60 8 ≠ 0 ||
  f 0x68 8 ≠ 0 || f 0x70 8 ≠ 0 || f 0x78 8 ≠ 0 || f 8 8 % 64 ≠ 0 || pool % 8 ≠ 0 || f 0x18 8 % 64 ≠ 0 || f 0x28 8 % 64 ≠ 0 ||
  !s.unitOk p (f 8 8) (64 * n) .write || !s.unitOk p pool 32 .write || !s.unitOk p (f 0x18 8) (64 + 16 * n) .write ||
  s.unitLe p (pool + 0x18) 8 ≠ 0 || !s.unitOk p (f 0x28 8) (64 * f 0x30 4) .write || s.unitLe p (pool + 8) 4 < s.unitLe p (pool + 12) 4 ||
  (f 0x20 8 ≠ 0 && (f 0x20 8 % 64 ≠ 0 || s.unitLe p (f 0x20 8) 2 = 0 || 256 < s.unitLe p (f 0x20 8) 2 ||
    s.unitLe p (f 0x20 8 + 2) 2 = 0 || s.unitLe p (f 0x20 8 + 4) 4 ≠ 0 || s.unitLe p (f 0x20 8 + 0x28) 24 ≠ 0 ||
    ((List.range (s.unitLe p (f 0x20 8) 2)).any fun k => 8 < s.unitLe p (f 0x20 8 + 0x40 + 32 * k) 1) || !s.inHbm p (f 0x20 8) (64 + 32 * s.unitLe p (f 0x20 8) 2) || s.unitLe p (f 0x20 8 + 0x18) 8 < s.unitLe p (f 0x20 8 + 0x20) 8))

/-- Addresses of a batcher's tables. -/
structure Bat where
  p : Nat
  b : Nat
  a : Nat
  deriving DecidableEq, Repr

def Bat.f (x : Bat) (s : State) (o n : Nat) : Nat := s.unitLe x.p (x.a + o) n
def Bat.put (x : Bat) (s : State) (va : Nat) (bs : List Byte) : State := s.unitWriteBy (batchUnit x.b) x.p va bs
def Bat.set (x : Bat) (s : State) (o n v : Nat) : State := x.put s (x.a + o) (leBytes v n)
def Bat.slotAt (x : Bat) (s : State) (i : Nat) : Nat := x.f s 8 8 + 64 * i
/-- A field of sequence slot i. -/
def Bat.sf (x : Bat) (s : State) (i o n : Nat) : Nat := s.unitLe x.p (x.slotAt s i + o) n
def Bat.sset (x : Bat) (s : State) (i o n v : Nat) : State := x.put s (x.slotAt s i + o) (leBytes v n)
def Bat.free (x : Bat) (s : State) : Nat := s.unitLe x.p (x.f s 0x10 8 + 12) 4

/-- Pops a free page (13 R333). -/
def Bat.takePage (x : Bat) (s : State) : Nat × State :=
  let d := x.f s 0x10 8
  let n := x.free s
  (s.unitLe x.p (s.unitLe x.p (d + 16) 8 + 4 * (n - 1)) 4, x.put s (d + 12) (leBytes (n - 1) 4))
def Bat.freePage (x : Bat) (pg : Nat) (s : State) : State :=
  let d := x.f s 0x10 8
  let n := x.free s
  x.put (x.put s (s.unitLe x.p (d + 16) 8 + 4 * n) (leBytes pg 4)) (d + 12) (leBytes (n + 1) 4)

/-- Gives slot i one more page. -/
def Bat.growSlot (x : Bat) (i : Nat) (s : State) : State :=
  let n := x.sf s i 0x20 4
  let (pg, s) := x.takePage s
  x.sset (x.put s (x.sf s i 0x28 8 + 4 * n) (leBytes pg 4)) i 0x20 4 (n + 1)

/-- The entries of the last shape record, by ascending slot (13 R335). -/
def Bat.lastEntries (x : Bat) (s : State) : List Nat :=
  sortBy (fun e => s.unitLe x.p (x.f s 0x18 8 + 0x40 + 16 * e) 2) (List.range (s.unitLe x.p (x.f s 0x18 8 + 4) 2))

/-- Rule 1 for one entry of the last shape record. -/
def Bat.advance (x : Bat) (s : State) (e : Nat) : State :=
  let sh := x.f s 0x18 8 + 0x40 + 16 * e
  let i := s.unitLe x.p sh 2
  let len := s.unitLe x.p (sh + 8) 4
  let last := s.unitLe x.p (sh + 3) 1
  let st := x.sf s i 0 1
  let pos := x.sf s i 0x10 4
  let (sampled, s) := if st = 1 then
      let s := x.sset s i 0x10 4 (pos + len)
      if last = 1 then (true, x.sset (x.sset s i 0 1 2) i 0x1C 4 1) else (false, s)
    else if st = 2 then (true, x.sset (x.sset s i 0x10 4 (pos + 1)) i 0x1C 4 (x.sf s i 0x1C 4 + 1))
    else (false, s)
  if !sampled then s
  else
    let gen := x.sf s i 0x1C 4
    let fin := if x.sf s i 0x0C 4 = x.sf s i 8 4 then 3 else if gen = x.sf s i 0x18 4 then 4 else 0
    if fin = 0 then s
    else
      let req := x.sf s i 0x30 8
      let s := x.put s (req + 0x1C) (leBytes gen 4)
      let s := x.put s req (leBytes fin 4)
      let pl := x.sf s i 0x28 8
      let s := (List.range (x.sf s i 0x20 4)).foldl (fun s k => x.freePage (s.unitLe x.p (pl + 4 * k) 4) s) s
      x.sset (x.sset s i 0x20 4 0) i 0 1 0

/-- Rule 2: the slots that stall are returned. -/
def Bat.grow (x : Bat) (s : State) : List Nat × State :=
  (List.range (x.f s 0 2)).foldl (fun acc i =>
    let s := acc.2
    if x.sf s i 0 1 ≠ 2 || x.sf s i 0x10 4 + 1 ≤ x.sf s i 0x20 4 * x.f s 0x4A 2 then acc
    else if 0 < x.free s && x.sf s i 0x20 4 < x.sf s i 0x24 4 then (acc.1, x.growSlot i s)
    else (acc.1 ++ [i], s)) (([] : List Nat), s)

/-- Rule 3: admission from the head of the request array up to `tail`. -/
def Bat.takeOffers (x : Bat) (tail : Nat) : Nat → State → State
  | 0, s => s
  | fuel + 1, s =>
    let head := x.f s 0x34 4
    if head = tail then s
    else
      let r := x.f s 0x28 8 + 64 * (head % x.f s 0x30 4)
      let g (o n : Nat) : Nat := s.unitLe x.p (r + o) n
      let put (s : State) (o n v : Nat) : State := x.put s (r + o) (leBytes v n)
      let next (s : State) : State := x.set s 0x34 4 ((head + 1) % 2 ^ 32)
      let need := (g 8 4 + 1 + x.f s 0x4A 2 - 1) / x.f s 0x4A 2
      if g 8 4 = 0 || g 0xC 4 = 0 then x.takeOffers tail fuel (next (put s 0 4 5))
      else match (List.range (x.f s 0 2)).find? fun i => x.sf s i 0 1 = 0 with
        | none => s
        | some i =>
          if x.sf s i 0x24 4 < need then x.takeOffers tail fuel (next (put s 0 4 5))
          else if x.free s ≤ x.f s 0x3C 4 + need then put (put s 0x18 4 need) 0 4 2
          else
            let s := x.sset s i 0x20 4 0
            let s := (List.range need).foldl (fun s _ => x.growSlot i s) s
            let s := x.sset (x.sset (x.sset s i 0 1 1) i 0x10 4 0) i 0x1C 4 0
            let s := x.sset (x.sset (x.sset (x.sset s i 4 4 (g 4 4)) i 0x14 4 (g 8 4)) i 0x18 4 (g 0xC 4)) i 8 4 (g 0x10 4)
            let s := x.sset s i 0x30 8 r
            x.takeOffers tail fuel (next (put (put s 0x14 2 i) 0 4 1))

/-- Rule 4: entries (slot, phase, last, length, position) of the next step. -/
def Bat.entries (x : Bat) (stalled : List Nat) (s : State) : List (Nat × Nat × Nat × Nat × Nat) :=
  let slots := List.range (x.f s 0 2)
  let dec := (slots.filter fun i => x.sf s i 0 1 = 2 && !stalled.contains i).take (x.f s 0x40 4)
  let es := dec.map fun i => (i, 2, 0, 1, x.sf s i 0x10 4)
  let r := slots.foldl (fun (acc : Nat × List (Nat × Nat × Nat × Nat × Nat)) i =>
    if x.sf s i 0 1 ≠ 1 then acc
    else
      let pos := x.sf s i 0x10 4
      let len := Nat.min (x.f s 0x44 4) (Nat.min (x.sf s i 0x14 4 - pos) acc.1)
      if len = 0 then acc
      else (acc.1 - len, acc.2 ++ [(i, 1, if pos + len = x.sf s i 0x14 4 then 1 else 0, len, pos)])) (x.f s 0x40 4 - dec.length, [])
  es ++ r.2

/-- Rule 6, first part: the shape record in the order of 20 R413 (entries, zeros up to NSLOT entries, the header, SEQ last), and
STEP. -/
def Bat.shape (x : Bat) (es : List (Nat × Nat × Nat × Nat × Nat)) (s : State) : State :=
  let sh := x.f s 0x18 8
  let (tok, bs) := es.foldl (fun (acc : Nat × List Byte) e =>
    (acc.1 + e.2.2.2.1, acc.2 ++ packLe [(e.1, 2), (e.2.1, 1), (e.2.2.1, 1), (acc.1, 4), (e.2.2.2.1, 4), (e.2.2.2.2, 4)])) (0, [])
  let step := x.f s 4 4
  let s := x.put s (sh + 0x40) (bs ++ List.replicate (16 * (x.f s 0 2 - es.length)) 0)
  let s := x.put s (sh + 4)
    (packLe [(es.length, 2), ((es.filter fun e => e.2.1 = 2).length, 2), (tok, 4)] ++ List.replicate 52 0)
  let s := x.put s sh (leBytes (step + 1) 4)
  (x.set s 4 4 (step + 1)).onBatcher x.p x.b fun b => { b with step := (step + 1) % 2 ^ 32 }

/-- The slot that the unit holds in its ring: the one it has claimed, else CLAIM, to which it adds 1 (11 R280, step 1). -/
def Bat.claim (x : Bat) (s : State) : Nat × State :=
  match (s.batcher x.p x.b).claim with
  | some c => (c, s)
  | none =>
    let h := s.ring x.p (x.f s 0x48 1)
    let host := eBit h.idxBlk 63
    let idx := nbits h.idxBlk.toNat 56 7 * 128
    let c := leNat (s.busRead x.p host idx 8)
    (c, (s.busWrite x.p host idx (leBytes ((c + 1) % 2 ^ 64) 8)).onBatcher x.p x.b fun b => { b with claim := some c })

/-- A write of a unit to memory of partition p still waits (08 R207, 17 R389). -/
def State.unitHeld (s : State) (p : Nat) : Bool := s.heldW.any fun w => w.1 = p

/-- Rule 6, last part: the LAUNCH packet as a device producer (11 R280), or where the block is in error a NOP for the slot claimed. False
while the ring has no room for the slot, or a write before the packet's header has not been performed (20 R413). -/
def Bat.publish (x : Bat) (s : State) : Bool × State :=
  let r := x.f s 0x48 1
  let h := s.ring x.p r
  let host := eBit h.base 63
  let slots := 2 ^ nbits h.ctl.toNat 4 0
  let (ready, s) := s.busReady x.p (eBit h.idxBlk 63) (nbits h.idxBlk.toNat 56 7 * 128) 128
  if !ready || s.unitHeld x.p then (false, s)
  else
    let (claim, s) := x.claim s
    let read := leNat (s.busRead x.p (eBit h.idxBlk 63) (nbits h.idxBlk.toNat 56 7 * 128 + 0x40) 8)
    if slots ≤ claim - read then (false, s)
    else
      let at_ := nbits h.base.toNat 56 7 * 128 + 128 * (claim % slots)
      let body := s.unitRead x.p (x.a + 0x80) 128
      let body := (body.drop 8).take 24 ++ leBytes (x.a + 0x50) 8 ++ body.drop 40
      let nop := (s.batcher x.p x.b).state = 2
      let s := s.busWrite x.p host (at_ + 8) (if nop then List.replicate 120 0 else body)
      if s.unitHeld x.p then (false, s)
      else
        let s := s.onBatcher x.p x.b fun b => { b with claim := none }
        let s := s.busWrite x.p host at_ (leBytes (claim % 2 ^ 32 * 2 ^ 32 + if nop then 1 else 2 ^ 24 + 3) 8)
        (true, s.setRing x.p r { s.ring x.p r with waiting := false })

/-- Publishes, or waits for room; a batcher whose EN was cleared stops after it, and one whose EN was set again starts its first step. -/
def batchPublish (x : Bat) (s : State) : State :=
  match x.publish s with
  | (false, s) => s.onBatcher x.p x.b fun b => { b with stage := if b.stage = 3 then 3 else 2, idle := false }
  | (true, s) =>
    let s := s.onBatcher x.p x.b fun b => { b with stage := if b.stage = 3 then 1 else 0, idle := false }
    if (s.batcher x.p x.b).en then s else s.batchState x.p x.b 3

/-- One step of the unit (13 R335); its tables' lines are filled as it reads them, and an error found there halts the partition (08 R208). A
batcher in error does nothing until EN is written 0 and 1 again (R332). A step that starts at rule 3 grows no slot: one that lacks a page stays stalled (DEDUCED, log entry 20). -/
def batchStepDo (p b : Nat) (s : State) : State :=
  let q := s.batcher p b
  let x : Bat := ⟨p, b, q.addr.toNat⟩
  if 2 ≤ q.stage then batchPublish x s
  else if !q.en || q.state = 2 || (q.stage = 0 && q.done ≠ 1) then s
  else
    let s := (s.unitTouch (batchUnit b) p x.a 256).unitTouch (batchUnit b) p (x.f s 8 8) (64 * x.f s 0 2)
    if (s.part p).pstate ≠ 0 then s else
    let start := q.stage = 1
    let s := s.setBatcher p b { q with stage := 0, done := 0 }
    let s := s.batchState p b 1
    let s := if start then s
      else (x.lastEntries s).foldl (fun s e => x.advance s e) s
    let needs (i : Nat) : Bool := x.sf s i 0 1 = 2 && x.sf s i 0x20 4 * x.f s 0x4A 2 < x.sf s i 0x10 4 + 1
    let (stalled, s) := if start then ((List.range (x.f s 0 2)).filter needs, s) else x.grow s
    let tail := x.f s 0x38 4
    let s := x.takeOffers tail 65537 s
    let es := x.entries stalled s
    let aff := x.f s 0x20 8
    let s := if aff = 0 then s else es.foldl (fun s e =>
      if e.1 < s.unitLe p aff 2 then affPrefetch p aff e.1 s else s) s
    if es.isEmpty then (s.batchState p b 0).onBatcher p b fun q => { q with idle := true }
    else batchPublish x (x.shape es s)

def execBatchStep (p b : Nat) (s : State) : Out := .next (batchStepDo p b s)

/-- STEPDONE with a STATUS other than 1 (13 R335). -/
def batchFailDo (p b : Nat) (s : State) : State :=
  let q := s.batcher p b
  if !q.en || q.state = 2 || q.done = 0 || q.done = 1 then s
  else (s.setBatcher p b { q with done := 0 }).batchError p b 2

def execBatchStepFail (p b : Nat) (s : State) : Out := .next (batchFailDo p b s)

/-- Any write to BCDB wakes an idle batcher (13 R331). -/
def bcdbDo (p b : Nat) (s : State) : State :=
  let q := s.batcher p b
  if q.en && q.idle && q.state = 0 then s.setBatcher p b { q with stage := 1 } else s

def execBcdb (p b : Nat) (s : State) : Out := .next (s.vf p (bcdbDo p b))

/-- EN set: the block is checked and the first step starts at rule 3, after a packet of the step before that still waits for room. -/
def bcctlEnableDo (p b : Nat) (s : State) : State :=
  let q := s.batcher p b
  if q.en then s
  else
    let pub := q.claim.isSome
    let s := s.setBatcher p b { q with en := true, done := 0, stage := 0, idle := true, step := s.unitLe p (q.addr.toNat + 4) 4 }
    if batchBad s p q.addr.toNat then s.batchError p b 1
    else (s.batchState p b 1).onBatcher p b fun q => { q with stage := if pub then 3 else 1 }

def execBcctlEnable (p b : Nat) (s : State) : Out := .next (s.vf p (bcctlEnableDo p b))

/-- EN cleared: the unit publishes no further launch and sets STATE to 3. -/
def bcctlDisableDo (p b : Nat) (s : State) : State :=
  let q := s.batcher p b
  if !q.en then s
  else
    let s := s.setBatcher p b { q with en := false, stage := if 2 ≤ q.stage then 2 else 0 }
    if 2 ≤ q.stage then s else s.batchState p b 3

def execBcctlDisable (p b : Nat) (s : State) : Out := .next (s.vf p (bcctlDisableDo p b))

/-- The batchers' steps that fall due. -/
def batchDue (p : Nat) (s : State) : State :=
  if (s.part p).pstate ≠ 0 then s
  else (s.part p).batchers.foldl (fun s e =>
    let q := s.batcher p e.1
    if q.stage ≠ 0 || (q.en && q.done = 1) then batchStepDo p e.1 s
    else if q.en && q.done ≠ 0 then batchFailDo p e.1 s else s) s

end Sys2Proof.Machine
end

