-- ==== Sys2Proof/Machine/Remote.lean ====
section
/-! DEFINITION. Remote.lean: KVGET and KVPUT (09 R230), the answers of other packages to requests of this one, and the requests of
other packages (17 R374, R392-R395; 10 R254; DESIGN CHOICE, log entry 19). -/

namespace Sys2Proof.Machine

/-! ## KVGET and KVPUT (09 R230) -/

/-- The pool descriptor of the partition: the one that the lowest-numbered batcher with a control block names (DEDUCED, log entry 21). -/
def State.poolOf (s : State) (p : Nat) : Option Nat :=
  ((s.part p).batchers.find? fun b => b.2.addr ≠ 0).map fun b => s.unitLe p (b.2.addr.toNat + 0x10) 8
def State.poolPages (s : State) (p : Nat) : Nat :=
  match s.poolOf p with
  | some d => s.unitLe p (d + 8) 4
  | none => 0
/-- Virtual address of page i of the pool. -/
def State.poolPage (s : State) (p i : Nat) : Nat :=
  match s.poolOf p with
  | some d => s.unitLe p d 8 + 65536 * i
  | none => 0

/-- A valid peer entry with its transport bit (17 R394). -/
def peerUsable (e m : Nat) : Bool := nbits e 63 63 = 1 && (if m = 0 then nbits e 62 62 = 1 else nbits e 61 61 = 1)

/-- Issue of KVGET and KVPUT. The rule names no causes for a list of another SPACE, FMT or shape: HANDLE_INVALID, FORMAT_INVALID and
ILLEGAL_OPERAND, as R220 has them for COPY's handles (DESIGN CHOICE, log entry 101). -/
def kvIssue (t : Tok) (xh : BitVec 4) (scope : BitVec 2) (m : BitVec 4) (peer : BitVec 12) (get : Bool) (s : State) : LsRes :=
  let l := s.cur
  let x := s.handle xh.toNat
  let e := sget 0 peer.toNat (s.part l.part).peers
  checked (orElseC (l.handleCheck x) (firstBad [(hSpace x ≠ spScratch, .handleInvalid), (hFmt x ≠ 0x0B, .formatInvalid),
    (hDim0 x ≠ 2 || hDim1 x = 0 || hDim2 x ≠ 1, .illegalOperand), (!peerUsable e m.toNat, .remoteUnreachable)]))
    (let kind : CmdKind := if get then .kvget else .kvput
     match scratchCheck s.curStream (l.curSlot s.curStream) scope.toNat
        (asKind .read ((List.range (hDim1 x)).flatMap fun r => granulesOf (hRowAt x 0 r).toNat 8)) s with
     | .error (c, i, s) => .refuseWith c i true s
     | .ok s =>
       let rows := (List.range (hDim1 x)).flatMap fun r => ints32 (s.winBytes (hRowAt x 0 r).toNat 8)
       let locals := (List.range (hDim1 x)).map fun r => rows.getD (2 * r) 0
       let n : Int := s.poolPages l.part
       if locals.any fun i => i < 0 || n ≤ i then .refuse .illegalOperand 0
       else
         let pages := locals.map fun i => s.poolPage l.part i.toNat
         let lo := pages.foldl Nat.min (pages.headD 0)
         let hi := pages.foldl Nat.max 0
         acceptCmd { s.newCmd t kind scope with
           idxs := rows, total := hDim1 x, imm := peer.toNat, m := m.toNat,
           fp := [mkRange spGlobal lo (hi + 65536 : Nat) get, ⟨spRemote, 0, 1, !get⟩] } s)

def execKvget (t : Tok) (xh : BitVec 4) (scope : BitVec 2) (m : BitVec 4) (peer : BitVec 12) (s : State) : Out :=
  lsWord t (fun _ s => kvIssue t xh scope m peer true s) s
def execKvput (t : Tok) (xh : BitVec 4) (scope : BitVec 2) (m : BitVec 4) (peer : BitVec 12) (s : State) : Out :=
  lsWord t (fun _ s => kvIssue t xh scope m peer false s) s

/-- Reads the granules of the page at va as command k, with their checks, behind those it holds. -/
def kvFill (k va : Nat) : Nat → State → State
  | 0, s => s
  | n + 1, s =>
    match s.cur.cmd? k with
    | none => s
    | some c =>
      let a := va + c.buf.length
      if 65536 ≤ c.buf.length then s
      else
        let more (bs : List Byte) (s : State) : State := kvFill k va n (s.onCmd k fun c => { c with buf := c.buf ++ bs })
        match s.accessGlobal (c.access .read a) false with
        | .ok t s =>
          if t.tier = 3 then
            match s.farPeek t 64 with
            | none => s.farAsk c.stream t a
            | some bs => more bs (s.farForget t)
          else
            let (bs, s) := s.readTr t 64 false
            more bs s
        | r => s.cmdStop c .read a r

/-- A granule for a remote page is on its way to its package, which answers. -/
def State.postFar (s : State) (c : Cmd) (t : Tr) (va : Nat) (bs : List Byte) : State :=
  let l := s.cur
  let n := s.nextReq
  let (pkg, rp) := s.leafPkg t
  let r : Req :=
    { num := 0, lease := l.id, aid := l.aidOf c.stream, part := l.part, die := l.die, kind := .store, va := t.farAddr, key := 0, size := 0,
      atHome := false, opc := 1, due := never, cmd := some c.seq, virt := some va }
  (s.addReq r).sendFabric pkg rp (l.aidOf c.stream) 33 n t.farAddr bs.length 0 bs

/-- Granules of command k have not been acknowledged. -/
def State.posted (s : State) (k : Nat) : Bool := s.reqs.any fun r => r.lease = s.cur.id && r.cmd = some k && r.opc = 1

/-- A KVGET or KVPUT completes once its last page has been moved and acknowledged. -/
def kvDone (k : Nat) (s : State) : State :=
  match s.cur.cmd? k with
  | some c => if c.total ≤ c.offset && !s.posted k then s.finishCmd k none else s
  | none => s

/-- Pages of command k performed so far plus one. -/
def kvNext (k : Nat) (s : State) : State := kvDone k (s.onCmd k fun c => { c with offset := c.offset + 1, buf := [] })

/-- Writes the granules that command k holds to the end of the page at va, with their checks and records; then the page is done. -/
def kvStore (k va : Nat) : Nat → State → State
  | 0, s => s
  | n + 1, s =>
    match s.cur.cmd? k with
    | none => s
    | some c =>
      let a := va + 65536 - c.buf.length
      if c.buf.isEmpty then kvNext k s
      else match s.accessGlobal (c.access .write a) false with
        | .ok t s =>
          let bs := c.buf.take 64
          kvStore k va n ((if t.tier = 3 then s.postFar c t a bs else s.writeTr t bs false).onCmd k fun c => { c with buf := c.buf.drop 64 })
        | r => s.cmdStop c .write a r

/-- The home die of a page of the partition: that of its first granule. -/
def State.pageDie (s : State) (p va : Nat) : Nat :=
  match s.walk p va with
  | .ok (e, shift) => homeDie (eTier e) (nbits e.toNat 47 16 * 2 ^ 16 + va % 2 ^ shift)
  | .error _ => 0

/-- The Ultra Ethernet port that sends a page (17 R395): that of the bridge die nearer its home die, ties to B0, and the other where it is
down or cut off. -/
def State.uePort (s : State) (p va : Nat) : Option Nat :=
  (s.nearBridge (s.pageDie p va) (s.uePorts.getLsbD 0) (s.uePorts.getLsbD 1)).map (· - 8)

/-- Sends a request of command k for its page: it carries the agent's next request number (09 R228, R230). -/
def kvAsk (c : Cmd) (e mine theirs : Nat) (bs : List Byte) (s : State) : State :=
  let l := s.cur
  let req := sget 0 c.stream.index l.ratomCtr
  let n := s.nextReq
  let r : Req :=
    { num := 0, lease := l.id, aid := l.aidOf c.stream, part := l.part, die := l.die, kind := .load, va := theirs, key := 0, size := 0,
      data := req, atHome := false, opc := 2, due := never, cmd := some c.seq }
  let s := (s.addReq r).onCmd c.seq fun c => { c with nextReq := some n }
  let s := s.onCur fun l => { l with ratomCtr := sset 0 c.stream.index ((req + 1) % 65536) l.ratomCtr }
  let get := c.kind = .kvget
  if c.m = 0 then s.sendFabric (nbits e 57 48) (nbits e 47 42) (l.aidOf c.stream) (if get then 13 else 14) req theirs 0 0 bs
  else { s with out := s.out ++ [.ue ((s.uePort l.part mine).getD 0) (nbits e 57 48) (nbits e 47 42) l.part (l.aidOf c.stream) (if get then 1 else 0) req theirs bs] }

/-- KVGET or KVPUT moves on: the data of its page, or its next request. -/
def kvUnit (k : Nat) (s : State) : State :=
  match s.cur.cmd? k with
  | none => s
  | some c =>
    if (c.kind ≠ .kvget && c.kind ≠ .kvput) || !s.cmdGoes c || c.total ≤ c.offset then s
    else
      let s := s.unretry c
      let l := s.cur
      let e := sget 0 c.imm (s.part l.part).peers
      let mine := s.poolPage l.part (c.idxs.getD (2 * c.offset) 0).toNat
      let theirs := (c.idxs.getD (2 * c.offset + 1) 0 % 4294967296).toNat
      if l.replay.isSome then s.finishCmd k none
      else if c.kind = .kvget && !c.buf.isEmpty then kvStore k mine 1025 s
      else if !(if c.m = 0 then s.stationUp l.die else (s.uePort l.part mine).isSome) then s.lateStop k .remoteUnreachable (c.lateInfo mine)
      else if c.kind = .kvget then kvAsk c e mine theirs [] s
      else
        let s := kvFill k mine 1024 s
        match s.cur.cmd? k with
        | some c => if c.buf.length < 65536 || !s.cmdGoes c then s else kvAsk c e mine theirs c.buf (s.forgetRow mine 65536)
        | none => s

/-! ## Answers (17 R392-R395) -/

/-- A refusal's cause: SCRATCH_BOUNDS or REMOTE_UNREACHABLE (09 R219, R229). -/
def farCause (v : Nat) : Cause := if v = Cause.scratchBounds.code then .scratchBounds else .remoteUnreachable

/-- The answer to command k's request r: 16 data, 17 an acknowledged write, 18 an old value, 19 a refusal. -/
def cmdAnswer (r : Req) (k kind : Nat) (v : Nat) (bs : List Byte) (s : State) : State :=
  match s.cur.cmd? k with
  | none => s
  | some c =>
    let s := s.onCmd k fun c => { c with nextReq := none }
    let c := { c with nextReq := none }
    if kind = 19 then s.lateStop k (farCause v) (c.lateInfo r.va)
    else if r.opc = 1 then kvDone k s
    else if c.kind = .atomv || c.kind = .atomvOut then
      let s := s.onCmd k fun c => { c with offset := c.offset + 1, buf := c.buf.drop 4 }
      if c.total ≤ c.offset + 1 then s.finishCmd k none else s
    else if kind = 16 then
      match chunkIn c (c.offset + if c.kind.toDq then 0 else c.buf.length) (bs.take r.size) s with
      | none => s
      | some (bs, s) =>
        if c.kind.toDq then ((storeBytes c c.offset bs s).2).walkEnd k else s.onCmd k fun c => { c with buf := c.buf ++ bs }
    else (s.advanceCmd k r.size).walkEnd k

/-- An answer to request number n that is taken. A CT access that the far package refuses ends with an open value (DESIGN CHOICE, log entry 22). -/
def takeFarAnswer (n kind v : Nat) (bs : List Byte) (s : State) : State :=
  match s.reqs.find? (fun r => r.num = n && !r.atHome) with
  | none => s
  | some r =>
    let s := { s with reqs := s.reqs.filter fun x => x.num ≠ n }
    match r.cmd with
    | some k => asLease r.lease s (cmdAnswer r k kind v bs)
    | none =>
      if r.size = 64 then { s with farBuf := s.farBuf ++ [(r.lease, r.va, bs.take 64)] }
      else if kind = 19 then
        let (k, s) := s.nextFree
        s.answer r (Config.freeWord k).toNat s.datum
      else s.answer r (if kind = 16 then leNat (bs.take r.size) else v) s.datum

/-- Bytes of a remote writer that land in the window of lease l are an input of the log, of source 4 (15 R364). -/
def takeLanding (off : Nat) (bs : List Byte) (s : State) : State :=
  let s := ((s.input 4 (s.landSlot s.cur off) bs fun _ => false).map (·.2)).getD s
  { s with mem := writeBytes s.mem (s.cur.winKey off) bs }

/-- What has waited acts on the lease in focus. -/
def HeldInput.act (x : HeldInput) (s : State) : State :=
  match x with
  | .answer r old due => s.takeAnswer r old (Nat.max due s.datum)
  | .land _ off bs => takeLanding off bs s
  | .far _ n kind v bs => takeFarAnswer n kind v bs s
  | .done _ lat regs =>
    ctFinish (tokOf s.cur.ct.ir) (.after lat (regs.foldl (fun s r => s.wreg (BitVec.ofNat 5 r.1) r.2 lat) s))
  | .goOn _ => s.performed s.pcNext 1
  | .trap _ c i => s.ctTrap c i

/-- It comes from another package and does not touch what stands still in a stop. -/
def HeldInput.isFar : HeldInput → Bool
  | .far .. => true
  | _ => false

/-- An input reaches its lease: it acts, behind those that wait; it waits while the group stands stopped, and an input that the log cannot
take stops the group first (15 R355, R356). -/
def State.offer (s : State) (x : HeldInput) : State :=
  match s.lease? x.lease with
  | none => s
  | some l =>
    if l.st = .halted then s
    else if (l.frozen && !x.isFar) || s.heldIn.any (fun y => y.lease = l.id && y.isFar = x.isFar) then s.hold x
    else
      let t := asLease l.id s x.act
      let ask := (t.part l.part).dbg.ask
      if ask = 0 then t
      else (s.onPart l.part fun q => { q with dbg := { q.dbg with pend := q.dbg.pend ||| ask, who := l.id } }).hold x

/-- What waits is offered again. -/
def State.offerHeld (s : State) : State :=
  if s.heldIn.isEmpty then s else s.heldIn.foldl State.offer { s with heldIn := [] }

/-- An answer to request number n. -/
def farAnswer (n kind v : Nat) (bs : List Byte) (s : State) : State :=
  match s.reqs.find? (fun r => r.num = n && !r.atHome) with
  | none => s
  | some r => if (s.lease? r.lease).isSome then s.offer (.far r.lease n kind v bs) else takeFarAnswer n kind v bs s

/-- The answer to an agent's page request: 20 its data, 21 written, 24 refused (09 R230). -/
def pageAnswer (p aid req kind : Nat) (bs : List Byte) (s : State) : State :=
  match s.reqs.find? (fun r => r.part = p && r.aid = aid && r.opc = 2 && r.data = req) with
  | none => s
  | some r =>
    let s := { s with reqs := s.reqs.filter fun x => x.num ≠ r.num }
    asLease r.lease s fun s =>
      match r.cmd.bind s.cur.cmd? with
      | none => s
      | some c =>
        let s := s.onCmd c.seq fun c => { c with nextReq := none }
        if kind = 24 then s.lateStop c.seq .remoteUnreachable (c.lateInfo r.va)
        else if kind = 20 then s.onCmd c.seq fun c => { c with buf := (bs ++ List.replicate 65536 0).take 65536 }
        else kvNext c.seq s

/-- A result or refusal of a RATOM request that left the package enters at a bridge die and goes on to its source's die (21 R415). -/
def ratomAnswer (pkg p aid req kind v home : Nat) (s : State) : State :=
  match s.ratoms.find? (fun r => r.pkg = pkg + 1 && r.part = p && r.aid = aid && r.req = req) with
  | none => s
  | some r =>
    let die := s.sourceDie r
    let b := s.entryBridge die
    let num := r.num % 2 ^ 32
    s.sendMsg b (if kind = 22 then resultMsg b die home num v else refusalMsg b die (r.home % 32) num)

/-! ## Requests of other packages (17 R374, R394) -/

/-- What a request of another package meets. -/
inductive FarAcc where
  | ok (t : Tr)
  | refused
  | violation

/-- The granule a request names: by virtual address, or by HBM-space address and key slot. No leaf of this package serves the second, so the
location is taken as one with a compressed view, whose views a plain write parts (10 R241; DESIGN CHOICE, log entry 105). -/
def farTarget (s : State) (p va : Nat) (phys : Bool) (k : AccKind) : FarAcc :=
  if phys then
    let slot := va / 2 ^ 48 % 128
    let pa := va % 2 ^ 48
    if !(s.part p).ownsKey slot then .violation
    else if !s.hbmHas pa 64 then .refused
    else .ok ⟨0, pa, hbmKey pa, slot, 2 ^ 57⟩
  else match s.walk p va with
    | .error _ => .refused
    | .ok (e, _) =>
      if !(s.part p).ownsKey (nbits e.toNat 54 48) then .violation
      else match s.unitTr p 0 va k with
        | none => .refused
        | some t => if k ≠ .read && eBit e 60 then .refused else .ok t

/-- A source package and agent are frozen, and the event is logged (17 R374). -/
def State.freezeSource (s : State) (pkg aid : Nat) : State :=
  { s with srcFrozen := (pkg, aid) :: s.srcFrozen, srcEvents := s.srcEvents ++ [(pkg, aid)] }

/-- A peer entry accepts requests of a source over a transport. -/
def Partition.accepts (q : Partition) (pkg rpart m : Nat) : Bool :=
  q.peers.any fun e => peerUsable e.2 m && nbits e.2 57 48 = pkg && nbits e.2 47 42 = rpart

/-- The bytes of a pool page as a unit reads them. -/
def State.pageBytes (s : State) (p i : Nat) : List Byte := s.unitRead p (s.poolPage p i) 65536

/-- Bytes of a remote writer land in the window of lease l. -/
def State.landed (s : State) (l : Lease) (off : Nat) (bs : List Byte) : State := s.offer (.land l.id off bs)

/-- A UALink read or write of n bytes at va: 1 to 256 bytes, aligned to the largest power of two that divides n, of 64 at most (17 R392;
DESIGN CHOICE, log entry 104). -/
def fabricFits (va n : Nat) : Bool :=
  1 ≤ n && n ≤ 256 && (match [64, 32, 16, 8, 4, 2].find? fun k => n % k = 0 with | some k => va % k = 0 | none => true)

/-- The granules that an accepted request names, each translated, free of errors and no sync object, with their counts; none where one is
refused. -/
def farReach (pkg p aid : Nat) (phys : Bool) (k : AccKind) : List (Nat × Nat) → State → Option (List (Tr × Nat)) × State
  | [], s => (some [], s)
  | (va, n) :: r, s =>
    match farTarget s p va phys k with
    | .refused => (none, s)
    | .violation => (none, s.freezeSource pkg aid)
    | .ok t =>
      if s.badAt t then
        (none, s.haltLine p .uncorrectable
          { cause := .uncorrectable, engine := 6, aid := aid, addr := if phys then 0 else va, paddr := t.pa, tier := t.tier,
            die := homeDie t.tier t.pa })
      else if sget 0 (t.key / 64) s.marks ≠ 0 then (none, s)
      else match farReach pkg p aid phys k r (s.countHome 8 p va t k) with
        | (some ts, s) => (some ((t, n) :: ts), s)
        | (none, s) => (none, s)

/-- The bytes of the parts. -/
def farRead : List (Tr × Nat) → State → List Byte × State
  | [], s => ([], s)
  | (t, n) :: r, s =>
    let (bs, s) := s.readTr t n false
    let (rest, s) := farRead r s
    (bs ++ rest, s)

/-- Writes the parts: what lands is settled (10 R254). -/
def farWrite : List (Tr × Nat) → List Byte → State → State
  | [], _, s => s
  | (t, n) :: r, bs, s => farWrite r (bs.drop n) ((s.writeTr t (bs.take n) false).settle t.key)

/-- A guarded atomic of another package goes on from the bridge die at which it enters to its home slice (17 R400, 21 R415). -/
def State.foreignRequest (s : State) (pkg rpart p aid kind req va data cmp size : Nat) (t : Tr) : State :=
  let base := kind % 32
  let die := homeDie t.tier t.pa
  let r : RatomReq :=
    { num := s.nextRatom, lease := 0, part := p, aid := aid, req := req, cmd := 0, elem := 0, key := t.key, slotKey := t.slot, leaf := t.leaf,
      home := die * 32 + homeSlice t.pa, pkg := pkg + 1, size := size, op := if base = 11 then 9 else base - 2, data := data, cmp := cmp,
      guarded := true, sends := 1, answered := 0, lastSend := s.datum, toHome := 1, results := [], farPart := rpart, farKind := kind,
      farAddr := va }
  let b := s.entryBridge die
  { s with foreign := s.foreign ++ [r], nextRatom := s.nextRatom + 1 }.sendMsg b (requestMsg b die (r.home % 32) r)

/-- Performs an accepted request: the answer's kind, value and bytes; none where it comes later, or there is none. -/
def farPerform (pkg rpart p aid kind req va data cmp : Nat) (bs : List Byte) (s : State) :
    Option (Nat × Nat × List Byte) × State :=
  let base := kind % 32
  let phys := kind / 32 % 2 = 1
  let refused (s : State) : Option (Nat × Nat × List Byte) × State :=
    (some (if 2 ≤ base && base ≤ 11 && kind < 64 then 23 else if 13 ≤ base then 24 else 19, Cause.remoteUnreachable.code, []), s)
  let on (k : AccKind) (n : Nat) (f : List (Tr × Nat) → State → Option (Nat × Nat × List Byte) × State) :
      Option (Nat × Nat × List Byte) × State :=
    match farReach pkg p aid phys k (granuleParts va n) s with
    | (some ts, s) => f ts s
    | (none, s) => refused s
  let size := if bs.length = 8 then 8 else 4
  if (base = 0 && !fabricFits va data) || ((base = 1 || base = 12) && !fabricFits va bs.length) ||
      (2 ≤ base && base ≤ 11 && va % size ≠ 0) then refused s
  else if base = 0 then on .read data fun ts s => let (r, s) := farRead ts s; (some (16, 0, r), s)
  else if base = 1 then on .write bs.length fun ts s => (some (17, 0, []), farWrite ts bs s)
  else if base ≤ 11 then
    if kind < 64 then
      match farTarget s p va phys .atomic with
      | .ok t => (none, s.foreignRequest pkg rpart p aid kind req va data cmp size t)
      | .refused => refused s
      | .violation => refused (s.freezeSource pkg aid)
    else on .atomic size fun ts s =>
      match ts with
      | (t, _) :: _ =>
        let x := performAtomic t (if base = 11 then 9 else base - 2) size data cmp s
        (some (18, x.1, []), x.2.settle t.key)
      | [] => refused s
  else if base = 12 then
    match s.leases.find? (fun l => !l.prologue && l.part = p && l.die = cmp / 16 && l.row = cmp / 4 % 4 && l.col = cmp % 4 &&
        (l.st = .running || l.st = .parked)) with
    | none => refused s
    | some l =>
      if !l.winOk va (va + bs.length : Nat) then (some (19, Cause.scratchBounds.code, []), s)
      else
        let s := s.landed l va bs
        (some (17, 0, []), (granulesOf va bs.length).foldl (fun s g => s.settle (l.winKey g)) s)
  else if base = 13 then (if s.poolPages p ≤ va then refused s else (some (20, 0, s.pageBytes p va), s))
  else if base = 14 then
    (if s.poolPages p ≤ va then refused s else (some (21, 0, []), s.unitWrite p (s.poolPage p va) (bs.take 65536)))
  else
    let b := s.entryBridge (va / 32 % 8)
    (none, s.sendMsg b (closeMsg b (va / 32 % 8) (va % 32) rpart aid (pkg + 1) 0))

/-- A message of the fabric: an answer, or a request of another package. -/
def fabricReceive (pkg rpart p aid kind req va data cmp : Nat) (bs : List Byte) (s : State) : State :=
  let base := kind % 32
  if base = 22 || base = 23 then ratomAnswer pkg p aid req base data cmp s
  else if base = 20 || base = 21 || base = 24 then pageAnswer p aid req base bs s
  else if 16 ≤ base then farAnswer req base data bs s
  else
    let reply (k v : Nat) (r : List Byte) (s : State) : State :=
      if base = 15 then s else { s with out := s.out ++ [.fabric pkg rpart p aid k req va v 0 r] }
    let no := if 2 ≤ base && base ≤ 11 && kind < 64 then 23 else if base = 13 || base = 14 then 24 else 19
    if s.srcFrozen.contains (pkg, aid) then reply no Cause.remoteUnreachable.code [] s
    else if !(s.part p).accepts pkg rpart 0 then reply no Cause.remoteUnreachable.code [] (s.freezeSource pkg aid)
    else if (s.part p).pstate ≠ 0 then reply no Cause.remoteUnreachable.code [] s
    else match farPerform pkg rpart p aid kind req va data cmp bs s with
      | (none, s) => s
      | (some (k, v, r), s) => reply k v r s

def execFabricRequestReceive (pkg rpart p aid kind req : Nat) (va data cmp : BitVec 64) (bytes : List (BitVec 8)) (s : State) : Out :=
  .next (fabricReceive pkg rpart p aid kind req va.toNat data.toNat cmp.toNat bytes s)

/-- A message of Ultra Ethernet: 0 page write, 1 page read, 2 page data, 3 acknowledged, 4 refused (17 R395). -/
def execUeMessageReceive (pkg rpart p aid kind req page : Nat) (bytes : List (BitVec 8)) (s : State) : Out :=
  .next (
    let reply (k : Nat) (r : List Byte) (s : State) : State :=
      { s with out := s.out ++ [.ue ((s.uePort p (s.poolPage p page)).getD 0) pkg rpart p aid k req page r] }
    if kind = 2 then pageAnswer p aid req 20 bytes s
    else if kind = 3 then pageAnswer p aid req 21 [] s
    else if kind = 4 then pageAnswer p aid req 24 [] s
    else if s.srcFrozen.contains (pkg, aid) then reply 4 [] s
    else if !(s.part p).accepts pkg rpart 1 then reply 4 [] (s.freezeSource pkg aid)
    else if (s.part p).pstate ≠ 0 then reply 4 [] s
    else if s.poolPages p ≤ page then reply 4 [] s
    else if kind = 0 then reply 3 [] (s.unitWrite p (s.poolPage p page) (bytes.take 65536))
    else reply 2 (s.pageBytes p page) s)

/-! ## Stations, ports and channels -/

/-- A UALink station is lost or returns (17 R392). The number 16 stands for the station of the host link (DESIGN CHOICE, log entry 86). -/
def execUalinkStationLoss (station : Nat) (up : Bool) (s : State) : Out :=
  .next (
    if station = 16 then { s with hostLink := up }
    else
    let b : W16 := BitVec.ofNat 16 (2 ^ station)
    { s with ualink := if up then s.ualink ||| b else s.ualink &&& ~~~b })

/-- An Ultra Ethernet port is lost or returns (17 R395). -/
def execUePortLoss (port : Nat) (up : Bool) (s : State) : Out :=
  .next (
    let b : BitVec 2 := BitVec.ofNat 2 (2 ^ port)
    { s with uePorts := if up then s.uePorts ||| b else s.uePorts &&& ~~~b })

/-- A DDR-5 channel is removed: its pages are unavailable (17 R396, 08 R201). -/
def execDdrChannelRemoval (channel : Nat) (s : State) : Out :=
  .next { s with ddrUp := s.ddrUp &&& ~~~(BitVec.ofNat 16 (2 ^ channel)) }

end Sys2Proof.Machine
end

