-- ==== Sys2Proof/Machine/Sync.lean ====
section
/-! DEFINITION. Sync.lean: sync objects and the binding table (10 R242-R245; 12 R311-R313), FENCE (10 R246), barriers and
generations (10 R247, R248). -/

namespace Sys2Proof.Machine

/-! ## The clock store's vectors -/

/-- A new zero vector of partition p in the clock store (10 R242, R249). -/
def State.newVec (s : State) (p : Nat) : Nat × State := (p * 2 ^ 32 + s.nextVec, { s with nextVec := s.nextVec + 1 })
def State.vecOf (s : State) (v : Nat) : Vec := sget [] v s.vecs
def State.setVec (s : State) (v : Nat) (x : Vec) : State := { s with vecs := sset [] v x s.vecs }

/-- The address that a VEC field shows: where the clock store holds the vector is the device's choice (DESIGN CHOICE, log entry 23). -/
def State.vecField (s : State) : Nat × State :=
  if !s.clockStore then (0, s)
  else
    let (k, s) := s.nextFree
    ((Config.freeWord k).toNat, s)

/-- The four agents of the lease in focus release: the merge of their published vectors (10 R247, R249). -/
def State.releaseAll (s : State) : Vec × State :=
  [Stream.ct, .ld, .cp, .sd].foldl (fun x st =>
    let (w, s) := x.2.release st (x.2.cur.slotNow st)
    (vecMax (s.part s.cur.part).gen x.1 w, s)) ([], s)

/-- The four agents of the lease in focus acquire v. -/
def State.acquireAll (s : State) (v : Vec) : State := [Stream.ct, .ld, .cp, .sd].foldl (fun s st => s.acquire st v) s

/-! ## Sync objects and their binding entries -/

def Partition.entry (q : Partition) (i : Nat) : Binding := sget {} i q.bind
def State.entry (s : State) (p i : Nat) : Binding := (s.part p).entry i
def State.setEntry (s : State) (p i : Nat) (b : Binding) : State := s.onPart p fun q => { q with bind := sset {} i b q.bind }

/-- Fields of the object at va. -/
def State.objGet (s : State) (p va off n : Nat) : Nat := s.unitLe p (va + off) n
def State.objSet (s : State) (p va off n v : Nat) : State := s.unitWrite p (va + off) (leBytes v n)

/-- The mark of the granule at va: 0 for an ordinary granule, else one more than the number of the object's vector. -/
def State.markAt (s : State) (p va : Nat) : Nat :=
  match s.unitTr p 0 va .read with
  | some t => sget 0 (t.key / 64) s.marks
  | none => 0

/-- Hops from the lease in focus to the home die of a line. -/
def State.hopsTo (s : State) (va : Nat) : Nat := dieHops s.cur.die (s.wlHome s.cur.part va)

/-- The home of the binding table is that of the root RCB's line (12 R311). -/
def State.tableHops (s : State) : Nat := s.hopsTo (s.part s.cur.part).rootRcb.toNat

/-! ## ACQ (10 R243) -/

/-- HOLDS of an entry changes (12 R311). -/
def State.addHolds (s : State) (p i : Nat) (up : Bool) : State :=
  let b := s.entry p i
  s.setEntry p i { b with holds := if up then (b.holds + 1) % 65536 else b.holds - 1 }

/-- Inserts a request in the order in which requests reach their objects, lowest AID first within one mc. -/
def State.addWaiter (s : State) (p : Nat) (w : Waiter) : State :=
  let key (x : Waiter) : Nat := x.atHome * 4096 + (match s.lease? x.lease with | some l => l.aid | none => 0)
  s.onPart p fun q => { q with waiters := insertBy key w q.waiters }

def State.dropWaiter (s : State) (p l : Nat) : State :=
  s.onPart p fun q => { q with waiters := q.waiters.filter (fun w => w.lease ≠ l) }

def execAcq (t : Tok) (a : BitVec 5) (scope : BitVec 2) (m : BitVec 4) (s : State) : Out :=
  ctWord t [a] 0 (fun s => .orReplay s <|
    let l := s.cur
    let i := (s.reg a).toNat
    if l.ct.wait ≠ .none then .wait s
    else if 4095 < i then .refuse .illegalOperand s
    else if l.held.any (fun h => h.1 = i) || 16 ≤ l.held.length then .refuse .illegalOperand s
    else
      let w : Waiter :=
        { obj := 0, lease := l.id, idx := i, shared := m = 1, scope := scope.toNat, due := s.datum + arriveMc s.tableHops,
          atHome := s.datum }
      .wait (s.addWaiter l.part w).ctSent) s

/-- The CT of lease l still waits in the ACQ that sent its request. -/
def State.acqWaits (s : State) (l : Nat) : Bool :=
  match s.lease? l with
  | some x => (x.st = .running || x.st = .parked) && x.ct.wait = .sent && opcodeOf x.ct.ir = 0x3B
  | none => false

/-- A request is withdrawn: its ACQ was left by a trap or a pre-emption, or its lease has ended (10 R243; 12 R311). -/
def withdrawWaiter (p : Nat) (w : Waiter) (s : State) : State :=
  let s := s.dropWaiter p w.lease
  if w.arrived then s.addHolds p w.idx false else s

/-- The request is no longer on its way. -/
def State.unsent (s : State) (p : Nat) : State := (s.dropWaiter p s.cur.id).onCt fun c => { c with wait := .none }

/-- The request reaches the table: a valid entry counts it, and it goes on to its object, at the earliest when its way from CT to the
object's home has run (10 R243, 12 R311-R313); its ACQ is refused where the entry is not valid, and takes the faults of the object's
page. -/
def waiterArrives (p : Nat) (w : Waiter) (s : State) : State :=
  asLease w.lease s (ctEvent 0x3B fun s =>
    let obj := (s.entry p w.idx).obj
    if !(s.entry p w.idx).valid then .refuse .illegalOperand (s.unsent p)
    else match s.translate p s.cur.die obj .atomic false with
      | (.waits, s) => .wait s
      | (_, s) => ctTranslate obj .atomic (s.unsent p) fun _ s =>
        let home := Nat.max s.datum (w.atHome + arriveMc (s.hopsTo obj))
        .wait ((s.addHolds p w.idx true).addWaiter p { w with obj := s.markAt p obj, atHome := home, arrived := true }).ctSent)

/-- The object may go to the request: exclusive when free and first, shared when not held exclusively and no exclusive request
waits before it. -/
def State.mayGrant (s : State) (p : Nat) (w : Waiter) : Bool :=
  let obj := (s.entry p w.idx).obj
  let st := s.objGet p obj 0 4
  let before := ((s.part p).waiters.takeWhile (fun x => x.lease ≠ w.lease)).filter (fun x => x.obj = w.obj && x.arrived)
  w.arrived && decide (w.atHome ≤ s.datum) && nbits st 31 31 = 0 &&
    (if w.shared then before.all (fun x => x.shared) else nbits st 15 0 = 0 && before.isEmpty)

/-- The scope of the last release does not hold the acquirer: the recorded releaser and its entry (10 R243). -/
def State.scopeBad (s : State) (p : Nat) (w : Waiter) (y : Nat) : Option (Nat × Nat × Nat) :=
  let q := s.part p
  let obj := (s.entry p w.idx).obj
  let lr := s.objGet p obj 6 2
  let by_ := lr % 4096
  let e := sget 0 by_ (s.vecOf (w.obj - 1))
  if by_ ≠ 0xFFF && e.toNat / 2 ^ 16 = q.gen && Nat.min (nbits lr 13 12) w.scope < q.distance by_ y then
    some (by_, nbits lr 13 12, e.toNat % 2 ^ 16)
  else none

/-- The race record of an ACQ (10 R258). -/
def acqRecord (s : State) (w : Waiter) (by_ sc pclk : Nat) : Nat → List Byte :=
  let l := s.cur
  let q := s.part l.part
  let acc : Access :=
    { st := .ct, kind := .read, scope := w.scope, va := (s.entry l.part w.idx).obj, scr := false, slot := l.ct.pc / 8 }
  raceRecord s acc .raceScope by_ pclk false { Meta.settled with scope := sc, gen := q.gen % 8 }
    (vecAt q.gen (q.agent (l.aidOf .ct)).know by_).toNat w.idx

/-- The grant: the object's state, CT's knowledge and the held set; the ACQ completes at the return of the answer. -/
def takeGrant (w : Waiter) (s : State) : CtRes :=
  let p := s.cur.part
  let obj := (s.entry p w.idx).obj
  let st := s.objGet p obj 0 4
  let s := if w.shared then s.objSet p obj 0 4 (st + 1)
    else (s.objSet p obj 0 4 (st + 2 ^ 31)).objSet p obj 4 2 (s.cur.aidOf .ct)
  let s := (s.dropWaiter p w.lease).acquire .ct (s.vecOf (w.obj - 1))
  let s := s.onCur fun l => { l with held := l.held ++ [(w.idx, w.shared, w.scope)] }
  .after (128 + arriveMc (s.hopsTo obj)) s

/-- The request of the lease in focus is granted, with its scope check; in TRAP mode a scope race withdraws it (10 R243, R260). -/
def grantTo (w : Waiter) (s : State) : CtRes :=
  let l := s.cur
  let y := l.aidOf .ct
  let acc : Access :=
    { st := .ct, kind := .read, scope := w.scope, va := (s.entry l.part w.idx).obj, scr := false, slot := l.ct.pc / 8 }
  match (if l.race = 0 || !s.clockStore then none else s.scopeBad l.part w y) with
  | none => takeGrant w s
  | some (by_, sc, pclk) =>
    if l.race = 1 then takeGrant w (s.reportRace acc (acqRecord s w by_ sc pclk))
    else if l.rsupFor acc then takeGrant w s.rsupDone
    else .trap .raceScope (infoOf (acqRecord s w by_ sc pclk 0)) (withdrawWaiter l.part w s)

/-- What happens now to the request of lease k: withdrawal, arrival at the table, grant. -/
def acqStep (p k : Nat) (s : State) : State :=
  match (s.part p).waiters.find? (fun w => w.lease = k) with
  | none => s
  | some w =>
    if !s.acqWaits k then withdrawWaiter p w s
    else
      let s := if !w.arrived && w.due ≤ s.datum then waiterArrives p w s else s
      match (s.part p).waiters.find? (fun w => w.lease = k) with
      | none => s
      | some w => if s.mayGrant p w then asLease k s (ctEvent 0x3B (grantTo w)) else s

def execAcqGrant (p k : Nat) (s : State) : Out := .next (acqStep p k s)

/-- The requests of partition p about which something happens in this mc. -/
def State.acqEvents (s : State) (p : Nat) : List Instr :=
  ((s.part p).waiters.filter fun w => !s.acqWaits w.lease || (!w.arrived && w.due ≤ s.datum) || s.mayGrant p w).map
    fun w => .acqGrant p w.lease

/-! ## REL (10 R244, R245) -/

/-- The object of entry i is released by CT of the lease in focus at a scope. -/
def releaseObject (i : Nat) (shared : Bool) (scope : Nat) (s : State) : State :=
  let l := s.cur
  let p := l.part
  let obj := (s.entry p i).obj
  let (v, s) := s.release .ct (l.ct.pc / 8)
  let k := s.markAt p obj - 1
  let s := s.setVec k (vecMax (s.part p).gen (s.vecOf k) v)
  let s := s.objSet p obj 6 2 (l.aidOf .ct + scope * 2 ^ 12)
  let s := s.objSet p obj 8 8 (s.objGet p obj 8 8 + 1)
  let st := s.objGet p obj 0 4
  let s := if shared then s.objSet p obj 0 4 (st - 1)
    else (s.objSet p obj 0 4 (st % 2 ^ 31)).objSet p obj 4 2 0xFFF
  (s.addHolds p i false).onCur fun l => { l with held := l.held.filter (fun h => h.1 ≠ i) }

/-- A killed lease's object is freed with no merge (10 R245). -/
def freeObject (i : Nat) (shared : Bool) (s : State) : State :=
  let p := s.cur.part
  let obj := (s.entry p i).obj
  let s := s.objSet p obj 6 2 0xFFF
  let st := s.objGet p obj 0 4
  let s := if shared then s.objSet p obj 0 4 (st - 1)
    else (s.objSet p obj 0 4 (st % 2 ^ 31)).objSet p obj 4 2 0xFFF
  (s.addHolds p i false).onCur fun l => { l with held := l.held.filter (fun h => h.1 ≠ i) }

/-- Every object the lease in focus holds is released at the scope of its ACQ, in the order of acquisition (10 R245). -/
def releaseHeld (s : State) : State := s.cur.held.foldl (fun s h => releaseObject h.1 h.2.1 h.2.2 s) s
def freeHeld (s : State) : State := s.cur.held.foldl (fun s h => freeObject h.1 h.2.1 s) s

/-- An STS of CT completes before its home performs it, at a later mc (10 R239). -/
def State.storesTelling (s : State) : Bool := s.cur.doneQ.any fun d => d.stream = .ct && d.op = 0x2F && s.datum < d.due

/-- Every earlier LDS, STS, AMO and CAS of CT has completed (10 R239, R244). -/
def State.ctAccessesDone (s : State) : Bool :=
  !(s.reqs.any fun r => r.lease = s.cur.id && r.cmd.isNone && r.size ≠ 64 && !r.told) && !s.storesTelling

def execRel (t : Tok) (a : BitVec 5) (scope : BitVec 2) (m : BitVec 4) (s : State) : Out :=
  ctWord t [a] 0 (fun s => .orReplay s <|
    let i := (s.reg a).toNat
    let obj := (s.entry s.cur.part i).obj
    match s.cur.ct.wait with
    | .change at_ =>
      if s.datum < at_ then .wait s
      else .after (arriveMc (s.hopsTo obj)) (releaseObject i (m = 1) scope.toNat s)
    | _ =>
      if !s.cur.held.any (fun h => h.1 = i && h.2.1 = (m = 1)) then .refuse .releaseNotHeld s
      else if !s.ctAccessesDone then .wait s
      else .wait (s.onCt fun c => { c with wait := .change (s.datum + arriveMc (s.hopsTo obj) + 128) })) s

/-! ## FENCE (10 R246) -/

/-- CT begins no later access until the earlier ones of the kind have completed at the wider of their own scope and this one; an STS that has
completed at a narrower scope is waited for to its home (DESIGN CHOICE, log entry 14). -/
def execFence (t : Tok) (scope : BitVec 2) (m : BitVec 4) (s : State) : Out :=
  ctWord t [] 0 (fun s =>
    let out (r : Req) : Bool := r.lease = s.cur.id && r.cmd.isNone && r.size ≠ 64 && (m = 0 || r.kind ≠ .load) &&
      (!r.told || r.scope < scope.toNat)
    if s.reqs.any out || s.storesTelling then .wait s
    else .plain s) s

/-! ## BIND and UNBIND (12 R311-R313) -/

/-- The ACQ requests that reach the table in this mc with a lower AID than the lease in focus are taken before its own (12 R311). -/
def arriveBefore (s : State) : State :=
  let l := s.cur
  let aid (w : Waiter) : Nat := match s.lease? w.lease with | some x => x.aid | none => 4096
  let ws := (s.part l.part).waiters.filter fun w => !w.arrived && w.due ≤ s.datum && aid w < l.aid && s.acqWaits w.lease
  (sortBy aid ws).foldl (fun s w => waiterArrives l.part w s) s

/-- BIND's work at the table and the object. -/
def bindAt (obj base len i : Nat) (init : Bool) (tr : Tr) (s : State) : CtRes :=
  let l := s.cur
  let marked := sget 0 (tr.key / 64) s.marks ≠ 0
  if tr.tier ≠ 0 then .refuse .illegalOperand s
  else if (s.entry l.part i).valid || len = 0 || 2 ^ 57 < base + len then .refuse .illegalOperand s
  else if init = marked then .refuse .illegalOperand s
  else
    let s := if !init then s
      else
        let (v, s) := s.newVec l.part
        let (f, s) := s.vecField
        let s := s.unitWrite l.part obj (packLe [(0, 4), (0xFFF, 2), (0xFFF, 2), (0, 8), (f, 8), (0, 40)])
        { s with marks := sset 0 (tr.key / 64) (v + 1) s.marks }
    let e : Binding := { valid := true, owner := l.aidOf .ct, holds := 0, obj := obj, base := base, len := len }
    .after (arriveMc s.tableHops) (s.setEntry l.part i e)

def execBind (t : Tok) (a b c : BitVec 5) (m : BitVec 4) (idx : BitVec 12) (s : State) : Out :=
  ctWord t [a, b, c] 0 (fun s => .orReplay s <|
    let obj := (s.reg a).toNat
    if obj % 64 ≠ 0 then .refuseAt .misaligned (s.reg a) s
    else ctTranslate obj .write s fun tr s =>
      match s.cur.ct.wait with
      | .change at_ => if s.datum < at_ then .wait s
        else bindAt obj (s.reg b).toNat (s.reg c).toNat idx.toNat (m = 1) tr (arriveBefore s)
      | _ => .wait (s.onCt fun c => { c with wait := .change (s.datum + arriveMc s.tableHops) })) s

/-- UNBIND's work at the table. -/
def unbindAt (i : Nat) (fin : Bool) (s : State) : CtRes :=
  let p := s.cur.part
  let b := s.entry p i
  let busy := fin && ((s.part p).bind.any (fun e => e.1 ≠ i && e.2.valid && e.2.obj = b.obj) || nbits (s.objGet p b.obj 0 4) 31 31 = 1 ||
    nbits (s.objGet p b.obj 0 4) 15 0 ≠ 0)
  if !b.valid || b.holds ≠ 0 || busy then .refuse .illegalOperand s
  else
    let k := s.markAt p b.obj
    let s := match (if fin then s.unitTr p 0 b.obj .read else none) with
      | some t => { s with marks := sset 0 (t.key / 64) 0 s.marks, vecs := sset [] (k - 1) [] s.vecs }
      | none => s
    .after (arriveMc s.tableHops) (s.setEntry p i {})

def execUnbind (t : Tok) (m : BitVec 4) (idx : BitVec 12) (s : State) : Out :=
  ctWord t [] 0 (fun s => .orReplay s <|
    match s.cur.ct.wait with
    | .change at_ => if s.datum < at_ then .wait s else unbindAt idx.toNat (m = 1) (arriveBefore s)
    | _ => .wait (s.onCt fun c => { c with wait := .change (s.datum + arriveMc s.tableHops) })) s

/-! ## Barriers (10 R247) -/

/-- The RCB at whose line's home the barrier of a level lies, for the lease in focus. -/
def State.barrierRcb (s : State) (level : Nat) : Nat :=
  match level with
  | 0 => (s.firstOf 16 s.cur).rcb
  | 1 => s.cur.rcb
  | _ => (s.part s.cur.part).rootRcb.toNat

def execBarg (t : Tok) (a : BitVec 5) (_scope : BitVec 2) (m : BitVec 4) (s : State) : Out :=
  ctWord t [a] 0 (fun s => .orReplay s <|
    let l := s.cur
    let level := m.toNat
    let n := if level = 0 then (s.groupOf l).length else (s.reg a).toNat
    let rcb := s.barrierRcb level
    if l.ct.wait ≠ .none then .wait s
    else if n = 0 || 4096 < n then .refuse .illegalOperand s
    else if !l.ringsIdle s.datum || !s.ctDrained then .wait s
    else
      let (v, s) := s.releaseAll
      let x : Barrier :=
        { level := level, rcb := rcb, grp := if level = 0 then (s.firstOf 16 l).id else 0, count := n, arrived := [l.id], vec := v,
          due := s.datum + arriveMc (s.hopsTo rcb) }
      .wait (s.onPart l.part fun q => { q with arrivals := q.arrivals ++ [x] }).ctSent) s

def Barrier.meets (x y : Barrier) : Bool := x.level = y.level && x.rcb = y.rcb && x.grp = y.grp

/-- The instance takes arrivals; the one after its count starts another (10 R247). -/
def Barrier.open_ (b : Barrier) : Bool := b.arrived.length < b.count

/-- An arrival joins its instance. -/
def Barrier.join (b x : Barrier) (gen now : Nat) : Barrier :=
  let vec := if b.level = 2 then b.vec else vecMax gen b.vec x.vec
  { b with arrived := b.arrived ++ x.arrived, vec := vec, due := now + if b.level = 2 then 1 else 128 }

/-- The arrival of lease k reaches the home: the first fixes the count, another count is refused (10 R247). -/
def barrierArrives (p k : Nat) (s : State) : State :=
  let q := s.part p
  match q.arrivals.find? (fun x => x.arrived = [k]) with
  | none => s
  | some x =>
    let q := { q with arrivals := q.arrivals.filter (fun y => y.arrived ≠ [k]) }
    match q.barriers.find? fun b => b.meets x && b.open_ with
    | none => s.setPart p { q with barriers := q.barriers ++ [{ x with due := s.datum + if x.level = 2 then 1 else 128 }] }
    | some b =>
      if b.count ≠ x.count then asLease k (s.setPart p q) (ctEvent 0x3E fun s => .refuse .illegalOperand s)
      else s.setPart p { q with barriers := q.barriers.map fun y => if y.arrived.head? = b.arrived.head? then y.join x q.gen s.datum else y }

def execBargArrival (p k : Nat) (s : State) : Out := .next (barrierArrives p k s)

/-- mc that a sweep takes: 512 granules per mc per die (10 R248). The rule does not say how many it visits: every granule of a die's usable
HBM, whatever the partition holds (DESIGN CHOICE, log entry 102). -/
def State.sweepMc (s : State) : Nat := s.hbmUsable / 64 / 512

/-- The generation advances in one step for every agent of the partition (10 R248). -/
def nextGeneration (p : Nat) (s : State) : State :=
  s.onPart p fun q =>
    let g := (q.gen + 1) % 65536
    { q with gen := g, aidQuar := [], sweeps := q.sweeps ++ [(g, s.datum + s.sweepMc)],
             agents := q.agents.map fun a => (a.1, { a.2 with count := 1, dirty := false, folded := false }) }

/-- A participant goes on when its notice has come and, below level 2, its merge has ended. -/
def barrierNotice (b : Barrier) (k : Nat) (s : State) : State :=
  asLease k s (ctEvent 0x3E fun s =>
    if b.level = 2 then .after (arriveMc (s.hopsTo b.rcb)) s
    else .after (arriveMc (s.hopsTo b.rcb) + 128) (s.acquireAll b.vec))

/-- The instance that lease k opened is complete: every arrival is merged, and at level 2 the sweep of three generations before
has ended. -/
def Barrier.ready (b : Barrier) (q : Partition) (now : Nat) : Bool :=
  b.arrived.length = b.count && b.due ≤ now && (b.level ≠ 2 || q.sweeps.all (fun x => (q.gen + 65536 - x.1) % 65536 < 3))

def barrierCompletes (p k : Nat) (s : State) : State :=
  let q := s.part p
  match q.barriers.find? (fun b => b.arrived.head? = some k) with
  | none => s
  | some b =>
    if !b.ready q s.datum then s
    else
      let s := s.setPart p { q with barriers := q.barriers.filter (fun y => y.arrived.head? ≠ b.arrived.head?) }
      let s := if b.level = 2 then nextGeneration p s else s
      b.arrived.foldl (fun s l => barrierNotice b l s) s

def execBargComplete (p k : Nat) (s : State) : Out := .next (barrierCompletes p k s)

/-- Arrivals and completions of partition p that fall due. -/
def State.bargEvents (s : State) (p : Nat) : List Instr :=
  let q := s.part p
  ((q.arrivals.filter fun x => x.due ≤ s.datum).map fun x => Instr.bargArrival p (x.arrived.getD 0 0)) ++
  (q.barriers.filter fun b => b.ready q s.datum).map fun b => .bargComplete p (b.arrived.getD 0 0)

/-! ## The sweep after a generation change (10 R248) -/

/-- Addresses of the nonzero entries of a table of n entries at an HBM-space address. -/
def State.tableEntries (s : State) (a n : Nat) : List Nat :=
  ((s.mem.filter fun c => a ≤ c.1 && c.1 < a + 8 * n).map fun c => c.1 / 8 * 8).eraseDups

/-- The leaves reached from entries at level n (1 GiB, 2 MiB, 64 KiB pages for 2, 1, 0), each with its virtual address: base
address, logarithm of the size, entry. -/
def State.leavesAt (s : State) : Nat → List (Nat × Nat) → List (Nat × Nat × W64)
  | 0, es => (es.filter fun x => eBit (s.entryAt x.2) 63 && eBit (s.entryAt x.2) 62).map fun x => (x.1, 16, s.entryAt x.2)
  | n + 1, es =>
    let shift := if n = 1 then 30 else 21
    let live := es.filter fun x => eBit (s.entryAt x.2) 63
    let here := (live.filter fun x => eBit (s.entryAt x.2) 62).map fun x => (x.1, shift, s.entryAt x.2)
    let below := (live.filter fun x => !eBit (s.entryAt x.2) 62).flatMap fun x =>
      let t := nbits (s.entryAt x.2).toNat 47 8 * 256
      (s.tableEntries t (if n = 1 then 512 else 32)).map fun y => (x.1 + (y - t) / 8 * 2 ^ (if n = 1 then 21 else 16), y)
    here ++ s.leavesAt n below

/-- Every leaf of a partition's tables. -/
def State.leaves (s : State) (p : Nat) : List (Nat × Nat × W64) :=
  let x := (s.part p).pxbase.toNat
  let top := nbits x 47 8 * 256
  s.leavesAt 2 ((s.tableEntries top (2 ^ nbits x 4 0)).map fun a => ((a - top) / 8 * 2 ^ 30, a))

/-- The granule with number g lies in one of the RT pages or windows. -/
def sweepHolds (rt : List (Nat × Nat)) (wins : List Lease) (g : Nat) : Bool :=
  rt.any (fun x => x.1 ≤ g * 64 && g * 64 < x.1 + x.2) ||
  wins.any (fun l => l.plots.any fun q =>
    let a := if l.st = .saved then shadowKey l.die q 0 else liveKey l.die q 0
    a ≤ g * 64 && g * 64 < a + l.scratch * 2 ^ 20)

/-- The oldest sweep of partition p ends: granules recorded four generations on, those of saved windows among them, are settled and
older entries zeroed. -/
def sweepEnds (p : Nat) (s : State) : State :=
  let q := s.part p
  match q.sweeps with
  | [] => s
  | (g, _) :: rest =>
    let rt := ((s.leaves p).filter fun x => eTier x.2.2 = 0 && eBit x.2.2 58).map fun x => (nbits x.2.2.toNat 47 16 * 2 ^ 16, 2 ^ x.2.1)
    let wins := s.leases.filter fun l =>
      l.part = p && (l.st = .running || l.st = .parked || (l.st = .saved && !l.drained)) && !l.prologue
    let old (m : W64) : Bool := (Meta.ofWord m).v && (Meta.ofWord m).gen = (g + 4) % 8
    let keep (m : Nat × W64) : Bool := !(sweepHolds rt wins m.1 && old m.2)
    let older (e : W32) : Bool := let d := (g + 65536 - e.toNat / 2 ^ 16) % 65536; 0 < d && d < 32768
    let young (v : Vec) : Vec := v.filter fun e => !older e.2
    let agent (a : Nat × Agent) : Nat × Agent := (a.1, { a.2 with know := young a.2.know })
    let vec (v : Nat × Vec) : Nat × Vec := (v.1, if v.1 / 2 ^ 32 = p then young v.2 else v.2)
    let s := { s with gmeta := s.gmeta.filter keep, vecs := (s.vecs.map vec).filter (fun v => v.2 ≠ []) }
    let s := s.mapLeases fun l =>
      if l.part = p && l.st = .saved then
        { l with savedMeta := l.savedMeta.filter fun m => !old m.2, sweptGens := if l.drained then (g + 4) % 8 :: l.sweptGens else [] }
      else l
    s.setPart p { q with sweeps := rest, agents := q.agents.map agent }

def execGenSweep (p : Nat) (s : State) : Out := .next (sweepEnds p s)

end Sys2Proof.Machine
end

