-- ==== Sys2Proof/Machine/Regions.lean ====
section
/-! DEFINITION. Regions.lean: region control blocks (12 R289-R292), kernel headers (02 R59-R61), lease queues and the allocator
(01 R26-R31; 12 R299, R300), the shape table (12 R301), the end of leases and tasks (05 R127; 12 R295-R298, R306), and SPAWN, JOIN
and KILL (12 R293-R295). -/

namespace Sys2Proof.Machine

/-! ## Region control blocks (12 R289-R292) -/

def State.rcbGet (s : State) (p va off n : Nat) : Nat := s.unitLe p (va + off) n
def State.rcbSet (s : State) (p va off n v : Nat) : State := s.unitWrite p (va + off) (leBytes v n)

/-- The latch of an attached RCB: its STATE is not 0. -/
def State.attached (s : State) (p va : Nat) : Option Rcb :=
  if s.rcbGet p va 9 1 = 0 then none else (s.part p).rcb? va

def bitsSet (n : Nat) : Nat → Nat
  | 0 => 0
  | k + 1 => n / 2 ^ k % 2 + bitsSet n k

/-- The S fields of an RCB as they stand in memory. -/
def State.readRcb (s : State) (p va : Nat) : Rcb :=
  let g := s.rcbGet p va
  { va := va, parent := g 0x10 8, kind := g 0 1, depth := 1, prio := g 2 1, race := g 3 1, maxPlots := g 4 2, maxLeases := g 6 2,
    fdom := g 8 1, resmap := g 0x20 16, vec := 0 }

def limitOk (v : Nat) : Bool := (1 ≤ v && v ≤ 128) || v = 0xFFFF

/-- The form and root checks of 12 R290. -/
def State.rcbFormOk (s : State) (p : Nat) (r : Rcb) : Bool :=
  r.va % 128 = 0 && s.inHbm p r.va 128 && (r.kind = 1 || r.kind = 2) && nbits r.prio 6 3 = 0 && nbits r.race 6 2 = 0 &&
  r.race % 4 ≠ 3 && limitOk r.maxPlots && limitOk r.maxLeases && nbits r.fdom 6 1 = 0 && s.rcbGet p r.va 0x38 8 = 0 &&
  (r.kind ≠ 2 || (r.va = (s.part p).rootRcb.toNat && r.parent = 0 && 128 ≤ r.prio && 128 ≤ r.race && 128 ≤ r.fdom))

/-- The reservation checks of 12 R290 for region r below the chain c. -/
def State.resmapOk (s : State) (p : Nat) (r : Rcb) (c : List Rcb) : Bool :=
  let lims := ((r :: c).map Rcb.maxPlots).filter fun m => m ≠ 0xFFFF
  (r.kind = 2 || (match c with | x :: _ => r.resmap &&& x.resmap = r.resmap | [] => false)) &&
  lims.all (fun m => bitsSet r.resmap 128 ≤ m) &&
  s.parts.all fun q => q.2.rcbs.all fun x =>
    (q.1 = p && (x.va = r.va || c.any (fun y => y.va = x.va) || q.2.below r.va x.va)) || x.resmap &&& r.resmap = 0 ||
    s.rcbGet q.1 x.va 9 1 = 0

/-- A successful attachment latches the S fields and writes the D fields. -/
def State.latchRcb (s : State) (p : Nat) (r : Rcb) : State :=
  let (v, s) := s.newVec p
  let (f, s) := s.vecField
  let s := s.onPart p fun q => { q with rcbs := (q.rcbs.filter fun x => x.va ≠ r.va) ++ [{ r with vec := v }] }
  let s := s.rcbSet p r.va 1 1 r.depth
  let s := s.rcbSet p r.va 0x0A 6 0
  let s := s.rcbSet p r.va 0x18 8 f
  let s := s.rcbSet p r.va 0x30 8 0
  let s := s.rcbSet p r.va 0x40 64 0
  s.rcbSet p r.va 9 1 1

/-- Attaches an RCB whose STATE is 0, after its ancestors, root first; none when any of them is refused, or has a STATE other than 0 though
nothing has attached it (12 R290). -/
def attachUp (p : Nat) : Nat → Nat → State → Option State
  | 0, _, _ => none
  | n + 1, va, s =>
    if (s.attached p va).isSome then some s
    else
      let r := s.readRcb p va
      if s.rcbGet p va 9 1 ≠ 0 || !s.rcbFormOk p r then none
      else if r.kind = 2 then (if s.resmapOk p r [] then some (s.latchRcb p r) else none)
      else match attachUp p n r.parent s with
        | none => none
        | some s =>
          let c := (s.part p).chain r.parent
          match s.attached p r.parent with
          | none => none
          | some x =>
            if 8 ≤ x.depth || !s.resmapOk p r c then none else some (s.latchRcb p { r with depth := x.depth + 1 })
def State.attach (s : State) (p va : Nat) : Option State := attachUp p 9 va s

/-- A region that takes launches: attached and in STATE 1 (12 R295). -/
def State.attachLive (s : State) (p va : Nat) : Option State :=
  match s.attach p va with
  | none => none
  | some s => if s.rcbGet p va 9 1 = 1 then some s else none

/-- Adds to a D field of a region and its ancestors. -/
def State.addUp (s : State) (p va off n : Nat) (f : Nat → Nat) : State :=
  ((s.part p).chain va).foldl (fun s r => s.rcbSet p r.va off n (f (s.rcbGet p r.va off n))) s

/-! ## Kernel headers (02 R59-R61) -/

/-- The fields of a kernel header. -/
structure Header where
  codesize : Nat
  entry : Nat
  vregs : Nat
  orient : Nat
  accrows : Nat
  scratch : Nat
  shapes : Nat
  race : Nat
  vcmode : Nat
  rings : List Nat
  xoptab : Nat
  loader : Nat
  traph : Nat
  prolog : Nat
  prologsz : Nat
  kid : Nat
  deriving DecidableEq, Repr

/-- Reads a kernel header; none where it is refused (02 R60). -/
def State.header (s : State) (p va : Nat) : Option Header :=
  let b := s.unitRead p va 128
  let f := recLe b
  let h : Header :=
    { codesize := f 8 4, entry := f 0x0C 4, vregs := f 0x10 1, orient := f 0x11 1, accrows := f 0x12 2, scratch := f 0x14 2,
      shapes := f 0x16 2, race := f 0x18 1, vcmode := f 0x19 1, rings := [f 0x1A 1, f 0x1B 1, f 0x1C 1], xoptab := f 0x20 8,
      loader := f 0x28 4, traph := f 0x2C 4, prolog := f 0x30 4, prologsz := f 0x34 4, kid := f 0x38 8 }
  let at_ (x : Nat) : Bool := x % 8 = 0 && x < h.codesize
  if va % 128 = 0 && f 0 4 = 0x59484B48 && f 4 2 = 0x0100 && f 6 2 = 0 && h.codesize % 8 = 0 && 8 ≤ h.codesize && h.codesize ≤ 2 ^ 24 &&
    at_ h.entry && h.vregs ≤ 64 && h.orient ≤ 1 && h.accrows ≤ 512 && 1 ≤ h.scratch && h.scratch ≤ 8 && h.shapes ≠ 0 &&
    h.shapes < 512 && h.race ≤ 3 && h.vcmode ≤ 1 && h.rings.all (fun r => 8 ≤ r && r ≤ 12) && f 0x1D 3 = 0 && at_ h.loader &&
    at_ h.traph && at_ h.prolog && h.prologsz % 8 = 0 && h.prologsz ≤ 4096 && (h.prologsz = 0) = (h.prolog = 0) &&
    h.prolog + h.prologsz ≤ h.codesize && (b.drop 0x40).take 60 = List.replicate 60 0 && f 0x7C 4 = crc32 (b.take 0x7C)
  then some h else none

/-- The code words of a kernel from code offset a to b. -/
def State.codeWords (s : State) (p kernel a b : Nat) : SMap W64 :=
  (List.range ((b - a) / 8)).foldl (fun m i =>
    sset 0 (a / 8 + i) (BitVec.ofNat 64 (s.unitLe p (kernel + 128 + a + 8 * i) 8)) m) []

/-! ## The shape table and the AID groups (12 R301, 01 R27) -/

/-- The lease keeps its plots. -/
def Lease.holdsPlots (l : Lease) : Bool := !l.prologue && (l.st = .running || l.st = .parked || l.st = .halted)

/-- The shape table entry of a lease's plot g. -/
def State.shapeWord (s : State) (l : Lease) (g : Nat) : Nat :=
  let f := s.firstOf 16 l
  2 ^ 31 + l.part * 2 ^ 25 + l.shape * 2 ^ 21 + (if l.ori then 2 ^ 20 else 0) + (if g = 0 then 2 ^ 19 else 0) +
    (if l.chin.isSome then 2 ^ 18 else 0) + (if l.chout.isSome then 2 ^ 17 else 0) + (4 * f.row + f.col) * 2 ^ 12 + l.aid

/-- Rewrites the shape table after a change of the parcels. -/
def State.retable (s : State) : State :=
  let es := (s.leases.filter Lease.holdsPlots).flatMap fun l => l.plots.mapIdx fun g q => (l.die * 16 + q, s.shapeWord l g)
  { s with shapeTab := es.foldl (fun m e => sset 0 e.1 e.2 m) [] }

def State.plotHeld (s : State) (d q : Nat) : Bool := sget 0 (d * 16 + q) s.shapeTab ≠ 0

/-- The lowest-numbered AID group that is free and not quarantined. -/
def Partition.freeGroup (q : Partition) : Option Nat :=
  (List.range 1023).find? fun g => !q.aidUsed.contains g && !q.aidQuar.contains g

/-- An AID group returns to the pool, quarantined while the partition checks races. -/
def State.freeAid (s : State) (p g : Nat) : State :=
  let race := s.partRace p
  s.onPart p fun q =>
    { q with aidUsed := q.aidUsed.filter (fun x => x ≠ g), aidQuar := if race = 0 then q.aidQuar else q.aidQuar ++ [g] }

/-! ## Queues (01 R31, 12 R300) -/

/-- QUEUED launches and images of a partition. -/
def State.queuedOf (s : State) (p : Nat) : Nat := (s.queues.map fun q => (q.2.filter fun x => x.part = p).length).foldl (· + ·) 0

def State.enqueue (s : State) (prio : Nat) (x : Launch) : State :=
  { s with queues := sset [] prio (sget [] prio s.queues ++ [x]) s.queues }

def State.unqueue (s : State) (f : Launch → Bool) : State :=
  { s with queues := (s.queues.map fun q => (q.1, q.2.filter fun x => !f x)).filter fun q => q.2 ≠ [] }

/-- Queues one task in region rcb. -/
def State.queueTask (s : State) (p rcb kernel args kid : Nat) (o : Origin) (die : Nat) (vec : Vec) : State :=
  let q := s.part p
  let t : Task := { id := q.nextTask, rcb := rcb, leases := 0, kernelId := kid, origin := o }
  let x : Launch :=
    { part := p, task := t.id, rcb := rcb, kernel := kernel, args := args, origin := o, die := die, vec := vec }
  let s := s.setPart p { q with nextTask := q.nextTask + 1, tasks := q.tasks ++ [t] }
  (s.enqueue (q.prioOf rcb) x).addUp p rcb 0x0A 2 (· + 1)

def Partition.task? (q : Partition) (t : Nat) : Option Task := q.tasks.find? fun x => x.id = t
def State.onTask (s : State) (p t : Nat) (f : Task → Task) : State :=
  s.onPart p fun q => { q with tasks := q.tasks.map fun x => if x.id = t then f x else x }

/-! ## The allocator (12 R299, 01 R31) -/

/-- The reserving region of a plot: the deepest attached region whose RESMAP holds it (12 R292). -/
def State.reserver (s : State) (d q : Nat) : Option (Nat × Rcb) :=
  let all := s.parts.flatMap fun x => (x.2.rcbs.filter fun r => nbits r.resmap (16 * d + q) (16 * d + q) = 1 && s.rcbGet x.1 r.va 9 1 ≠ 0).map
    fun r => (x.1, r)
  all.foldl (fun acc x => match acc with
    | none => some x
    | some y => if y.2.depth < x.2.depth then some x else some y) none

/-- A plot may be leased to region rcb of partition p in a pass (12 R299). -/
def State.plotOk (s : State) (p rcb pass d q : Nat) : Bool :=
  !s.plotHeld d q && nbits (sget 0 d s.absent) q q = 0 &&
  (match s.reserver d q with
   | none => pass = 1
   | some (p', r) => p' = p && (s.part p).below r.va rcb)

/-- A parcel of a group, placed: plot offsets from the first parcel and its shape. -/
abbrev Offsets := List (Int × Int × Nat)

/-- The plots of a group whose first parcel stands at (row, col); none where a parcel does not fit. -/
def groupPlots (row col : Nat) : Offsets → Option (List Nat)
  | [] => some []
  | (dy, dx, shape) :: r =>
    let y := (row : Int) + dy
    let x := (col : Int) + dx
    if y < 0 || x < 0 || !parcelOk shape y.toNat x.toNat then none
    else (groupPlots row col r).map fun ps =>
      ((List.range (shapePlots shape)).map fun g => (y.toNat + g / shapeCols shape) * 4 + x.toNat + g % shapeCols shape) ++ ps

/-- The first place for a group in the order of 12 R299: die, row, column. -/
def State.placeFor (s : State) (p rcb die0 : Nat) (pass : Nat) (g : Offsets) : Option (Nat × Nat × Nat) :=
  (((List.range 8).flatMap fun k => (List.range 16).map fun q => ((die0 + k) % 8, q / 4, q % 4)).find? fun x =>
    match groupPlots x.2.1 x.2.2 g with
    | none => false
    | some ps => ps.all fun q => s.plotOk p rcb pass x.1 q)

/-- Leases to come of the SPLITs under way below a region (12 R304). -/
def State.reserved (s : State) (p va : Nat) : Nat :=
  ((s.leases.filter fun l => l.part = p && (s.part p).below va l.rcb).map fun l => l.splitAids.length).foldl (· + ·) 0

/-- Limits of the region and its ancestors hold with more plots and leases (01 R31). -/
def State.limitsOk (s : State) (p rcb plots leases : Nat) : Bool :=
  ((s.part p).chain rcb).all fun r =>
    (r.maxPlots = 0xFFFF || s.rcbGet p r.va 0x0C 2 + plots ≤ r.maxPlots) &&
    (r.maxLeases = 0xFFFF || s.rcbGet p r.va 0x0E 2 + s.reserved p r.va + leases ≤ r.maxLeases)

/-- The parcels of a saved group, relative to its first parcel. -/
def State.imageOffsets (s : State) (l : Nat) : Offsets :=
  match s.lease? l with
  | none => []
  | some f => ((s.groupOf f).filterMap s.lease?).map fun x => ((x.row : Int) - f.row, (x.col : Int) - f.col, x.shape)

/-- What the allocator finds for a launch: shape, die, row, column. -/
def State.fit (s : State) (x : Launch) : Option (Nat × Nat × Nat × Nat) :=
  match x.image with
  | some l =>
    let g := s.imageOffsets l
    let plots := (g.map fun o => shapePlots o.2.2).foldl (· + ·) 0
    if g.isEmpty || !s.limitsOk x.part x.rcb plots g.length then none
    else ((List.range 2).findSome? fun pass => s.placeFor x.part x.rcb 0 pass g).map fun pl => (0, pl)
  | none =>
    match s.header x.part x.kernel with
    | none => none
    | some h =>
      if (s.part x.part).freeGroup.isNone then none
      else (List.range 2).findSome? fun pass => [8, 7, 6, 5, 4, 3, 2, 1, 0].findSome? fun sh =>
        if nbits h.shapes sh sh = 0 || !s.limitsOk x.part x.rcb (shapePlots sh) 1 then none
        else (s.placeFor x.part x.rcb x.die pass [(0, 0, sh)]).map fun pl => (sh, pl)

/-- The partition's AID-wait status (01 R27): its queued launches that wait for an AID group. -/
def State.aidWait (s : State) (p : Nat) : Nat :=
  if (s.part p).freeGroup.isSome then 0
  else (s.queues.map fun q => (q.2.filter fun x => x.part = p && x.image.isNone).length).foldl (· + ·) 0

/-- The partition's launches are served: its halt line is down. -/
def State.served (s : State) (x : Launch) : Bool := (s.part x.part).pstate = 0

/-- The first launch of a queue that fits; one passed over 16 times blocks those behind it (01 R31). -/
def State.pick (s : State) : List Launch → Option (Launch × (Nat × Nat × Nat × Nat))
  | [] => none
  | x :: r =>
    match s.fit x with
    | some g => some (x, g)
    | none => if 16 ≤ x.passed then none else s.pick r

/-- The launch the allocator grants next: from the highest queue that is not empty. -/
def State.candidate (s : State) : Option (Launch × (Nat × Nat × Nat × Nat)) :=
  match [7, 6, 5, 4, 3, 2, 1, 0].find? fun k => (sget [] k s.queues).any s.served with
  | none => none
  | some k => s.pick ((sget [] k s.queues).filter s.served)

/-- Takes a launch out of its queue; those before it are passed over once more. -/
def State.takeLaunch (s : State) (x : Launch) : State :=
  let k := (s.part x.part).prioOf x.rcb
  let q := sget [] k s.queues
  let before := (q.takeWhile fun y => y ≠ x).map fun y => if s.served y then { y with passed := y.passed + 1 } else y
  { s with queues := sset [] k (before ++ (q.dropWhile fun y => y ≠ x).drop 1) s.queues }

/-! ## Grant (12 R299; 04 R85, R90, R92; 07 R164; 08 R189; 10 R249; 11 R262) -/

/-- Zeroes the window, its metadata, the vector files and the granted accumulator rows of a lease's plots. -/
def State.clearPlots (s : State) (l : Lease) : State :=
  let win (k : Nat) : Bool := l.plots.any fun q => liveKey l.die q 0 ≤ k && k < liveKey l.die q (l.scratch * 2 ^ 20)
  let regs (k : Nat) : Bool := l.plots.any fun q => k / 256 = l.die * 16 + q
  let rows (k : Nat) : Bool := l.plots.any fun q => k / 512 = l.die * 16 + q
  { s with mem := s.mem.filter (fun c => !win c.1), gmeta := s.gmeta.filter (fun c => !win (c.1 * 64)),
           badGran := s.badGran.filter (fun g => !win (g * 64)),
           vfile := s.vfile.filter (fun c => !regs c.1), accs := s.accs.filter (fun c => !rows c.1),
           accInt := s.accInt.filter (fun c => !rows c.1) }

/-- The four agents of a granted group start: the region's and the spawner's vectors, a count of 1. -/
def State.startAgents (s : State) (p g : Nat) (vec : Vec) : State :=
  s.onPart p fun q => (List.range 4).foldl (fun q i => q.setAgent (4 * g + i) { count := 1, know := vecMax q.gen [] vec }) q

/-- A lease as its grant makes it. -/
def newLease (id g race : Nat) (x : Launch) (h : Header) (shape die row col : Nat) (code : SMap W64) (first : Nat) : Lease :=
  let n (k : Nat) : Nat := 2 ^ h.rings.getD k 8
  { id := id, part := x.part, aid := 4 * g, task := x.task, rcb := x.rcb, kernel := x.kernel, kernelId := h.kid, st := .running,
    origin := x.origin, die := die, row := row, col := col, shape := shape, ori := h.orient = 1, vregs := (h.vregs + 7) / 8 * 8,
    accrows := (h.accrows + 31) / 32 * 32, scratch := h.scratch, xoptab := h.xoptab, loader := h.loader, traph := h.traph,
    codesize := h.codesize, code := code, race := race,
    ct := { sregs := sset 0 1 (BitVec.ofNat 64 x.args) [], pc := h.entry, vcmode := BitVec.ofNat 64 h.vcmode, nextMc := first },
    ld := { ring := { base := 0, slots := n 0 } }, cp := { ring := { base := 8 * n 0, slots := n 1 } },
    sd := { ring := { base := 8 * (n 0 + n 1), slots := n 2 } } }

/-- Effective race mode of a lease (10 R257). -/
def State.leaseRace (s : State) (p rcb race : Nat) : Nat :=
  if s.clockStore then Nat.min (if race = 3 then (s.part p).raceOf rcb else race) (s.partRace p) else 0

def State.addLease (s : State) (l : Lease) : State := { s with rest := s.rest ++ [l] }

/-- Grants a launch a rectangle: CT's first fetch follows the zeroing of the window (08 R189). -/
def grantLease (x : Launch) (h : Header) (shape die row col g : Nat) (s : State) : State :=
  let p := x.part
  let s := s.takeLaunch x
  let code := s.codeWords p x.kernel 0 h.codesize
  let l := newLease s.nextLease g (s.leaseRace p x.rcb h.race) x h shape die row col code (s.datum + 7000 * h.scratch / 8)
  let q := s.part p
  let vec := match q.rcb? x.rcb with | some r => vecMax q.gen (s.vecOf r.vec) x.vec | none => x.vec
  let s := ((s.clearPlots l).startAgents p g vec).onPart p fun q =>
    { q with aidUsed := q.aidUsed ++ [g], places := sset 0 g die q.places }
  let s := { s.addLease l with nextLease := s.nextLease + 1 }
  let s := s.onTask p x.task fun t => { t with leases := 1, aid := l.aid, info := l.info }
  ((s.addUp p x.rcb 0x0C 2 (· + l.n)).addUp p x.rcb 0x0E 2 (· + 1)).retable

/-- The allocator grants the launch it serves next. -/
def grantNext (s : State) : State :=
  match s.candidate with
  | none => s
  | some (x, (shape, die, row, col)) =>
    if x.image.isSome then s
    else match s.header x.part x.kernel, (s.part x.part).freeGroup with
      | some h, some g => grantLease x h shape die row col g s
      | _, _ => s

def execLeaseGrant (s : State) : Out := .next (grantNext s)

/-! ## The unit map (12 R315, R316) -/

/-- Pending marks take effect on the plots that no lease holds. -/
def State.settleAbsent (s : State) : State :=
  s.absentPend.foldl (fun s e =>
    (List.range 16).foldl (fun s q =>
      if nbits e.2 q q = 1 && !s.plotHeld e.1 q then
        { s with absent := sset 0 e.1 (sget 0 e.1 s.absent ||| 2 ^ q) s.absent,
                 absentPend := sset 0 e.1 (sget 0 e.1 s.absentPend &&& (65535 - 2 ^ q)) s.absentPend }
      else s) s) s

/-- Firmware marks a plot absent. -/
def markAbsent (d plot : Nat) (s : State) : State :=
  ({ s.fwWrote with absentPend := sset 0 d (sget 0 d s.absentPend ||| 2 ^ (plot % 16)) s.absentPend }).settleAbsent

def execPlotAbsentMark (d plot : Nat) (s : State) : Out := .next (markAbsent d plot s)

/-! ## The end of a lease and of a task (05 R127; 12 R296, R306) -/

/-- A performed store or atomic of CT on its way to its home: it still happens when its lease has ended. -/
def Req.performed (r : Req) : Bool := r.cmd.isNone && r.atHome && r.kind ≠ .load

/-- The requests and remote data of a lease in focus are dropped with it, but for what CT has performed. -/
def State.dropTraffic (s : State) : State :=
  let l := s.cur
  let s := l.cmds.foldl (fun s c => if c.kind = .ratom then s.dropRatoms c.seq else s) s
  { s with reqs := s.reqs.filter (fun r => r.lease ≠ l.id || r.performed), farBuf := s.farBuf.filter (fun b => b.1 ≠ l.id) }

/-- The lease in focus is gone: its plots, its AID group and its share of the budgets come back. -/
def leaseGone (s : State) : State :=
  let l := s.cur
  let held := l.holdsPlots
  let s := s.dropTraffic
  let s := s.onPart l.part fun q =>
    { q with faultWait := q.faultWait.filter (fun e => e.lease ≠ l.id), faultOpen := q.faultOpen.filter (fun e => e.lease ≠ l.id),
             aidUsed := q.aidUsed.filter (fun g => !l.splitAids.contains g) }
  let s := s.onTask l.part l.task fun t => { t with leases := t.leases - 1, aid := l.aid, info := l.info }
  let s := (s.freeAid l.part (l.aid / 4)).dropLease l.id
  let s := if held then (s.addUp l.part l.rcb 0x0C 2 (· - l.n)).addUp l.part l.rcb 0x0E 2 (· - 1) else s
  s.retable.settleAbsent

/-- A killing region without tasks is dead (12 R295). -/
def State.settleDead (s : State) (p va : Nat) : State :=
  ((s.part p).chain va).foldl (fun s r =>
    if s.rcbGet p r.va 9 1 = 2 && s.rcbGet p r.va 0x0A 2 = 0 then s.rcbSet p r.va 9 1 3 else s) s

/-- The completion of the launch packet behind a task that retired normally: a record, or another run of its prologue
(11 R282, R283). -/
def taskReport (p : Nat) (t : Task) (s : State) : State :=
  let o := { t.origin with info := t.info }
  if 16 ≤ o.ring then s
  else if o.repeats then s.setRing p o.ring { s.ring p o.ring with again := (s.ring p o.ring).again ++ [o] }
  else s.writeDone p o 1 0

/-- A task whose last lease has ended retires normally. -/
def taskDone (p t : Nat) (s : State) : State :=
  match (s.part p).task? t with
  | none => s
  | some x =>
    if x.leases ≠ 0 then s
    else
      let s := s.onPart p fun q => { q with tasks := q.tasks.filter fun y => y.id ≠ t }
      let s := (s.addUp p x.rcb 0x0A 2 (· - 1)).addUp p x.rcb 0x30 4 (fun n => (n + 1) % 2 ^ 32)
      taskReport p x (s.settleDead p x.rcb)

/-- The lease in focus retires at its END: held objects are released, its agents' vectors go to the region's. -/
def retireLease (s : State) : State :=
  let l := s.cur
  let s := releaseHeld s
  let (v, s) := s.releaseAll
  let s := match (s.part l.part).rcb? l.rcb with
    | some r => s.setVec r.vec (vecMax (s.part l.part).gen (s.vecOf r.vec) v)
    | none => s
  taskDone l.part l.task (leaseGone s)

/-- Every word placed before the END has completed (05 R127). -/
def State.endReady (s : State) : Bool := s.cur.ringsIdle s.datum && s.ctDrained

/-- A lease whose parcel is chained cannot end (19 R410). -/
def execEndTask (t : Tok) (s : State) : Out :=
  ctWord t [] 0 (fun s =>
    if s.cur.chin.isSome || s.cur.chout.isSome then .refuse .shapeInvalid s
    else if s.endReady then .wait { s with turn := s.turn ++ [.event (.taskRetire s.cur.id)] }
    else .wait s) s

/-- Retirement, unless a trap has been taken at the END in this mc (16 R381). -/
def retireAtEnd (s : State) : State :=
  let c := s.cur.ct
  if !(s.cur.st = .running || s.cur.st = .parked) || !c.wdone || opcodeOf c.ir ≠ 0x5B || !s.endReady then s
  else retireLease (s.signals .ct (tokOf c.ir).sig (c.pc / 8) 0x5B s.cur.vc)

def execTaskRetire (l : Nat) (s : State) : Out := .next (onLease l s retireAtEnd)

/-! ## Abnormal ends (12 R295-R298) -/

/-- The lease in focus is killed: its objects are freed with no merge. -/
def killLease (s : State) : State := leaseGone (freeHeld s)

/-- The record of an abnormal end (12 R296). -/
def abnRecord (s : State) (t : Task) (kind cause killer : Nat) : List Byte :=
  packLe [(kind, 1), (if kind = 1 then cause else 0, 1), (t.aid % 4096, 2), (killer, 2), (0, 2), (t.kernelId, 8), (t.info.toNat, 8),
    (s.datum, 8), (t.rcb, 8), (0, 24)]

/-- Task t ends abnormally once, with every lease it holds (12 R296, R306). -/
def abortTask (p t kind cause killer : Nat) (s : State) : State :=
  match (s.part p).task? t with
  | none => s
  | some _ =>
    let ls := (s.leases.filter fun l => l.part = p && l.task = t && !l.prologue).map (·.id)
    let s := ls.foldl (fun s l => asLease l s killLease) (s.unqueue fun x => x.part = p && x.task = t)
    match (s.part p).task? t with
    | none => s
    | some x =>
      let s := s.onPart p fun q => { q with tasks := q.tasks.filter fun y => y.id ≠ t }
      let s := s.addUp p x.rcb 0x0A 2 (· - 1)
      let s := ((s.part p).chain x.rcb).foldl (fun s r =>
        if s.rcbGet p r.va 0x34 4 = 0 then s.unitWrite p (r.va + 0x40) (abnRecord s x kind cause killer) else s) s
      let s := (s.addUp p x.rcb 0x34 4 (fun n => (n + 1) % 2 ^ 32)).settleDead p x.rcb
      if 16 ≤ x.origin.ring then s else s.writeDone p { x.origin with info := x.info } 5 cause

/-- The attached regions of a subtree are killing. -/
def State.markKilling (s : State) (p va : Nat) : State :=
  ((s.part p).rcbs.filter fun r => (s.part p).below va r.va && s.rcbGet p r.va 9 1 ≠ 0).foldl (fun s r => s.rcbSet p r.va 9 1 2) s

/-- The lowest AID of a task's leases; one that holds none comes after all others. -/
def State.taskAid (s : State) (p t : Nat) : Nat :=
  (s.leases.filter fun l => l.part = p && l.task = t && !l.prologue).foldl (fun a l => Nat.min a l.aid) 0xFFF

/-- The tasks of a subtree, lowest AID first (12 R289). -/
def State.tasksBelow (s : State) (p va : Nat) : List Nat :=
  sortBy (s.taskAid p) (((s.part p).tasks.filter fun t => (s.part p).below va t.rcb).map (·.id))

/-- Kills every task of a subtree with a kind that starts no domain kill. -/
def sweepTree (p va kind killer : Nat) (s : State) : State :=
  let s := s.markKilling p va
  let s := (s.tasksBelow p va).foldl (fun s t => abortTask p t kind 0 killer s) s
  (s.part p).rcbs.foldl (fun s r => if (s.part p).below va r.va then s.settleDead p r.va else s) s

/-- The fault domain that an abnormal end in region rcb kills, if any (12 R297). -/
def Partition.domainOf (q : Partition) (rcb : Nat) : Option Nat :=
  if q.fdomOf rcb = 0 then none else ((q.chain rcb).find? fun r => 128 ≤ r.fdom).map (·.va)

/-- The tasks ts end abnormally, in their order; their domain kills follow (12 R297). -/
def abortTasks (p : Nat) (ts : List Nat) (kind cause killer : Nat) (s : State) : State :=
  let rs := (ts.filterMap fun t => (s.part p).task? t).map (·.rcb)
  let s := ts.foldl (fun s t => abortTask p t kind cause killer s) s
  if kind = 3 then s
  else (rs.filterMap (s.part p).domainOf).eraseDups.foldl (fun s r => sweepTree p r 3 0xFFD s) s

/-- An abnormal end with its domain kill (12 R297). -/
def abortDomain (p t kind cause killer : Nat) (s : State) : State := abortTasks p [t] kind cause killer s

/-- KILL of a subtree, the executing task last when it is of it (12 R295). -/
def killTree (p va kind killer : Nat) (own : Option Nat) (s : State) : State :=
  let s := s.markKilling p va
  let ts := s.tasksBelow p va
  let s := abortTasks p (ts.filter (fun t => some t ≠ own) ++ ts.filter (fun t => some t = own)) kind 0 killer s
  (s.part p).rcbs.foldl (fun s r => if (s.part p).below va r.va then s.settleDead p r.va else s) s

/-! ## SPAWN, JOIN and KILL (12 R293-R295) -/

/-- CT reaches the ends of a range that it reads without a race check. -/
def ctReadable (va n : Nat) (s : State) (f : State → CtRes) : CtRes :=
  ctReach va .read s fun s => ctReach (va + n - 1) .read s f

/-- SPAWN's checks and its effect after its reads, which take `reads` mc. -/
def spawnWork (d : BitVec 5) (rcb kernel args stride rsv n reads : Nat) (s : State) : CtRes :=
  let l := s.cur
  let p := l.part
  match s.attach p rcb with
  | none => .refuse .rcbInvalid s
  | some s =>
    if !(s.part p).below l.rcb rcb || s.rcbGet p rcb 9 1 ≠ 1 then .refuse .rcbInvalid s
    else if rsv ≠ 0 then .refuse .illegalOperand s
    else match s.header p kernel with
      | none => .refuseAt .illegalOperand (BitVec.ofNat 64 kernel) s
      | some h =>
        if 4096 < s.queuedOf p + n then .wait s.ctSent
        else
          let lat := (if l.ct.wait = .none then reads else 0) + 64 + 4 * n
          let (v, s) := s.release .ct (l.ct.pc / 8)
          let s := (List.range n).foldl (fun s i =>
            s.queueTask p rcb kernel ((args + i * stride) % 2 ^ 64) h.kid { ring := 16 } l.die v) s
          .valueIn d (BitVec.ofNat 64 (s.rcbGet p rcb 0x0A 2)) lat (lat + 1) s

/-- mc of SPAWN's reads: the RCB, and the record and then the header that it names (12 R293, 08 R196). -/
def State.spawnReads (s : State) (rcb rec_ kernel : Nat) : Nat := Nat.max (s.readMc rcb) (s.readMc rec_ + s.readMc kernel)

def execSpawn (t : Tok) (d a b : BitVec 5) (n : BitVec 16) (s : State) : Out :=
  ctWord t [a, b] d (fun s =>
    let rcb := (s.reg a).toNat
    let rec_ := (s.reg b).toNat
    if s.cur.replay.isSome then .valueIn d 0 1 1 s
    else if rcb % 128 ≠ 0 then .refuseAt .misaligned (s.reg a) s
    else if rec_ % 8 ≠ 0 then .refuseAt .misaligned (s.reg b) s
    else ctReadable rcb 128 s fun s => ctReadable rec_ 32 s fun s =>
      let f (o : Nat) : Nat := s.unitLe s.cur.part (rec_ + o) 8
      ctReadable (f 0) 128 s fun s => 
        spawnWork d rcb (f 0) (f 8) (f 16) (f 24) n.toNat (s.spawnReads rcb rec_ (f 0)) s) s

/-- JOIN's checks; it then waits for its completion. -/
def execJoin (t : Tok) (d a : BitVec 5) (s : State) : Out :=
  ctWord t [a] d (fun s =>
    let l := s.cur
    let va := (s.reg a).toNat
    if l.replay.isSome then .valueIn d 0 1 1 s
    else if l.ct.wait ≠ .none then .wait s
    else if va % 128 ≠ 0 then .refuseAt .misaligned (s.reg a) s
    else if (s.attached l.part va).isNone || va = l.rcb || !(s.part l.part).below l.rcb va then .refuse .rcbInvalid s
    else .wait { s.ctSent with turn := s.turn ++ [.event (.joinComplete l.id)] }) s

/-- The region a waiting JOIN or KILL names. -/
def State.namedRcb (s : State) : Nat := (s.reg (BitVec.ofNat 5 (nbits s.cur.ct.ir.toNat 34 30))).toNat

/-- The merges of a JOIN, one after another, and its status (12 R294). -/
def joinWork (s : State) : CtRes :=
  let p := s.cur.part
  let va := s.namedRcb
  if s.rcbGet p va 0x0A 2 ≠ 0 then .wait s
  else
    let below := (s.part p).rcbs.filter fun r => (s.part p).below va r.va && r.va ≠ va && s.rcbGet p r.va 9 1 ≠ 0
    let rs := ((s.part p).rcb? va).toList ++ below
    let s := rs.foldl (fun s r => s.acquire .ct (s.vecOf r.vec)) s
    let abn := s.rcbGet p va 0x34 4
    let lat := 128 * rs.length
    let d := BitVec.ofNat 5 (nbits s.cur.ct.ir.toNat 39 35)
    .valueIn d (BitVec.ofNat 64 (abn * 2 ^ 32 + if abn = 0 then 0 else 1)) lat (lat + 1) s

def execJoinComplete (l : Nat) (s : State) : Out := .next (onLease l s (ctEvent 0x47 joinWork))

def execKill (t : Tok) (a : BitVec 5) (s : State) : Out :=
  ctWord t [a] 0 (fun s => .orReplay s <|
    let l := s.cur
    let va := (s.reg a).toNat
    if l.ct.wait ≠ .none then .wait s
    else match s.attach l.part va with
      | none => .refuse .rcbInvalid s
      | some s =>
        if !(s.part l.part).below l.rcb va then .refuse .rcbInvalid s
        else
          let s := killTree l.part va 2 l.aid (some l.task) s
          if (s.lease? l.id).isNone then .left s
          else .wait { s.ctSent with turn := s.turn ++ [.event (.killComplete l.id)] }) s

/-- The executing task ends at once (12 R295). -/
def execKillSelf (t : Tok) (s : State) : Out :=
  ctWord t [] 0 (fun s => .orReplay s (.left (abortDomain s.cur.part s.cur.task 2 0 s.cur.aid s))) s

/-- KILL completes once the subtree has no task left. -/
def execKillComplete (l : Nat) (s : State) : Out :=
  .next (onLease l s (ctEvent 0x48 fun s =>
    if s.tasksBelow s.cur.part s.namedRcb ≠ [] then .wait s else .after 0 s))

/-- Completion events of CTs that wait for regions. -/
def State.regionEvents (s : State) : List Instr :=
  (s.leases.filter fun l => (l.st = .running || l.st = .parked) && l.ct.wait = .sent).filterMap fun l =>
    match opcodeOf l.ct.ir with
    | 0x47 => some (.joinComplete l.id)
    | 0x48 => some (.killComplete l.id)
    | 0x49 => some (.quiesComplete l.id)
    | _ => none

/-- A host's kill of a subtree (12 R298): the region must be attached, and none may be in progress. A halted partition stays as its stop left
it (16 R375): the kill is refused (DESIGN CHOICE, log entry 106). -/
def rcbKill (p va : Nat) (s : State) : State :=
  if (s.part p).pstate ≠ 0 || (s.part p).rcbkBusy || (s.attached p va).isNone then s.onPart p fun q => { q with rcbkErr := true }
  else (killTree p va 4 0xFFC none s).onPart p fun q => { q with rcbkBusy := true, rcbkErr := false }

def execRcbkill (p : Nat) (rcb : BitVec 64) (s : State) : Out := .next (s.vf p (rcbKill p rcb.toNat))

/-- A read of RCBKSTAT clears ERR. -/
def rcbkstatDo (p : Nat) (s : State) : W64 × State :=
  let q := s.part p
  (BitVec.ofNat 64 ((if q.rcbkErr then 2 else 0) + if q.rcbkBusy then 1 else 0), s.setPart p { q with rcbkErr := false })

def execRcbkstatRead (p : Nat) (s : State) : Out :=
  .next (s.vfRead p (rcbkstatDo p))

end Sys2Proof.Machine
end

