-- ==== Sys2Proof/Machine/Swap.lean ====
section
/-! DEFINITION. Swap.lean: pre-emption, saving and restoring of leases as images (16 R378-R387), YIELD (05 R126), and the registers
that ask for them (16 R377). -/

namespace Sys2Proof.Machine

/-! ## Pre-emption (16 R378, R379) -/

/-- CT stands where a save may begin: at a boundary with TE = 1, or arrived at a barrier (16 R369, R379; 10 R247). -/
def State.atSavePoint (s : State) : Bool :=
  let c := s.cur.ct
  c.trapCtl.getLsbD 0 && (s.atBoundary || s.faulted .ct ||
    (c.wdone && c.wait = .sent && opcodeOf c.ir = 0x3E && (s.cur.st = .running || s.cur.st = .parked)))

/-- The lease in focus stops issuing: an ACQ request or an arrival of a shape instruction is withdrawn, a barrier's arrival stays
counted. -/
def beginSave (s : State) : State :=
  if !s.cur.preAsked || !s.atSavePoint || s.cur.frozen then s
  else s.onCur fun l =>
    { l with pre := .draining (l.pre = .byYield),
             ct := { l.ct with wait := if opcodeOf l.ct.ir = 0x3E then l.ct.wait else .none } }

def execPreemption (l : Nat) (s : State) : Out := .next (onLease l s beginSave)

/-- Pre-empts the group of a lease: a chained group is saved whole. -/
def askSave (l : Nat) (p : Pre) (s : State) : State :=
  match s.lease? l with
  | none => s
  | some f =>
    let g := s.groupOf f
    s.mapLeases fun x =>
      if g.contains x.id && (x.st = .running || x.st = .parked) && x.pre = .none && !x.prologue then { x with pre := p } else x

/-! ## YIELD (05 R126) -/

/-- The state as it would be with a group's plots released. -/
def State.without (s : State) (g : List Nat) : State :=
  let ls := g.filterMap s.lease?
  let s := ls.foldl (fun s l => (s.addUp l.part l.rcb 0x0C 2 (· - l.n)).addUp l.part l.rcb 0x0E 2 (· - 1)) s
  (s.mapLeases fun x => if g.contains x.id then { x with st := .saved } else x).retable

/-- The state as it would be with no plots but a group's. -/
def State.onlyPlots (s : State) (g : List Nat) : State :=
  let ls := g.filterMap s.lease?
  let mine (d q : Nat) : Bool := ls.any fun l => l.die = d && l.plots.contains q
  { s with absent := (List.range 8).map fun d => (d, (List.range 16).foldl (fun n q => if mine d q then n else n + 2 ^ q) 0) }

/-- The plots of the place that the allocator finds for a launch. -/
def State.fitPlots (s : State) (x : Launch) : List (Nat × Nat) :=
  match s.fit x with
  | none => []
  | some (shape, d, row, col) =>
    ((groupPlots row col (match x.image with | some l => s.imageOffsets l | none => [(0, 0, shape)])).getD []).map fun q => (d, q)

/-- A launch of equal or higher priority waits that could be granted on the lease's plots: on them alone, or on some of them and plots
that are free. -/
def State.yieldTo (s : State) : Bool :=
  let l := s.cur
  let g := s.groupOf l
  let prio := (s.part l.part).prioOf l.rcb
  let s' := s.without g
  let ls := g.filterMap s.lease?
  let mine (x : Nat × Nat) : Bool := ls.any fun l => l.die = x.1 && l.plots.contains x.2
  ((List.range 8).filter fun k => prio ≤ k).any fun k =>
    (sget [] k s.queues).any fun x =>
      x.part = l.part && (((s.fit x).isNone && (s'.fitPlots x).any mine) || ((s'.onlyPlots g).fit x).isSome)

def execYield (t : Tok) (s : State) : Out :=
  ctWord t [] 0 (fun s => .plain (if s.yieldTo then askSave s.cur.id .byYield s else s)) s

/-! ## Quiescence (16 R379) -/

/-- A command of LD or SD that a save may leave: it moves bytes and stands at a segment's end, is held on a data queue, or cannot go
on. -/
def State.cmdQuiet (s : State) (c : Cmd) : Bool :=
  c.nextReq.isNone && !(s.ratoms.any fun r => r.lease = s.cur.id && r.cmd = c.seq) && !(c.kind = .wltake && c.offset = 1 && c.sent ≠ 1) &&
  ((c.kind.moves && c.offset % 65536 = 0) || s.queueHeld c || c.kind = .job || !s.cmdGoes c)

/-- The array owes no write: its commands have ended or stopped, or it stands still for want of room in a queue, and the save writes what it
owes the accumulator. -/
def Lease.arrayQuiet (l : Lease) : Bool :=
  l.fifoHeld || l.backPressure || (l.rowW.isEmpty && l.rowE.isEmpty && l.arr.all fun a => a.stopped)

/-- The weight load has ended or has saved its progress. -/
def Lease.loadQuiet (l : Lease) : Bool :=
  match l.load with
  | none => true
  | some x => hSpace x.g ≠ spScratch && x.out.isEmpty && x.doneAt.isNone

/-- Every write owed to the lease in focus is done. -/
def State.quiet (s : State) : Bool :=
  let l := s.cur
  l.saving && s.ctDrained && (l.pend.isEmpty || l.backPressure) && (l.cfgQ.isEmpty || l.backPressure) && l.arrayQuiet && l.loadQuiet &&
  l.cmds.all s.cmdQuiet && l.doneQ.isEmpty

/-- An image that has not drained occupies the shadow of a plot (16 R383). -/
def State.shadowBusy (s : State) (die : Nat) (plots : List Nat) : Bool :=
  s.leases.any fun l => l.st = .saved && !l.drained && l.die = die && l.plots.any plots.contains

/-! ## The swap (16 R382) -/

/-- The number of a plot in a lease's lane groups. -/
def Lease.laneOf (l : Lease) (q : Nat) : Option Nat := (List.range l.n).find? fun g => l.plot g = q

/-- The window offset of byte `off` of lane group g's share (08 R189). -/
def Lease.offsetOf (l : Lease) (g off : Nat) : Nat := (off / 512 * l.n + g) * 512 + off % 512

/-- Moves entries of a per-plot map to the lane groups of a lease. -/
def toLanes {α : Type} (l : Lease) (size : Nat) (m : SMap α) : SMap α :=
  m.filterMap fun e =>
    if e.1 / size / 16 = l.die then (l.laneOf (e.1 / size % 16)).map fun g => (g * size + e.1 % size, e.2) else none

/-- The entries of a lease's saved map as they stand on its plots. -/
def toPlots {α : Type} (l : Lease) (size : Nat) (m : SMap α) : SMap α :=
  m.map fun e => ((l.die * 16 + l.plot (e.1 / size)) * size + e.1 % size, e.2)

/-- The same place in the live plane and in the shadow plane, for a place of one of the plots of lease l (08 R191). -/
def Lease.flipKey (l : Lease) (k : Nat) : Option Nat :=
  let here := k % 2 ^ 48 / 2 ^ 23 / 16 = l.die && l.plots.contains (k % 2 ^ 48 / 2 ^ 23 % 16)
  if here && k / 2 ^ 48 = 2 then some (k + 2 ^ 48) else if here && k / 2 ^ 48 = 3 then some (k - 2 ^ 48) else none

/-- The live and shadow planes of the plots of lease l exchange roles, with their metadata (16 R382). -/
def State.flipPlanes (s : State) (l : Lease) : State :=
  let old := s.mem.filter fun c => (l.flipKey c.1).isNone
  let moved := s.mem.filterMap fun c => (l.flipKey c.1).map fun k => (k, c.2)
  let oldM := s.gmeta.filter fun c => (l.flipKey (64 * c.1)).isNone
  let movedM := s.gmeta.filterMap fun c => (l.flipKey (64 * c.1)).map fun k => (k / 64, c.2)
  { s with mem := moved.foldl (fun m c => writeByte m c.1 c.2) old, gmeta := movedM.foldl (fun m c => sset 0 c.1 c.2 m) oldM,
           badGran := s.badGran.map fun g => ((l.flipKey (64 * g)).map (· / 64)).getD g }

/-- The window offset of a place in the shadow planes of the plots of lease l. -/
def Lease.shadowOffset (l : Lease) (k : Nat) : Option Nat :=
  if k / 2 ^ 48 = 3 && k % 2 ^ 48 / 2 ^ 23 / 16 = l.die && k % 2 ^ 23 < l.scratch * 2 ^ 20 then
    (l.laneOf (k % 2 ^ 48 / 2 ^ 23 % 16)).map fun g => l.offsetOf g (k % 2 ^ 23)
  else none

/-- The shadow planes of the plots of lease l hold nothing. -/
def State.clearShadow (s : State) (l : Lease) : State :=
  let shadow (k : Nat) : Bool := k / 2 ^ 48 = 3 && (l.flipKey k).isSome
  { s with mem := s.mem.filter (fun c => !shadow c.1), gmeta := s.gmeta.filter (fun c => !shadow (64 * c.1)) }

/-- Saves the plots' contents of the lease in focus: the window in the shadow planes, the registers in the shadow store. -/
def savePlots (s : State) : State :=
  let l := s.cur
  let l' : Lease := { l with savedVecs := toLanes l 256 s.vfile, savedAcc := toLanes l 512 s.accs, savedInt := toLanes l 512 s.accInt }
  (({ s with cur := l' }).flipPlanes l).clearPlots l

/-- The first granule of the saved lease's window in the shadow planes that has an uncorrectable error. -/
def State.badShadow (s : State) (l : Lease) : Option Nat := s.badGran.find? fun g => (l.shadowOffset (64 * g)).isSome

/-- The window of the saved lease in focus leaves the shadow planes (16 R383). -/
def drainWindow (s : State) : State :=
  let l := s.cur
  let wins := s.mem.filterMap fun c => (l.shadowOffset c.1).map fun x => (x, c.2)
  let metas := s.gmeta.filterMap fun c => (l.shadowOffset (64 * c.1)).map fun x => (x / 64, c.2)
  (s.onCur fun l =>
    { l with savedWin := wins.foldl (fun m c => writeByte m c.1 c.2) [],
             savedMeta := metas.foldl (fun m c => sset 0 c.1 c.2 m) [] }).clearShadow l

/-- The group has no lease that still owes a write or whose plots a drain occupies. -/
def State.groupQuiet (s : State) (g : List Nat) : Bool :=
  g.all fun i => (s.focus i).quiet && !s.shadowBusy (s.focus i).cur.die (s.focus i).cur.plots

/-- KiB of a parcel's sections CT, Rings, Engines, Queues and Array, whose sizes are open (16 R385; log entry 24). -/
def Lease.fixedKib (l : Lease) : Nat := 2 + Config.sectionKib l.n l.accrows

/-- Registers and rows that a lane group's part of an image holds (16 R385). -/
def Lease.laneRows (l : Lease) : Nat := l.vregs + 12 + l.accrows

/-- KiB of a group's image (16 R384, R385): the sections Lane groups and Window stand last. -/
def Lease.sections (l : Lease) : Nat := l.fixedKib + (l.n * l.laneRows + 1) / 2 + l.n * l.scratch * 1152
def State.imageKib (s : State) (g : List Nat) : Nat := ((g.filterMap s.lease?).map Lease.sections).foldl (· + ·) 1

/-- Results that only a full queue holds up are written, and SELK runs to its end (16 R379). -/
def finishHeld (s : State) : State :=
  let s := s.cur.pend.foldl State.finishPend s
  let s := s.cur.cfgQ.foldl finishCfg s
  let s := if s.cur.rowW.isEmpty then s else finishRows s
  s.onCur fun l => { l with pend := [], cfgQ := [] }

/-- Every parcel of a group is saved: plots and budgets are released and the counter stops. Its unfinished cards get their RESUME, at the
ends of their segments (09 R218, R231, R232). -/
def saveGroup (g : List Nat) (s : State) : State :=
  match g.head?.bind s.lease? with
  | none => s
  | some f =>
    let yielded := f.pre = .draining true
    let kib := s.imageKib g
    let s := g.foldl (fun s i => asLease i s fun s =>
      let l := s.cur
      let s := (s.addUp l.part l.rcb 0x0C 2 (· - l.n)).addUp l.part l.rcb 0x0E 2 (· - 1)
      (savePlots (finishHeld s.writeResumes)).onCur fun l =>
        { l with st := .saved, pre := .none, drained := false, yielded := yielded, queued := yielded, imgKib := kib, sweptGens := [] }) s
    let s := s.onPart f.part fun q => { q with ctxCount := q.ctxCount + if yielded then 0 else 1 }
    let s := if !yielded then s
      else s.enqueue ((s.part f.part).prioOf f.rcb)
        { part := f.part, task := f.task, rcb := f.rcb, kernel := f.kernel, args := 0, image := some f.id }
    s.retable.settleAbsent

/-- A save reads every register: the groups' leases after repairs, or the halt that an uncorrectable error raises (04 R96). -/
def readAll : List Nat → State → Except State State
  | [], s => .ok s
  | i :: r, s =>
    let old := s.cur.id
    match (s.focus i).readRegs .ct ((s.focus i).cur.ct.bad.map fun b => (b.file, b.reg)) with
    | .ok s => readAll r (s.focus old)
    | .error s => .error (s.focus old)

/-- Quiescence of lease l's group: the save takes place. -/
def contextSave (s : State) : State :=
  let g := s.groupOf s.cur
  if s.cur.frozen || !s.groupQuiet g then s
  else match readAll g s with
    | .ok s => saveGroup g s
    | .error s => s

def execContextSave (l : Nat) (s : State) : Out := .next (onLease l s contextSave)

/-! ## The image pool (16 R383, R384) -/

/-- Entry PARCEL p of an image header: x's offsets from the first parcel f. -/
def parcelEntry (sect : Nat) (f x : Lease) : Nat :=
  sect * 2 ^ 32 + x.aid * 2 ^ 16 + (if x.chout.isSome then 2 ^ 15 else 0) + (if x.chin.isSome then 2 ^ 14 else 0) +
    (x.col + 8 - f.col) % 8 * 2 ^ 11 + (x.row + 8 - f.row) % 8 * 2 ^ 8 + (if x.ori then 16 else 0) + x.shape

/-- Section offsets of a group's parcels, in KiB. -/
def sectOffsets : Nat → List Lease → List (Nat × Lease)
  | _, [] => []
  | k, l :: r => (k, l) :: sectOffsets (k + l.sections) r

/-- The first 252 bytes of an image header. -/
def imageHead (f : Lease) (ls : List Lease) (flags kib : Nat) : List Byte :=
  let es := (sectOffsets 1 ls).map fun e => (parcelEntry e.1 f e.2, 8)
  packLe ([(0x58434748, 4), (0x0100, 2), (ls.length, 1), (flags, 1), (f.part, 1), (f.race, 1), (f.ct.vcmode.toNat % 2, 1), (0, 1), (kib, 4),
    (f.vc, 8), (f.kernelId, 8), (f.rcb, 8), (f.kernel, 8), (0, 16)] ++ es ++ List.replicate (16 - es.length) (0, 8) ++ [(0, 60)])

/-- The lease has fault-queue entries that are not resolved. -/
def State.hasFaults (s : State) (l : Nat) : Bool :=
  let q := s.part ((s.lease? l).map (·.part) |>.getD 0)
  (q.faultWait ++ q.faultOpen).any fun e => e.lease = l

/-- An image header with its CHECK; the second flag marks a stop dump. -/
def State.imageHeader (s : State) (g : List Nat) (dump : Bool) : List Byte :=
  let ls := g.filterMap s.lease?
  match ls with
  | [] => []
  | f :: _ =>
    let flags := (if g.any s.hasFaults then 1 else 0) + (if dump then 2 else 0) + (if f.yielded then 4 else 0)
    let b := imageHead f ls flags (s.imageKib g)
    b ++ leBytes (crc32 b) 4

/-- The first MiB of the pool from which n MiB are free. -/
def State.poolRoom (s : State) (p n : Nat) : Option Nat :=
  let q := s.part p
  let used := s.leases.filterMap fun l => if l.part = p then l.imgAt.map fun a => (a, (l.imgKib + 1023) / 1024) else none
  (List.range (q.imgLen.toNat + 1)).find? fun a => a + n ≤ q.imgLen.toNat && used.all fun u => a + n ≤ u.1 || u.1 + u.2 ≤ a

/-- Bytes whose values the spec does not give: those of sections whose layout it leaves out. -/
def State.freeBytes (s : State) : Nat → List Byte × State
  | 0 => ([], s)
  | n + 1 =>
    let (k, s) := s.nextFree
    let (r, s) := s.freeBytes n
    (Config.freeByte k :: r, s)

/-- The footprint table of a lease (09 R213): an entry in use for each memory command in flight, the others zero. -/
def Lease.footprints (l : Lease) : List Byte :=
  let es := (l.cmds.filter Cmd.inTable).map fun c => c.fpEntry (l.aidOf c.stream)
  es.flatten ++ List.replicate (512 - 32 * es.length) 0

/-- The byte of a parcel's sections at which its footprint table stands, after CT's first fields (DESIGN CHOICE, log entry 24). -/
def Lease.footprintAt (l : Lease) : Nat := 832 + 64 * (Config.footprintLine l.n l.accrows % (16 * l.fixedKib - 20))

/-- The first fields of section CT: the resume point, s1 to s31, the shadow registers and h0 to h15, each in its own width (16 R385;
DEDUCED, log entry 24). -/
def Lease.ctFields (l : Lease) : List Byte :=
  packLe ((l.ct.resume.toNat, 8) :: ((List.range 31).map fun k => ((sget 0 (k + 1) l.ct.sregs).toNat, 8)) ++
    ((List.range 8).map fun k => ((sget 0 (k + 24) l.ct.shadow).toNat, 8)) ++ (List.range 16).map fun k => ((l.ct.handle k).toNat, 32))

/-- The designators of the registers that a lane group saves, in their order (16 R385). -/
def Lease.savedRegs (l : Lease) : List Nat :=
  List.range l.vregs ++ (List.range 8).map (fun k => 64 + k) ++ (List.range 4).map fun k => 128 + k

/-- Keys of the rows of section Lane groups, in their order: registers, and rows of the banks. -/
def Lease.laneKeys (l : Lease) : List (Bool × Nat) :=
  (List.range l.n).flatMap fun g =>
    (l.savedRegs.map fun d => (true, g * 256 + d)) ++ (List.range l.accrows).map fun r => (false, g * 512 + r)

/-- Sections Lane groups and Window of a saved lease: the window's bytes by offset and then its metadata by granule (16 R385; DEDUCED,
log entry 24). -/
def Lease.tailBytes (l : Lease) : List Byte :=
  (l.laneKeys.flatMap fun k => lanesBytes (sget zeroLanes k.2 (if k.1 then l.savedVecs else l.savedAcc))) ++
  List.replicate (l.n * l.laneRows % 2 * 512) 0 ++ readBytes l.savedWin 0 (l.n * l.scratch * 2 ^ 20) ++
  (List.range (l.n * l.scratch * 2 ^ 14)).flatMap fun g => leBytes (sget 0 g l.savedMeta).toNat 8

/-- The byte at which section Window of a parcel's sections begins. -/
def Lease.windowAt (l : Lease) : Nat := 1024 * (l.fixedKib + (l.n * l.laneRows + 1) / 2)

/-- Writes the sections of saved lease l that the spec lays out, its sections beginning at address a. -/
def State.writeSections (s : State) (a : Nat) (l : Lease) : State :=
  let s := s.unitWrite l.part a l.ctFields
  let s := s.unitWrite l.part (a + l.footprintAt) l.footprints
  s.unitWrite l.part (a + 1024 * l.fixedKib) l.tailBytes

/-- A saved lease with these contents: registers and rows, the window with its metadata, s1 to s31, the shadow registers and handles. -/
def Lease.takes (l : Lease) (vecs accs : SMap Lanes) (win : Memory) (metas : SMap W64) (sregs shadow : SMap W64)
    (handles : SMap Handle) : Lease :=
  { l with savedVecs := vecs, savedAcc := accs, savedWin := win, savedMeta := metas,
           ct := { l.ct with sregs := sregs, shadow := shadow, handles := handles } }

/-- Saved lease l with what the sections at address a now hold (16 R383, R385). -/
def State.readSections (s : State) (a : Nat) (l : Lease) : Lease :=
  let b := s.unitRead l.part a 832
  let at8 (off k : Nat) : W64 := BitVec.ofNat 64 (recLe b (off + 8 * k) 8)
  let row (k : Nat) : Lanes := bytesLanes 128 (s.unitRead l.part (a + 1024 * l.fixedKib + 512 * k) 512)
  let rows (main : Bool) : SMap Lanes :=
    (l.laneKeys.mapIdx fun i k => (i, k)).foldl (fun m x => if x.2.1 = main then sset zeroLanes x.2.2 (row x.1) m else m) []
  let w := s.unitRead l.part (a + l.windowAt) (l.n * l.scratch * 2 ^ 20)
  let metas := s.unitRead l.part (a + l.windowAt + l.n * l.scratch * 2 ^ 20) (l.n * l.scratch * 2 ^ 17)
  (if at8 0 0 = l.ct.resume then l else l.resumeAt (at8 0 0)).takes (rows true) (rows false) (writeBytes [] 0 w)
    ((List.range (l.n * l.scratch * 2 ^ 14)).foldl (fun m g => sset 0 g (BitVec.ofNat 64 (recLe metas (8 * g) 8)) m) [])
    ((List.range 31).foldl (fun m k => sset 0 (k + 1) (at8 8 k) m) [])
    ((List.range 8).foldl (fun m k => sset 0 (k + 24) (at8 256 k) m) [])
    ((List.range 16).foldl (fun m k => sset 0 k (hMask (BitVec.ofNat 256 (recLe b (320 + 32 * k) 32))) m) [])

/-- The image whose first parcel is in focus drains to the pool, when there is room. Bytes of its sections that the spec does not
lay out are open (log entry 24). -/
def drainImage (s : State) : State :=
  let l := s.cur
  if l.st ≠ .saved || l.drained || (s.part l.part).pstate ≠ 0 then s
  else
    let g := s.groupOf l
    match s.poolRoom l.part ((l.imgKib + 1023) / 1024), (g.filterMap s.lease?).findSome? s.badShadow with
    | _, some _ => s.haltLine l.part .uncorrectable { cause := .uncorrectable, engine := 5, die := l.die, loc := l.loc, kernelId := l.kernelId }
    | none, _ => s.onPart l.part fun q => { q with ctxResult := 4 }
    | some a, none =>
      let base := (s.part l.part).imgBase.toNat + a * 2 ^ 20
      let s := g.foldl (fun s i => asLease i s drainWindow) s
      let (bs, s) := s.freeBytes (l.imgKib * 1024 - 256)
      let s := s.unitWrite l.part base (s.imageHeader g false ++ bs)
      let s := (sectOffsets 1 (g.filterMap s.lease?)).foldl (fun s x => s.writeSections (base + 1024 * x.1) x.2) s
      let s := s.mapLeases fun x => if g.contains x.id then { x with drained := true, imgAt := if x.id = l.id then some a else none } else x
      s.onPart l.part fun q => { q with ctxResult := if q.ctxResult = 4 then 1 else q.ctxResult }

def execImageDrain (l : Nat) (s : State) : Out := .next (onLease l s drainImage)

/-! ## Restore (16 R386, R387) -/

/-- The saved contents of the lease in focus are put onto its plots, the window in their live planes or their shadow planes. -/
def putPlots (shadow : Bool) (s : State) : State :=
  let l := s.cur
  let up := if shadow then 2 ^ 48 else 0
  let put (m : SMap Lanes) (e : Nat × Lanes) : SMap Lanes := sset zeroLanes e.1 e.2 m
  let kinds := (toPlots l 512 l.savedInt).foldl (fun (m : SMap Bool) (e : Nat × Bool) => sset false e.1 e.2 m) s.accInt
  let mem := l.savedWin.foldl (fun (m : Memory) (c : Nat × Byte) => writeByte m (l.winKey c.1 + up) c.2) s.mem
  let metas := l.savedMeta.foldl (fun (m : SMap W64) (c : Nat × W64) => sset 0 ((l.winKey (64 * c.1) + up) / 64) c.2 m) s.gmeta
  { s with vfile := (toPlots l 256 l.savedVecs).foldl put s.vfile, accs := (toPlots l 512 l.savedAcc).foldl put s.accs,
           accInt := kinds, mem := mem, gmeta := metas }

/-- Nothing of the lease's plots is kept apart from them. -/
def Lease.noSaved (l : Lease) : Lease := { l with savedVecs := [], savedAcc := [], savedInt := [], savedWin := [], savedMeta := [] }

/-- The lease in focus stands on its new plots with its saved contents: the window is staged in their shadow planes and goes live
(08 R191, 16 R382, R383). -/
def loadPlots (s : State) : State :=
  let l := s.cur
  ((putPlots true ((s.clearPlots l).clearShadow l)).flipPlanes l).onCur Lease.noSaved

/-- An array command that a save stopped goes on. -/
def ArrCmd.resume (a : ArrCmd) (now : Nat) : ArrCmd :=
  if a.stopped then { a with stopped := false, t := if a.kind = .bs then now else a.t } else a

/-- Window metadata whose recorded generation a sweep has settled since the drain is settled (10 R248). -/
def Lease.swept (l : Lease) : Lease :=
  { l with savedMeta := l.savedMeta.filter fun m => !l.sweptGens.contains (Meta.ofWord m.2).gen, sweptGens := [] }

/-- Parcel l of the group of parcels ls as its image in the pool holds it, the image of f; one with no image there as it was saved. -/
def State.staged (s : State) (f : Lease) (ls : List Lease) (l : Lease) : Lease :=
  match f.imgAt, (sectOffsets 1 ls).find? fun x => x.2.id = l.id with
  | some a, some x => (s.readSections ((s.part f.part).imgBase.toNat + a * 2 ^ 20 + 1024 * x.1) l).swept
  | _, _ => l

/-- Places the parcels of a group and lets them run, or stay parked with unresolved faults. -/
def restoreGroup (g : List Nat) (die row col : Nat) (s : State) : State :=
  match g.head?.bind s.lease? with
  | none => s
  | some f =>
    let ls := g.filterMap s.lease?
    let s := g.foldl (fun s i => asLease i s fun s =>
      let faults := s.hasFaults i
      let s := if s.cur.drained then s.onCur (s.staged f ls) else drainWindow s
      let s := s.onCur fun l =>
        { l with die := die, row := row + l.row - f.row, col := col + l.col - f.col, st := if faults then .parked else .running,
                 pre := .none, drained := false, yielded := false, queued := false, imgAt := none, arr := l.arr.map fun a => a.resume l.avc }
      let l := s.cur
      let s := s.onCur fun l => { (if l.ct.wait = .sent then l else l.resumeAt l.ct.resume) with icache := [], kcache := [], kfetch := none }
      let s := s.onCt fun c => { c with nextMc := s.datum }
      let s := (s.addUp l.part l.rcb 0x0C 2 (· + l.n)).addUp l.part l.rcb 0x0E 2 (· + 1)
      (loadPlots s).onPart l.part fun q => { q with places := sset 0 (l.aid / 4) die q.places }) s
    s.retable

/-- The queued image whose first parcel is lease l is placed, when the allocator serves it next and its plots' shadows are free. -/
def restoreNext (l : Nat) (s : State) : State :=
  match s.candidate with
  | none => s
  | some (x, (_, die, row, col)) =>
    if x.image ≠ some l then s
    else match groupPlots row col (s.imageOffsets l), s.lease? l with
      | some ps, some f => if s.shadowBusy die ps then s else restoreGroup (s.groupOf f) die row col (s.takeLaunch x)
      | _, _ => s

def execImageRestore (l : Nat) (s : State) : Out := .next (restoreNext l s)

/-- The header of a drained image still holds: MAGIC, VERSION and CHECK. -/
def State.imageOk (s : State) (f : Lease) : Bool :=
  match f.imgAt with
  | none => true
  | some a =>
    let b := s.unitRead f.part ((s.part f.part).imgBase.toNat + a * 2 ^ 20) 256
    recLe b 0 4 = 0x58434748 && recLe b 4 2 = 0x0100 && recLe b 0xFC 4 = crc32 (b.take 252)

/-- Some place of some die's unit map holds the group. -/
def State.mapFits (s : State) (g : Offsets) : Bool :=
  (List.range 8).any fun d => (List.range 16).any fun q =>
    match groupPlots (q / 4) (q % 4) g with
    | none => false
    | some ps => ps.all fun k => nbits (sget 0 d s.absent) k k = 0

/-- The images of a subtree that wait for a RESTORE, by their first parcels. -/
def State.savedBelow (s : State) (p va : Nat) : List Lease :=
  s.leases.filter fun l => l.part = p && l.st = .saved && !l.queued && l.chin.isNone && (s.part p).below va l.rcb

/-- Queues one image; the request's result so far, the worst of 5, 3, 2 and 1 (DEDUCED, log entry 25). -/
def queueImage (r : Nat) (f : Lease) (s : State) : Nat × State :=
  let worse (a b : Nat) : Nat := if b = 5 || (b = 3 && a ≠ 5) || (b = 2 && a = 1) then b else a
  if !s.imageOk f then (worse r 5, s)
  else if !s.mapFits (s.imageOffsets f.id) then (worse r 3, s)
  else
    let x : Launch := { part := f.part, task := f.task, rcb := f.rcb, kernel := f.kernel, args := 0, image := some f.id }
    let free := (s.fit x).isSome
    let s := s.enqueue ((s.part f.part).prioOf f.rcb) x
    let g := s.groupOf f
    let s := s.mapLeases fun y => if g.contains y.id then { y with queued := true } else y
    (worse r (if free then 1 else 2), s.onPart f.part fun q => { q with ctxCount := q.ctxCount + 1 })

/-- The partition drops a request (16 R377). -/
def State.ctxDrop (s : State) (p : Nat) : State := s.onPart p fun q => { q with ctxResult := 6 }

/-- A RESTORE write. That of a halted partition, whose images stay as its stop left them (16 R375), is dropped (DESIGN CHOICE, log
entry 106). -/
def restoreDo (p va : Nat) (s : State) : State :=
  if (s.part p).pstate ≠ 0 || (s.part p).ctxBusy || (s.attached p va).isNone then s.ctxDrop p
  else
    let fs := s.savedBelow p va
    let (r, s) := fs.foldl (fun x f => queueImage x.1 f x.2) (1, s.onPart p fun q => { q with ctxCount := 0 })
    s.onPart p fun q => { q with ctxResult := r }

def execRestoreWrite (p : Nat) (rcb : BitVec 64) (s : State) : Out := .next (s.vf p (restoreDo p rcb.toNat))

/-- Every RUNNING or PARKED lease of the subtree is asked to save (16 R378). -/
def preemptDo (p va : Nat) (s : State) : State :=
  if (s.part p).ctxBusy || (s.attached p va).isNone then s.ctxDrop p
  else
    let ls := s.leases.filter fun l => l.part = p && (l.st = .running || l.st = .parked) && !l.prologue && (s.part p).below va l.rcb
    let s := ls.foldl (fun s l => askSave l.id .byWrite s) s
    s.onPart p fun q => { q with ctxBusy := true, ctxCount := 0, ctxResult := 1 }

def execPreemptWrite (p : Nat) (rcb : BitVec 64) (s : State) : Out := .next (s.vf p (preemptDo p rcb.toNat))

/-- BUSY clears when no lease has a PREEMPT request left, with vector 5 (17 R390). -/
def State.settleCtx (s : State) (p : Nat) : State :=
  if (s.part p).ctxBusy && !(s.leases.any fun l => l.part = p && (l.pre = .byWrite || l.pre = .draining false)) then
    { s.onPart p fun q => { q with ctxBusy := false } with out := s.out ++ [.msix p 5] }
  else s

/-- Saves, drains and restores that fall due. -/
def State.swapEvents (s : State) : List Instr :=
  (s.leases.flatMap fun l =>
    let live := l.st = .running || l.st = .parked
    (if live && l.preAsked then [Instr.preemption l.id] else []) ++
    (if live && l.saving && l.chin.isNone then [Instr.contextSave l.id] else []) ++
    (if l.st = .saved && !l.drained && l.chin.isNone then [Instr.imageDrain l.id] else [])) ++
  (match s.candidate with
    | some (x, _) => (match x.image with | some l => [Instr.imageRestore l] | none => [Instr.leaseGrant])
    | none => [])

end Sys2Proof.Machine
end

