-- ==== Sys2Proof/Machine/Shapes.lean ====
section
/-! DEFINITION. Shapes.lean: the shape instructions and their changes (01 R11-R15; 12 R302-R310; 19 R409, R410). -/

namespace Sys2Proof.Machine

/-! ## What the shape instructions share (12 R303) -/

def Lease.chained (l : Lease) : Bool := l.chin.isSome || l.chout.isSome
def Lease.live (l : Lease) : Bool := l.st = .running || l.st = .parked

/-- The drain of SPLIT, FUSE and ORIENT; CT's own requests have come back too (DEDUCED, log entry 44). -/
def State.shapeDrained (s : State) : Bool :=
  let l := s.cur
  l.ringsIdle s.datum && l.ld.retry.isNone && l.cp.retry.isNone && l.sd.retry.isNone && s.ctDrained

/-- The queue check: data queues, return queue and outcome queues are empty. -/
def Lease.queuesEmpty (l : Lease) : Bool := l.dqIn.isEmpty && l.dqOut.isEmpty && l.sret.isEmpty && l.oq.isEmpty

/-- CT waits for its change, n mc from now. -/
def State.changeIn (s : State) (n : Nat) : State := s.onCt fun c => { c with wait := .change (s.datum + n) }

/-- Steps 1 to 5 of 12 R303 for SPLIT, FUSE and ORIENT, then f. -/
def shapeCheck (geometry accOk : Bool) (f : State → CtRes) (s : State) : CtRes :=
  if s.cur.ct.wait ≠ .none then .wait s
  else if s.cur.chained || !geometry then .refuse .shapeInvalid s
  else if !accOk then .refuse .illegalOperand s
  else if !s.shapeDrained then .wait s
  else if !s.cur.queuesEmpty then .refuse .illegalOperand s
  else f s

/-- Clear: +0 in every granted row of the banks of the lease's plots. -/
def State.clearAcc (s : State) (l : Lease) : State :=
  let rows (k : Nat) : Bool := l.plots.any fun q => k / 512 = l.die * 16 + q
  { s with accs := s.accs.filter (fun c => !rows c.1), accInt := s.accInt.filter (fun c => !rows c.1) }

/-- A parcel of a new shape: weight buffers emptied, output chain reset (07 R164). -/
def Lease.reshape (l : Lease) (row col shape : Nat) (ori : Bool) : Lease :=
  { l with row := row, col := col, shape := shape, ori := ori, wact := {}, wshd := {}, cfg := {} }

/-- SHAPE, ORI and ACC of a shape word, and its signed offsets (02 R45). -/
def irShape (w : W64) : Nat := nbits w.toNat 9 6
def irOri (w : W64) : Bool := eBit w 5
def irAcc (w : W64) : Nat := nbits w.toNat 4 2
def irDy (w : W64) : Int := sint 3 (nbits w.toNat 15 13)
def irDx (w : W64) : Int := sint 3 (nbits w.toNat 12 10)

/-- The top-left plot that a shape word of lease l names; none off the grid (02 R41). -/
def Lease.names (l : Lease) : Option (Nat × Nat) :=
  let y := (l.row : Int) + irDy l.ct.ir
  let x := (l.col : Int) + irDx l.ct.ir
  if y < 0 || 3 < y || x < 0 || 3 < x then none else some (y.toNat, x.toNat)

/-- A change falls due: the word of the lease in focus completes, unless its group stands stopped (15 R355). -/
def changeEvent (op : Nat) (f : State → State) (s : State) : State :=
  match s.cur.ct.wait with
  | .change at_ => if s.datum < at_ || s.cur.frozen then s else ctEvent op (fun s => .after 0 (f s)) s
  | _ => s

/-! ## SPLIT (12 R304) -/

/-- SHAPE divides the parcel in height and width and is smaller. -/
def splitOk (l : Lease) (sh : Nat) : Bool :=
  shapeRows l.shape % shapeRows sh = 0 && shapeCols l.shape % shapeCols sh = 0 && shapePlots sh < l.n

/-- The free AID groups in rising order. -/
def Partition.freeGroups (q : Partition) : List Nat := (List.range 1023).filter fun g => !q.aidUsed.contains g && !q.aidQuar.contains g

/-- The leases that a SPLIT adds. -/
def splitMore (l : Lease) (sh : Nat) : Nat := l.n / shapePlots sh - 1

/-- The lease in focus takes AID groups for the parts to come. -/
def State.reserveAids (s : State) (gs : List Nat) : State :=
  (s.onPart s.cur.part fun q => { q with aidUsed := q.aidUsed ++ gs }).onCur fun l => { l with splitAids := gs }

def execSplit (t : Tok) (shape : BitVec 4) (_ori : BitVec 1) (acc : BitVec 3) (s : State) : Out :=
  ctWord t [] 0 (fun s =>
    shapeCheck (splitOk s.cur shape.toNat) (acc.toNat ≠ 2) (fun s =>
      let l := s.cur
      let k := splitMore l shape.toNat
      if !s.limitsOk l.part l.rcb 0 k || (s.part l.part).freeGroups.length < k then .refuse .leaseLimit s
      else .wait ((s.reserveAids ((s.part l.part).freeGroups.take k)).changeIn 224)) s) s

/-- The rings of a part, placed anew from window offset 0 (11 R262). -/
def Lease.newRings (l : Lease) : Lease :=
  let a := l.ld.ring.slots
  let b := l.cp.ring.slots
  { l with ld := { ring := { base := 0, slots := a } }, cp := { ring := { base := 8 * a, slots := b } },
           sd := { ring := { base := 8 * (a + b), slots := l.sd.ring.slots } } }

/-- A part other than the first. -/
def splitPart (l : Lease) (id g row col sh : Nat) (ori : Bool) (now : Nat) : Lease :=
  let ct : Ct :=
    { l.ct with pc := l.ct.pc + 8, accd := false, wdone := false, idx := 0, wait := .none, ir := 0, cerr := 0, bad := [], ready := [], nextMc := now + 1 }
  let x : Lease :=
    { id := id, part := l.part, aid := 4 * g, task := l.task, rcb := l.rcb, kernel := l.kernel, kernelId := l.kernelId, st := .running,
      origin := l.origin, die := l.die, row := row, col := col, shape := sh, ori := ori, vregs := l.vregs, accrows := l.accrows,
      scratch := l.scratch, xoptab := l.xoptab, loader := l.loader, traph := l.traph, codesize := l.codesize, code := l.code,
      brkCode := l.brkCode, race := l.race, ct := ct, ld := l.ld, cp := l.cp, sd := l.sd, vc := l.vc, cb := l.cb, xop := l.xop }
  x.newRings

/-- The top-left plots of the parts, the first part's first. -/
def splitCorners (l : Lease) (sh : Nat) : List (Nat × Nat) :=
  (List.range (l.n / shapePlots sh)).map fun k =>
    let c := shapeCols l.shape / shapeCols sh
    (l.row + k / c * shapeRows sh, l.col + k % c * shapeCols sh)

/-- One part more, at corner c with AID group g: its lease, the merged vector, and its share of the budget. -/
def addPart (l : Lease) (v : Vec) (sh : Nat) (ori : Bool) (s : State) (c : (Nat × Nat) × Nat) : State :=
  let g := c.2
  let x := splitPart l s.nextLease g c.1.1 c.1.2 sh ori s.datum
  let s := (s.startAgents l.part g v).onPart l.part fun q => { q with places := sset 0 g l.die q.places }
  let s := { s.addLease x with nextLease := s.nextLease + 1 }
  (s.onTask l.part l.task fun t => { t with leases := t.leases + 1 }).addUp l.part l.rcb 0x0E 2 (· + 1)

/-- The split of the lease in focus. -/
def applySplit (s : State) : State :=
  let l := s.cur
  let sh := irShape l.ct.ir
  let ori := irOri l.ct.ir
  let (v, s) := s.releaseAll
  let s := if irAcc l.ct.ir = 3 then s.clearAcc l else s
  let s := ((splitCorners l sh).tail.zip l.splitAids).foldl (addPart l v sh ori) s
  ((s.acquireAll v).onCur fun l => { (l.reshape l.row l.col sh ori).newRings with splitAids := [] }).retable

def execSplitChange (l : Nat) (s : State) : Out := .next (onLease l s (changeEvent 0x41 applySplit))

/-! ## ORIENT (12 R307) -/

def execOrient (t : Tok) (_ori : BitVec 1) (acc : BitVec 3) (s : State) : Out :=
  ctWord t [] 0 (fun s => shapeCheck true (acc.toNat = 0 || acc.toNat = 3) (fun s => .wait (s.changeIn 32)) s) s

def applyOrient (s : State) : State :=
  let l := s.cur
  let s := if irAcc l.ct.ir = 3 then s.clearAcc l else s
  (s.onCur fun l => l.reshape l.row l.col l.shape (irOri l.ct.ir)).retable

def execOrientChange (l : Nat) (s : State) : Out := .next (onLease l s (changeEvent 0x45 applyOrient))

/-! ## FUSE (12 R305) -/

/-- A rectangle of a die: top-left plot and shape. -/
structure Rect where
  die : Nat
  row : Nat
  col : Nat
  shape : Nat
  deriving DecidableEq, Repr

def Rect.plots (r : Rect) : List Nat :=
  (List.range (shapePlots r.shape)).map fun g => (r.row + g / shapeCols r.shape) * 4 + r.col + g % shapeCols r.shape

/-- The rectangle that the FUSE of lease l names. -/
def Lease.fuseRect (l : Lease) : Option Rect := l.names.map fun x => { die := l.die, row := x.1, col := x.2, shape := irShape l.ct.ir }

/-- The leases whose parcels lie in the rectangle. -/
def State.inRect (s : State) (r : Rect) : List Lease :=
  s.leases.filter fun l => l.holdsPlots && l.die = r.die && l.plots.any r.plots.contains

/-- The geometry checks of FUSE. -/
def State.fuseOk (s : State) (r : Rect) : Bool :=
  let l := s.cur
  let ls := s.inRect r
  parcelOk r.shape r.row r.col && l.plots.all r.plots.contains &&
  r.plots.all (fun q => ls.any fun x => x.plots.contains q) &&
  ls.all fun x => x.part = l.part && x.task = l.task && x.live && !x.chained && x.plots.all r.plots.contains

/-- Waiting arrivals of the task at FUSEs. -/
def State.fuseArrivals (s : State) : List Lease :=
  let l := s.cur
  s.leases.filter fun x => x.part = l.part && x.task = l.task && x.id ≠ l.id && x.live && x.ct.wait = .sent && x.ct.trapDue.isNone && opcodeOf x.ct.ir = 0x42

/-- The arrival of the lease in focus would clash with one that waits. -/
def State.fuseClash (s : State) (r : Rect) : Bool :=
  let w := s.cur.ct.ir
  s.fuseArrivals.any fun x =>
    match x.fuseRect with
    | none => false
    | some y => if y = r then irOri x.ct.ir ≠ irOri w || irAcc x.ct.ir ≠ irAcc w else y.die = r.die && y.plots.any r.plots.contains

/-- The lease in focus arrives; with the last arrival the change is under way for every participant. -/
def fuseArrive (r : Rect) (s : State) : State :=
  let s := s.ctSent
  let ls := s.inRect r
  let due := s.datum + 224
  if ls.all fun x => x.ct.wait = .sent && opcodeOf x.ct.ir = 0x42 && x.fuseRect = some r then
    s.mapLeases fun x => if ls.any (fun y => y.id = x.id) then { x with ct := { x.ct with wait := .change due } } else x
  else s

def execFuse (t : Tok) (_dy _dx : BitVec 3) (_shape : BitVec 4) (_ori : BitVec 1) (acc : BitVec 3) (s : State) : Out :=
  ctWord t [] 0 (fun s =>
    match s.cur.fuseRect with
    | none => if s.cur.ct.wait ≠ .none then .wait s else .refuse .shapeInvalid s
    | some r =>
      shapeCheck (s.fuseOk r) (acc.toNat ≠ 1) (fun s =>
        if s.fuseClash r then .refuse .illegalOperand s else .wait (fuseArrive r s)) s) s

/-- The lease in focus retires into the survivor, without DONE or ABN. -/
def fuseAway (s : State) : State :=
  let l := s.cur
  let s := s.dropTraffic
  let s := s.onTask l.part l.task fun t => { t with leases := t.leases - 1 }
  ((s.freeAid l.part (l.aid / 4)).dropLease l.id).addUp l.part l.rcb 0x0E 2 (· - 1)

/-- The merged vector of leases that release. -/
def releaseEach : List Nat → State → Vec × State
  | [], s => ([], s)
  | i :: r, s =>
    let old := s.cur.id
    let (v, s) := ((s.focus i).releaseAll)
    let s := s.focus old
    let (w, s) := releaseEach r s
    (vecMax (s.part s.cur.part).gen v w, s)

/-- The fusion; the survivor, which holds the top-left plot, is in focus. -/
def applyFuse (r : Rect) (s : State) : State :=
  let w := s.cur.ct.ir
  let me := s.cur.id
  let ls := s.inRect r
  let others := (ls.filter fun x => x.id ≠ me).map (·.id)
  let s := others.foldl (fun s i => asLease i s releaseHeld) s
  let (v, s) := releaseEach (me :: others) s
  let s := s.acquireAll v
  let s := others.foldl (fun s i => (onLease i s fuseAway).focus me) s
  let vc := (ls.map (·.vc)).foldl Nat.max 0
  let s := s.onCur fun l => { l.reshape r.row r.col r.shape (irOri w) with vc := vc }
  (if irAcc w = 3 then s.clearAcc s.cur else s).retable

def fuseNow (s : State) : State :=
  match s.cur.fuseRect with
  | none => s
  | some r => if s.cur.row = r.row && s.cur.col = r.col then changeEvent 0x42 (applyFuse r) s else s

def execFuseChange (l : Nat) (s : State) : Out := .next (onLease l s fuseNow)

/-! ## CHAIN and UNCHAIN (12 R308, R309; 19 R409) -/

/-- The lease at a CHAIN or UNCHAIN that names the parcel of x while x names its parcel. -/
def State.linkPartner (s : State) (x : Lease) : Option Lease :=
  s.leases.find? fun y =>
    y.id ≠ x.id && y.live && y.die = x.die && y.ct.wait ≠ .none && y.ct.trapDue.isNone && opcodeOf y.ct.ir = opcodeOf x.ct.ir &&
    x.names = some (y.row, y.col) && y.names = some (x.row, x.col)

/-- x feeds y (01 R15): an N parcel the T parcel below it, a T parcel the N parcel right of it, over equal edges. -/
def feeds (x y : Lease) : Bool :=
  if x.ori then !y.ori && y.col = x.col + shapeCols x.shape && y.row = x.row && shapeRows y.shape = shapeRows x.shape
  else y.ori && y.row = x.row + shapeRows x.shape && y.col = x.col && shapeCols y.shape = shapeCols x.shape

/-- The shape and orientation that x names are y's. -/
def namesShape (x y : Lease) : Bool := irShape x.ct.ir = y.shape && irOri x.ct.ir = y.ori

/-- Producer and consumer of a pair that meets the conditions of 12 R308 (CHAIN) or R309 (UNCHAIN). -/
def linkPair (x y : Lease) : Option (Lease × Lease) :=
  let ok (p q : Lease) : Bool :=
    feeds p q && (if opcodeOf x.ct.ir = 0x43 then p.chout.isNone && q.chin.isNone else p.chout = some q.id)
  if x.part ≠ y.part || x.task ≠ y.task || !namesShape x y || !namesShape y x then none
  else if ok x y then some (x, y)
  else if ok y x then some (y, x)
  else none

/-- Every CP command issued in the group of x has completed. -/
def State.cpEnded (s : State) (x : Lease) : Bool :=
  (s.groupOf x).all fun i => match s.lease? i with
    | some l => (l.busySeqs s.datum .cp).isEmpty && l.rowW.isEmpty && l.rowE.isEmpty && l.cpStart.isNone
    | none => true

/-- CP issue is held in the groups of waiting pairs. -/
def State.holdPairs (s : State) : State :=
  let paired := s.leases.filter fun l => l.live && l.ct.wait ≠ .none && (opcodeOf l.ct.ir = 0x43 || opcodeOf l.ct.ir = 0x44) &&
    (s.linkPartner l).isSome
  let held := paired.flatMap s.groupOf
  s.mapLeases fun l => if l.cpHold = held.contains l.id then l else { l with cpHold := held.contains l.id }

/-- A CHAIN or UNCHAIN in step 5: it waits for the partner, then for the drain of both groups. -/
def linkWork (op : Nat) (s : State) : CtRes :=
  let l := s.cur
  match l.ct.wait, l.names with
  | .change _, _ => .wait s
  | .sent, _ =>
    match s.linkPartner l with
    | none => .wait s
    | some y =>
      if s.cpEnded l && s.cpEnded y then
        let due := s.datum + 32
        .wait (s.mapLeases fun x => if x.id = l.id || x.id = y.id then { x with ct := { x.ct with wait := .change due } } else x)
      else .wait s
  | _, none => .refuse .shapeInvalid s
  | _, some x =>
    if x = (l.row, l.col) || !parcelOk (irShape l.ct.ir) x.1 x.2 then .refuse .shapeInvalid s
    else match s.linkPartner l with
      | none => .wait s.ctSent
      | some y =>
        if (linkPair l y).isSome then .wait s.ctSent.holdPairs
        else .refuse .shapeInvalid (asLease y.id s (ctEvent op fun s => .refuse .shapeInvalid s))

def execChain (t : Tok) (_dy _dx : BitVec 3) (_shape : BitVec 4) (_ori : BitVec 1) (s : State) : Out :=
  ctWord t [] 0 (linkWork 0x43) s

def execUnchain (t : Tok) (_dy _dx : BitVec 3) (_shape : BitVec 4) (_ori : BitVec 1) (s : State) : Out :=
  ctWord t [] 0 (linkWork 0x44) s

/-- The change of the pair whose member is in focus: the edge is made or removed and both words complete, unless a member stands stopped
(15 R355). -/
def linkChange (op : Nat) (edge : Lease → Lease → State → State) (s : State) : State :=
  match s.cur.ct.wait, s.linkPartner s.cur with
  | .change at_, some y =>
    if s.datum < at_ || s.cur.frozen || y.frozen then s
    else match linkPair s.cur y with
      | none => s
      | some (p, q) =>
        let me := s.cur.id
        let s := (edge p q s).retable
        let s := ctEvent op (fun s => .after 0 s) s
        (asLease y.id s (ctEvent op fun s => .after 0 s)).focus me |>.holdPairs
  | _, _ => s

/-- A group is formed: its sync points count anew (02 R38). -/
def Lease.newGroup (l : Lease) : Lease :=
  { l with ctGrp := 0, ld := { l.ld with grp := 0 }, cp := { l.cp with grp := 0 }, sd := { l.sd with grp := 0 }, grpReady := [] }

/-- The joined group's counter is the larger of the two. -/
def joinEdge (p q : Lease) (s : State) : State :=
  let g := s.groupOf p ++ s.groupOf q
  let vc := Nat.max p.vc q.vc
  s.mapLeases fun l =>
    let l := if g.contains l.id then { l.newGroup with vc := vc } else l
    if l.id = p.id then { l with chout := some q.id, fifo := [], fifoAt := [] }
    else if l.id = q.id then { l with chin := some p.id }
    else l

/-- Rows still in the edge's FIFO are discarded with it. -/
def cutEdge (p q : Lease) (s : State) : State :=
  let g := s.groupOf p
  s.mapLeases fun l =>
    let l := if g.contains l.id then l.newGroup else l
    if l.id = p.id then { l with chout := none, fifo := [], fifoAt := [] }
    else if l.id = q.id then { l with chin := none }
    else l

def execChainChange (l : Nat) (s : State) : Out := .next (onLease l s (linkChange 0x43 joinEdge))
def execUnchainChange (l : Nat) (s : State) : Out := .next (onLease l s (linkChange 0x44 cutEdge))

/-- The changes that fall due. -/
def State.shapeEvents (s : State) : List Instr :=
  (s.leases.filter Lease.live).filterMap fun l =>
    match l.ct.wait with
    | .change at_ =>
      if s.datum < at_ then none
      else match opcodeOf l.ct.ir with
        | 0x41 => some (.splitChange l.id)
        | 0x42 => some (.fuseChange l.id)
        | 0x43 => some (.chainChange l.id)
        | 0x44 => some (.unchainChange l.id)
        | 0x45 => some (.orientChange l.id)
        | _ => none
    | _ => none

end Sys2Proof.Machine
end

