-- ==== Sys2Proof/Machine/Launch.lean ====
section
/-! DEFINITION. Launch.lean: host rings, launch packets and launch prologues (11 R278-R284; 12 R300; 20 R412). -/

namespace Sys2Proof.Machine

/-! ## Packets in their ring (11 R279, R281) -/

def HostRing.en (x : HostRing) : Bool := eBit x.ctl 31
def HostRing.slots (x : HostRing) : Nat := 2 ^ nbits x.ctl.toNat 4 0

/-- n bytes at offset o of the packet of the expected index. -/
def State.packet (s : State) (p r o n : Nat) : Nat :=
  let x := s.ring p r
  leNat (s.busRead p (eBit x.base 63) (nbits x.base.toNat 56 7 * 128 + 128 * (x.expect % x.slots) + o) n)

/-- The core accepts the packet of its expected index. -/
def State.accepts (s : State) (p r : Nat) : Bool :=
  let h := s.packet p r 0 8
  nbits h 0 0 = 1 && nbits h 63 32 = (s.ring p r).expect % 2 ^ 32

def State.packetType (s : State) (p r : Nat) : Nat := nbits (s.packet p r 0 8) 31 24
def State.packetPub (s : State) (p r : Nat) : Bool := nbits (s.packet p r 0 8) 1 1 = 1
/-- The header's reserved bits are zero. -/
def State.packetClean (s : State) (p r : Nat) : Bool := nbits (s.packet p r 0 8) 23 2 = 0

/-- The ring's core takes up packets: enabled, inside no packet, its partition not halted. -/
def State.ringFree (s : State) (p r : Nat) : Bool :=
  let x := s.ring p r
  x.en && !x.arming && !x.active && (s.part p).pstate = 0

def coreUnit (r : Nat) : UnitId := { eng := 7, die := 8 + r % 2 }

/-- Host pages of the slot of the expected index that have no translation yet (17 R389). -/
def State.slotMiss (s : State) (p r : Nat) : List Nat :=
  let x := s.ring p r
  if x.arming then s.busMiss p (eBit x.idxBlk 63) (nbits x.idxBlk.toNat 56 7 * 128 + 0x40) 8
  else s.busMiss p (eBit x.base 63) (nbits x.base.toNat 56 7 * 128 + 128 * (x.expect % x.slots)) 128

/-- The launch core of ring r reads n bytes of the packet of the expected index: lines are filled and errors found (08 R187, R208). Whether
it may go on: the packet's host page is translated (17 R389), and no error has halted the partition. -/
def State.readPacket (s : State) (p r n : Nat) : Bool × State :=
  let x := s.ring p r
  let a := nbits x.base.toNat 56 7 * 128 + 128 * (x.expect % x.slots)
  let (ready, s) := s.busReady p (eBit x.base 63) a n
  let s := if eBit x.base 63 || !ready then s else s.unitTouch (coreUnit r) p a n
  (ready && (s.part p).pstate = 0, s)

/-- The packet's bytes 8 to 127 as an origin. -/
def State.packetOrigin (s : State) (p r : Nat) : Origin :=
  let f (o : Nat) : Nat := s.packet p r o 8
  { ring := r, kernel := f 8, rcb := f 0x10, args := f 0x18, done := f 0x20, param := (List.range 11).map fun k => f (0x28 + 8 * k) }

/-! ## Launching (11 R282-R284; 12 R293, R300) -/

/-- The partition's lease queues have room. -/
def State.queueRoom (s : State) (p : Nat) : Bool := s.queuedOf p < 4096

/-- The launch core reads the kernel header and the RCB of a launch (08 R187, R208). -/
def State.touchLaunch (s : State) (p : Nat) (o : Origin) : State :=
  (s.unitTouch (coreUnit o.ring) p o.kernel 128).unitTouch (coreUnit o.ring) p o.rcb 128

/-- Launches the task of origin o, or writes its refusal: STATUS 3 with RCB_INVALID, or CAUSE 0 for a header refused. -/
def launchTask (p : Nat) (o : Origin) (args : Nat) (again : Bool) (s : State) : State :=
  let s := s.touchLaunch p o
  if (s.part p).pstate ≠ 0 then s
  else match s.header p o.kernel with
  | none => s.writeDone p o 3 0
  | some h =>
    match s.attachLive p o.rcb with
    | none => s.writeDone p o 3 Cause.rcbInvalid.code
    | some s => s.queueTask p o.rcb o.kernel args h.kid { o with launches := o.launches + 1, repeats := again } 0 []

/-- The lease that a prologue runs as. -/
def prologueLease (id p : Nat) (o : Origin) (h : Header) (code : SMap W64) (pub : Bool) (now : Nat) : Lease :=
  let regs : List (Nat × Nat) := (1, o.args) :: (13, o.launches) :: o.param.mapIdx fun k v => (2 + k, v)
  { id := id, part := p, aid := 0xFFC, kernel := o.kernel, kernelId := h.kid, st := .running, prologue := true, origin := o,
    die := 8 + o.ring % 2, codesize := h.codesize, codeFrom := h.prolog, codeTo := h.prolog + h.prologsz, code := code, retiring := pub,
    ct := { sregs := regs.foldl (fun m x => sset 0 x.1 (BitVec.ofNat 64 x.2) m) [], pc := h.prolog, nextMc := now } }

/-- Starts a prologue of origin o on its launch core. -/
def startPrologue (p : Nat) (o : Origin) (h : Header) (pub : Bool) (s : State) : State :=
  let s := s.unitTouch (coreUnit o.ring) p (o.kernel + 128 + h.prolog) h.prologsz
  if (s.part p).pstate ≠ 0 then s
  else
  let code := s.codeWords p o.kernel h.prolog (h.prolog + h.prologsz)
  let l := prologueLease s.nextLease p o h code pub s.datum
  ({ s.addLease l with nextLease := s.nextLease + 1 }).setRing p o.ring { s.ring p o.ring with active := true }

/-- The launch of a packet without a prologue: held while the queues are full (12 R300). -/
def launchPlain (p : Nat) (o : Origin) (pub : Bool) (s : State) : State :=
  if s.queueRoom p then (launchTask p o o.args false s).packetDone p o.ring pub
  else s.setRing p o.ring { s.ring p o.ring with active := true, launchWait := some o }

/-- The core accepts a LAUNCH packet. -/
def takeLaunchPacket (p r : Nat) (s : State) : State :=
  if !s.ringFree p r || !s.accepts p r || s.packetType p r ≠ 1 || !s.packetClean p r then s
  else
    let (on, s) := s.readPacket p r 128
    if !on then s
    else
      let s := s.setRing p r { s.ring p r with waiting := false }
      let o := s.packetOrigin p r
      let pub := s.packetPub p r
      let s := s.unitTouch (coreUnit r) p o.kernel 128
      if (s.part p).pstate ≠ 0 then s
      else match s.header p o.kernel with
        | none => (s.writeDone p o 3 0).packetDone p r pub
        | some h => if h.prolog = 0 then launchPlain p o pub s else startPrologue p o h pub s

def execLaunchPacket (p r : Nat) (s : State) : Out := .next (takeLaunchPacket p r s)

/-- A NOP packet is consumed. -/
def takeNopPacket (p r : Nat) (s : State) : State :=
  if !s.ringFree p r || !s.accepts p r || s.packetType p r ≠ 0 || !s.packetClean p r then s
  else
    let (on, s) := s.readPacket p r 8
    if !on then s else (s.setRing p r { s.ring p r with waiting := false }).packetDone p r (s.packetPub p r)

def execNopPacket (p r : Nat) (s : State) : Out := .next (takeNopPacket p r s)

/-- A packet of another TYPE or with reserved bits is consumed with STATUS 3 (11 R279). -/
def takeInvalidPacket (p r : Nat) (s : State) : State :=
  if !s.ringFree p r || !s.accepts p r || (s.packetType p r ≤ 1 && s.packetClean p r) then s
  else
    let (on, s) := s.readPacket p r 40
    if !on then s
    else
      let pub := s.packetPub p r
      let o : Origin := { ring := r, done := s.packet p r 0x20 8 }
      ((s.setRing p r { s.ring p r with waiting := false }).writeDone p o 3 Cause.illegalOperand.code).packetDone p r pub

def execInvalidPacket (p r : Nat) (s : State) : Out := .next (takeInvalidPacket p r s)

/-- The next slot is not accepted: the core waits, and publishes READ for packets consumed (11 R281). -/
def ringWaits (p r : Nat) (s : State) : State :=
  let s := if (s.ring p r).unpub ≠ 0 then s.publish p r else s
  s.setRing p r { s.ring p r with waiting := true }

/-- A held launch finds room. -/
def launchHeld (p r : Nat) (s : State) : State :=
  match (s.ring p r).launchWait with
  | none => s
  | some o =>
    if !s.queueRoom p then s
    else launchPlain p o (s.packetPub p r) (s.setRing p r { s.ring p r with launchWait := none })

/-- The prologue of a retired LREPEAT task runs again from its first word (11 R283). -/
def repeatPrologue (p r : Nat) (s : State) : State :=
  let x := s.ring p r
  match x.again with
  | [] => s
  | o :: rest =>
    if x.active || (s.part p).pstate ≠ 0 then s
    else
      let s := (s.setRing p r { x with again := rest }).unitTouch (coreUnit r) p o.kernel 128
      if (s.part p).pstate ≠ 0 then s
      else match s.header p o.kernel with
        | none => s.writeDone p o 3 0
        | some h => startPrologue p o h false s

def execPrologueRepeat (p r : Nat) (s : State) : Out := .next (repeatPrologue p r s)

/-! ## LGO, LCANCEL and LREPEAT (11 R283; 20 R412) -/

/-- Every earlier STS, AMO and CAS of lease l, a prologue, has been performed at its home. -/
def State.storedOf (s : State) (l : Lease) : Bool := !(s.reqs.any fun r => r.lease = l.id && r.kind ≠ .load)
def State.prologueStored (s : State) : Bool := s.storedOf s.cur

/-- The prologue ends with a launch once the queues have room. -/
def launchWord (again : Bool) (s : State) : CtRes :=
  let l := s.cur
  if !s.prologueStored || !s.queueRoom l.part then .wait s
  else .left ((launchTask l.part l.origin (l.ct.reg 1).toNat again s).focus l.id).prologueGone

def execLgo (t : Tok) (s : State) : Out := ctWord t [] 0 (launchWord false) s
def execLrepeat (t : Tok) (s : State) : Out := ctWord t [] 0 (launchWord true) s

/-- The prologue ends without a launch. -/
def execLcancel (t : Tok) (s : State) : Out :=
  ctWord t [] 0 (fun s =>
    if !s.prologueStored then .wait s else .left ((s.writeDone s.cur.part s.cur.origin 2 0).prologueGone)) s

/-- 2^20 words without an end (11 R284). -/
def execPrologueWatchdog (l : Nat) (s : State) : Out :=
  .next (onLease l s fun s => if s.cur.prologue && 2 ^ 20 ≤ s.cur.words && s.cur.st = .running then s.prologueFail .watchdog else s)

/-! ## The registers of a ring (11 R278) -/

/-- The core takes READ as its expected index, once its host page is translated (17 R389). -/
def armRing (p r : Nat) (s : State) : State :=
  let x := s.ring p r
  let a := nbits x.idxBlk.toNat 56 7 * 128 + 0x40
  let (ready, s) := s.busReady p (eBit x.idxBlk 63) a 8
  if ready then s.setRing p r { x with expect := leNat (s.busRead p (eBit x.idxBlk 63) a 8), arming := false } else s

/-- A write to HRCTL. -/
def hrctlWrite (p r : Nat) (v : W64) (s : State) : State :=
  let x := s.ring p r
  let on := eBit v 31
  if x.en then
    if on then s
    else if x.arming then s.setRing p r { x with ctl := x.ctl &&& ~~~0x80000000#64, arming := false }
    else if x.active then s.setRing p r { x with stopping := true }
    else (s.setRing p r { x with stopping := true }).ringRest p r
  else
    let ctl := v &&& 0x00FF001F
    let n := nbits v.toNat 4 0
    if on && 4 ≤ n && n ≤ 16 then
      armRing p r (s.setRing p r
        { x with ctl := ctl ||| 0x80000000, waiting := false, unpub := 0, stopping := false, arming := true })
    else s.setRing p r { x with ctl := ctl }

def execHrctlEnable (p r : Nat) (v : BitVec 64) (s : State) : Out := .next (s.vf p (hrctlWrite p r (v ||| 0x80000000)))
def execHrctlDisable (p r : Nat) (v : BitVec 64) (s : State) : Out := .next (s.vf p (hrctlWrite p r (v &&& ~~~0x80000000#64)))

/-- A doorbell: the core looks at its next slot again. -/
def hrdbDo (p r : Nat) (s : State) : State := s.setRing p r { s.ring p r with waiting := false }
def execHrdb (p r : Nat) (s : State) : Out := .next (s.vf p (hrdbDo p r))

/-! ## A launch core's next packet step -/

/-- What ring r of partition p has ready for its launch core. -/
inductive CoreStep where
  | event (i : Instr)
  | word (l : Nat)
  | held
  | waits
  /-- The host page of READ or of the next slot has no translation yet, or READ can now be taken (17 R389). -/
  | asks
  deriving DecidableEq, Repr

/-- The prologue of ring r. -/
def State.prologueOf (s : State) (p r : Nat) : Option Lease :=
  s.leases.find? fun l => l.prologue && l.part = p && l.origin.ring = r && l.st = .running

/-- The prologue stands at an LGO or LREPEAT that found no room. -/
def State.launchHolds (s : State) (l : Lease) : Bool :=
  l.prologue && l.st = .running && l.ct.begun && l.ct.trapDue.isNone && s.storedOf l && !s.queueRoom l.part &&
    match decodePrologue l.ct.ir with
    | .ok (.lgo _) => true
    | .ok (.lrepeat _) => true
    | _ => false

/-- A launch that found no room, of a packet alone or by a prologue's LGO or LREPEAT, holds its launch core, which takes no further packet
of any ring (12 R300). -/
def State.coreHeld (s : State) (r : Nat) : Bool :=
  (s.parts.any fun q => q.2.rings.any fun x => x.1 % 2 = r % 2 && x.2.launchWait.isSome) ||
    s.leases.any fun l => l.origin.ring % 2 = r % 2 && s.launchHolds l

/-- The next packet step of ring r of partition p: a held launch that now has room comes before a new packet. -/
def State.coreStep (s : State) (p r : Nat) : Option CoreStep :=
  let x := s.ring p r
  if (s.part p).pstate ≠ 0 then none
  else match s.prologueOf p r with
    | some l =>
      if 2 ^ 20 ≤ l.words then some (.event (.prologueWatchdog l.id)) else if l.ct.nextMc ≤ s.datum then some (.word l.id) else none
    | none =>
      if x.launchWait.isSome then (if s.queueRoom p then some .held else none)
      else if !x.active && !x.again.isEmpty then some (.event (.prologueRepeat p r))
      else if !x.en || x.active || s.coreHeld r then none
      else if !(s.slotMiss p r).isEmpty then
        (if (s.slotMiss p r).all fun a => (s.part p).ats.any fun y => y.1 = a / 4096 then none else some .asks)
      else if x.arming then some .asks
      else if s.accepts p r then
        some (.event (if s.packetType p r = 1 && s.packetClean p r then .launchPacket p r
          else if s.packetType p r = 0 && s.packetClean p r then .nopPacket p r else .invalidPacket p r))
      else if x.waiting then none
      else some .waits

/-- The rings of launch core u in the order of its cycle c: no ring stays behind another for ever. -/
def coreRings (u c : Nat) : List Nat := (List.range 8).map fun k => u + 2 * ((k + c + c / 64) % 8)

/-- Partition p's packet step on launch core u, if it has one ready: a partition with something ready takes the slot. -/
def packetStep (u c p : Nat) (s : State) : Option State :=
  match (coreRings u c).findSome? fun r => (s.coreStep p r).map fun x => (r, x) with
  | none => none
  | some (_, .event i) => some { s with turn := .event i :: s.turn }
  | some (_, .word l) => some { s with turn := .word l .ct :: s.turn }
  | some (r, .held) => some (launchHeld p r s)
  | some (r, .asks) => some (if (s.ring p r).arming then armRing p r s else (s.readPacket p r 8).2)
  | some (r, .waits) => some (ringWaits p r s)

end Sys2Proof.Machine
end

