-- ==== Sys2Proof/Machine/Faults.lean ====
section
/-! DEFINITION. Faults.lean: the fault queue and its resolutions (11 R285-R287), event queue registers (11 R285), TLB invalidation
(08 R203), ATS and PRI (17 R389), and the halt line from its rise to the last stop record (16 R372-R377). -/

namespace Sys2Proof.Machine

/-! ## The fault queue (11 R285-R287) -/

/-- A fault-queue entry with its sequence number (11 R286). -/
def FaultEntry.bytes (e : FaultEntry) (h : Nat) : List Byte :=
  packLe [(e.cause.code, 1), (e.flags, 1), (e.aid, 2), (h, 4), (e.va, 8), (e.offset, 8), (e.where_, 4), (e.tier, 1), (0, 3),
    (e.kernelId, 8), (e.datum, 8), (e.loc, 2), (0, 14)]

/-- The oldest waiting entry is written, once the queue has room and is enabled; none of a halted partition (16 R375). -/
def writeFault (p : Nat) (s : State) : State :=
  if (s.part p).pstate ≠ 0 then s
  else match (s.part p).faultWait with
  | [] => s
  | e :: rest =>
    let h := (s.eq p 0).head
    match s.eqPut p 0 e.bytes with
    | none => s
    | some s => s.onPart p fun q => { q with faultWait := rest, faultOpen := q.faultOpen ++ [{ e with seq := some (h % 2 ^ 32) }] }

def execFaultEntryWrite (p : Nat) (s : State) : Out := .next (writeFault p s)

/-- What an entry's access is among the retries of its lease: a command in flight, or the head word of LD or SD. -/
def FaultEntry.retries (e : FaultEntry) (l : Lease) : List (Stream × Nat) :=
  match e.cmd with
  | some k => if (l.cmd? k).isSome then [(e.stream, k)] else []
  | none => if e.stream = .ld || e.stream = .sd then [(e.stream, headRetry)] else []

/-- The lease resumes once its last entry is resolved, and each stream retries its faulted accesses in the order of their entries; one
that is saved does so when it is restored (11 R287; 16 R371, R380). -/
def State.settleFaults (s : State) (p l : Nat) : State :=
  let q := s.part p
  let mine (e : FaultEntry) : Bool := e.lease = l
  if q.faultWait.any mine || q.faultOpen.any (fun e => mine e && !e.resolved) then s
  else (s.setPart p { q with faultOpen := q.faultOpen.filter (fun e => !mine e) }).mapLeases fun x =>
    if x.id ≠ l then x
    else { x with st := if x.st = .parked then .running else x.st, retries := x.retries ++ (q.faultOpen.filter mine).flatMap fun e => e.retries x }

/-- A resolution names an unresolved entry, and may kill its task. In a halted partition, which stays as its stop left it, it does nothing
(DESIGN CHOICE, log entry 106). -/
def fqresDo (p : Nat) (v : W64) (s : State) : State :=
  let q := s.part p
  if q.pstate ≠ 0 then s
  else match q.faultOpen.find? fun e => e.seq = some (nbits v.toNat 31 0) && !e.resolved with
  | none => s
  | some e =>
    if eBit v 32 then
      match s.lease? e.lease with
      | none => s
      | some l => abortDomain p l.task 1 e.cause.code 0xFFF s
    else
      let s := s.fwWrote
      let mark (x : FaultEntry) : FaultEntry := if x.seq = e.seq && !x.resolved then { x with resolved := true } else x
      (s.onPart p fun q => { q with faultOpen := q.faultOpen.map mark }).settleFaults p e.lease

def execFqres (p : Nat) (v : BitVec 64) (s : State) : Out := .next (s.vf p (fqresDo p v))

/-! ## Event queue registers (11 R285) -/

/-- A write to EQCTL; LOGN changes only while EN is 0, and EN is set only with LOGN from 6 to 20. -/
def eqctlWrite (p k : Nat) (v : W64) (s : State) : State :=
  let x := s.eq p k
  let irq := v &&& 0x40000000
  if x.en then s.setEq p k { x with ctl := (x.ctl &&& 0x1F) ||| irq ||| (v &&& 0x80000000) }
  else
    let n := nbits v.toNat 4 0
    let on : W64 := if 6 ≤ n && n ≤ 20 then v &&& 0x80000000 else 0
    s.setEq p k { x with ctl := (v &&& 0x1F) ||| irq ||| on }

def execEqctlEnable (p q : Nat) (v : BitVec 64) (s : State) : Out := .next (s.vf p (eqctlWrite p q (v ||| 0x80000000)))

/-! ## TLB invalidation (08 R203) -/

/-- Numbers of the accesses on their way to their homes that f, or for a RATOM request g, holds of: a request's own, and 2^64 more for
a RATOM request. -/
def State.onTheWay (s : State) (f : Req → Bool) (g : RatomReq → Bool) : List Nat :=
  (s.reqs.filter fun r => f r && !r.back).map (·.num) ++ (s.ratoms.filter fun r => g r && !r.haveResult).map (fun r => 2 ^ 64 + r.num)

/-- One of the accesses has not been performed at its home. -/
def State.waitsFor (s : State) (nums : List Nat) : Bool :=
  (s.onTheWay (fun r => nums.contains r.num) (fun r => nums.contains (2 ^ 64 + r.num))) ≠ []

/-- A write to TLBINV that drops the entries chosen by f: BUSY holds until the requests they translated have been performed. -/
def tlbInvalidate (p : Nat) (f : TlbEntry → Bool) (s : State) : State :=
  let q := s.part p
  if q.tlbBusy then s.setPart p { q with tlbErr := true }
  else
    let drop (e : TlbEntry) : Bool := e.part = p && f e
    let gone := s.tlb.filter drop
    let used := s.onTheWay (fun r => r.part = p && gone.any fun e => r.virt.any fun va => decide (e.base ≤ va && va < e.base + e.size))
      (fun r => r.part = p && gone.any fun e => e.leaf = r.leaf)
    { s.setPart p { q with tlbBusy := true, tlbBarrier := used } with tlb := s.tlb.filter fun e => !drop e }

def tlbInvPageDo (p : Nat) (v : W64) (s : State) : State :=
  let va := nbits v.toNat 56 16 * 65536
  tlbInvalidate p (fun e => e.base ≤ va && va < e.base + e.size) s
def execTlbinvPage (p : Nat) (v : BitVec 64) (s : State) : Out := .next (s.vf p (tlbInvPageDo p v))

def tlbInvAllDo (p : Nat) (s : State) : State := tlbInvalidate p (fun _ => true) s
def execTlbinvAll (p : Nat) (s : State) : Out := .next (s.vf p (tlbInvAllDo p))

/-- BUSY clears when every access translated by a dropped entry has completed at its home. -/
def tlbInvDoneDo (p : Nat) (s : State) : State :=
  let q := s.part p
  if q.tlbBusy && !s.waitsFor q.tlbBarrier then s.setPart p { q with tlbBusy := false, tlbBarrier := [] } else s
def execTlbinvDone (p : Nat) (s : State) : Out := .next (tlbInvDoneDo p s)

/-- A read of TLBINVSTAT clears ERR. -/
def tlbinvstatDo (p : Nat) (s : State) : W64 × State :=
  let q := s.part p
  (BitVec.ofNat 64 ((if q.tlbErr then 2 else 0) + if q.tlbBusy then 1 else 0), s.setPart p { q with tlbErr := false })
def execTlbinvstatRead (p : Nat) (s : State) : Out :=
  .next (s.vfRead p (tlbinvstatDo p))

/-! ## ATS and PRI (17 R389) -/

/-- Room in the bridge die's translation cache of 4,096 entries, the partitions' together (17 R388): which one goes is open (log
entry 5). -/
def State.atcRoom (s : State) : State :=
  let (v, s) := s.victim 4096 (s.parts.flatMap fun q => q.2.atc.map fun k => (q.1, k))
  match v with
  | some (p, k) => s.onPart p fun q => { q with atc := q.atc.filter fun x => x ≠ k }
  | none => s

/-- The answer to the ATS request for host page k: held, or followed by a PRI page request. -/
def atsAnswer (p k : Nat) (present : Bool) (s : State) : State :=
  let q := s.part p
  if !(q.ats.contains (k, 0)) then s
  else if present then s.atcRoom.onPart p fun q => { q with ats := q.ats.filter (fun x => x.1 ≠ k), atc := q.atc ++ [k] }
  else { s.setPart p { q with ats := q.ats.map fun x => if x.1 = k then (k, 1) else x } with out := s.out ++ [.pri p k] }
def execAtsResponse (p k : Nat) (present : Bool) (_pa : BitVec 64) (s : State) : Out := .next (atsAnswer p k present s)

/-- The page response: the access asks again, or finds PAGE_NOT_PRESENT. -/
def priAnswer (p k : Nat) (success : Bool) (s : State) : State :=
  let q := s.part p
  if !(q.ats.contains (k, 1)) then s
  else
    let left := q.ats.filter fun x => x.1 ≠ k
    if success then s.setPart p { q with ats := left }
    else s.setPart p { q with ats := left, atsFail := q.atsFail ++ [k] }
def execPriResponse (p k : Nat) (success : Bool) (s : State) : Out := .next (priAnswer p k success s)

/-- An ATS invalidation drops the page and waits for the requests it translated. -/
def atsDrop (p : Nat) (va : Nat) (s : State) : State :=
  let k := va / 4096
  let used := s.onTheWay (fun r => r.part = p && r.atHome && r.key / 4096 = hostKey p va / 4096)
    (fun r => r.part = p && r.key / 4096 = hostKey p va / 4096)
  s.onPart p fun q =>
    { q with atc := q.atc.filter (fun x => x ≠ k), atsBarrier := q.atsBarrier ++ [(k, used)] }
def execAtsInvalidation (p : Nat) (va : BitVec 64) (s : State) : Out := .next (atsDrop p va.toNat s)

/-- Invalidations whose accesses have completed are answered. -/
def atsSettle (p : Nat) (s : State) : State :=
  let q := s.part p
  let done (x : Nat × List Nat) : Bool := !s.waitsFor x.2
  { s.setPart p { q with atsBarrier := q.atsBarrier.filter (fun x => !done x) } with
    out := s.out ++ (q.atsBarrier.filter done).map fun x => .atsDone p (x.1 * 4096) }

/-! ## The halt line (16 R372-R377) -/

/-- The host interface as the engine that found a cause. -/
def hostStop (c : Cause) : StopInfo := { cause := c, engine := 10, die := 8 }

/-- A write to PHALT. -/
def phaltDo (p : Nat) (s : State) : State := s.haltLine p .hostHalt (hostStop .hostHalt)
def execPhalt (p : Nat) (s : State) : Out := .next (s.vf p (phaltDo p))

/-- The cause of a fatal event of 16 R372. -/
def fatalCause (n : Nat) : Option Cause :=
  [Cause.uncorrectable, .doubleTrap, .isolation, .watchdog, .hostHalt].find? fun c => c.code = n

/-- What the record of a cause says that no engine's access has found: of an uncorrectable error it names a granule, and which one is
open (DESIGN CHOICE, log entry 107). -/
def State.riseInfo (s : State) (c : Cause) : StopInfo × State :=
  if c ≠ .uncorrectable then (hostStop c, s)
  else
    let (va, s) := s.nextFree
    let (pa, s) := s.nextFree
    let (tier, s) := s.nextFree
    ({ hostStop c with addr := (Config.freeWord va).toNat, paddr := (Config.freeWord pa).toNat, tier := (Config.freeByte tier).toNat }, s)

def haltRise (p : Nat) (c : Cause) (s : State) : State :=
  if (s.part p).pstate ≠ 0 then s
  else
    let (x, s) := s.riseInfo c
    s.haltLine p c x

def execHaltLineRise (p : Nat) (cause : BitVec 6) (s : State) : Out :=
  .next (match fatalCause cause.toNat with
    | some c => haltRise p c s
    | none => s)

/-- The first stream of a RUNNING lease, or of a prologue, that has had a ready head for 65,536 mc and issued nothing (16 R373). -/
def Lease.stalled (l : Lease) : Option Stream :=
  if l.st ≠ .running then none else [Stream.ct, .ld, .cp, .sd].find? fun st => 65536 ≤ sget 0 st.index l.idle

/-- The first command or card that has made no progress for 2^24 mc. -/
def Lease.stuck (l : Lease) : Option Cmd := l.cmds.find? fun c => 2 ^ 24 ≤ c.still

/-- The copy engine that moves command c, as the engine that found the cause. -/
def Lease.copyStop (l : Lease) (c : Cmd) : StopInfo :=
  { cause := .watchdog, engine := 5, aid := l.aidOf c.stream, addr := c.workAddr, slot := whereOf c.stream c.slot, die := l.die,
    loc := l.loc, offset := c.offset, unit := c.seq }

/-- A ready stream or a moving command has reached its limit of 16 R373, which is a failure of the device; in a prologue it fails the
packet (R366). -/
def watchdogDo (s : State) : State :=
  match s.cur.stalled with
  | some st => if s.cur.prologue then s.prologueFail .watchdog else s.haltBy .watchdog st 0
  | none =>
    match s.cur.stuck with
    | some c => s.haltLine s.cur.part .watchdog (s.cur.copyStop c)
    | none => s

def execWatchdogExpiry (l : Nat) (s : State) : Out := .next (onLease l s watchdogDo)

/-- The k-th engine that still has to stop writes its record, or the record is counted as lost; after the last one STATE is 2,
with vector 4 (16 R376, R377; 17 R390). -/
def stopEngine (p k : Nat) (s : State) : State :=
  let q := s.part p
  match q.stopLeft[k]? with
  | none => s
  | some r =>
    let room := 64 * (q.records + 1) ≤ q.haltLen.toNat
    let s := if room then s.unitWrite p (nbits q.haltBase.toNat 56 6 * 64 + 64 * q.records) r else s
    let left := q.stopLeft.eraseIdx k
    let s := s.onPart p fun q =>
      { q with stopLeft := left, records := q.records + (if room then 1 else 0), reclost := q.reclost + (if room then 0 else 1),
               pstate := if left.isEmpty then 2 else 1 }
    if left.isEmpty then { s with out := s.out ++ [.msix p 4] } else s

def execEngineHaltStop (p k : Nat) (s : State) : Out := .next (stopEngine p k s)

end Sys2Proof.Machine
end

