-- ==== Sys2Proof/Machine/Debug.lean ====
section
/-! DEFINITION. Debug.lean: stops of a chained group at a stop edge, stop dumps, resume, break bits, samples, and replays of a
stop dump (15 R353-R364; 16 R381). -/

namespace Sys2Proof.Machine

def State.onDbg (s : State) (p : Nat) (f : Debug → Debug) : State := s.onPart p fun q => { q with dbg := f q.dbg }
def State.dbg (s : State) (p : Nat) : Debug := (s.part p).dbg

/-- BUSY: a stop has been asked for and has not ended in STOPPED (15 R357). -/
def Debug.busy (d : Debug) : Bool := d.pend ≠ 0 && !d.stopped

/-- Asks for a stop of the group of lease l, for the given reasons (15 R356). -/
def askFor (p l bits : Nat) (s : State) : State := s.onDbg p fun d => { d with pend := d.pend ||| bits, who := l }

/-! ## DBGCMD and DBGSTAT (15 R354, R360) -/

/-- A DBGCMD write that may act goes on with f and the target; any other sets ERR. -/
def dbgCommand (p : Nat) (needStop : Bool) (f : Lease → State → State) (s : State) : State :=
  let d := s.dbg p
  match s.targetOf p with
  | some t => if d.busy || (needStop && !d.stopped) then s.onDbg p fun d => { d with err := true } else f t s
  | none => s.onDbg p fun d => { d with err := true }

/-- A stop of a group that stands stopped asks for nothing. -/
def dbgStopDo (p : Nat) (s : State) : State :=
  dbgCommand p false (fun t s => if t.frozen then s else askFor p t.id 1 s) s
def execDbgcmdStop (p : Nat) (s : State) : Out := .next (s.vf p (dbgStopDo p))

/-- The group's instruction-cache lines are dropped; their refill takes the bitmap as it stands. -/
def bitmapSyncDo (p : Nat) (s : State) : State :=
  dbgCommand p false (fun t s => (s.groupOf t).foldl (fun s i => asLease i s State.dropLines) s) s
def execDbgcmdBitmapSync (p : Nat) (s : State) : Out := .next (s.vf p (bitmapSyncDo p))

/-- A read of DBGSTAT clears ERR. -/
def dbgstatDo (p : Nat) (s : State) : W64 × State :=
  let d := s.dbg p
  let v := (if d.stopped then 1 else 0) + (if d.busy then 2 else 0) + (if d.err then 4 else 0) + d.reason % 256 * 256
  (BitVec.ofNat 64 v, s.onDbg p fun d => { d with err := false })
def execDbgstatRead (p : Nat) (s : State) : Out :=
  .next (s.vfRead p (dbgstatDo p))

/-! ## The stop dump (15 R357, R358) -/

/-- The designators that a pending result writes, last-result registers apart. -/
def Pend.dests (x : Pend) : List Nat := ((x.writes.map fun w => w.1 % 256).filter fun k => k < 128 || 132 ≤ k).eraseDups

/-- PATH of a pending result; none of one that writes no register and sends nothing to a queue (DEDUCED, log entry 45). -/
def Pend.dumpPath (x : Pend) : Option Nat :=
  match x.q with
  | .vpush _ | .vtos _ | .vout _ => some 6
  | .none =>
    if x.accRow.isSome || x.writes.isEmpty then none
    else if x.op = 0x43 then some 6
    else if x.path = 0 then some 5
    else some (x.path - 1)

/-- DEST: the designator, or for PATH 6 the queue: 0 LD to CP, 1 CP to SD, 2 scalar returns, 3 CP outcomes (DEDUCED, log entry 45). -/
def Pend.dumpDest (x : Pend) : Nat :=
  match x.q with
  | .vpush _ => 1
  | .vtos _ => 2
  | .vout _ => 3
  | .none => if x.op = 0x43 then 0 else x.dests.getD 0 0

/-- The value of a parcel of n plots that result number k of a pending result will write. -/
def Pend.value (x : Pend) (k n : Nat) : List Byte :=
  let all (v : List Byte) : List Byte := v ++ List.replicate (512 * n - v.length) 0
  match x.q with
  | .vpush v => all (lanesBytes v)
  | .vtos v => all (leBytes v.toNat 8)
  | .vout b => all [if b then 1 else 0]
  | .none => all ((x.writes.filter fun w => w.1 % 256 = x.dests.getD k 0).flatMap fun w => lanesBytes w.2)

/-- Two results have two destinations. -/
def Pend.results (x : Pend) : Nat := if x.dests.length = 2 then 2 else 1

/-- A pending-result entry of a parcel of n plots, stopped at vc v. -/
def Pend.entry (x : Pend) (n v : Nat) : List Byte :=
  packLe [(x.dumpPath.getD 0, 1), (x.dumpDest, 1), (if x.results = 2 then x.dests.getD 1 0 else 0, 1), (x.flags % 32, 1), (x.due - v, 4),
    (x.slot, 4), (0, 4)] ++ (List.range x.results).flatMap fun k => x.value k n

/-- The pending results in ascending writeback vc and issue order. -/
def Lease.dumpPend (l : Lease) : List Pend :=
  let own := l.pend.filter fun x => x.dumpPath.isSome
  let dues := (own.map fun x => x.due).mergeSort.eraseDups
  dues.flatMap fun k => own.filter fun x => x.due = k

def Lease.dumpEntries (l : Lease) : List Byte := l.dumpPend.flatMap fun x => x.entry l.n l.vc

/-- Offsets of the pending results and of the array plane of a parcel whose parts begin at o, and where they end. -/
def Lease.dumpOffsets (l : Lease) (o : Nat) : Nat × Nat × Nat :=
  let a := o + 64 + (1 + l.sections) * 1024
  let b := a + l.dumpEntries.length
  (a, b, b + 8 * 16384 * l.n)

/-- The offsets at which the parts of parcels begin. -/
def dumpStarts : List Lease → Nat → List (Lease × Nat)
  | [], _ => []
  | l :: r, o => (l, o) :: dumpStarts r (l.dumpOffsets o).2.2

/-- Where the sections of a parcel's image stand, its parts beginning at o. -/
def sectionsAt (o : Nat) : Nat := o + 64 + 1024

/-- The address of the dump area. -/
def Debug.base (d : Debug) : Nat := nbits d.dump.toNat 56 6 * 64

def State.dumpHeader (s : State) (l : Lease) (o reason datum : Nat) : List Byte :=
  let (a, b, _) := l.dumpOffsets o
  packLe [(s.gid l, 2), (0, 6), (l.vc, 8), (datum, 8), (reason, 1), (l.shape, 1), (if l.ori then 1 else 0, 1), (0, 1),
    (l.dumpPend.length, 4), (a, 8), (b, 8), (0, 16)]

/-- The lease in focus with the contents of its plots kept apart from them. -/
def State.withPlots (s : State) : Lease := (drainWindow (savePlots s)).cur

/-- Writes the parts of each parcel, stopped at mc m, at its offset; the headers and the array planes as written. The array plane and what
the spec does not lay out of the image hold bytes whose values the spec does not give: 07 R167 fixes when a row enters the array and when
its sums leave it, not the element in which each vc finds them, nor an element's 32 bits (DESIGN CHOICE, log entry 24). -/
def writeDump (p reason m : Nat) : List (Lease × Nat) → State → (List Byte × SMap (List Byte)) × State
  | [], s => (([], []), s)
  | (l, o) :: r, s =>
    let base := (s.dbg p).base
    let (a, b, e) := l.dumpOffsets o
    let h := s.dumpHeader l o reason (({ s with datum := m } : State).datumAt l.die)
    let x := (s.focus l.id).withPlots
    let (img, s) := s.freeBytes (a - o - 64 - 256)
    let (arr, s) := s.freeBytes (e - b)
    let s := s.unitWrite p (base + o) (h ++ s.imageHeader [l.id] true ++ img ++ l.dumpEntries ++ arr)
    let s := s.writeSections (base + sectionsAt o) x
    let (hs, s) := writeDump p reason m r s
    ((h ++ hs.1, sset [] l.id arr hs.2), s)

/-! ## The stop edge (15 R355-R357) -/

/-- What a replay of the dump starts from: the parcels' contents and CT's requests in flight. -/
def State.dumpContents (s : State) (g : List Nat) : List Lease × List Req :=
  (g.map fun i => (s.focus i).withPlots, s.reqs.filter fun r => g.contains r.lease && r.cmd.isNone)

/-- No command of the group that was moving has the rest of its segment to do (15 R355). -/
def State.movesHeld (s : State) (g : List Nat) : Bool :=
  g.all fun i => let f := s.focus i; f.cur.cmds.all fun c => !(f.endsSegment c && f.cmdMay c)

/-- The group freezes at the edge. -/
def freezeGroup (p : Nat) (g : List Nat) (s : State) : State :=
  let s := s.mapLeases fun x => if g.contains x.id then { x with frozen := true } else x
  let s := s.onDbg p fun d => { d with edge := some s.datum }
  match g.head? with
  | none => s
  | some i => asLease i s fun s => s.trace 3 .ct (s.cur.ct.pc / 8) s.cur.vc (s.dbg p).pend 0

/-- The dump of a group frozen at mc m is written and STOPPED is set, once the commands that were moving hold, or one of them meets
an input that the log or the replay cannot take (15 R355-R357). -/
def dumpGroup (p m : Nat) (g : List Nat) (s : State) : State :=
  let d := s.dbg p
  if !s.movesHeld g && nbits d.pend 6 4 = 0 then s
  else
    let content := s.dumpContents g
    let (hs, s) := writeDump p d.pend m (dumpStarts (g.filterMap s.lease?) 0) s
    s.onDbg p fun d =>
      { d with stopped := true, reason := d.pend, pend := 0, edge := none, dumpCopy := hs.1, planes := hs.2,
               dumps := sput d.base content d.dumps }

/-- The edge is taken for the reasons that stand, once the group is placed; a SAVED group stops at its restore, and a group that
is gone or halted does not stop. -/
def stopEdgeDo (p : Nat) (s : State) : State :=
  let d := s.dbg p
  let ended := s.onDbg p fun d => { d with pend := 0, edge := none }
  if d.pend = 0 then s
  else match s.lease? d.who with
    | none => ended
    | some t =>
      let g := s.groupOf t
      if t.st = .halted || t.st = .retired then ended
      else if t.frozen then match d.edge with
        | none => ended
        | some m => dumpGroup p m g s
      else if (g.filterMap s.lease?).all fun x => x.st = .running || x.st = .parked then
        dumpGroup p s.datum g (freezeGroup p g s)
      else s

def execStopEdge (p : Nat) (s : State) : Out := .next (stopEdgeDo p s)

/-- The counter of the target group stands at DBGAT or past it, with ATEN = 1 (15 R356). -/
def stopVcDo (p : Nat) (s : State) : State :=
  let d := s.dbg p
  match s.targetOf p with
  | none => s
  | some t =>
    if d.armed && d.ctl.getLsbD 2 && !t.frozen && d.at_.toNat ≤ t.vc then
      (askFor p t.id 8 s).onDbg p fun d => { d with armed := false }
    else s

def execStopVcReached (p : Nat) (s : State) : Out := .next (stopVcDo p s)

/-! ## Break bits (15 R361) -/

/-- Break bits act, and as traps. -/
def State.breaksOn (s : State) : Bool := (s.dbg s.cur.part).ctl.getLsbD 0
def State.breaksTrap (s : State) : Bool := (s.dbg s.cur.part).ctl.getLsbD 1

/-- CT of the lease in focus stands before step 3 of a broken word. -/
def State.ctBroken (s : State) : Bool :=
  let l := s.cur
  !l.prologue && s.breaksOn && s.ctRuns && !l.ct.accd && l.brkPc ≠ some l.ct.pc && l.icache.contains (l.ct.pc / 128) &&
  sget false (l.ct.pc / 8) l.brkCode

/-- The head of stream st is a broken word that has not been broken at. -/
def State.headBroken (s : State) (st : Stream) : Bool :=
  let x := s.cur.stream st
  s.breaksOn && !x.broken && x.ring.has && sget false x.ring.cur x.ring.brk

/-- Stream st of the lease in focus is about to issue a broken word; an AT at the head acts as it stands there (14 R343). -/
def State.ringBroken (s : State) (st : Stream) : Bool :=
  let l := s.cur
  let w := s.curWord st
  let t := tokOf w
  s.headBroken st &&
  (if st = .cp then
    s.cpStands && (match decode .cp w with
      | .ok (.atPin ..) => true
      | .ok i => s.cpRuns && (s.cpGo i t = .issue || s.cpGo i t = .start)
      | .error _ => s.cpRuns)
  else s.streamRuns st && !(waitHold t.wait && !l.holdMet s.datum st) && (l.lacking st t.wait).isNone)

/-- The word goes on after its break without breaking again. -/
def State.spendBreak (s : State) (st : Stream) : State :=
  if st = .ct then s.onCur fun l => { l with brkPc := some l.ct.pc } else s.onStream st fun x => { x with broken := true }

/-- Broken words ask for a stop before they perform, when they do not trap. -/
def breakStops (l : Nat) (s : State) : State :=
  onLease l s fun s =>
    let p := s.cur.part
    if s.breaksTrap || s.cur.frozen then s
    else
      let s := if s.ctBroken then askFor p l 2 (s.spendBreak .ct) else s
      [Stream.ld, .cp, .sd].foldl (fun s st => if s.ringBroken st then askFor p l 4 (s.spendBreak st) else s) s

/-- BREAKPOINT of a broken CT word, a precise trap. -/
def ctBreakTrap (s : State) : State :=
  if s.regsWritten then (s.spendBreak .ct).ctTrap .breakpoint [s.cur.ct.ir, trapInfo1 0 0 .ct 0, 0, 0] else s

/-- BREAKPOINT of a broken ring word, an issue-time refusal. -/
def ringBreakTrap (st : Stream) (s : State) : State := (s.spendBreak st).refuseIssue st .breakpoint 0

/-! ## Resume (15 R359) -/

/-- A pending result with the FLAGS and DATA of its entry; e is the entry's bytes, n the plots of the parcel. -/
def Pend.edited (x : Pend) (n : Nat) (e : List Byte) : Pend :=
  let data (k : Nat) : List Byte := e.drop (16 + 512 * n * k)
  let q : PendQ := match x.q with
    | .none => .none
    | .vpush v => .vpush (bytesLanes v.length (data 0))
    | .vtos _ => .vtos (BitVec.ofNat 64 (recLe (data 0) 0 8))
    | .vout _ => .vout (recLe (data 0) 0 1 % 2 = 1)
  let second (w : Nat × Lanes) : Bool := x.results = 2 && w.1 % 256 = x.dests.getD 1 0
  let fill (l : List (Nat × Lanes)) (bs : List Byte) : List (Nat × Lanes) :=
    l.mapIdx fun k (w : Nat × Lanes) => (w.1, bytesLanes w.2.length (bs.drop (512 * (k % n))))
  let firsts := x.writes.filter fun w => !second w
  let seconds := x.writes.filter second
  { x with flags := recLe e 3 1 % 32, q := q, writes := fill firsts (data 0) ++ fill seconds (data 1) }

/-- An entry's fields that a debugger may not change: PATH, DEST, DEST2, REMAIN and SLOT. -/
def entryKept (a b : List Byte) : Bool := a.take 3 = b.take 3 && (a.drop 4).take 8 = (b.drop 4).take 8

/-- The entries of a parcel as they stand in memory, by their results. -/
def readEntries (n v : Nat) : List Pend → List Byte → List (Pend × List Byte × Bool)
  | [], _ => []
  | x :: r, bs =>
    let e := x.entry n v
    let now := bs.take e.length
    (x, now, entryKept e now) :: readEntries n v r (bs.drop e.length)

/-- A parcel's entries in memory, its parts beginning at o of the dump at address base, with whether each keeps its fields. -/
def State.entriesNow (s : State) (base : Nat) (x : Lease × Nat) : List (Pend × List Byte × Bool) :=
  readEntries x.1.n x.1.vc x.1.dumpPend (s.unitRead x.1.part (base + (x.1.dumpOffsets x.2).1) x.1.dumpEntries.length)

/-- Every header and entry reads back as it was written. -/
def State.dumpKept (s : State) (p : Nat) (g : List Nat) : Bool :=
  let base := (s.dbg p).base
  let parts := dumpStarts (g.filterMap s.lease?) 0
  (parts.flatMap fun x => s.unitRead p (base + x.2) 64) = (s.dbg p).dumpCopy &&
  parts.all fun x => (s.entriesNow base x).all fun e => e.2.2

/-- A parcel as the dump at address base now holds it: its context, and its pending results. -/
def State.fromDump (s : State) (base : Nat) (x : Lease × Nat) : Lease :=
  let es := s.entriesNow base x
  let new (y : Pend) : Pend := match es.find? fun e => e.1 = y with
    | some e => y.edited x.1.n e.2.1
    | none => y
  let l := s.readSections (base + sectionsAt x.2) x.1
  { l with pend := l.pend.map new }

/-- The array planes that stand in the dump are loaded. Where they are those written, every sum goes on as it was; where a debugger has
changed them, the sums that have not been written come from values that the spec does not give (DESIGN CHOICE, log entry 24). -/
def loadPlane (changed : Bool) (s : State) : State :=
  if !changed || s.cur.rowW.isEmpty then s
  else
    let (k, s) := s.nextFree
    s.onCur fun l => { l with rowW := l.rowW.mapIdx fun i x =>
      { x with vals := x.vals.mapIdx fun j v => if x.due + j < l.avc then v else (Config.freeWord (k * 2 ^ 32 + i * 2 ^ 16 + j)).setWidth 32 } }

/-- A parcel takes what its dump holds and goes on. -/
def thaw (base : Nat) (x : Lease × Nat) (s : State) : State :=
  asLease x.1.id s fun s =>
    let (_, b, e) := x.1.dumpOffsets x.2
    let changed := s.unitRead x.1.part (base + b) (e - b) ≠ sget [] x.1.id (s.dbg x.1.part).planes
    let l := s.fromDump base (s.withPlots, x.2)
    let s := (s.onCur fun _ => { l with frozen := false }).clearPlots l
    (loadPlane changed (putPlots false s)).onCur Lease.noSaved

def resumeDo (p : Nat) (s : State) : State :=
  dbgCommand p true (fun t s =>
    let g := s.groupOf t
    if !t.frozen || !s.dumpKept p g then s.onDbg p fun d => { d with err := true }
    else
      let s := ((dumpStarts (g.filterMap s.lease?) 0).foldl (fun s x => thaw (s.dbg p).base x s) s).onDbg p fun d => { d with stopped := false, reason := 0 }
      match g.head? with
      | none => s
      | some i => asLease i s fun s => s.trace 4 .ct (s.cur.ct.pc / 8) s.cur.vc 0 0) s

def execDbgcmdResume (p : Nat) (s : State) : Out := .next (s.vf p (resumeDo p))

/-! ## Samples (15 R362) -/

/-- The classes of the four streams, four bits each. -/
def Lease.classWord (l : Lease) : Nat := (List.range 4).foldl (fun a k => a + Nat.min 4 (sget 0 k l.cls) * 16 ^ k) 0

/-- One SAMPLE record of the target group's CT. -/
def sampleDo (p : Nat) (s : State) : State :=
  match s.targetOf p with
  | none => s
  | some t =>
    if !(s.dbg p).ctl.getLsbD 4 || t.frozen || !(t.st = .running || t.st = .parked) then s
    else asLease t.id s fun s => s.trace 5 .ct (s.cur.ct.pc / 8) s.cur.vc 0 s.cur.classWord

def execSampleRecord (p : Nat) (s : State) : Out := .next (sampleDo p s)

/-- A sample falls due every 2^SAMPLOG mc, SAMPLOG from 10 to 31. -/
def State.sampleDue (s : State) (p : Nat) : Bool :=
  let n := nbits (s.dbg p).ctl.toNat 12 8
  (s.dbg p).ctl.getLsbD 4 && 10 ≤ n && s.datum % 2 ^ n = 0

/-! ## Replay (15 R364) -/

/-- A parcel of a dump as a replay's lease: id and CT AID from first numbers, its neighbours renumbered. -/
def replayLease (first task : Nat) (ids : List Nat) (groups : List Nat) (kib : Nat) (k : Nat) (l : Lease) : Lease :=
  let renum (x : Option Nat) : Option Nat := x.bind fun i => (ids.findIdx? fun j => j = i).map fun j => first + j
  { l with id := first + k, aid := 4 * groups.getD k 0, task := task, origin := {}, st := .saved, pre := .none, frozen := false,
           drained := true, queued := true, yielded := false, imgAt := none, imgKib := kib, chin := renum l.chin, chout := renum l.chout,
           held := [], replay := some [], cmds := l.cmds.map fun c => { c with nextReq := none } }

/-- AID groups for n parcels: those of the dump that are free, else the lowest free. -/
def Partition.replayGroups (q : Partition) : List Nat → Option (List Nat)
  | [] => some []
  | g :: r =>
    match (if q.freeGroups.contains g then some g else q.freeGroup) with
    | none => none
    | some x => ({ q with aidUsed := q.aidUsed ++ [x] }.replayGroups r).map fun y => x :: y

/-- A write of a dump's address to DBGREPLAY queues its images for restore as a replay; where that cannot be, ERR is set. -/
def replayDo (p a : Nat) (s : State) : State :=
  let fail := s.onDbg p fun d => { d with err := true }
  match (s.dbg p).dumps.find? fun e => e.1 = a / 64 * 64 with
  | none => fail
  | some (base, (ls, reqs)) =>
    let ls := (dumpStarts ls 0).map (s.fromDump base)
    match ls.head?, (s.part p).replayGroups (ls.map fun l => l.aid / 4) with
    | some f, some gs =>
      if (s.attached p f.rcb).isNone then fail
      else
        let ids := ls.map fun l => l.id
        let n := s.nextLease
        let task := (s.part p).nextTask
        let kib := (ls.map Lease.sections).foldl (· + ·) 1
        let new := ls.mapIdx fun k l => replayLease n task ids gs kib k l
        let reqs := reqs.mapIdx fun k r =>
          { r with num := s.nextReq + k, lease := n + (ids.findIdx? fun j => j = r.lease).getD 0, atHome := false, due := never }
        let clocks (q : Partition) : Partition := (ls.zip gs).foldl (fun q x =>
          (List.range 4).foldl (fun q i => q.setAgent (4 * x.2 + i) (q.agent (x.1.aid + i))) q) q
        let order := (s.copyOrder.filterMap fun x => (ids.findIdx? fun j => j = x.1).map fun j => (n + j, x.2))
        let s := { s with rest := s.rest ++ new, nextLease := n + ls.length, reqs := s.reqs ++ reqs, nextReq := s.nextReq + reqs.length,
                          copyOrder := s.copyOrder ++ order }
        let s := s.onPart p fun q =>
          { clocks q with
            aidUsed := q.aidUsed ++ gs, nextTask := task + 1,
            tasks := q.tasks ++ [{ id := task, rcb := f.rcb, leases := ls.length, kernelId := f.kernelId, aid := 4 * gs.headD 0 }] }
        s.enqueue ((s.part p).prioOf f.rcb) { part := p, task := task, rcb := f.rcb, kernel := f.kernel, args := 0, image := some n }
    | _, _ => fail

def execDbgreplay (p : Nat) (addr : BitVec 64) (s : State) : Out := .next (s.vf p (replayDo p addr.toNat))

/-- The log of a replay of the partition holds no further input: the replay stops. -/
def replayEndDo (p : Nat) (s : State) : State :=
  match s.leases.find? fun l => l.part = p && l.replay.isSome && !l.frozen && (l.st = .running || l.st = .parked) with
  | none => s
  | some l => if (List.range 5).all fun k => ((s.focus l.id).replayNext k).isNone then askFor p l.id 32 s else s

def execReplayEnd (p : Nat) (s : State) : Out := .next (replayEndDo p s)

/-- The landings of the log that are due land in the window of the replay in focus. -/
def replayLandings : Nat → State → State
  | 0, s => s
  | n + 1, s => match s.replayNext 4 with
    | none => s
    | some (pos, len, off, vc) =>
      if s.cur.vc < vc then s
      else
        if off / 2 ^ 27 ≠ (s.groupOf s.cur).idxOf s.cur.id then s
        else
        let (bs, s) := s.replayTake 4 pos len
        replayLandings n { s with mem := writeBytes s.mem (s.cur.winKey (off % 2 ^ 27)) bs }

/-- What the log brings to the replay in focus at the start of an mc: landings, the logged refusals of CP, and the values of the
requests that CT waits for. -/
def replayMc (l : Nat) (s : State) : State :=
  onLease l s fun s =>
    if s.cur.replay.isNone || s.cur.frozen || !(s.cur.st = .running || s.cur.st = .parked) then s
    else
      let s := replayLandings 64 s
      let s := match s.replayNext 2 with
        | some (_, _, _, vc) =>
          if vc ≤ s.cur.vc && (s.cur.stream .cp).stop.isNone then s.stopStream .cp .illegalOperand [] false false else s
        | none => s
      match s.replayNext 0 with
      | some (_, _, slot, _) =>
        match s.reqs.find? fun r => r.lease = l && r.cmd.isNone && r.slot = slot with
        | some r => { s with turn := s.turn ++ [.event (.homeAccess r.num)] }
        | none => s
      | none => s

end Sys2Proof.Machine
end

