-- ==== Sys2Proof/Machine/Outside.lean ====
section
/-! DEFINITION. Outside.lean: what firmware and the host do: page migration (08 R207), scrubbing (08 R208), firmware complexes and
resets (17 R401-R403), power and health (14 R352; 17 R404, R405), the host's accesses to device memory (16 R374, 17 R388) and the
registers of the functions (17 R390). -/

namespace Sys2Proof.Machine

/-! ## Page migration (08 R207) -/

/-- The address of the leaf entry of a page in the partition's tables. -/
def State.leafFrom (s : State) (va : Nat) : Nat → Nat → Option Nat
  | n, a =>
    let e := s.entryAt a
    if !eBit e 63 then none
    else if eBit e 62 then some a
    else match n with
      | 0 => none
      | n + 1 => s.leafFrom va n (nbits e.toNat 47 8 * 256 + 8 * (if n = 1 then nbits va 29 21 else nbits va 20 16))

def State.leafAddr (s : State) (p va : Nat) : Option Nat :=
  s.leafFrom va 2 (nbits (s.part p).pxbase.toNat 47 8 * 256 + 8 * (va / 2 ^ 30))

/-- Writes a table entry: in plaintext, as it is read (log entry 71), and settled, as every write of firmware. -/
def State.putLeaf (s : State) (a : Nat) (e : W64) : State :=
  let s := s.rekey 127 (hbmKey a)
  { s with mem := writeLe s.mem (hbmKey a) e.toNat 8 }.settle (hbmKey a)

/-- The location that a leaf gives for byte k of its page. -/
def leafTr (p : Nat) (e : W64) (k : Nat) : Tr :=
  let pa := nbits e.toNat 47 16 * 2 ^ 16 + k
  { tier := eTier e, pa := pa, key := physKey p (eTier e) pa, slot := nbits e.toNat 54 48, leaf := 0 }

/-- What is kept of granules beside their bytes is dropped for n bytes from a key: race metadata, views and sync-object marks. -/
def State.dropRange (s : State) (key n : Nat) : State :=
  let here (g : Nat) : Bool := key / 64 ≤ g && g < (key + n) / 64
  { s with gmeta := s.gmeta.filter (fun m => !here m.1), viewDirty := s.viewDirty.filter (fun m => !here m.1),
           viewTag := s.viewTag.filter (fun m => !here m.1), viewOld := s.viewOld.filter (fun c => !here (c.1 / 64)),
           marks := s.marks.filter (fun m => !here m.1) }

/-- n bytes of a location as firmware's copy engine reads them; the bytes of another package are open (DESIGN CHOICE, log entry 85). -/
def State.copyRead (s : State) (t : Tr) (n : Nat) (view : Bool) : List Byte × State :=
  if t.tier = 3 then
    let (k, s) := s.nextFree
    ((List.range n).map fun i => Config.freeByte (k * 64 + i), s)
  else s.readTr t n view

/-- Writes a granule as firmware's copy engine does; one of another package goes there as a posted write of AID 0xFFC. -/
def State.copyWrite (s : State) (p : Nat) (e : W64) (t : Tr) (bs : List Byte) : State :=
  if t.tier ≠ 3 then s.writeTr t bs false
  else match s.leafPkgNo e with
    | none => s
    | some pkg =>
      { s with out := s.out ++ [.fabric pkg p p 0xFFC 33 s.nextReq (t.slot * 2 ^ 48 + t.pa) bs.length 0 bs], nextReq := s.nextReq + 1 }

/-- A granule to be moved has an uncorrectable error: the partition halts, its page is retired, and no bytes are delivered (08 R208). -/
def State.badMove (s : State) (p : Nat) (t : Tr) : State :=
  ({ s with retiredPages := s.retiredPages ++ [t.key / 65536] } : State).haltLine p .uncorrectable
    { hostStop .uncorrectable with aid := 0xFFC, paddr := t.pa, tier := t.tier }

/-- Moves n granules of a page, both views of each, with its sync-object marks; none that has an uncorrectable error. -/
def copyPage (p : Nat) (old new : W64) : Nat → State → State
  | 0, s => s
  | n + 1, s =>
    let s := copyPage p old new n s
    let a := leafTr p old (64 * n)
    let b := leafTr p new (64 * n)
    if s.badAt a then s.badMove p a
    else
      let (bs, s) := s.copyRead a 64 false
      let (vs, s) := s.copyRead a 64 true
      let d := sget 0 (a.key / 64) s.viewDirty
      let s := s.copyWrite p new b bs
      let s := { s with marks := sset 0 (b.key / 64) (sget 0 (a.key / 64) s.marks) s.marks }
      if d = 0 then s else { s.putView b vs with viewDirty := sset 0 (b.key / 64) d s.viewDirty }

/-- Step 1: WB is set and the page's TLB entries are dropped. -/
def migrateBlock (p va a : Nat) (s : State) : State :=
  let s := s.putLeaf a (s.entryAt a ||| 0x1000000000000000)
  (tlbInvPageDo p (BitVec.ofNat 64 va) s).onPart p fun q => { q with migr := sput (va / 65536) 1 q.migr }

/-- Step 2: the page arrives at its new place, settled (10 R255). -/
def migrateCopy (p va size a : Nat) (new : W64) (s : State) : State :=
  (copyPage p (s.entryAt a) new (size / 64) (s.dropRange (leafTr p new 0).key size)).onPart p fun q =>
    { q with migr := sput (va / 65536) 2 q.migr }

/-- Step 3: the new entry stands, with WB = 0. The step is kept with the old place, whose last readers are still on their way. -/
def migrateSwitch (p va a : Nat) (new : W64) (s : State) : State :=
  let old := (leafTr p (s.entryAt a) 0).key
  let s := s.putLeaf a (new &&& ~~~0x1000000000000000#64)
  (tlbInvPageDo p (BitVec.ofNat 64 va) s).onPart p fun q => { q with migr := sput (va / 65536) (3 + 4 * old) q.migr }

/-- Step 4: the counter is cleared, what is kept of the old place is dropped (10 R255), and the entries of step 1 are resolved in queue
order. -/
def migrateEnd (p va size old : Nat) (s : State) : State :=
  let s := s.dropRange old size
  let inPage (x : Nat) : Bool := va / size = x / size
  let mine (k : Nat) : Bool := k / 2 ^ 41 = p && inPage (k % 2 ^ 41 * 65536)
  let s := { s with counters := s.counters.filter (fun c => !mine c.1), counterB1 := s.counterB1.filter (fun c => !mine c.1),
                    counterHeld := s.counterHeld.filter (fun c => !mine c.1) }
  let s := s.onPart p fun q => { q with migr := q.migr.filter fun x => x.1 ≠ va / 65536 }
  let es := (s.part p).faultOpen.filter fun e => e.cause = .writeBlocked && !e.resolved && inPage e.va
  es.foldl (fun s e => match e.seq with
    | some n => fqresDo p (BitVec.ofNat 64 n) s
    | none => s) s

/-- The next step of a page's migration, once the one before it has ended. -/
def migrateDo (p va : Nat) (new : W64) (s : State) : State :=
  match s.leafAddr p va with
  | none => s
  | some a =>
    let size := match s.walk p va with
      | .ok (_, k) => 2 ^ k
      | .error _ => 65536
    if (s.part p).tlbBusy then s
    else match sget 0 (va / 65536) (s.part p).migr with
      | 0 => migrateBlock p va a s.fwWrote
      | 1 => migrateCopy p va size a new s.fwWrote
      | 2 => migrateSwitch p va a new s.fwWrote
      | k => migrateEnd p va size (k / 4) s.fwWrote

def execPageMigration (p : Nat) (va newEntry : BitVec 64) (s : State) : Out := .next (migrateDo p va.toNat newEntry s)

/-! ## Scrubbing (08 R208) -/

/-- The data granule whose race metadata lies at an HBM key of the clock store. -/
def dataKey (key : Nat) : Nat := key / 2 ^ 37 * 2 ^ 37 + (key % 2 ^ 37 - 63 * 2 ^ 30) / 8 * 64

/-- An HBM key lies in the clock store (08 R205). -/
def State.inClock (s : State) (key : Nat) : Bool := s.clockStore && key < 2 ^ 48 && 63 * 2 ^ 30 ≤ key % 2 ^ 37

/-- The partition whose tables map a key of HBM or DDR-5. -/
def State.mappedBy (s : State) (key : Nat) : Option Nat :=
  (List.range 64).find? fun p => (s.leaves p).any fun x =>
    let b := physKey p (eTier x.2.2) (nbits x.2.2.toNat 47 16 * 2 ^ 16)
    eTier x.2.2 < 2 && b ≤ key && key < b + 2 ^ x.2.1

/-- The partition that owns the granule at a memory key (08 R208): by its tables; of clock-store metadata, by the data granule; of a
scratchpad plane, by the lease that stands on the plot, or for a shadow plane by the saved image that has not drained. -/
def State.ownerOf (s : State) (key : Nat) : Option Nat :=
  let plane := key / 2 ^ 48
  if plane = 2 || plane = 3 then
    (s.leases.find? fun l => (if plane = 2 then l.holdsPlots else l.st = .saved && !l.drained) && l.die = key % 2 ^ 48 / 2 ^ 27 &&
      l.plots.contains (key % 2 ^ 48 / 2 ^ 23 % 16)).map fun l => l.part
  else if isHostKey key then some (key / 2 ^ 57 % 64)
  else s.mappedBy (if s.inClock key then dataKey key else key)

/-- One uncorrectable granule that the pass finds: its owner halts and its page is retired. A host line of L2 that is not dirty is
fetched again instead. -/
def scrubError (key : Nat) (s : State) : State :=
  if isHostKey key && s.lineOf key ≠ 2 then s
  else
    let s := { s with retiredPages := s.retiredPages ++ [key / 65536] }
    let tier := if keyTier key < 3 then keyTier key else 0xFF
    match s.ownerOf key with
    | none => s
    | some p => s.haltLine p .uncorrectable { hostStop .uncorrectable with paddr := key % 2 ^ 48, tier := tier }

/-- Where a corrected error is counted: the die and the memory of 08 R208. -/
def State.correctedAt (s : State) (key : Nat) : Nat :=
  if key / 2 ^ 48 = 2 || key / 2 ^ 48 = 3 then 8 * (key % 2 ^ 48 / 2 ^ 27) + 4
  else if isHostKey key then 8 * keyHome key + 3
  else if keyTier key = 1 then 8 * s.bridgeOf 1 (keyPa key) + 2
  else 8 * keyHome key + if s.inClock key then 1 else 0

/-- An error of a word of a register's stored copy arises: lease, word, file, register, and its duplicate or a double bit (04 R96). -/
def registerError (x : Nat) (s : State) : State :=
  let b : RegBad := ⟨x / 2 ^ 16 % 256, x / 2 % 2 ^ 15, x % 2 = 1, x / 2 ^ 24 % 2 ^ 16⟩
  s.mapLeases fun l => if l.id = x / 2 ^ 40 && !l.ct.bad.contains b then { l with ct := { l.ct with bad := l.ct.bad ++ [b] } } else l

/-- A parity error of a line of a lease's instruction cache arises: the line is refetched (08 R187). -/
def codeError (x : Nat) (s : State) : State :=
  s.mapLeases fun l => if l.id = x / 2 ^ 40 then { l with icache := l.icache.filter fun n => n ≠ x % 2 ^ 40 } else l

/-- A double-bit error of a line in L2 arises: a clean line is fetched again; of one that differs from memory the granule's data is lost
(08 R208). -/
def lineError (key : Nat) (s : State) : State :=
  match s.lineOf key with
  | 0 => s
  | 1 => s.dropLine key
  | _ => { s with badGran := s.badGran ++ [key / 64] }

/-- One error that the pass brings (DESIGN CHOICE, log entry 66). By its number over 2^80: 0 an uncorrectable granule that the pass
finds, 1 one that arises and that an access is to find, 2 a corrected error, 3 an error of a register, 4 of an instruction cache, 5 of L2;
6 retires a pseudo-channel of HBM, by its die and number (17 R405). -/
def errorDo (e : Nat) (s : State) : State :=
  let x := e % 2 ^ 80
  match e / 2 ^ 80 with
  | 0 => scrubError x s
  | 1 => { s with badGran := s.badGran ++ [x / 64] }
  | 2 => let k := s.correctedAt x
    { s with corrected := sset 0 k (sget 0 k s.corrected + 1) s.corrected }
  | 3 => registerError x s
  | 4 => codeError x s
  | 5 => lineError x s
  | _ => { s with retiredChans := s.retiredChans ++ [(x / 256 % 8, x % 256)] }

def scrubDo (errors : List Nat) (s : State) : State :=
  errors.foldl (fun s k => errorDo k s) { s with scrubs := s.scrubs + 1 }

def execScrubPass (errors : List Nat) (s : State) : Out := .next (scrubDo errors s)

/-! ## Firmware complexes (17 R402) -/

/-- The complexes change roles; the standby goes on from the last applied entry. -/
def takeOver (s : State) : State :=
  let f := s.fw
  { s with fw := { f with activeB := !f.activeB, missed := 0, image := f.standbyImage, standbyImage := f.image, booted := false } }

/-- A heartbeat reaches the standby. -/
def heartbeatDo (s : State) : State := { s with fw := { s.fw with missed := 0 } }
def execHeartbeat (s : State) : Out := .next (heartbeatDo s)

/-- After three missed heartbeats, where the standby runs. It goes on from the last applied entry, which is the last one written: an entry is
applied within 10 us of its writing, and none has been written for 2 ms or more (DEDUCED, log entry 110). -/
def standbyDo (s : State) : State :=
  if s.fw.missed < 3 || s.fw.standbyFailed then s
  else
    let s := { s with fw := { s.fw with applied := s.fw.written } }
    takeOver s
def execStandbyTakeover (s : State) : Out := .next (standbyDo s)

/-- No launch core is inside a packet, and no migration is between steps 1 and 3. -/
def State.quiescent (s : State) : Bool :=
  s.parts.all fun q => (q.2.rings.all fun r => !r.2.active) && (q.2.migr.all fun m => m.2 % 4 = 3)

/-- A booted standby takes over at a quiescent packet boundary. -/
def updateTakes (s : State) : State := if s.fw.booted && s.quiescent then takeOver s else s

def liveUpdateDo (sigOk versionOk : Bool) (image : W64) (s : State) : State :=
  if sigOk && versionOk then updateTakes { s with fw := { s.fw with standbyImage := image, booted := true, applied := s.fw.written } }
  else s
def execLiveUpdate (sigOk versionOk : Bool) (image : BitVec 64) (s : State) : Out := .next (liveUpdateDo sigOk versionOk image s)

/-- The standby applies entry n once, in order. -/
def stateTableDo (n : Nat) (s : State) : State :=
  if n = s.fw.applied + 1 && n ≤ s.fw.written then { s with fw := { s.fw with applied := n } } else s
def execStateTableApply (n : Nat) (s : State) : Out := .next (stateTableDo n s)

/-! ## Resets (17 R403) -/

/-- The boot of 17 R401: a complex runs if both signatures of its images verify, the configuration names the active one, A by default, and a
package whose records do not verify exposes physical function 0 alone. What verifies, the images and the channels that training leaves are
open (DESIGN CHOICE, log entry 109); the keys, tables and settings of the records come as firmware's writes (log entry 46). -/
def bootDo (k : Nat) (s : State) : State :=
  let good := Config.verified k 2
  { s with pfstat := !good, ddrUp := Config.ddrTrained k,
           fw := { activeB := good && Config.namesB k, failedA := !Config.verified k 0, failedB := !Config.verified k 1,
                   image := Config.freeWord k, standbyImage := Config.freeWord (k + 1) } }

/-- Package reset: every state of the package is lost, and it boots; host memory and what outside parties do next are not the package's. -/
def packageResetDo (s : State) : State :=
  bootDo s.free { State.reset with mem := s.mem.filter (fun c => 1024 * 2 ^ 57 ≤ c.1 && c.1 < 2048 * 2 ^ 57), inbox := s.inbox, out := s.out,
                                   free := s.free + 2 }
def execPackageReset (s : State) : Out := .next (packageResetDo s)

def WlMsg.partition : WlMsg → Nat
  | .item p .. => p
  | .seal p .. => p
  | .take p .. => p

/-- What stays of a partition over its reset: what firmware wrote for it. -/
def Partition.afterReset (q : Partition) : Partition :=
  { rootRcb := q.rootRcb, keymask0 := q.keymask0, keymask1 := q.keymask1, keyLoads := q.keyLoads + 1, peers := q.peers }

/-- Fresh keys in the partition's slots. -/
def freshKeys (q : Partition) (loads : SMap Nat) : SMap Nat :=
  (List.range 127).foldl (fun m k => if q.ownsKey k then sset 0 k (Config.freshKey (q.keyLoads * 128 + k) % 2 ^ 32) m else m) loads

/-- Partition reset: leases, images, queues, binding table, GEN and halt line clear, metadata of its granules is settled. -/
def partitionResetDo (p : Nat) (s : State) : State :=
  let q := s.part p
  let mine := s.leases.filter fun l => l.part = p && l.st ≠ .free
  let ids := mine.map fun l => l.id
  let hbm := ((s.leaves p).filter fun x => eTier x.2.2 = 0).map fun x => (nbits x.2.2.toNat 47 16 * 2 ^ 16, 2 ^ x.2.1)
  let wins := mine.filter fun l => l.holdsPlots || (l.st = .saved && !l.drained)
  let s := ids.foldl (fun s i => s.dropLease i) (s.unqueue fun x => x.part = p)
  let isMine (k : Nat) : Bool := sweepHolds hbm wins k
  let s := { s with reqs := s.reqs.filter (fun r => r.part ≠ p), ratoms := s.ratoms.filter (fun r => r.part ≠ p),
                    windows := s.windows.filter (fun w => w.pkg ≠ 0 || w.part ≠ p), foreign := s.foreign.filter (fun r => r.part ≠ p),
                    farOpen := s.farOpen.filter (fun o => o.1 ≠ p), tlb := s.tlb.filter (fun e => e.part ≠ p),
                    wlBuilds := s.wlBuilds.filter (fun b => b.part ≠ p), walks := s.walks.filter (fun w => w.part ≠ p),
                    heldW := s.heldW.filter (fun w => w.1 ≠ p), heldIn := s.heldIn.filter (fun x => !ids.contains x.lease),
                    barWait := s.barWait.filter (fun b => b.part ≠ p),
                    wl := s.wl.map fun (x : Nat × List WlMsg) => (x.1, x.2.filter fun m => m.partition ≠ p) }
  let s := { s with farBuf := s.farBuf.filter (fun b => !ids.contains b.1), copyOrder := s.copyOrder.filter (fun c => !ids.contains c.1),
                    counters := s.counters.filter (fun c => c.1 / 2 ^ 41 ≠ p), counterB1 := s.counterB1.filter (fun c => c.1 / 2 ^ 41 ≠ p),
                    counterHeld := s.counterHeld.filter (fun c => c.1 / 2 ^ 41 ≠ p), gmeta := s.gmeta.filter (fun m => !isMine m.1),
                    marks := s.marks.filter (fun m => !isMine m.1), vecs := s.vecs.filter (fun v => v.1 / 2 ^ 32 ≠ p),
                    keyLoad := freshKeys q s.keyLoad }
  (s.setPart p q.afterReset).retable.settleAbsent.fwWrote

def execPartitionReset (p : Nat) (s : State) : Out := .next (partitionResetDo p s)

/-- A line whose bytes were to come over the host link is not filled. -/
def State.unfill (s : State) (key : Nat) : State := if s.lineOf key = 1 then s.dropLine key else s

/-- A read whose line is on the host link completes with all ones. -/
def lostOnLink (s : State) (r : Req) : State :=
  if r.back && r.onLink && s.datum < r.due then
    let s := s.unfill r.key
    if r.dreg = 0 then s else asLease r.lease s fun s => s.onCt fun c => c.setReg r.dreg (extendTo r.size r.sx (256 ^ r.size - 1))
  else s

/-- The line of host memory, not held, that command c reads next. -/
def State.linkRead (s : State) (c : Cmd) : Bool :=
  let i := c.offset + c.buf.length
  c.kind.moves && i < c.total && s.cmdMay c && (match cmdSrc c i with
    | .glob va _ => (match s.trOf va with | some t => isHostKey t.key && s.lineOf t.key = 0 | none => false)
    | _ => false)

/-- The bytes that the commands of the lease in focus next read over the host link, and the rows of its weight load on it, are lost. -/
def lostReads (s : State) : State :=
  match s.cur.load with
  | none => s.onCur fun l => { l with cmds := l.cmds.map fun c => { c with lost := c.lost || s.linkRead c } }
  | some x =>
    let gone := x.onLink.filter fun j => x.out.any fun o => o.1 = j && s.datum < o.2
    let keys := gone.flatMap fun j => ((loadRanges x.g j).flatMap fun q => granulesOf q.1 q.2).filterMap fun va => (s.trOf va).map (·.key)
    keys.foldl (fun s k => if isHostKey k then s.unfill k else s) (s.onCur fun l =>
      { l with cmds := l.cmds.map (fun c => { c with lost := c.lost || s.linkRead c }), load := some { x with lost := x.lost ++ gone } })

/-- A hot reset of the PCIe link: what is in flight on it is lost. Translation requests are asked again by their accesses, and reads
complete with all ones. -/
def hotResetDo (s : State) : State :=
  let s := s.reqs.foldl lostOnLink { s with parts := s.parts.map fun q => (q.1, { q.2 with ats := [] }) }
  (s.leases.map fun l => l.id).foldl (fun s l => asLease l s lostReads) s
def execLinkHotReset (s : State) : Out := .next (hotResetDo s)

/-! ## Power, cooling and health (14 R352; 17 R404, R405) -/

def State.thermalEvent (s : State) (tj : Nat) : State :=
  let t := s.thermal ++ [(s.datum, tj)]
  { s with thermal := t.drop (t.length - 64) }

/-- The main clock falls by 100 MHz, down to 600. -/
def throttleDo (powerOver : Bool) (tj : Nat) (s : State) : State :=
  if powerOver || 100 < tj then { s with mhz := Nat.max 600 (s.mhz - 100) }.thermalEvent tj else s
def execThermalThrottle (powerOver : Bool) (tj : Nat) (s : State) : Out := .next (throttleDo powerOver tj s)

/-- At 115 degrees: a PHALT of every partition. -/
def thermalHaltDo (tj : Nat) (s : State) : State :=
  if tj < 115 then s else ((List.range 64).foldl (fun s p => phaltDo p s) s).thermalEvent tj
def execThermalHalt (tj : Nat) (s : State) : Out := .next (thermalHaltDo tj s)

def ageReset : W64 := 0xFFFF000000000000

/-- An indicator as it is kept: WARN from EOLDAYS, reserved bits zero. -/
def ageWord (v : W64) : W64 := (v &&& 0xFFFFFFFFFFFFFF00) ||| (if nbits v.toNat 63 48 < 180 then 1 else 0)

/-- The logical plot that physical plot k of die d serves (12 R315). -/
def State.logicalPlot (s : State) (d k : Nat) : Option Nat :=
  let skip := sget 0 d s.skipcol
  let c := k % 5
  if c = skip then none else some (k / 5 * 4 + if c < skip then c else c - 1)

/-- Firmware's hourly indicator of a physical plot; at 30 days or fewer its logical plot is marked absent. -/
def ageingDo (d k : Nat) (v : W64) (s : State) : State :=
  let s := { s with ageing := sset ageReset (d * 32 + k) (ageWord v) s.ageing }
  match s.logicalPlot d k with
  | some x => if nbits v.toNat 63 48 ≤ 30 then markAbsent d x s else s
  | none => s
def execAgeingUpdate (d plot : Nat) (v : BitVec 64) (s : State) : Out := .next (ageingDo d plot v s)

/-- The last 64 of a list. -/
def last64 {α : Type} (xs : List α) : List α := xs.drop (xs.length - 64)

/-- Width, state and CRC failures of a module (17 R399, R405). -/
def Module.health (m : Module) : List Nat :=
  [if m.wide then 64 else 32, if !m.up then 2 else if m.retraining.isSome then 1 else 0, m.a.crcTotal + m.b.crcTotal]

/-- What the health record of die d holds now (17 R405): the modules of its edges, and on a bridge die its eight stations, its Ultra Ethernet
port, its DDR-5 channels and the isolation events of fabric sources. -/
def State.healthOf (s : State) (d : Nat) : HealthRec :=
  let edges := (dieEdges.zip (List.range 14)).filter fun e => e.1.1 = d || e.1.2 = d
  let bit (b : Bool) : Nat := if b then 1 else 0
  { ages := (List.range 20).map fun k => sget ageReset (d * 32 + k) s.ageing,
    corrected := (List.range 5).map fun k => sget 0 (8 * d + k) s.corrected,
    retired := s.retiredPages.filter fun p => keyTier (65536 * p) = 0 && keyHome (65536 * p) = d,
    channels := (s.retiredChans.filter fun c => c.1 = d).map (·.2),
    modules := edges.flatMap fun e => (List.range 8).flatMap fun k => (s.moduleOf (e.2 * 8 + k)).health,
    fabric := if d < 8 then []
      else (List.range 8).map (fun k => bit (s.ualink.getLsbD (8 * (d - 8) + k))) ++ [bit (s.uePorts.getLsbD (d - 8))] ++
        (List.range 8).map (fun k => bit (s.ddrUp.getLsbD (8 * (d - 8) + k))) ++ (last64 s.srcEvents).flatMap fun e => [e.1, e.2],
    thermal := (last64 s.thermal).flatMap fun e => [e.1, e.2] }

/-- Two records differ in what an event changes. -/
def HealthRec.changed (x y : HealthRec) : Bool :=
  x.retired ≠ y.retired || x.channels ≠ y.channels || x.modules ≠ y.modules || x.fabric ≠ y.fabric || x.thermal ≠ y.thermal

/-- Byte o of a health record of die d (17 R405): the indicators and the counts, and then parts whose format is open (DESIGN CHOICE, log
entry 10). -/
def HealthRec.byte (r : HealthRec) (d o : Nat) : Byte :=
  if o < 0xA0 then (leBytes (r.ages.getD (o / 8) 0).toNat 8).getD (o % 8) 0
  else if o < 0xC8 then (leBytes (r.corrected.getD ((o - 0xA0) / 8) 0) 8).getD (o % 8) 0
  else Config.healthByte d o (if o < 0x100 then [] else if o < 0x200 then r.retired.length :: r.retired ++ r.channels
    else if o < 0x300 then r.modules else if o < 0x800 then r.fabric else r.thermal)

/-- Firmware refreshes the health record of die d. -/
def healthDo (d : Nat) (s : State) : State := { s with health := sput d (s.healthOf d) s.health }
def execHealthRefresh (d : Nat) (s : State) : Out := .next (healthDo d s)

/-- Firmware refreshes the records hourly, and one that an event changes at once (17 R405). -/
def healthMc (s : State) : State :=
  let hour := s.datum % (3600 * 1000000 * s.mhz) = 0
  { s with health := (List.range 10).foldl (fun m d =>
      if hour || (s.healthOf d).changed (sget {} d s.health) then sput d (s.healthOf d) m else m) s.health }

/-! ## The host link (16 R374; 17 R388, R391) -/

/-- What a measurement index measures (17 R391). -/
def State.measured (s : State) (i : Nat) : List Nat :=
  match i with
  | 2 => [s.fw.image.toNat]
  | 3 => [s.fw.standbyImage.toNat]
  | 4 => (List.range 8).flatMap fun d => [sget 0 d s.skipcol, sget 0 d s.absent]
  | 5 => (if s.clockStore then 1 else 0) :: s.slotTabs.flatMap fun t => t.1 :: (if t.2.wc then 1 else 0) :: t.2.slots.flatMap fun x => [x.1, x.2]
  | 6 => s.pod :: s.parts.flatMap fun q => q.2.peers.flatMap fun e => [q.1, e.1, e.2]
  | _ => []

/-- Measurement block i: the SHA-384 digest of what it measures. -/
def State.measurement (s : State) (i : Nat) : Nat × List Byte := (i, Config.sha384 (Config.recordBytes i (s.measured i)))

/-- The blocks that a GET_MEASUREMENTS names. -/
def State.blocksOf (s : State) (i : Nat) : List (Nat × List Byte) :=
  if i = 255 then (List.range 6).map fun k => s.measurement (k + 1) else if 1 ≤ i && i ≤ 6 then [s.measurement i] else []

/-- The responses that are signed. -/
def spdmSigned : Config.Spdm → Bool
  | .challenge | .getMeasurements | .keyExchange => true
  | _ => false

/-- Both signatures over the hash of a transcript: RSASSA-3072, and SLH-DSA-SHA2-192s in an OpaqueData element of registry ID 0x7958. -/
def signatures (t : List Byte) : List Byte × Nat × List Byte := (Config.rsaSign (Config.sha384 t), 0x7958, Config.slhSign (Config.sha384 t))

/-- Physical function 0 answers a DOE object (17 R388, R391): an SPDM request, which joins the transcript, or IDE_KM, which programs the key
of a stream. The encodings, nonces and certificates are open (log entry 9). -/
def doeDo (req : List Byte) (s : State) : State :=
  let (k, s) := s.nextFree
  let body := Config.doeResponse k req
  match Config.doeObject req with
  | .spdm r i =>
    let t := (if r = .getVersion then [] else s.transcript) ++ req ++ body
    let blocks := if r = .getMeasurements then s.blocksOf i else []
    { s with out := s.out ++ [.doe { body := body, blocks := blocks, sign := if spdmSigned r then some (signatures t) else none }], transcript := t }
  | .ideKey x key => { s with out := s.out ++ [.doe { body := body }], ide := if x ≤ 8 then sset 0 x key s.ide else s.ide }
  | .other => { s with out := s.out ++ [.doe { body := body }] }
def execDoeRequest (req : List (BitVec 8)) (s : State) : Out := .next (doeDo req s)

/-- What the host's access does at its granule: read, write, FetchAdd, Swap, CAS. -/
def barEffect (t : Tr) (kind size data cmp : Nat) (s : State) : Option Nat × State :=
  let (bs, s) := s.readTr t size false
  let old := leNat bs
  let new : Option Nat := match kind with
    | 0 => none
    | 1 => some data
    | 2 => some (old + data)
    | 3 => some data
    | _ => if old = cmp % 256 ^ size then some data else none
  let s := match new with
    | some v => (s.writeTr t (leBytes v size) false).settle t.key
    | none => s
  (if kind = 1 then none else some old, s)

/-- An access of virtual function p to device memory: AID 0xFFC, unchecked and settled (10 R254). One that does not translate
completes with all ones or is dropped; one to a page whose KEY it does not own freezes the function and halts its partition; one to a host
page whose translation is asked for waits (17 R389). -/
def hostBarDo (p va kind size data cmp : Nat) (s : State) : State :=
  let answer (v : Option Nat) (s : State) : State :=
    match v with
    | some v => { s with out := s.out ++ [.barRead p (BitVec.ofNat 64 v)] }
    | none => s
  let ones : Option Nat := if kind = 1 then none else some (2 ^ 64 - 1)
  let whole := size = 4 || size = 8 || (kind ≤ 1 && 1 ≤ size && size ≤ 8)
  if s.vfOff p || !whole || 64 < va % 64 + size || (2 ≤ kind && va % size ≠ 0) then answer ones s
  else match s.translate p 8 va (if kind = 0 then .read else if kind = 1 then .write else .atomic) false with
    | (.ok t, s) =>
      if t.tier = 3 then answer ones s
      else if s.badAt t then
        answer ones (s.haltLine p .uncorrectable { hostStop .uncorrectable with aid := 0xFFC, addr := va, paddr := t.pa, tier := t.tier })
      else
        let (v, s) := barEffect t kind size data cmp (s.countHome s.hostBridge p va t (if kind = 0 then .read else .write))
        answer v s
    | (.fault .isolation _ _, s) =>
      let s := s.onPart p fun q => { q with vfFrozen := true }
      answer ones (s.haltLine p .isolation { hostStop .isolation with aid := 0xFFC, addr := va })
    | (.fault .writeBlocked _ _, s) => if kind = 1 then s.unitWrite p va (leBytes data size) else answer ones s
    | (.waits, s) =>
      { s with barWait := s.barWait ++ [⟨p, va, kind, size, data, cmp⟩] }
    | (_, s) => answer ones s

/-- The host's accesses that wait try again. -/
def barRetry (s : State) : State := s.barWait.foldl (fun s b => hostBarDo b.part b.va b.kind b.size b.data b.cmp s) { s with barWait := [] }

def execHostBarAccess (p : Nat) (va : BitVec 64) (kind size : Nat) (data cmp : BitVec 64) (s : State) : Out :=
  .next (hostBarDo p va.toNat kind size data.toNat cmp.toNat s)

/-! ## Registers of a virtual function (17 R390) -/

/-- Some lease of the partition exists, in any state but QUEUED launches. -/
def State.hasLease (s : State) (p : Nat) : Bool := s.leases.any fun l => l.part = p && !l.prologue && l.st ≠ .free

/-- The translation block (08 R197). TOPLOG of PXBASE keeps every value of its 5 bits; the spec gives 0 to 27, and a walk under 28 to 31 goes
as under a larger table (DESIGN CHOICE, log entry 100). -/
def mmuWrite (p o : Nat) (v : W64) (s : State) : State :=
  match o with
  | 0x00 => s.onPart p fun q => { q with pxbase := v &&& 0x0000FFFFFFFFFF1F }
  | 0x08 => s.onPart p fun q => { q with nthresh := if v &&& 0xFFFF = 0 then 1 else v &&& 0xFFFF }
  | 0x10 =>
    if nbits v.toNat 1 0 = 0 then tlbInvPageDo p v s
    else if nbits v.toNat 1 0 = 1 then tlbInvAllDo p s
    else s.onPart p fun q => { q with tlbErr := true }
  | _ => s

/-- A host ring (11 R278). -/
def ringWrite (p r o : Nat) (v : W64) (s : State) : State :=
  let x := s.ring p r
  match o with
  | 0x00 => if x.en then s else s.setRing p r { x with base := v &&& 0x81FFFFFFFFFFFF80 }
  | 0x08 => hrctlWrite p r v s
  | 0x10 => if x.en then s else s.setRing p r { x with idxBlk := v &&& 0x81FFFFFFFFFFFF80 }
  | 0x18 => hrdbDo p r s
  | _ => s

/-- Event queues and FQRES (11 R285, R287). -/
def eventWrite (p o : Nat) (v : W64) (s : State) : State :=
  if o = 0x80 then fqresDo p v s
  else if 0x80 < o then s
  else
    let k := o / 0x20
    let x := s.eq p k
    match o % 0x20 with
    | 0x00 => if x.en then s else s.setEq p k { x with base := v &&& 0x81FFFFFFFFFFFFC0 }
    | 0x08 => eqctlWrite p k v s
    | 0x18 => s.setEq p k { x with tail := v.toNat % 2 ^ 32 }
    | _ => s

/-- Batchers (13 R331). -/
def batcherWrite (p b o : Nat) (v : W64) (s : State) : State :=
  match o with
  | 0x00 => if (s.batcher p b).en then s else s.onBatcher p b fun x => { x with addr := v }
  | 0x08 => if eBit v 31 then bcctlEnableDo p b s else bcctlDisableDo p b s
  | 0x10 => bcdbDo p b s
  | _ => s

/-- The debug block (15 R354, R356). -/
def debugWrite (p o : Nat) (v : W64) (s : State) : State :=
  let d := s.dbg p
  let held := d.stopped || d.busy
  match o with
  | 0x00 => if held then s else s.onDbg p fun d => { d with tgt := v &&& 0xFFF, armed := true }
  | 0x08 => s.onDbg p fun d =>
      { d with ctl := v &&& 0x1F1F, armed := d.armed || (v.getLsbD 2 && !d.ctl.getLsbD 2),
               logPos := if v.getLsbD 3 && !d.ctl.getLsbD 3 then 0 else d.logPos }
  | 0x10 =>
    match nbits v.toNat 1 0 with
    | 1 => dbgStopDo p s
    | 2 => resumeDo p s
    | 3 => bitmapSyncDo p s
    | _ => s
  | 0x20 => s.onDbg p fun d => { d with at_ := v, armed := true }
  | 0x28 => s.onDbg p fun d => { d with bmap := v &&& 0x01FFFFFFFFFFFFF8 }
  | 0x30 => if held then s else s.onDbg p fun d => { d with dump := v &&& 0x01FFFFFFFFFFFFC0 }
  | 0x38 => if held then s else s.onDbg p fun d => { d with log := v &&& 0x01FFFFFFFFFFFFC0, logPos := 0 }
  | 0x40 => s.onDbg p fun d => { d with logLen := v / 64 * 64 }
  | 0x48 => replayDo p v.toNat s
  | _ => s

/-- Halt and context (16 R377). -/
def haltWrite (p o : Nat) (v : W64) (s : State) : State :=
  let free (f : Partition → Partition) : State := if s.hasLease p then s else s.onPart p f
  match o with
  | 0x08 => phaltDo p s
  | 0x10 => free fun q => { q with haltBase := v &&& 0x01FFFFFFFFFFFFC0 }
  | 0x18 => free fun q => { q with haltLen := v / 64 * 64 }
  | 0x20 => free fun q => { q with imgBase := v &&& 0x01FFFFFFFFF00000 }
  | 0x28 => free fun q => { q with imgLen := v }
  | 0x30 => preemptDo p v.toNat s
  | 0x38 => restoreDo p v.toNat s
  | _ => s

/-- A write of 8 bytes at BAR0 + off of virtual function p; one at an offset that no block defines is dropped. -/
def vfWrite (p off : Nat) (v : W64) (s : State) : State :=
  if off % 8 ≠ 0 then s
  else if off = 0x108 then rcbKill p v.toNat s
  else match off / 0x1000 with
    | 1 => mmuWrite p (off % 0x1000) v s
    | 2 => if off % 0x1000 < 0x400 then ringWrite p (off % 0x1000 / 0x40) (off % 0x40) v s else s
    | 3 => eventWrite p (off % 0x1000) v s
    | 4 => if off % 0x1000 < 0x80 then batcherWrite p (off % 0x1000 / 0x20) (off % 0x20) v s else s
    | 5 => debugWrite p (off % 0x1000) v s
    | 6 => haltWrite p (off % 0x1000) v s
    | _ => s

/-! ## What registers read as -/

def bitsAt (b : Bool) (k : Nat) : Nat := if b then 2 ^ k else 0

/-- 8 bytes of a binding-table entry (12 R311). -/
def Binding.word (b : Binding) (o : Nat) : Nat :=
  match o with
  | 0 => bitsAt b.valid 0 + b.owner % 4096 * 2 ^ 32 + b.holds % 65536 * 2 ^ 48
  | 8 => b.obj
  | 16 => b.base
  | _ => b.len

/-- Entries of slot table t that name partition p. -/
def State.shareOf (s : State) (t p : Nat) : Nat :=
  ((List.range 64).filter fun k => sget (0x80 + k) k (sget {} t s.slotTabs).slots = 0x80 + p).length

/-- A ring's, an event queue's or a batcher's register. -/
def ringRead (x : HostRing) (o : Nat) : Nat :=
  match o with
  | 0x00 => x.base.toNat
  | 0x08 => x.ctl.toNat
  | 0x10 => x.idxBlk.toNat
  | 0x18 => 0
  | 0x20 => x.expect % 2 ^ 32 * 2 ^ 32 + bitsAt x.waiting 1 + bitsAt x.active 0
  | _ => 2 ^ 64 - 1

def eventRead (x : EventQueue) (o : Nat) : Nat :=
  match o with
  | 0x00 => x.base.toNat
  | 0x08 => x.ctl.toNat
  | 0x10 => x.lost % 2 ^ 32 * 2 ^ 32 + x.head % 2 ^ 32
  | 0x18 => x.tail % 2 ^ 32
  | _ => 2 ^ 64 - 1

def batcherRead (x : Batcher) (o : Nat) : Nat :=
  match o with
  | 0x00 => x.addr.toNat
  | 0x08 => bitsAt x.en 31
  | 0x10 => 0
  | _ => x.step % 2 ^ 32 * 2 ^ 32 + x.state % 8

def debugRead (d : Debug) (o : Nat) : Nat :=
  match o with
  | 0x00 => d.tgt.toNat
  | 0x08 => d.ctl.toNat
  | 0x10 => 0
  | 0x18 => bitsAt d.stopped 0 + bitsAt d.busy 1 + bitsAt d.err 2 + d.reason % 256 * 256
  | 0x20 => d.at_.toNat
  | 0x28 => d.bmap.toNat
  | 0x30 => d.dump.toNat
  | 0x38 => d.log.toNat
  | 0x40 => d.logLen.toNat
  | 0x48 => 0
  | _ => 2 ^ 64 - 1

def haltRead (q : Partition) (o : Nat) : Nat :=
  match o with
  | 0x00 => q.pstate + q.pcause % 64 * 2 ^ 8 + q.records % 65536 * 2 ^ 16 + q.reclost % 65536 * 2 ^ 32
  | 0x08 => 0
  | 0x10 => q.haltBase.toNat
  | 0x18 => q.haltLen.toNat
  | 0x20 => q.imgBase.toNat
  | 0x28 => q.imgLen.toNat
  | 0x30 => 0
  | 0x38 => 0
  | 0x40 => bitsAt q.ctxBusy 0 + q.ctxResult % 8 * 2 + q.ctxCount % 65536 * 2 ^ 16
  | _ => 2 ^ 64 - 1

/-- What 8 bytes at BAR0 + off of virtual function p read as; all ones where no block defines the offset (17 R390). The reads that
clear ERR are events of their own. -/
def State.vfReads (s : State) (p off : Nat) : Nat :=
  let q := s.part p
  let ones := 2 ^ 64 - 1
  if off % 8 ≠ 0 then ones
  else if off = 0x100 then q.rootRcb.toNat
  else if off = 0x108 then 0
  else if off = 0x110 then bitsAt q.rcbkErr 1 + bitsAt q.rcbkBusy 0
  else if 0x180 ≤ off && off < 0x1C0 then
    sget 0 ((off - 0x180) / 8) s.skipcol * 2 ^ 16 + sget 0 ((off - 0x180) / 8) s.absent
  else if off = 0x1C0 then s.shareOf 40 p % 256 * 2 ^ 16 + s.shareOf 16 p % 256 * 2 ^ 8 + s.shareOf 0 p % 256
  else if 0x10000 ≤ off && off < 0x30000 then (sget {} ((off - 0x10000) / 32) q.bind).word (off % 32)
  else if 0x30000 ≤ off && off < 0x40000 then nbits (sget 0 ((off - 0x30000) / 16) q.peers) (off % 16 * 8 + 63) (off % 16 * 8)
  else match off / 0x1000 with
    | 1 =>
      (match off % 0x1000 with
      | 0x00 => q.pxbase.toNat
      | 0x08 => q.nthresh.toNat
      | 0x10 => 0
      | 0x18 => bitsAt q.tlbErr 1 + bitsAt q.tlbBusy 0
      | 0x20 => q.keymask0.toNat
      | 0x28 => q.keymask1.toNat
      | _ => ones)
    | 2 => if off % 0x1000 < 0x400 then ringRead (s.ring p (off % 0x1000 / 0x40)) (off % 0x40) else ones
    | 3 => if off % 0x1000 < 0x80 then eventRead (s.eq p (off % 0x1000 / 0x20)) (off % 0x20) else if off % 0x1000 = 0x80 then 0 else ones
    | 4 => if off % 0x1000 < 0x80 then batcherRead (s.batcher p (off % 0x1000 / 0x20)) (off % 0x20) else ones
    | 5 => debugRead q.dbg (off % 0x1000)
    | 6 => haltRead q (off % 0x1000)
    | _ => ones

/-- What 4 bytes of the physical function read as: the shape tables (12 R301), POD and PFSTAT (17 R393, R401), the health records
(17 R405). -/
def State.pfReads (s : State) (off : Nat) : Nat :=
  if off = 0x40 then s.pod
  else if off = 0x48 then bitsAt s.pfstat 0
  else if off = 0x50 || off = 0x54 || off = 0x58 || off = 0x5C then 0
  else if 0x20000 ≤ off && off < 0x20200 then sget 0 ((off - 0x20000) / 0x40 * 16 + off % 0x40 / 4) s.shapeTab
  else if 0x20200 ≤ off && off < 0x30000 then 0
  else if 0x40000 ≤ off && off < 0x4A000 then
    let d := (off - 0x40000) / 0x1000
    leNat ((List.range 4).map fun k => (sget {} d s.health).byte d (off % 0x1000 + k))
  else 2 ^ 32 - 1

/-! ## Firmware's writes of what software may only read (DESIGN CHOICE, log entry 46) -/

/-- Half k of a peer-table entry. -/
def putHalf (x k : Nat) (v : W64) : Nat := if k = 0 then x / 2 ^ 64 * 2 ^ 64 + v.toNat else x % 2 ^ 64 + v.toNat * 2 ^ 64

/-- The registers of partition p that firmware sets: ROOTRCB, KEYMASK0 and KEYMASK1, and the peer table. -/
def partitionFirmware (p off : Nat) (v : W64) (s : State) : State :=
  if off = 0x100 then s.fwWrote.onPart p fun q => { q with rootRcb := v }
  else if off = 0x1020 then s.fwWrote.onPart p fun q => { q with keymask0 := v }
  else if off = 0x1028 then s.fwWrote.onPart p fun q => { q with keymask1 := v ||| 0x8000000000000000 }
  else if 0x30000 ≤ off && off < 0x40000 && off % 8 = 0 then
    let i := (off - 0x30000) / 16
    s.fwWrote.onPart p fun q => { q with peers := sset 0 i (putHalf (sget 0 i q.peers) (off / 8 % 2) v) q.peers }
  else s

/-- Eight entries of a slot table from entry k on, taken from the bytes of v. -/
def eightSlots (m : SMap Nat) (k v : Nat) : SMap Nat :=
  (List.range 8).foldl (fun m i => sset (0x80 + (k + i)) (k + i) (nbits v (8 * i + 7) (8 * i) % 256) m) m

/-- Slot tables are staged: they take effect at the next cycle c with c mod 64 = 0 (12 R314). -/
def slotWrite (t o : Nat) (v : W64) (s : State) : State :=
  let x := sget {} t s.slotTabs
  let (m, wc) := x.staged.getD (x.slots, x.wc)
  let y := if o < 64 then (eightSlots m (o / 8 * 8) v.toNat, wc) else (m, v.getLsbD 0)
  { s.fwWrote with slotTabs := sput t { x with staged := some y } s.slotTabs }

/-- The package's own: POD, PFSTAT, the clock-store setting, the unit map, and the slot tables (kind and unit numbered together); at 0x70
which complex fails. -/
def packageFirmware (off : Nat) (v : W64) (s : State) : State :=
  if off = 0x40 then { s.fwWrote with pod := v.toNat % 1024 }
  else if off = 0x48 then { s.fwWrote with pfstat := v.getLsbD 0 }
  else if off = 0x70 then { s with fw := { s.fw with failedA := v.getLsbD 0, failedB := v.getLsbD 1 } }
  else if off = 0x60 then { s.fwWrote with clockStore := v.getLsbD 0 }
  else if 0x180 ≤ off && off < 0x1C0 then
    let d := (off - 0x180) / 8
    { s.fwWrote with skipcol := sset 0 d (Nat.min 4 (nbits v.toNat 18 16)) s.skipcol, absent := sset 0 d (nbits v.toNat 15 0) s.absent }
  else if 0x1000 ≤ off && off < 0x1000 + 128 * 48 then slotWrite ((off - 0x1000) / 128) (off % 128) v s
  else s

/-- A register write: function p < 64 a virtual function, 64 physical function 0, 65 + p firmware for partition p, 129 firmware
for the package (DESIGN CHOICE, log entry 46). -/
def registerDo (p off : Nat) (v : W64) (s : State) : State :=
  if p < 64 then s.vf p (vfWrite p off v)
  else if p = 64 then
    (if off = 0x50 then (if v = 1 then packageResetDo s else s)
    else if off = 0x58 then (if v.toNat < 64 then partitionResetDo v.toNat s else s)
    else s)
  else if p < 129 then partitionFirmware (p - 65) off v s
  else packageFirmware off v s

def execRegisterWrite (p off : Nat) (v : BitVec 64) (s : State) : Out := .next (registerDo p off v s)

end Sys2Proof.Machine
end

