-- ==== Sys2Proof/Machine/Engines.lean ====
section
/-! DEFINITION. Engines.lean: slot tables and what the shared engines begin in a cycle: copy engine clusters, slice operators and
launch cores (09 R217, 11 R282, 12 R314). -/

namespace Sys2Proof.Machine

/-! ## Slot tables (12 R314) -/

/-- Entry k: an untouched table gives slot k to partition k. -/
def SlotTable.entry (x : SlotTable) (k : Nat) : Nat := sget (0x80 + k % 64) (k % 64) x.slots

/-- The partition of entry k, when it is assigned. -/
def SlotTable.holder (x : SlotTable) (k : Nat) : Option Nat := if 128 ≤ x.entry k then some (x.entry k % 64) else none

/-- The partitions to which slot k is offered, in order. -/
def SlotTable.offers (x : SlotTable) (k : Nat) : List Nat :=
  if x.wc then ((List.range 64).filterMap fun j => x.holder (k + j)).eraseDups else (x.holder k).toList

/-- Table of an engine: kind 0 the copy engine cluster of a die, 1 its slice operators, 2 the launch cores of a bridge die. -/
def State.slotTable (s : State) (kind unit : Nat) : SlotTable := sget {} (kind * 16 + unit) s.slotTabs

/-- A staged table takes effect at a cycle c with c mod 64 = 0. -/
def swapTable (kind unit c : Nat) (s : State) : State :=
  let x := s.slotTable kind unit
  match x.staged with
  | some (m, wc) =>
    if c % 64 = 0 then { s with slotTabs := sput (kind * 16 + unit) { x with slots := m, wc := wc, staged := none } s.slotTabs } else s
  | none => s

/-! ## The order of accesses (10 R259) -/

/-- The AID of an access that the turn makes. -/
def State.turnAid (s : State) : Turn → Option Nat
  | .event (.homeAccess n) => (s.reqs.find? fun r => r.num = n).map (·.aid)
  | .event (.copySegment l k) => (s.lease? l).bind fun x => (x.cmd? k).map fun c => x.aidOf c.stream
  | .event (.ratomRequestArrival n) => ((s.ratoms ++ s.foreign).find? fun r => r.num = n).map (·.aid)
  | _ => none

/-- Turns of engines, which come before the accesses they begin. -/
def Turn.isCycle : Turn → Bool
  | .event (.slotTableCycle 0 _) => true
  | .event (.slotTableCycle 1 _) => true
  | _ => false

/-- Puts an access among those to come: the lowest AID first, and after those of its own (10 R259). -/
def State.insertAccess (s : State) (t : Turn) : List Turn → List Turn
  | [] => [t]
  | x :: r =>
    if x.isCycle then x :: s.insertAccess t r
    else match s.turnAid t, s.turnAid x with
      | some a, some b => if b ≤ a then x :: s.insertAccess t r else t :: x :: r
      | _, _ => t :: x :: r

/-- Unit after unit of commands begins. -/
def State.beginUnits (s : State) (xs : List (Nat × Nat)) : State :=
  { s with turn := xs.foldl (fun ts x => s.insertAccess (.event (.copySegment x.1 x.2)) ts) s.turn }

/-! ## Copy engine clusters (09 R217, R218) -/

/-- The lease's engines may act for it. -/
def Lease.active (l : Lease) : Bool := l.live && !l.frozen && !l.prologue

/-- The command can begin a unit now. While its lease is saved it goes on to the end of its segment only. -/
def State.copyReady (s : State) (c : Cmd) : Bool :=
  c.kind.moves && s.cmdGoes c && !((c.kind.fromDq || c.kind.toDq) && !s.cur.dqTurn c) && !(s.cur.saving && c.offset % 65536 = 0)

/-- The ready commands and cards of die d: those that wait first, in the order in which they became ready. -/
def State.copyWaiting (s : State) (d : Nat) : List (Nat × Nat) :=
  let ready := (s.leases.filter fun l => l.die = d && l.live && !l.prologue).flatMap fun l =>
    let f := s.focus l.id
    (l.cmds.filter f.copyReady).map fun c => (l.id, c.seq)
  s.copyOrder.filter ready.contains ++ ready.filter fun x => !s.copyOrder.contains x

def State.partOf (s : State) (l : Nat) : Nat := match s.lease? l with | some x => x.part | none => 64

/-- The first n units of the cycle, one for each command, partition after partition as the slot is offered. -/
def takeUnits (s : State) (ready : List (Nat × Nat)) : Nat → List Nat → List (Nat × Nat)
  | _, [] => []
  | n, p :: r =>
    let mine := (ready.filter fun x => s.partOf x.1 = p).take n
    mine ++ takeUnits s ready (n - mine.length) r

/-- One mc of die d's copy engine cluster: up to eight units begin, and a command served goes behind those not yet served. -/
def copyCycle (d : Nat) (s : State) : State :=
  let s := swapTable 0 d s.datum (s.acceptCards d 256)
  let ready := s.copyWaiting d
  let begun := takeUnits s ready 8 ((s.slotTable 0 d).offers s.datum)
  let onDie (x : Nat × Nat) : Bool := match s.lease? x.1 with | some l => l.die = d | none => true
  { s with copyOrder := s.copyOrder.filter (fun x => !onDie x) ++ ready.filter (fun x => !begun.contains x) ++ begun }.beginUnits begun

/-! ## Slice operators -/

/-- The commands of die d that have a slice operation ready. -/
def State.sliceWaiting (s : State) (d : Nat) : List (Nat × Nat) :=
  (s.leases.filter fun l => l.die = d && l.active).flatMap fun l =>
    let f := s.focus l.id
    (l.cmds.filter fun c => c.kind.slice && f.cmdGoes c).map fun c => (l.id, c.seq)

/-- One mc of die d's slice operators: one slice operation; a partition's commands go in turn. -/
def sliceCycle (d : Nat) (s : State) : State :=
  let s := swapTable 1 d s.datum s
  let ready := s.sliceWaiting d
  let pick (p : Nat) : Option (Nat × Nat) :=
    let mine := ready.filter fun x => s.partOf x.1 = p
    mine[s.datum % Nat.max 1 mine.length]?
  match ((s.slotTable 1 d).offers s.datum).findSome? pick with
  | some x => s.beginUnits [x]
  | none => s

/-! ## Launch cores -/

/-- Cycles of a launch core, at 1.0 GHz, that have begun before mc m. -/
def State.coreCycles (s : State) (m : Nat) : Nat := m * 1000 / s.mhz

/-- Cycle c of launch core u: one packet step. -/
def coreCycle (u c : Nat) (s : State) : State :=
  let s := swapTable 2 (8 + u) c s
  (((s.slotTable 2 (8 + u)).offers c).findSome? fun p => packetStep u c p s).getD s

/-- The cycles of launch core u that begin in this mc. -/
def coreMc (u : Nat) (s : State) : State :=
  let a := s.coreCycles s.datum
  (List.range (s.coreCycles (s.datum + 1) - a)).foldl (fun s k => coreCycle u (a + k) s) s

/-- One cycle of a shared engine: of kind 0 or 1 on field die `unit`, of kind 2 on bridge die `unit`. -/
def engineCycle (kind unit : Nat) (s : State) : State :=
  match kind with
  | 0 => copyCycle unit s
  | 1 => sliceCycle unit s
  | 2 => coreMc (unit % 2) s
  | _ => s

def execSlotTableCycle (kind unit : Nat) (s : State) : Out := .next (engineCycle kind unit s)

/-! ## The next action of one command -/

def CmdKind.listed : CmdKind → Bool
  | .outq | .wlapp | .wltake | .wlseal => true
  | _ => false

/-- One unit of command k of the lease in focus, by its kind. -/
def cmdUnit (k : Nat) (s : State) : State :=
  match s.cur.cmd? k with
  | none => s
  | some c =>
    if !s.cur.live || s.cur.prologue then s
    else if c.kind.moves then copyUnit k s
    else if s.cur.frozen then s
    else if c.kind.slice then sliceUnit k s
    else if c.kind.listed then cmdStep k (listUnit k) s
    else match c.kind with
      | .ratom => ratomSend k s
      | .kvget => cmdStep k (kvUnit k) s
      | .kvput => cmdStep k (kvUnit k) s
      | _ => s

def execCopySegment (l k : Nat) (s : State) : Out := .next (onLease l s (cmdUnit k))

/-- The commands that go on by themselves in every mc: requests of RATOM, list operations and pages of KVGET and KVPUT. -/
def State.unitEvents (s : State) : List Instr :=
  (s.leases.filter Lease.active).flatMap fun l =>
    let f := s.focus l.id
    (l.cmds.filter fun c => (c.kind.listed || c.kind = .ratom || c.kind = .kvget || c.kind = .kvput) && f.cmdGoes c).map
      fun c => .copySegment l.id c.seq

end Sys2Proof.Machine
end

