-- ==== Sys2Proof/Machine/Tick.lean ====
section
/-! DEFINITION. Tick.lean: the turn from one mc of the main clock to the next: what the mc that ends counts (14 R350), the counters
(14 R339-R342), stop edges (15 R355), and the list of everything that the engines do in the new mc (DESIGN CHOICE, log entry 1). -/

namespace Sys2Proof.Machine

/-! ## Classes of the stream heads (14 R350) -/

/-- CT waits for a value of another party: an outcome bit, an ACQ, a set or a JOIN. -/
def Lease.ctWaitsData (l : Lease) : Bool :=
  let w := l.ctWordAt
  match opcodeOf w with
  | 0x2B => (sget [] (nbits w.toNat 31 30) l.oq).isEmpty
  | 0x49 => l.ct.wait ≠ .none || l.sret.isEmpty
  | 0x3B => l.ct.wait ≠ .none
  | 0x47 => l.ct.wait ≠ .none
  | _ => false

/-- The group of the lease in focus as the results of its vc leave it, at the start of an mc in which its counter runs. -/
def State.vcTrial (s : State) : State := (s.groupOf s.cur).foldl (fun s l => asLease l s vcStart) s

/-- CP's head waits otherwise than for tokens or data that it could start with: held, stopped or by a wait of 14 R342. -/
def State.cpBusy (s : State) : Bool :=
  let x := s.cur.stream .cp
  s.cur.cpHold || x.stop.isSome || (match decode .cp (s.curWord .cp) with
    | .ok i => s.cpGo i (tokOf (s.curWord .cp)) ≠ .pause
    | .error _ => true)

/-- The class of a stream's head as an mc begins, unless it issues in it: 1 WAIT_DATA, 2 WAIT_BUSY, 3 EMPTY, 4 + q WAIT_TOKEN. A head of
CP that lacks tokens while a wait of 14 R342 holds it counts WAIT_BUSY (DEDUCED, log entry 90), as does that of a stream with a fault (16
R371). -/
def State.headClass (s : State) (st : Stream) : Nat :=
  let l := s.cur
  let x := l.stream st
  let w := if st = .ct then l.ctWordAt else s.curWord st
  let has := if st = .ct then decide (l.ct.missTo ≤ s.datum) else x.ring.has
  let data : Bool := match st with
    | .ct => l.ctWaitsData
    | .cp => (match decode .cp w with | .ok i => !s.vcTrial.cur.dataReady i | .error _ => false)
    | _ => false
  if s.faulted st then 2
  else if !has then 3
  else if st = .cp && s.vcTrial.cpBusy then 2
  else match (if st = .ct && l.ct.wdone then none else l.lacking st (tokOf w).wait) with
    | some q => 4 + q
    | none => if data then 1 else 2

/-- The class of a stream's head in this mc, and the queue of WAIT_TOKEN: 0 ISSUING, 1 WAIT_DATA, 2 WAIT_BUSY, 3 EMPTY, 4
WAIT_TOKEN. A head that does not issue has the class it had as the mc began, but for a wait or a miss of CT that began in it. -/
def State.classOf (s : State) (st : Stream) : Nat × Nat :=
  let l := s.cur
  let issues : Bool := match st with
    | .ct => decide (l.ct.did = s.datum + 1)
    | .cp => (decide (l.lastIssue = some l.vc) && !l.pause) || l.cpStart.isSome
    | _ => decide ((l.stream st).nextMc = s.datum + 1)
  if issues then (0, 0)
  else if s.faulted st then (2, 0)
  else if st = .ct && s.datum < l.ct.missTo then (3, 0)
  else if st = .ct && l.ctWaitsData && l.ct.wait ≠ .none then (1, 0)
  else
    let k := match sget 0 st.index l.heads with | 0 => s.headClass st | k => k
    if 4 ≤ k then (4, k - 4) else (k, 0)

/-- Counts the mc that ends for the lease in focus; a lease that is saved, stopped or halted counts nothing. -/
def countMc (s : State) : State :=
  if !s.cur.active then s
  else
    let put (l : Lease) (st : Stream) : Lease :=
      let (c, q) := s.classOf st
      let k := if c = 4 then 0x10 + q else 4 * st.index + c
      { l with ctrs := sset 0 k ((sget 0 k l.ctrs + 1) % 2 ^ 48) l.ctrs, cls := sset 0 st.index c l.cls }
    s.onCur fun l => { [Stream.ct, .ld, .cp, .sd].foldl put l with counted := (l.counted + 1) % 2 ^ 48 }

/-! ## The watchdog (16 R373) -/

/-- No page of the partition is on its way to another place or asked of the host: a head's data and a command's memory are within reach
(DESIGN CHOICE, log entry 108). -/
def State.pagesSettled (s : State) : Bool := (s.part s.cur.part).ats.isEmpty && (s.part s.cur.part).migr.isEmpty

/-- CT's word could leave step 4 now: its stamp, tokens, data, HOLD and GRP conditions are met, and CT is free (01 R34). -/
def State.ctHeadReady (s : State) : Bool :=
  let l := s.cur
  let t := tokOf l.ctWordAt
  s.ctRuns && !l.ct.wdone && s.regsWritten && !l.ctWaitsData && (l.lacking .ct t.wait).isNone && (!waitHold t.wait || s.ctDrained) &&
  (!waitGrp t.wait || (s.grpPass .ct).1)

/-- The head of a stream is ready: its tokens, data, HOLD, GRP and stamp conditions are met and its engine is free (01 R34). -/
def State.headReady (s : State) (st : Stream) : Bool :=
  s.pagesSettled && match st with
  | .ct => s.ctHeadReady
  | .cp => (match s.cpHead with | some i => s.cpGo i (tokOf (s.curWord .cp)) = .issue | none => false)
  | st => s.lsGoes st (tokOf (s.curWord st)) && !s.cur.fpFull

/-- Command c could move in this mc: nothing keeps it, some slot of its cluster is its partition's, and its memory is within reach. -/
def State.mayMove (s : State) (c : Cmd) : Bool :=
  c.kind.moves && s.cmdGoes c && !s.queueHeld c && s.pagesSettled &&
  (List.range 64).any fun k => ((s.slotTable 0 s.cur.die).offers k).contains s.cur.part

/-- Counts the mc that ends for the watchdog. -/
def watchMc (s : State) : State :=
  if !s.cur.active then s
  else
    let n (st : Stream) : Nat := if (s.classOf st).1 ≠ 0 && s.headReady st then sget 0 st.index s.cur.idle + 1 else 0
    let idle := [Stream.ct, .ld, .cp, .sd].foldl (fun m st => sset 0 st.index (n st) m) []
    let cmds := s.cur.cmds.map fun c =>
      if c.seen = (c.offset, c.sent, c.buf.length) && s.mayMove c then { c with still := c.still + 1 }
      else { c with seen := (c.offset, c.sent, c.buf.length), still := 0 }
    s.onCur fun l => { l with idle := idle, cmds := cmds }

/-! ## The counters (14 R339-R342) -/

/-- Accesses of one kind to spans of the window. -/
def spansOf (k : AccKind) (qs : List (Nat × Nat)) : List (AccKind × Nat × Nat) := qs.map fun q => (k, q)

/-- A row of a handle with its scale row. -/
def rowSpan (h : Handle) (p r : Nat) : List (Nat × Nat) :=
  ((hRowAt h p r).toNat, hRowBytes h) :: (if fmtScaled (hFmt h) then [(hScaleAt h p r, hScaleRow h)] else [])

/-- The window spans that MXBS reads in this vc: an entry at the start of its load slot, a row of the entry's tile in each vc of the
slot (DEDUCED, log entry 47), and a row of activations for the entry before (07 R179). -/
def State.bsReads (s : State) (a : ArrCmd) : List (Nat × Nat) :=
  let l := s.cur
  let st := bsStride l
  let i := (l.avc - a.t) % st
  let b := a.mcnt + (l.avc - a.t) / st
  let opens := i = 0 && b < hDim1 a.g1
  let loads := opens || (i ≠ 0 && a.entry = b + 1)
  let x := entExpert (if opens then bsEntry s a b else a.entNext)
  (if opens then [((hRowAt a.g1 0 b).toNat, 16)] else []) ++
  (if loads && i < Nat.min l.width (hDim1 a.g) && x < hDim2 a.g then rowSpan a.g x i else []) ++
  (if st ≤ l.avc - a.t && i < 64 && 64 * entBlk a.ent + i < hDim1 a.h then rowSpan a.h 0 (64 * entBlk a.ent + i) else [])

/-- The window spans that CP's head word reads or writes as it issues (06 R152-R154, R158; 07 R168, R175; 13 R327). -/
def State.cpSpans (s : State) (i : Instr) : List (AccKind × Nat × Nat) :=
  match i with
  | .vfrs _ _ h imm => spansOf .read [(hBase (s.handle h.toNat) + 4 * imm.toNat, 4)]
  | .vld _ _ h m imm => spansOf .read ((vldAddrs s.cur (hBase (s.handle h.toNat)) imm.toNat m.toNat).map fun a => (a, vldBytes m.toNat))
  | .vst _ _ h m imm => spansOf .write ((vldAddrs s.cur (hBase (s.handle h.toNat)) imm.toNat m.toNat).map fun a => (a, vldBytes m.toNat))
  | .cpWlapp _ _ h _ _ => spansOf .read [(hBase (s.handle h.toNat), 8)]
  | .mxmul _ h _ _ _ imm | .mxlut _ h _ _ _ imm =>
    if finOf imm || mcntOf imm = 0 then [] else spansOf .read (rowSpan (s.handle h.toNat) 0 0)
  | .mxbs _ h g _ _ _ =>
    spansOf .read (s.bsReads { seq := 0, kind := .bs, t := s.cur.arrNow, h := s.handle h.toNat, g := s.handle g.toNat,
                               g1 := s.handle (g.toNat + 1), mcnt := s.cur.bsStart })
  | .mxld _ g _ _ =>
    let x := s.handle g.toNat
    if hSpace x = spScratch && 0 < hDim1 x then spansOf .read (rowSpan x 0 0) else []
  | .mxcfg _ h imm =>
    let item := imm.toNat / 2 ^ 16
    if item = 3 then [] else spansOf .read [(hBase (s.handle h.toNat), if item = 2 then 528 else 4 * s.cur.width)]
  | .selk _ h g k _ =>
    let x := s.handle h.toNat
    let o := s.handle (g.toNat + 1)
    spansOf .read ((hBase (s.handle g.toNat), 0x440) :: (List.range (hDim1 x)).map fun r => ((hRowAt x 0 r).toNat, hRowBytes x)) ++
      spansOf .write ((List.range k.toNat).map fun i => ((hRowAt o 0 i).toNat, 4 * hDim1 x))
  | _ => []

/-- The window spans that the array reads or writes in this vc: activation rows, what MXBS reads, weight rows, and rows emitted to a
tensor (07 R167, R172, R177-R179). -/
def State.arraySpans (s : State) : List (AccKind × Nat × Nat) :=
  let l := s.cur
  if l.fifoHeld then []
  else
    let feeds := (l.arr.filter fun a => a.feeding && !a.stopped && a.t ≤ l.avc).flatMap fun a =>
      match a.kind with
      | .bs => s.bsReads a
      | _ =>
        if finOf a.imm || !(a.t + a.taken ≤ l.avc) || !(a.taken < hDim1 a.h) then [] else rowSpan a.h 0 a.taken
    let load := match l.load with
      | some x => if hSpace x.g = spScratch && x.next < hDim1 x.g then rowSpan x.g 0 x.next else []
      | none => []
    let emits := (l.rowE.filter fun e => e.emit && e.due ≤ l.avc).flatMap fun e =>
      match l.arrCmd? e.cmd with
      | some a => if dstOf a.f = 0 then rowSpan (if a.kind = .bs then a.g2 else a.g) e.plane e.out else []
      | none => []
    spansOf .read (feeds ++ load) ++ spansOf .write emits

/-- The window spans that CP and the array want in this vc. -/
def State.wants (s : State) : List (AccKind × Nat × Nat) :=
  let u := s.vcTrial
  let cp := match u.cpHead with
    | some i => if u.cpGo i (tokOf (u.curWord .cp)) = .issue then u.cpSpans i else []
    | none => []
  cp ++ s.arraySpans

/-- The banks of those spans. -/
def State.bankWants (s : State) : List Nat :=
  (s.wants.flatMap fun x =>
    let q := x.2
    ((List.range (q.2 / 512 + 2)).filter fun k => (q.1 / 512 + k) * 512 < q.1 + q.2).map fun k =>
      s.cur.bankOf ((q.1 / 512 + k) * 512)).eraseDups

/-- The agents whose entries of CP's knowledge vector the race checks of those spans read and the sequencer does not cache
(10 R251). -/
def State.knowMisses (s : State) : List Nat :=
  let l := s.cur
  if l.race = 0 || !s.clockStore || l.replay.isSome then []
  else
    let q := s.part l.part
    ((s.wants.flatMap fun x => (granulesOf x.2.1 x.2.2).flatMap fun g =>
      q.asks (l.aidOf .cp) (Meta.read (s.meta_ (l.winKey g)) q.gen)).filter fun a => !l.knows .cp a).eraseDups

/-- The knowledge-vector fetch of the lease in focus: begun, under way, or at its end. -/
def knowStep (s : State) : State :=
  match s.cur.kfetch, s.knowMisses with
  | none, [] => s
  | _, [] => s.onCur fun l => { l with kfetch := none }
  | none, _ => s.onCur fun l => { l with kfetch := some (s.datum + knowMc) }
  | some t, xs => if s.datum < t then s else (xs.foldl (fun s a => s.fetchKnow .cp a) s).onCur fun l => { l with kfetch := none }

/-- The banks in which an access of CP or the array waits behind a copy-engine access in this vc, at most three mc in a row in each
(08 R190). -/
def State.bankBlocks (s : State) : List Nat :=
  let l := s.cur
  if l.banks.isEmpty then []
  else s.bankWants.filter fun b => sget 0 b l.bankWait < 3 && l.banks.any fun x => l.bankOf (512 * x.1) = b

def State.bankConflict (s : State) : Bool := !s.bankBlocks.isEmpty

/-- The causes of 14 R341 in the parcel in focus: the head of CP, with the results of this vc written (19 R408) and its emissions made
(07 R184), waits for tokens or a data queue, or chain back-pressure; a bank conflict and a knowledge-vector fetch stand beside them. -/
def State.pauses (s : State) : Bool :=
  let l := s.cur
  l.backPressure || s.bankConflict || l.kfetch.isSome ||
  (let u := s.vcTrial
   match u.cpHead with
   | some i => u.cpGo i (tokOf (u.curWord .cp)) = .pause
   | none => false)

/-- For how many mc accesses have waited in their banks, after one more in `blocks`; one served in its fourth stays served while others
of the same vc wait (08 R190). -/
def bankWaits (blocks : List Nat) (m : SMap Nat) : SMap Nat :=
  if blocks.isEmpty then []
  else blocks.foldl (fun m b => sset 0 b (sget 0 b m + 1) m) (m.filter fun x => blocks.contains x.1 || 3 ≤ x.2)

/-- The classes of the heads of the lease in focus as an mc begins. -/
def State.headClasses (s : State) : SMap Nat :=
  [Stream.ct, .ld, .cp, .sd].foldl (fun m st => sset 0 st.index (s.headClass st) m) []

/-- The pause flags of the new mc: a cause in any parcel pauses its group; and the classes with which its heads begin it. -/
def setPauses (s : State) : State :=
  let s := s.mapLeases fun l => if l.pause then { l with pause := false } else l
  let act := s.leases.filter Lease.active
  let s := act.foldl (fun s l => asLease l.id s knowStep) s
  let act := s.leases.filter Lease.active
  let held := (act.filter fun l => (s.focus l.id).pauses).flatMap s.groupOf
  let waits := (act.filter fun l => !l.banks.isEmpty).map fun l => (l.id, (s.focus l.id).bankBlocks)
  let classes := act.map fun l => (l.id, (s.focus l.id).headClasses)
  s.mapLeases fun l =>
    let bs := match waits.find? fun x => x.1 = l.id with | some x => x.2 | none => []
    let cs := match classes.find? fun x => x.1 = l.id with | some x => x.2 | none => []
    { l with pause := held.contains l.id, banks := [], bankWait := bankWaits bs l.bankWait, heads := cs }

/-- The counters of the groups that ran through the mc that ends. -/
def advanceCounters (s : State) : State :=
  { s with datum := (s.datum + 1) % 2 ^ 64 }.mapLeases fun l =>
    if l.active && !l.pause then { l with vc := (l.vc + 1) % 2 ^ 64 } else l

/-- An AT at CP's head is consumed as it reaches it (14 R343), unless it breaks first (15 R361). -/
def passAt : Nat → State → State
  | 0, s => s
  | n + 1, s =>
    if !(s.cur.stream .cp).ring.has then s
    else match decode .cp (s.curWord .cp) with
      | .ok (.atPin _ rel tg) => if s.streamRuns .cp && !s.headBroken .cp then passAt n ((atPinDo rel tg s).passBody .cp 255) else s
      | _ => s

/-- What stands ready at the heads before the new mc: body words of an exhausted REP are passed over, and ATs consumed. -/
def settleHeads (l : Nat) (s : State) : State :=
  asLease l s fun s => passAt 64 (((s.passBody .ld 255).passBody .cp 255).passBody .sd 255)

/-! ## What a partition has due -/

/-- Stop edges of partition p (15 R355, R356), that of a replay whose log has ended among them. -/
def debugMc (p : Nat) (s : State) : State :=
  let s := stopVcDo p s
  let s := match s.targetOf p with
    | some t => (s.groupOf t).foldl (fun s l => breakStops l s) s
    | none => s
  let s := if s.sampleDue p then sampleDo p s else s
  stopEdgeDo p (replayEndDo p s)

/-- Registers and units of partition p that act on their own. -/
def partitionMc (p : Nat) (s : State) : State :=
  let now := s.datum
  let s := if (s.part p).sweeps.any fun x => x.2 ≤ now then sweepEnds p s else s
  let s := batchDue p s
  let s := if (s.part p).tlbBusy then tlbInvDoneDo p s else s
  let s := if (s.part p).atsBarrier.isEmpty then s else atsSettle p s
  let s := s.settleCtx p
  s.onPart p fun q => { q with rcbkBusy := false }

/-- Events of partition p. -/
def State.partitionEvents (s : State) (p : Nat) : List Instr :=
  let q := s.part p
  s.acqEvents p ++ s.bargEvents p ++ (if !q.faultWait.isEmpty && !(s.eq p 0).full then [Instr.faultEntryWrite p] else []) ++
  q.stopLeft.map fun _ => .engineHaltStop p 0

/-! ## What a lease has due -/

/-- Events of a lease's traps. -/
def Lease.trapEvents (l : Lease) : List Instr :=
  (if !l.pendingStops.isEmpty || !l.folds.isEmpty then [.trapEntry l.id] else []) ++
  (if l.ct.trapCtl.getLsbD 3 then [.uirqDelivery l.id] else [])

/-- Events of a lease after its words: the pin and rows. -/
def State.leaseEvents (s : State) (l : Lease) : List Instr :=
  (if l.pin.isSome then [.scheduleMiss l.id] else []) ++ (if l.stalled.isSome || l.stuck.isSome then [.watchdogExpiry l.id] else []) ++
  [.chainRowEnter l.id] ++
  (match l.load with
    | some x => (x.out.filter fun o => o.2 ≤ s.datum).map fun o => .mxldRowArrival l.id o.1
    | none => [])

/-- The words and events of the new mc, in their order (DESIGN CHOICE, log entry 1); accesses that reach memory in one mc go lowest AID
first (10 R259), and a request waits while no route leads to its home (17 R420). -/
def State.plan (s : State) : List Turn :=
  let on := s.leases.filter Lease.active
  let ev (l : List Instr) : List Turn := l.map Turn.event
  let ring (l : Lease) : List Turn := [.word l.id .ld, .word l.id .cp, .word l.id .sd]
  let staged (k u : Nat) : Bool := (s.slotTable k u).staged.isSome
  let engines := (List.range 8).flatMap fun d =>
    if (s.leases.any fun l => l.live && l.die = d && !l.cmds.isEmpty) || staged 0 d || staged 1 d
      then [Instr.slotTableCycle 0 d, .slotTableCycle 1 d] else []
  let cores := if (s.parts.any fun q => !q.2.rings.isEmpty) || staged 2 8 || staged 2 9
    then [Instr.slotTableCycle 2 8, .slotTableCycle 2 9] else []
  let arrives (i : Instr) : Bool := match i with | .ratomRequestArrival _ => true | _ => false
  let homes := (s.reqs.filter fun r => r.atHome && !r.back && r.due ≤ s.datum && (s.route r.die (keyHome r.key)).isSome).map fun r =>
    Instr.homeAccess r.num
  let accesses := sortBy (fun t => (s.turnAid t).getD 0) (ev (homes ++ s.ratomEvents.filter arrives ++ s.unitEvents))
  ev (on.map fun l => .vectorWriteback l.id) ++ on.flatMap ring ++ (sortBy Lease.aid on).map (fun l => .word l.id .ct) ++
  ev (on.flatMap s.leaseEvents) ++ ev engines ++ accesses ++
  ev cores ++ ev (s.linkEvents ++ s.ratomEvents.filter (fun i => !arrives i) ++ s.wlEvents.1) ++
  ev (on.map fun l => .completion l.id) ++
  ev (s.parts.flatMap fun q => s.partitionEvents q.1) ++ ev (s.regionEvents ++ s.shapeEvents) ++
  ev (on.flatMap Lease.trapEvents) ++ ev s.swapEvents

/-! ## The tick -/

/-- The trace records of the mc enter their queues: in ascending stream index, then AID (15 R362). -/
def flushTraces (s : State) : State :=
  let put (s : State) (r : Nat × Nat × Nat × List Byte) : State :=
    s.eqPutOrLose r.1 3 fun h => r.2.2.2.take 4 ++ leBytes h 4 ++ r.2.2.2.drop 8
  (sortBy (fun r => r.2.1 * 4096 + r.2.2.1) s.traces).foldl put { s with traces := [] }

/-- A result that would come back now, with no route from its home, is back an mc later (17 R420). -/
def Req.waitsBack (r : Req) (s : State) : State :=
  let t := s.datum + 1
  let s := { s with reqs := s.reqs.map fun x => if x.num = r.num then { x with due := t } else x }
  asLease r.lease s fun s => s.onCur fun l =>
    { l with doneQ := l.doneQ.map fun d => if d.stream = .ct && d.slot = r.slot && d.due = r.due then { d with due := t } else d,
             ct := { l.ct with ready := if r.dreg ≠ 0 && sget 0 r.dreg l.ct.ready = r.due then sset 0 r.dreg t l.ct.ready else l.ct.ready } }

/-- Results wait on the dies that the cut of a route parts from their homes. -/
def State.holdBack (s : State) : State :=
  if s.links.all fun x => x.2.up then s
  else (s.reqs.filter fun r => r.back && r.due ≤ s.datum && (s.route (keyHome r.key) r.die).isNone).foldl (fun s r => r.waitsBack s) s

/-- What the mc that ends has settled: results that have come back, held writes and inputs tried again, and no flag newly set (03 R83). -/
def settleMc (s : State) : State :=
  (barRetry s.holdBack.settleReqs.retryHeld).offerHeld.mapLeases fun l => if l.ct.nstatNow = 0 then l else { l with ct := { l.ct with nstatNow := 0 } }

/-- Every 10 us a standby that runs has applied what is written; every ms the active complex sends its heartbeat, or it is missed, and after
three the standby takes over (17 R402). Health records are refreshed (R405). -/
def firmwareMc (s : State) : State :=
  let f := s.fw
  let f := if s.datum % (10 * s.mhz) = 0 && !f.standbyFailed then { f with applied := f.written } else f
  let f := if s.datum % (1000 * s.mhz) = 0 then { f with missed := if f.activeFailed then f.missed + 1 else 0 } else f
  healthMc (updateTakes (standbyDo { s with fw := f }))

/-- The end of an mc and the beginning of the next. -/
def tickDo (s : State) : State :=
  let ids := s.leases.map fun l => l.id
  let ps := s.parts.map fun q => q.1
  let s := ids.foldl (fun s l => asLease l s fun s => watchMc (countMc s)) (flushTraces s)
  let s := settleMc (firmwareMc (advanceCounters s))
  let s := ids.foldl (fun s l => settleHeads l s) s
  let s := ps.foldl (fun s p => debugMc p s) s
  let s := ps.foldl (fun s p => partitionMc p s) s
  let s := s.linksSend
  let s := if s.links.any (fun x => !x.2.up) then s.requeue else s
  let s := ids.foldl (fun s l => replayMc l s) s.holdPairs
  let s := setPauses s
  let s := { s with wl := s.wlEvents.2.wl }
  { s with turn := s.turn ++ s.plan }

def execMainClockTick (s : State) : Out := .next (tickDo s)

end Sys2Proof.Machine
end

