-- ==== Sys2Proof/Machine/Dispatch.lean ====
section
/-! DEFINITION. Dispatch.lean: one arm for each constructor of Instr. -/

namespace Sys2Proof.Machine

def exec (i : Instr) (s : State) : Host.Outcome State Fault Refusal :=
  match i with
  | .ctNop t => Sys2Proof.Machine.execCtNop t s
  | .add t d a b => Sys2Proof.Machine.execAdd t d a b s
  | .sub t d a b => Sys2Proof.Machine.execSub t d a b s
  | .mul t d a b => Sys2Proof.Machine.execMul t d a b s
  | .mulh t d a b => Sys2Proof.Machine.execMulh t d a b s
  | .mulhu t d a b => Sys2Proof.Machine.execMulhu t d a b s
  | .div t d a b => Sys2Proof.Machine.execDiv t d a b s
  | .divu t d a b => Sys2Proof.Machine.execDivu t d a b s
  | .rem t d a b => Sys2Proof.Machine.execRem t d a b s
  | .remu t d a b => Sys2Proof.Machine.execRemu t d a b s
  | .and t d a b => Sys2Proof.Machine.execAnd t d a b s
  | .or t d a b => Sys2Proof.Machine.execOr t d a b s
  | .xor t d a b => Sys2Proof.Machine.execXor t d a b s
  | .shl t d a b => Sys2Proof.Machine.execShl t d a b s
  | .shr t d a b => Sys2Proof.Machine.execShr t d a b s
  | .sra t d a b => Sys2Proof.Machine.execSra t d a b s
  | .min t d a b => Sys2Proof.Machine.execMin t d a b s
  | .max t d a b => Sys2Proof.Machine.execMax t d a b s
  | .slt t d a b => Sys2Proof.Machine.execSlt t d a b s
  | .sltu t d a b => Sys2Proof.Machine.execSltu t d a b s
  | .clz t d a => Sys2Proof.Machine.execClz t d a s
  | .popc t d a => Sys2Proof.Machine.execPopc t d a s
  | .sext t d a w => Sys2Proof.Machine.execSext t d a w s
  | .zext t d a w => Sys2Proof.Machine.execZext t d a w s
  | .addi t d a imm => Sys2Proof.Machine.execAddi t d a imm s
  | .andi t d a imm => Sys2Proof.Machine.execAndi t d a imm s
  | .ori t d a imm => Sys2Proof.Machine.execOri t d a imm s
  | .xori t d a imm => Sys2Proof.Machine.execXori t d a imm s
  | .shli t d a imm => Sys2Proof.Machine.execShli t d a imm s
  | .shri t d a imm => Sys2Proof.Machine.execShri t d a imm s
  | .srai t d a imm => Sys2Proof.Machine.execSrai t d a imm s
  | .slti t d a imm => Sys2Proof.Machine.execSlti t d a imm s
  | .li t d imm => Sys2Proof.Machine.execLi t d imm s
  | .liwLo t d imm => Sys2Proof.Machine.execLiwLo t d imm s
  | .liwHi t d imm => Sys2Proof.Machine.execLiwHi t d imm s
  | .beq t a b off => Sys2Proof.Machine.execBeq t a b off s
  | .bne t a b off => Sys2Proof.Machine.execBne t a b off s
  | .blt t a b off => Sys2Proof.Machine.execBlt t a b off s
  | .bge t a b off => Sys2Proof.Machine.execBge t a b off s
  | .bltu t a b off => Sys2Proof.Machine.execBltu t a b off s
  | .bgeu t a b off => Sys2Proof.Machine.execBgeu t a b off s
  | .jmp t off => Sys2Proof.Machine.execJmp t off s
  | .jal t d off => Sys2Proof.Machine.execJal t d off s
  | .jr t d a imm => Sys2Proof.Machine.execJr t d a imm s
  | .brq t q sense off => Sys2Proof.Machine.execBrq t q sense off s
  | .loop t idx a step body => Sys2Proof.Machine.execLoop t idx a step body s
  | .endl t => Sys2Proof.Machine.execEndl t s
  | .lds t d a c imm => Sys2Proof.Machine.execLds t d a c imm s
  | .sts t a b c imm => Sys2Proof.Machine.execSts t a b c imm s
  | .amo t d a b c m imm => Sys2Proof.Machine.execAmo t d a b c m imm s
  | .cas t d a b c imm => Sys2Proof.Machine.execCas t d a b c imm s
  | .hset t d a q => Sys2Proof.Machine.execHset t d a q s
  | .hget t d a q => Sys2Proof.Machine.execHget t d a q s
  | .hmov t d a => Sys2Proof.Machine.execHmov t d a s
  | .hadv t d a axis => Sys2Proof.Machine.execHadv t d a axis s
  | .hview t d a b sel => Sys2Proof.Machine.execHview t d a b sel s
  | .hclr t d => Sys2Proof.Machine.execHclr t d s
  | .issue t tgt n => Sys2Proof.Machine.execIssue t tgt n s
  | .issuer t tgt a => Sys2Proof.Machine.execIssuer t tgt a s
  | .ringset t tgt a b => Sys2Proof.Machine.execRingset t tgt a b s
  | .acq t a scope m => Sys2Proof.Machine.execAcq t a scope m s
  | .acqGrant p k => Sys2Proof.Machine.execAcqGrant p k s
  | .rel t a scope m => Sys2Proof.Machine.execRel t a scope m s
  | .fence t scope m => Sys2Proof.Machine.execFence t scope m s
  | .barg t a scope m => Sys2Proof.Machine.execBarg t a scope m s
  | .bargArrival p k => Sys2Proof.Machine.execBargArrival p k s
  | .bargComplete p k => Sys2Proof.Machine.execBargComplete p k s
  | .bind t a b c m idx => Sys2Proof.Machine.execBind t a b c m idx s
  | .unbind t m idx => Sys2Proof.Machine.execUnbind t m idx s
  | .split t shape ori acc => Sys2Proof.Machine.execSplit t shape ori acc s
  | .splitChange l => Sys2Proof.Machine.execSplitChange l s
  | .fuse t dy dx shape ori acc => Sys2Proof.Machine.execFuse t dy dx shape ori acc s
  | .fuseChange l => Sys2Proof.Machine.execFuseChange l s
  | .chain t dy dx shape ori => Sys2Proof.Machine.execChain t dy dx shape ori s
  | .chainChange l => Sys2Proof.Machine.execChainChange l s
  | .unchain t dy dx shape ori => Sys2Proof.Machine.execUnchain t dy dx shape ori s
  | .unchainChange l => Sys2Proof.Machine.execUnchainChange l s
  | .orient t ori acc => Sys2Proof.Machine.execOrient t ori acc s
  | .orientChange l => Sys2Proof.Machine.execOrientChange l s
  | .spawn t d a b n => Sys2Proof.Machine.execSpawn t d a b n s
  | .join t d a => Sys2Proof.Machine.execJoin t d a s
  | .joinComplete l => Sys2Proof.Machine.execJoinComplete l s
  | .kill t a => Sys2Proof.Machine.execKill t a s
  | .killSelf t => Sys2Proof.Machine.execKillSelf t s
  | .killComplete l => Sys2Proof.Machine.execKillComplete l s
  | .quies t d a => Sys2Proof.Machine.execQuies t d a s
  | .quiesComplete l => Sys2Proof.Machine.execQuiesComplete l s
  | .cbld t a slot => Sys2Proof.Machine.execCbld t a slot s
  | .xload t a slot => Sys2Proof.Machine.execXload t a slot s
  | .xunld t slot => Sys2Proof.Machine.execXunld t slot s
  | .bupd t a b => Sys2Proof.Machine.execBupd t a b s
  | .affp t a b pf => Sys2Proof.Machine.execAffp t a b pf s
  | .rdcyc t d => Sys2Proof.Machine.execRdcyc t d s
  | .rdvc t d => Sys2Proof.Machine.execRdvc t d s
  | .pcsel t m => Sys2Proof.Machine.execPcsel t m s
  | .pcrd t d idx => Sys2Proof.Machine.execPcrd t d idx s
  | .clkrd t d a sel => Sys2Proof.Machine.execClkrd t d a sel s
  | .trap t imm => Sys2Proof.Machine.execTrap t imm s
  | .eret t => Sys2Proof.Machine.execEret t s
  | .tren t => Sys2Proof.Machine.execTren t s
  | .uiret t => Sys2Proof.Machine.execUiret t s
  | .csrr t d num => Sys2Proof.Machine.execCsrr t d num s
  | .csrw t a num => Sys2Proof.Machine.execCsrw t a num s
  | .yield t => Sys2Proof.Machine.execYield t s
  | .endTask t => Sys2Proof.Machine.execEndTask t s
  | .taskRetire l => Sys2Proof.Machine.execTaskRetire l s
  | .tmark t tag => Sys2Proof.Machine.execTmark t tag s
  | .lgo t => Sys2Proof.Machine.execLgo t s
  | .lcancel t => Sys2Proof.Machine.execLcancel t s
  | .lrepeat t => Sys2Proof.Machine.execLrepeat t s
  | .lsNop t => Sys2Proof.Machine.execLsNop t s
  | .copy t dh sh scope => Sys2Proof.Machine.execCopy t dh sh scope s
  | .copyDq t dh sh scope => Sys2Proof.Machine.execCopyDq t dh sh scope s
  | .copyp t dh sh xh dq scope => Sys2Proof.Machine.execCopyp t dh sh xh dq scope s
  | .gath t dh sh xh dq scope m => Sys2Proof.Machine.execGath t dh sh xh dq scope m s
  | .scat t dh sh xh dq scope => Sys2Proof.Machine.execScat t dh sh xh dq scope s
  | .pref t sh scope => Sys2Proof.Machine.execPref t sh scope s
  | .flush t sh scope => Sys2Proof.Machine.execFlush t sh scope s
  | .inval t sh scope => Sys2Proof.Machine.execInval t sh scope s
  | .dcmpf t sh scope => Sys2Proof.Machine.execDcmpf t sh scope s
  | .atomv t dh sh dq scope m => Sys2Proof.Machine.execAtomv t dh sh dq scope m s
  | .rread t dh sh dq scope => Sys2Proof.Machine.execRread t dh sh dq scope s
  | .rwrite t dh sh dq scope => Sys2Proof.Machine.execRwrite t dh sh dq scope s
  | .rwriteWin t dh sh dq scope => Sys2Proof.Machine.execRwriteWin t dh sh dq scope s
  | .ratom t dh sh xh scope m same w64 fetch => Sys2Proof.Machine.execRatom t dh sh xh scope m same w64 fetch s
  | .kvget t xh scope m peer => Sys2Proof.Machine.execKvget t xh scope m peer s
  | .kvput t xh scope m peer => Sys2Proof.Machine.execKvput t xh scope m peer s
  | .job t sh scope n => Sys2Proof.Machine.execJob t sh scope n s
  | .lsRep t cnt len => Sys2Proof.Machine.execLsRep t cnt len s
  | .outq t sh scope m imm => Sys2Proof.Machine.execOutq t sh scope m imm s
  | .wlapp t dh sh scope m => Sys2Proof.Machine.execWlapp t dh sh scope m s
  | .wltake t dh sh scope m max list => Sys2Proof.Machine.execWltake t dh sh scope m max list s
  | .wlseal t sh scope stream => Sys2Proof.Machine.execWlseal t sh scope stream s
  | .lsTmark t tag => Sys2Proof.Machine.execLsTmark t tag s
  | .cpNop t => Sys2Proof.Machine.execCpNop t s
  | .mxld t g pro sgn => Sys2Proof.Machine.execMxld t g pro sgn s
  | .mxldRowArrival l j => Sys2Proof.Machine.execMxldRowArrival l j s
  | .mxswap t => Sys2Proof.Machine.execMxswap t s
  | .mxmul t h g acc f imm => Sys2Proof.Machine.execMxmul t h g acc f imm s
  | .mxlut t h g acc f imm => Sys2Proof.Machine.execMxlut t h g acc f imm s
  | .mxcfg t h imm => Sys2Proof.Machine.execMxcfg t h imm s
  | .mxbs t h g acc f imm => Sys2Proof.Machine.execMxbs t h g acc f imm s
  | .mxdrain t g acc f imm => Sys2Proof.Machine.execMxdrain t g acc f imm s
  | .mxzero t acc => Sys2Proof.Machine.execMxzero t acc s
  | .mxrd t acc v r => Sys2Proof.Machine.execMxrd t acc v r s
  | .mxwr t acc v r => Sys2Proof.Machine.execMxwr t acc v r s
  | .chainRowEnter l => Sys2Proof.Machine.execChainRowEnter l s
  | .atPin t rel target => Sys2Proof.Machine.execAtPin t rel target s
  | .scheduleMiss l => Sys2Proof.Machine.execScheduleMiss l s
  | .cpRep t cnt len => Sys2Proof.Machine.execCpRep t cnt len s
  | .selk t h g k cnt => Sys2Proof.Machine.execSelk t h g k cnt s
  | .cpTmark t tag => Sys2Proof.Machine.execCpTmark t tag s
  | .vadd t d a b => Sys2Proof.Machine.execVadd t d a b s
  | .vsub t d a b => Sys2Proof.Machine.execVsub t d a b s
  | .vmul t d a b => Sys2Proof.Machine.execVmul t d a b s
  | .vfma t d a b c => Sys2Proof.Machine.execVfma t d a b c s
  | .vfms t d a b c => Sys2Proof.Machine.execVfms t d a b c s
  | .vfnma t d a b c => Sys2Proof.Machine.execVfnma t d a b c s
  | .vmin t d a b => Sys2Proof.Machine.execVmin t d a b s
  | .vmax t d a b => Sys2Proof.Machine.execVmax t d a b s
  | .vabs t d a => Sys2Proof.Machine.execVabs t d a s
  | .vneg t d a => Sys2Proof.Machine.execVneg t d a s
  | .vdiv t d a b m => Sys2Proof.Machine.execVdiv t d a b m s
  | .vsqrt t d a => Sys2Proof.Machine.execVsqrt t d a s
  | .vrcp t d a => Sys2Proof.Machine.execVrcp t d a s
  | .vrsq t d a => Sys2Proof.Machine.execVrsq t d a s
  | .vexp2 t d a => Sys2Proof.Machine.execVexp2 t d a s
  | .vlog2 t d a => Sys2Proof.Machine.execVlog2 t d a s
  | .vtab t d a tab => Sys2Proof.Machine.execVtab t d a tab s
  | .vscale t d a k => Sys2Proof.Machine.execVscale t d a k s
  | .viadd t d a b m => Sys2Proof.Machine.execViadd t d a b m s
  | .visub t d a b m => Sys2Proof.Machine.execVisub t d a b m s
  | .vimul t d a b m => Sys2Proof.Machine.execVimul t d a b m s
  | .vimad t d a b c => Sys2Proof.Machine.execVimad t d a b c s
  | .vand t d a b => Sys2Proof.Machine.execVand t d a b s
  | .vor t d a b => Sys2Proof.Machine.execVor t d a b s
  | .vxor t d a b => Sys2Proof.Machine.execVxor t d a b s
  | .vnot t d a => Sys2Proof.Machine.execVnot t d a s
  | .vshl t d a b => Sys2Proof.Machine.execVshl t d a b s
  | .vshr t d a b => Sys2Proof.Machine.execVshr t d a b s
  | .vsra t d a b => Sys2Proof.Machine.execVsra t d a b s
  | .vimin t d a b m => Sys2Proof.Machine.execVimin t d a b m s
  | .vimax t d a b m => Sys2Proof.Machine.execVimax t d a b m s
  | .vcmp t d a b m => Sys2Proof.Machine.execVcmp t d a b m s
  | .vsel t d a b c => Sys2Proof.Machine.execVsel t d a b c s
  | .vclass t d a => Sys2Proof.Machine.execVclass t d a s
  | .vcvt t d a fa fb sat => Sys2Proof.Machine.execVcvt t d a fa fb sat s
  | .vpack t d a b fa fb sat => Sys2Proof.Machine.execVpack t d a b fa fb sat s
  | .vunpk t d a b fa fb sat => Sys2Proof.Machine.execVunpk t d a b fa fb sat s
  | .vqnt t d a fa fb sat => Sys2Proof.Machine.execVqnt t d a fa fb sat s
  | .vdeq t d a fa fb sat => Sys2Proof.Machine.execVdeq t d a fa fb sat s
  | .vred t d a m => Sys2Proof.Machine.execVred t d a m s
  | .vscan t d a m => Sys2Proof.Machine.execVscan t d a m s
  | .vperm t d a b g => Sys2Proof.Machine.execVperm t d a b g s
  | .vrot t d a g k => Sys2Proof.Machine.execVrot t d a g k s
  | .vbcast t d a g n => Sys2Proof.Machine.execVbcast t d a g n s
  | .vslide t d a g k => Sys2Proof.Machine.execVslide t d a g k s
  | .vidx t d a g step => Sys2Proof.Machine.execVidx t d a g step s
  | .vpart t d a b g kind => Sys2Proof.Machine.execVpart t d a b g kind s
  | .vmov t d a => Sys2Proof.Machine.execVmov t d a s
  | .vli t d imm => Sys2Proof.Machine.execVli t d imm s
  | .vliHi t d imm => Sys2Proof.Machine.execVliHi t d imm s
  | .vtos t d m lane => Sys2Proof.Machine.execVtos t d m lane s
  | .vfrs t d h imm => Sys2Proof.Machine.execVfrs t d h imm s
  | .vpop t d => Sys2Proof.Machine.execVpop t d s
  | .vpush t d => Sys2Proof.Machine.execVpush t d s
  | .vout t d m imm => Sys2Proof.Machine.execVout t d m imm s
  | .vld t d h m imm => Sys2Proof.Machine.execVld t d h m imm s
  | .vst t d h m imm => Sys2Proof.Machine.execVst t d h m imm s
  | .cpWlapp t d h m base => Sys2Proof.Machine.execCpWlapp t d h m base s
  | .xop t slot d a b c e => Sys2Proof.Machine.execXop t slot d a b c e s
  | .vectorWriteback l => Sys2Proof.Machine.execVectorWriteback l s
  | .completion l => Sys2Proof.Machine.execCompletion l s
  | .slotTableCycle kind unit => Sys2Proof.Machine.execSlotTableCycle kind unit s
  | .copySegment l k => Sys2Proof.Machine.execCopySegment l k s
  | .homeAccess k => Sys2Proof.Machine.execHomeAccess k s
  | .trapEntry l => Sys2Proof.Machine.execTrapEntry l s
  | .uirqDelivery l => Sys2Proof.Machine.execUirqDelivery l s
  | .faultEntryWrite p => Sys2Proof.Machine.execFaultEntryWrite p s
  | .watchdogExpiry l => Sys2Proof.Machine.execWatchdogExpiry l s
  | .engineHaltStop p k => Sys2Proof.Machine.execEngineHaltStop p k s
  | .preemption l => Sys2Proof.Machine.execPreemption l s
  | .contextSave l => Sys2Proof.Machine.execContextSave l s
  | .imageDrain l => Sys2Proof.Machine.execImageDrain l s
  | .imageRestore l => Sys2Proof.Machine.execImageRestore l s
  | .launchPacket p r => Sys2Proof.Machine.execLaunchPacket p r s
  | .nopPacket p r => Sys2Proof.Machine.execNopPacket p r s
  | .invalidPacket p r => Sys2Proof.Machine.execInvalidPacket p r s
  | .prologueWatchdog l => Sys2Proof.Machine.execPrologueWatchdog l s
  | .prologueRepeat p r => Sys2Proof.Machine.execPrologueRepeat p r s
  | .dataFlitReceive m toB hdr payload crc => Sys2Proof.Machine.execDataFlitReceive m toB hdr payload crc s
  | .nakReceive m toB hdr => Sys2Proof.Machine.execNakReceive m toB hdr s
  | .idleFlit m toB hdr => Sys2Proof.Machine.execIdleFlit m toB hdr s
  | .replayTimerExpiry m atB => Sys2Proof.Machine.execReplayTimerExpiry m atB s
  | .retrainComplete m => Sys2Proof.Machine.execRetrainComplete m s
  | .ratomRequestArrival k => Sys2Proof.Machine.execRatomRequestArrival k s
  | .ratomResultArrival k => Sys2Proof.Machine.execRatomResultArrival k s
  | .ratomResendTimer k => Sys2Proof.Machine.execRatomResendTimer k s
  | .windowClose k => Sys2Proof.Machine.execWindowClose k s
  | .windowRetry k => Sys2Proof.Machine.execWindowRetry k s
  | .worklistItem d => Sys2Proof.Machine.execWorklistItem d s
  | .worklistSealApply d => Sys2Proof.Machine.execWorklistSealApply d s
  | .worklistTakeApply d => Sys2Proof.Machine.execWorklistTakeApply d s
  | .worklistQuiescence p desc => Sys2Proof.Machine.execWorklistQuiescence p desc s
  | .leaseGrant => Sys2Proof.Machine.execLeaseGrant s
  | .packageReset => Sys2Proof.Machine.execPackageReset s
  | .linkHotReset => Sys2Proof.Machine.execLinkHotReset s
  | .heartbeat => Sys2Proof.Machine.execHeartbeat s
  | .standbyTakeover => Sys2Proof.Machine.execStandbyTakeover s
  | .mainClockTick => Sys2Proof.Machine.execMainClockTick s
  | .ringPlacement l => Sys2Proof.Machine.execRingPlacement l s
  | .genSweep p => Sys2Proof.Machine.execGenSweep p s
  | .pageMigration p va newEntry => Sys2Proof.Machine.execPageMigration p va newEntry s
  | .fqres p v => Sys2Proof.Machine.execFqres p v s
  | .haltLineRise p cause => Sys2Proof.Machine.execHaltLineRise p cause s
  | .hrdb p r => Sys2Proof.Machine.execHrdb p r s
  | .hrctlEnable p r v => Sys2Proof.Machine.execHrctlEnable p r v s
  | .hrctlDisable p r v => Sys2Proof.Machine.execHrctlDisable p r v s
  | .eqctlEnable p q v => Sys2Proof.Machine.execEqctlEnable p q v s
  | .tlbinvPage p v => Sys2Proof.Machine.execTlbinvPage p v s
  | .tlbinvAll p => Sys2Proof.Machine.execTlbinvAll p s
  | .tlbinvDone p => Sys2Proof.Machine.execTlbinvDone p s
  | .tlbinvstatRead p => Sys2Proof.Machine.execTlbinvstatRead p s
  | .atsResponse p k present pa => Sys2Proof.Machine.execAtsResponse p k present pa s
  | .priResponse p k success => Sys2Proof.Machine.execPriResponse p k success s
  | .detourFixed a b path => Sys2Proof.Machine.execDetourFixed a b path s
  | .batchStep p b => Sys2Proof.Machine.execBatchStep p b s
  | .batchStepFail p b => Sys2Proof.Machine.execBatchStepFail p b s
  | .bcdb p b => Sys2Proof.Machine.execBcdb p b s
  | .bcctlEnable p b => Sys2Proof.Machine.execBcctlEnable p b s
  | .bcctlDisable p b => Sys2Proof.Machine.execBcctlDisable p b s
  | .dbgcmdStop p => Sys2Proof.Machine.execDbgcmdStop p s
  | .dbgcmdResume p => Sys2Proof.Machine.execDbgcmdResume p s
  | .dbgcmdBitmapSync p => Sys2Proof.Machine.execDbgcmdBitmapSync p s
  | .dbgstatRead p => Sys2Proof.Machine.execDbgstatRead p s
  | .dbgreplay p addr => Sys2Proof.Machine.execDbgreplay p addr s
  | .stopEdge p => Sys2Proof.Machine.execStopEdge p s
  | .stopVcReached p => Sys2Proof.Machine.execStopVcReached p s
  | .sampleRecord p => Sys2Proof.Machine.execSampleRecord p s
  | .replayEnd p => Sys2Proof.Machine.execReplayEnd p s
  | .phalt p => Sys2Proof.Machine.execPhalt p s
  | .preemptWrite p rcb => Sys2Proof.Machine.execPreemptWrite p rcb s
  | .restoreWrite p rcb => Sys2Proof.Machine.execRestoreWrite p rcb s
  | .rcbkill p rcb => Sys2Proof.Machine.execRcbkill p rcb s
  | .rcbkstatRead p => Sys2Proof.Machine.execRcbkstatRead p s
  | .partitionReset p => Sys2Proof.Machine.execPartitionReset p s
  | .liveUpdate sigOk versionOk image => Sys2Proof.Machine.execLiveUpdate sigOk versionOk image s
  | .stateTableApply n => Sys2Proof.Machine.execStateTableApply n s
  | .thermalThrottle powerOver tj => Sys2Proof.Machine.execThermalThrottle powerOver tj s
  | .thermalHalt tj => Sys2Proof.Machine.execThermalHalt tj s
  | .ageingUpdate d plot v => Sys2Proof.Machine.execAgeingUpdate d plot v s
  | .plotAbsentMark d plot => Sys2Proof.Machine.execPlotAbsentMark d plot s
  | .scrubPass errors => Sys2Proof.Machine.execScrubPass errors s
  | .healthRefresh d => Sys2Proof.Machine.execHealthRefresh d s
  | .registerWrite p off v => Sys2Proof.Machine.execRegisterWrite p off v s
  | .hostBarAccess p va kind size data cmp => Sys2Proof.Machine.execHostBarAccess p va kind size data cmp s
  | .atsInvalidation p va => Sys2Proof.Machine.execAtsInvalidation p va s
  | .doeRequest req => Sys2Proof.Machine.execDoeRequest req s
  | .fabricRequestReceive pkg rpart p aid kind req va data cmp bytes => Sys2Proof.Machine.execFabricRequestReceive pkg rpart p aid kind req va data cmp bytes s
  | .ueMessageReceive pkg rpart p aid kind req page bytes => Sys2Proof.Machine.execUeMessageReceive pkg rpart p aid kind req page bytes s
  | .ualinkStationLoss station up => Sys2Proof.Machine.execUalinkStationLoss station up s
  | .uePortLoss port up => Sys2Proof.Machine.execUePortLoss port up s
  | .ddrChannelRemoval channel => Sys2Proof.Machine.execDdrChannelRemoval channel s
  | .healthPolicyRetrain m => Sys2Proof.Machine.execHealthPolicyRetrain m s

end Sys2Proof.Machine
end

