-- ==== Sys2Proof/Machine/Fetch.lean ====
section
/-! DEFINITION. Fetch.lean: what the package does next: the oldest item of the mc under way, an input from outside, or the next mc;
fetch and decode of CT words (05 R98), of prologue words (11 R284) and of ring words, their breaks (15 R361), and the placing of a
word where the next step fetches it. -/

namespace Sys2Proof.Machine

/-- What the next step does: nothing but a change of state, or an instruction or event. An event of the mc under way whose input
cannot be taken leaves `back` (15 R356). -/
inductive Work where
  | idle (s : State)
  | run (i : Instr) (s : State) (back : Option State)

/-- Decodes the word w as CT of a lease, or of a prologue, fetches it (05 R98; 11 R284). -/
def Lease.decodeCtWord (l : Lease) (w : W64) : Except Cause Instr :=
  if l.prologue then decodePrologue w else decodeChecked l.vregs .ct w

/-- The line of code that CT's word lies in; a prologue's stands beside its launch core. -/
def Lease.codeLine (l : Lease) : Nat := l.ct.pc / 128

/-- CT's instruction cache refills from L2: the line comes into L2 and counts (08 R195, R206), and an uncorrectable error of one of its
granules halts the partition (08 R208). -/
def codeRefill (va : Nat) (s : State) : State :=
  match s.trOf va with
  | none => s
  | some t =>
    let other := { t with key := t.key + 64, pa := t.pa + 64 }
    let hit (va : Nat) (t : Tr) : State := s.badData { st := .ct, kind := .read, scope := 0, va := va, scr := false, slot := s.cur.ct.pc / 8 } t
    if s.badGran.contains (t.key / 64) then hit va t
    else if s.badGran.contains (other.key / 64) then hit (va + 64) other
    else s.countHome s.cur.die s.cur.part va t .read

/-- A miss of CT's instruction cache: 512 lines of 128 bytes, refilled in the line's latency and 4 mc more (08 R187, R195, R196; 05
R100), with the line's break bits (15 R360). -/
def codeMiss (s : State) : State :=
  let l := s.cur
  let va := l.kernel + 128 * (l.codeLine + 1)
  let mc := 4 + (match s.trOf va with | some t => s.lineMc l.die t.key | none => 0)
  let s := codeRefill va s
  if s.cur.st = .halted then s
  else
    let (v, s) := s.victim 512 l.icache
    ((s.onCur fun l => { l with icache := l.icache.filter (fun x => some x ≠ v) ++ [l.codeLine] }).loadBreaks l.codeLine).onCt fun c =>
      { c with nextMc := s.datum + mc, missTo := s.datum + mc }

/-- Steps 1 and 2 of CT's word (05 R98): the state with the word taken and its instruction, or the state after a refusal, a break
or a miss of the instruction cache; CT that does not run leaves the state as it is. -/
def fetchCt (s : State) : Except State (Instr × State) :=
  let l := s.cur
  if !s.ctMay then .error s
  else match l.ct.trapDue with
  | some (c, i) => .error (s.ctTrap c i)
  | none =>
  if l.ct.pc < l.codeFrom || (if l.prologue then l.codeTo else l.codesize) ≤ l.ct.pc then
    .error ((s.onCt fun c => { c with idx := 0 }).ctTrap .fetchBound [BitVec.ofNat 64 l.ct.pc, trapInfo1 0 0 .ct 0, 0, 0])
  else if !l.prologue && !l.icache.contains l.codeLine then .error (codeMiss s)
  else
    let w := l.ctWordAt
    match l.decodeCtWord w with
    | .error c => .error ((s.onCt fun c => { c with ir := w }).ctTrap c [w, trapInfo1 0 0 .ct 0, 0, 0])
    | .ok i =>
      let s := if s.boundaryStop then s.onCt fun c => { c with ir := w } else s.onCt fun c => { c with ir := w, begun := true }
      if !s.ctBroken then .ok (i, s)
      else if s.breaksTrap then .error (ctBreakTrap s)
      else .error (askFor l.part l.id 2 (s.spendBreak .ct))

/-- The word at the issue slot of ring stream st. -/
def fetchRing (st : Stream) (s : State) : Except State (Instr × State) :=
  let l := s.cur
  if !s.streamRuns st || !(l.stream st).ring.has then .error s
  else match decodeChecked l.vregs st (s.curWord st) with
    | .error c => .error (s.refuseIssue st c 0)
    | .ok i =>
      let s := { s with curStream := st }
      if !s.ringBroken st then .ok (i, s)
      else if s.breaksTrap then .error (ringBreakTrap st s)
      else .error (askFor l.part l.id 4 (s.spendBreak st))

def fetchWord (st : Stream) (s : State) : Except State (Instr × State) := if st = .ct then fetchCt s else fetchRing st s

/-- One item of the mc under way. -/
def turnWork (t : Turn) (s : State) : Work :=
  match t with
  | .event i => .run i s (some s)
  | .word l st =>
    if (s.lease? l).isNone then .idle s
    else match fetchWord st (s.focus l) with
      | .error s => .idle s
      | .ok (i, s) => .run i s (some s)

/-- The items of the mc come first, then what outside parties and firmware do, then the next mc (DESIGN CHOICE, log entry 1). -/
def State.nextWork (s : State) : Work :=
  match s.turn with
  | t :: r => turnWork t { s with turn := r }
  | [] => match s.inbox with
    | i :: r => .run i { s with inbox := r } none
    | [] => .run .mainClockTick s none

/-- The state after an instruction or event: one that met an input which the log or the replay cannot take has not happened, and
its group stops (15 R356, R364). -/
def State.settleAsk (back : Option State) (s : State) : State :=
  match s.parts.find? fun q => q.2.dbg.ask ≠ 0 with
  | none => s
  | some (p, q) => askFor p q.dbg.who q.dbg.ask ((back.getD s).onDbg p fun d => { d with ask := 0 })

/-! ## Placing a word -/

/-- A lease for a word alone: the one that runs, or one of a single plot with the full register file. -/
def State.wordLease (s : State) : Lease :=
  let l : Lease := if s.cur.st = .running then s.cur else
    { id := s.nextLease, aid := 0, st := .running, vregs := 64, accrows := 512 }
  { l with frozen := false, pre := .none, pause := false, cpHold := false, codesize := 2 ^ 24, codeFrom := 0, icache := [l.codeLine],
           ld := { l.ld with stop := none }, cp := { l.cp with stop := none }, sd := { l.sd with stop := none }, folds := [],
           ct := { l.ct with nextMc := 0, wait := .none, accd := false, wdone := false, trapDue := none,
                             trapCtl := l.ct.trapCtl &&& ~~~8#64 } }

/-- The word stands in the code at the pc of CT, alone. -/
def Lease.withCtWord (l : Lease) (w : W64) : Lease := { l with code := [(l.ct.pc / 8, w)], brkCode := [] }

/-- The word stands alone in the ring of stream st. -/
def State.withRingWord (s : State) (st : Stream) (w : W64) : State :=
  let l := s.cur
  let l := l.setStream st { (l.stream st) with ring := { slots := 256, count := 1, tail := 1 }, stop := none, retry := none, nextMc := 0 }
  let s := { s with cur := l }
  { s with mem := writeLe s.mem (l.winKey 0) w.toNat 8 }

/-- s with the word of a table row where the next step fetches it: bits 71 to 64 of a longer row name the stream (01 R16). -/
def State.placeWord (s : State) (nbits w : Nat) : State :=
  let l := s.wordLease
  let st := if nbits ≤ 64 then Stream.ct else Stream.ofIndex (w >>> 64)
  let word := BitVec.ofNat 64 w
  let s := { s with cur := l, inbox := [], turn := [.word l.id st], nextLease := s.nextLease + 1 }
  if st = .ct then { s with cur := l.withCtWord word } else s.withRingWord st word

end Sys2Proof.Machine
end

