-- ==== Sys2Proof/Machine/Step.lean ====
section
/-! DEFINITION. Step.lean: one step: one instruction, or one event of the engines, or one input from outside, or the turn of the
main clock. -/

namespace Sys2Proof.Machine

def step (s : State) : Host.Outcome State Fault Refusal :=
  match s.nextWork with
  | .idle t => .next t
  | .run i t back =>
    match exec i t with
    | .next u => .next (u.settleAsk back)
    | .fault f => .fault f
    | .refused r => .refused r

/-- s with the word of a table row stored where step fetches its next instruction. -/
def State.withFetchWord (s : State) (nbits w : Nat) : State := s.placeWord nbits w

end Sys2Proof.Machine
end

