-- ==== Sys2Proof/Safety.lean ====
section
/-! DEFINITION. Safety.lean: the invariants in whose terms claims are stated: memory in its canonical form, the place of the lease
in focus, and what a run is. -/

namespace Sys2Proof

open Machine

/-- The byte stores of the package are in their canonical form: memory and the bytes of the compressed view. -/
def Machine.State.memOk (s : State) : Bool := Memory.wf s.mem && Memory.wf s.viewOld

/-- The machine goes on: its step answers a next state. -/
def Machine.goesOn (s : State) : Prop := ∃ t, step s = .next t

/-- States that k steps reach from s. -/
inductive Machine.Reaches : State → State → Prop where
  | refl (s : State) : Reaches s s
  | step {s t u : State} (h : Reaches s t) (n : Machine.step t = .next u) : Reaches s u

end Sys2Proof

namespace Sys2Proof.Claims

open Machine

/-! ## The vocabulary of the statements -/

/-- A CT word with tokens t, sources srcs and destination d stands before its work in step 5 (05 R98, R100): CT may act, its
credit is taken, its waits are met, its registers are readable and none that it reads has an uncorrectable error (04 R96). u is the
state then: the credit, the pops and the sync point of s have been taken and faulty copies repaired, nothing else. -/
def CtStarts (t : Tok) (srcs : List (BitVec 5)) (d : BitVec 5) (s u : State) : Prop :=
  s.ctRuns = true ∧ ∃ v w, s.ctAccept t = .ok v ∧ v.ctWaits t (fun _ => true) = (true, w) ∧ w.interlocked srcs d = false ∧
    w.readRegs .ct (w.ctReads srcs) = .ok u

/-- The word has performed in u: its signals act when it completes, after `lat` mc, and CT goes on at pc after `next` mc. -/
def ctEnd (t : Tok) (pc next lat : Nat) (u : State) : State := ctFinish t (.done u pc next lat)

/-- The offset of the next word. -/
def nextPc (u : State) : Nat := u.cur.ct.pc + 8

/-- CT of the lease in focus waits in the word with opcode op for an event of that word (05 R98); no stop holds it, and no end of that
word (15 R355). -/
def CtAt (op : Nat) (s : State) : Prop :=
  s.cur.st ≠ .free ∧ s.cur.st ≠ .halted ∧ s.cur.ct.wait ≠ .none ∧ opcodeOf s.cur.ct.ir = op ∧ s.cur.frozen = false ∧
    s.wordHeld s.cur.id = false

/-- The word at which CT waits in s has performed in u: it completes after `lat` mc and CT goes on in the mc after (05 R100). -/
def ctEventEnd (s u : State) (lat : Nat) : State := ctEnd (tokOf s.cur.ct.ir) (nextPc u) (lat + 1) lat u

/-- Inputs of the partition of the lease in focus are neither replayed nor logged (15 R364). -/
def NoLog (s : State) : Prop := s.cur.replay = none ∧ (s.part s.cur.part).dbg.ctl.getLsbD 3 = false

/-- The byte at va translates for an access of kind k by CT of the lease in focus in s, which leaves v, to a granule that is no sync
object and holds no error (08 R201, R208; 10 R242). -/
def CtReaches (va : Nat) (k : AccKind) (s v : State) : Prop :=
  va < 2 ^ 57 ∧ ∃ t : Tr, s.translate s.cur.part s.cur.die va k false = (.ok t, v) ∧ sget 0 (t.key / 64) v.marks = 0 ∧ v.badAt t = false

/-- CT of the lease in focus in s reaches the first and the last of the n bytes at va for a read, which leaves v. -/
def CtReads (va n : Nat) (s v : State) : Prop := ∃ w : State, CtReaches va .read s w ∧ CtReaches (va + n - 1) .read w v

/-- A read by CT in u of n bytes at x, aligned to `align`, gives the bytes bs and leaves v (05 R110). -/
def CtGets (scope : Nat) (x : W64) (align n : Nat) (u : State) (bs : List Byte) (v : State) : Prop :=
  ∀ k : List Byte → State → CtRes, ctRead scope x align n u k = k bs v

/-- CT's word in u is refused with cause c: TRAPINFO0 is i0, TRAPINFO2 is i2 (16 R367, R368). -/
def ctRefused (c : Cause) (i0 i2 : W64) (u : State) : State := u.ctTrap c [i0, trapInfo1 0 0 .ct 0, i2, 0]

/-- The target of a relative transfer, as the integer that the check of 05 R105 takes. -/
def relTo (u : State) (off : BitVec 30) : Int := (u.cur.ct.pc : Int) + 8 * off.toInt

/-- A target is aligned and inside the code that may be fetched (05 R105). -/
def targetOk (u : State) (x : Int) : Prop := x % 8 = 0 ∧ 0 ≤ x ∧ x < (u.cur.codesize : Int)

/-- The release of CT's agent in s folds its clock in a lease that reports races (10 R256, R259). -/
def ctFoldReported (s : State) : Prop :=
  ((s.part s.cur.part).agent (s.cur.aidOf .ct)).release.2.2 = true ∧ s.cur.race = 1

/-- The head word of LD or SD with tokens t stands before its work (09 R209): its stream runs, its waits are met, its pops are taken
and its sync point has passed, and no handle that it reads has an uncorrectable error (04 R96). u is the state then. -/
def LsStarts (t : Tok) (s u : State) : Prop :=
  s.lsGoes s.curStream t = true ∧
  ∃ v, v = (((s.grpNext s.curStream t).takePops s.curStream t.wait).onCur fun l => (l.noRaces s.curStream.index).headTried s.curStream) ∧
    v.readRegs s.curStream (v.headReads s.curStream) = .ok u

/-- The word has issued in v: it leaves its slot, and the stream goes on in the next mc (09 R209, 14 R345). -/
def lsIssued (s v : State) : State := (v.advanceRing s.curStream).onStream s.curStream fun x => { x with nextMc := s.datum + 1 }

/-- Command c stands in the footprint table of the lease in focus, behind the commands it must wait for; its first byte moves when
its source answers and, for a move, has come to its destination's home (08 R196; 09 R212, R214, R217). -/
def lsAccepted (c : Cmd) (u : State) : State :=
  u.onCur fun l => { l with nextSeq := l.nextSeq + 1, memSeq := (l.memSeq + 1) % 65536, cmds := l.cmds ++
    [{ c with deps := u.cur.edgesTo c.fp, ready := u.datum + u.moveMc c, mseq := u.cur.memSeq }] }

/-- One of the sixteen entries of the footprint table is free (09 R212). -/
def LsRoom (u : State) : Prop := (u.cur.cmds.filter Cmd.inTable).length < 16

/-- A word that moves nothing completes one mc after its issue, with an end marker or none (09 R235). -/
def lsEmpty (t : Tok) (bit : Option Bool) (u : State) : State :=
  (u.onCur fun l => { l with nextSeq := l.nextSeq + 1 }).addDone
    { stream := u.curStream, sig := t.sig, slot := u.cur.curSlot u.curStream, op := opcodeOf (u.curWord u.curStream), vc := u.cur.vc,
      bit := bit, seq := u.cur.nextSeq, due := u.datum + 1 }

/-- The head word of s stops its stream with cause c at issue: nothing of it has been done (02 R51, 09 R219). -/
def lsRefused (s : State) (c : Cause) (a : Nat) : State := (s.onCur fun l => l.headTried s.curStream).refuseIssue s.curStream c a

/-- The n window bytes at a pass their checks as a read at issue with the command's scope, and are bs; the check leaves v (09 R209). -/
def LsGets (scope : BitVec 2) (a n : Nat) (u : State) (bs : List Byte) (v : State) : Prop :=
  ∀ k : List Byte → State → LsRes, issueRead scope a n u k = k bs v

/-- The n bytes of the handle h pass their checks as a read at issue with the command's scope, in the window or in global memory, and
are bs; the read leaves v (09 R231, R236). -/
def LsTakes (scope : BitVec 2) (h : Handle) (n : Nat) (u : State) (bs : List Byte) (v : State) : Prop :=
  let slot := u.cur.curSlot u.curStream
  (hSpace h = spScratch ∧ LsGets scope (hBase h) n u bs v) ∨
  (hSpace h = spGlobal ∧ ∃ (raw : List Byte) (w x : State),
    (∀ k : List Byte → State → LsRes, globalCards scope u.curStream slot (granulesOf (hBase h) n) u [] k = k raw w) ∧
    w.input u.curStream.index slot (raw.take n) (fun sl => w.cur.cmds.any fun c => c.stream = u.curStream && c.slot = sl) = some (bs, x) ∧
    v = x.forgetRow (hBase h) n)

/-- A command of `total` walk bytes issues: it stands in the table, or, with none to move, completes (09 R212, R235). -/
def lsMoved (t : Tok) (c : Cmd) (total : Nat) (fp : List FpRange) (u : State) : State :=
  if total = 0 then lsEmpty t c.bit u else lsAccepted { c with total := total, fp := fp } u

/-- The head word i of CP with tokens t issues in this vc (06 R132): CP may act, nothing holds the word back, its pops are taken, its
sync point has passed, and no register that it reads has an uncorrectable error (04 R96). u is the state then. -/
def CpStarts (i : Instr) (t : Tok) (s u : State) : Prop :=
  s.cpRuns = true ∧ s.cpGo i t = .issue ∧
  ∃ v, v = (if s.cur.cpStart.isSome then s else s.grpNext .cp t) ∧
    ((v.takePops .cp t.wait).onCur fun l => l.noRaces 2).readRegs .cp (v.cur.cpReads i) = .ok u

/-- A CP word has issued in u: its result is written, and the word completes, `lat` vc later through its path (06 R131, R134). -/
def cpEnd (u : State) (t : Tok) (path lat : Nat) (writes : List (Nat × Lanes)) (fl : Nat) (q : PendQ) : State :=
  (u.onCur fun l => { l with nextSeq := l.nextSeq + 1, pend := l.pend ++
    [{ seq := u.cur.nextSeq, due := u.cur.vc + lat, path := path, slot := u.cur.curSlot .cp, op := opcodeOf (u.curWord .cp), sig := t.sig,
       writes := writes, flags := fl, q := q }] }).cpIssued

/-- A vector word has issued in u with the lanes r.1 and the flags r.2: they go to register d and to the last-result register of its
path, 1 FMA, 2 ALU, 3 cross-lane or 4 custom (06 R131). -/
def vecEnd (u : State) (t : Tok) (d : BitVec 8) (path lat : Nat) (r : Lanes × Nat) : State :=
  cpEnd u t path lat (u.cur.vecWrites d.toNat r.1 ++ u.cur.vecWrites (127 + path) r.1) r.2 .none

/-- A word of the load path has issued in u (06 R131): the lanes go to register d, at 5 the path's number. -/
def loadEnd (u : State) (t : Tok) (d : BitVec 8) (lat : Nat) (v : Lanes) : State := cpEnd u t 5 lat (u.cur.vecWrites d.toNat v) 0 .none

/-- The CP word of s with tokens t stops the stream with cause c and TRAPINFO i at issue, to the loader or not: its pops and its sync
point are undone (06 R135, R162). -/
def cpStopsWith (s : State) (t : Tok) (c : Cause) (i : List W64) (loader : Bool) : State :=
  (if s.cur.cpStart.isSome then s else s.grpNext .cp t).cpRefused (if s.cur.cpStart.isSome then s else s.grpNext .cp t)
    (if s.cur.cpStart.isSome && waitGrp t.wait then s.cur.grpCount .cp - 1 else s.cur.grpCount .cp) c i loader

/-- The CP word of s with tokens t stops the stream with cause c at issue, the detail a in its TRAPINFO (06 R135). -/
def cpStops (s : State) (t : Tok) (c : Cause) (a : Nat) : State :=
  cpStopsWith s t c ((if s.cur.cpStart.isSome then s else s.grpNext .cp t).issueInfo .cp c a) false

/-! ## The words of an instruction -/

/-- The opcode map that a stream decodes by (02 R44, R47, R49). -/
def spaceOf : Stream → WordSpace
  | .ct => .ct
  | .ld | .sd => .ls
  | .cp => .cp

/-- The handle of the data queue's side is 0 where DQ = 1: DH in LD, SH in SD (09 R221). -/
def queueSide (st : Stream) (dq : BitVec 1) (dh sh : BitVec 4) : Bool := dq = 0 || (if st = .ld then dh = 0 else sh = 0)

/-- The fields of an array product's word that no use of it reads are zero (07 R170). -/
def productFields (g : BitVec 4) (f : BitVec 8) (imm : BitVec 20) : Bool :=
  f &&& 1 = 0 && imm &&& 0x1F800 = 0 &&
    (if f.getLsbD 6 then f &&& 0x06 = 0 || f &&& 0x06 = 6 || g = 0 else f &&& 0x3E = 0 && imm &&& 0x60000 = 0 && g = 0)

/-- The word of i meets no refusal of stream st but those of its values: the stream has the instruction, and a field that the entry
of i requires to be zero is zero (02 R39, R44, R47, R49, R51). -/
def encodable (st : Stream) : Instr → Bool
  | .lgo _ | .lcancel _ | .lrepeat _ => false
  | .barg _ a _ m => m ≠ 0 || a = 0
  | .copyDq _ dh sh _ => queueSide st 1 dh sh
  | .copyp _ dh sh _ dq _ => queueSide st dq dh sh
  | .gath _ dh sh _ dq _ _ => st = .ld && queueSide st dq dh sh
  | .rread _ dh sh dq _ => st = .ld && queueSide st dq dh sh
  | .pref .. | .kvget .. => st = .ld
  | .scat _ dh sh _ dq _ => st = .sd && queueSide st dq dh sh
  | .atomv _ dh sh dq _ _ => st = .sd && queueSide st dq dh sh
  | .rwrite _ dh sh dq _ | .rwriteWin _ dh sh dq _ => st = .sd && queueSide st dq dh sh
  | .kvput .. => st = .sd
  | .ratom _ dh _ _ _ _ _ _ fetch => fetch = 1 || dh = 0
  | .job _ _ _ n => n.toNat < 128
  | .outq _ sh _ m imm => if m = 0 then imm.toNat < 2 && sh = 0 else imm = 0
  | .mxmul _ _ g _ f imm | .mxlut _ _ g _ f imm => productFields g f imm
  | .mxdrain _ g _ f imm => productFields g f imm && imm.toNat < 2 ^ 19
  | .mxcfg _ h imm =>
      match imm.toNat / 2 ^ 16 with
      | 0 | 1 => imm.toNat % 2 ^ 16 = 0
      | 2 => imm.toNat % 2 ^ 16 < 4
      | 3 => imm.toNat % 2 ^ 16 < 128 && h = 0
      | _ => true
  | .mxbs _ _ _ _ f imm => f &&& 1 = 0 && imm &&& 0x9FFFF = 0 && (f.getLsbD 6 || (f &&& 0x3E = 0 && imm &&& 0x60000 = 0))
  | .vcmp _ _ _ _ m => m.toNat < 32
  | .vred _ _ _ m => m.toNat < 32
  | .vscan _ _ _ m => m.toNat < 64
  | .vpart _ _ _ b _ k => k.getLsbD 0 || b = 0
  | .vout _ _ m imm => if m.toNat < 2 then imm = 0 else m ≠ 2 || imm.toNat < 2048
  | _ => true

end Sys2Proof.Claims
end

