-- ==== Sys2Proof/Certificates/Slice0/Obligations.lean ====
section
/-! DEFINITION. Obligations.lean: the statements about the model, for the provers. Each docstring says what is claimed and the
rules of the spec it rests on. -/

open Sys2Proof Sys2Proof.Machine Sys2Proof.Claims

/-- Between the fetch of a CT word and its work (steps 3 and 4 of R98, and the reading of its registers) only its credit, its
tokens and its sync point are taken and faulty copies of the registers read are repaired (R96): every scalar register, every
handle, the pc, NSTAT, the trap registers, the loop stack, the vector registers, the accumulator banks, the datum and every byte
of memory are as before, and CERR too while no register holds an error. (R98, R17, R19, R96) -/
def Obligations.CtBeginFrame : Prop :=
  ∀ (t : Tok) (data : State → Bool) (rs : List (Nat × Nat)) (s v w u : State), s.ctAccept t = .ok v →
    v.ctWaits t data = (true, w) → w.readRegs .ct rs = .ok u →
    (∀ r, u.reg r = s.reg r) ∧ (∀ k, u.handle k = s.handle k) ∧ u.cur.ct.pc = s.cur.ct.pc ∧ u.cur.ct.ir = s.cur.ct.ir ∧
    u.cur.ct.trapCtl = s.cur.ct.trapCtl ∧ u.cur.ct.nstat = s.cur.ct.nstat ∧ u.cur.ct.trapPc = s.cur.ct.trapPc ∧
    u.cur.ct.trapCause = s.cur.ct.trapCause ∧ u.cur.ct.loops = s.cur.ct.loops ∧ u.vfile = s.vfile ∧ u.accs = s.accs ∧
    u.datum = s.datum ∧ (s.cur.ct.bad = [] → u.cur.ct.cerr = s.cur.ct.cerr) ∧ ∀ k, readByte u.mem k = readByte s.mem k

/-- When a CT word has done its work, its completion leaves every scalar register, handle, NSTAT, the trap registers and cause,
the loop stack, the vector registers, the accumulator banks and the datum as they are; of TRAPCTL it changes at most UIP (bit
3); CT goes on at the given pc with ACCD, WDONE and IDX clear; every byte of memory is unchanged unless a push of its folds CT's
clock in a lease that reports races. (R98, R18, R36) -/
def Obligations.CtEndFrame : Prop :=
  ∀ (t : Tok) (pc next lat : Nat) (u : State),
    (∀ r, (ctEnd t pc next lat u).reg r = u.reg r) ∧ (∀ k, (ctEnd t pc next lat u).handle k = u.handle k) ∧
    (ctEnd t pc next lat u).cur.ct.pc = pc ∧ (ctEnd t pc next lat u).cur.ct.accd = false ∧
    (ctEnd t pc next lat u).cur.ct.wdone = false ∧ (ctEnd t pc next lat u).cur.ct.idx = 0 ∧
    (ctEnd t pc next lat u).cur.ct.nextMc = u.datum + next ∧
    (ctEnd t pc next lat u).cur.ct.nstat = u.cur.ct.nstat ∧ (ctEnd t pc next lat u).cur.ct.trapPc = u.cur.ct.trapPc ∧
    (ctEnd t pc next lat u).cur.ct.trapCause = u.cur.ct.trapCause ∧ (ctEnd t pc next lat u).cur.ct.loops = u.cur.ct.loops ∧
    (∀ k, k ≠ 3 → (ctEnd t pc next lat u).cur.ct.trapCtl.getLsbD k = u.cur.ct.trapCtl.getLsbD k) ∧
    (ctEnd t pc next lat u).vfile = u.vfile ∧ (ctEnd t pc next lat u).accs = u.accs ∧ (ctEnd t pc next lat u).datum = u.datum ∧
    (t.sig.toNat % 64 = 0 ∨ ¬ ctFoldReported u → ∀ k, readByte (ctEnd t pc next lat u).mem k = readByte u.mem k)

/-- A scalar result reads back from its register, but s0 reads zero and discards the write; no other register, no handle, no
other field of CT but the error marks of that register, which the write clears (R96), and no byte of memory changes; while UIACT
(TRAPCTL bit 2) is set a write to s24-s31 leaves their ordinary registers as they are, and a write to s1-s23 or, with UIACT
clear, to any register leaves the shadows as they are. The register files are read in their canonical form (keys rising), which
the write keeps. (R85, R86, R96, R100) -/
def Obligations.CtRegisterWrite : Prop :=
  ∀ (s : State) (d : BitVec 5) (v : W64) (lat : Nat),
    (keysRise s.cur.ct.sregs = true → keysRise s.cur.ct.shadow = true →
      (s.wreg d v lat).reg d = (if d = 0 then 0 else v) ∧ keysRise (s.wreg d v lat).cur.ct.sregs = true ∧
      keysRise (s.wreg d v lat).cur.ct.shadow = true) ∧
    (keysRise s.cur.ct.ready = true → d ≠ 0 → sget 0 d.toNat (s.wreg d v lat).cur.ct.ready = s.datum + lat) ∧
    (∀ r, r ≠ d → (s.wreg d v lat).reg r = s.reg r) ∧
    (∀ k, (s.wreg d v lat).handle k = s.handle k) ∧ (s.wreg d v lat).cur.ct.pc = s.cur.ct.pc ∧
    (s.wreg d v lat).cur.ct.trapCtl = s.cur.ct.trapCtl ∧ (s.wreg d v lat).cur.ct.nstat = s.cur.ct.nstat ∧
    (s.wreg d v lat).mem = s.mem ∧ (s.wreg d v lat).cur.ct.cerr = s.cur.ct.cerr ∧
    (d ≠ 0 → ∀ (dup : Bool) (k : Nat), (⟨s.cur.ct.fileOf d.toNat, d.toNat, dup, k⟩ : RegBad) ∉ (s.wreg d v lat).cur.ct.bad) ∧
    (∀ e ∈ (s.wreg d v lat).cur.ct.bad, e ∈ s.cur.ct.bad) ∧
    (s.cur.ct.trapCtl.getLsbD 2 = true → 24 ≤ d.toNat → (s.wreg d v lat).cur.ct.sregs = s.cur.ct.sregs) ∧
    (s.cur.ct.trapCtl.getLsbD 2 = false ∨ d.toNat < 24 → (s.wreg d v lat).cur.ct.shadow = s.cur.ct.shadow)

/-- ADD, SUB, MUL, MULH, MULHU, AND, OR, XOR, SHL, SHR, SRA, MIN, MAX, SLT and SLTU complete once they start, writing s[D] with
the value of R101's table, readable after 1 mc (the multiplies: 3), and CT goes on with the next word in the next mc. (R101,
R100) -/
def Obligations.CtTwoRegisterResults : Prop :=
  ∀ (t : Tok) (d a b : BitVec 5) (s u : State), CtStarts t [a, b] d s u →
    exec (.add t d a b) s = .next (ctEnd t (nextPc u) 1 1 (u.wreg d (u.reg a + u.reg b) 1)) ∧
    exec (.sub t d a b) s = .next (ctEnd t (nextPc u) 1 1 (u.wreg d (u.reg a - u.reg b) 1)) ∧
    exec (.mul t d a b) s = .next (ctEnd t (nextPc u) 1 3 (u.wreg d (u.reg a * u.reg b) 3)) ∧
    exec (.mulh t d a b) s = .next (ctEnd t (nextPc u) 1 3
      (u.wreg d (BitVec.ofInt 64 ((u.reg a).toInt * (u.reg b).toInt / 2 ^ 64)) 3)) ∧
    exec (.mulhu t d a b) s = .next (ctEnd t (nextPc u) 1 3
      (u.wreg d (BitVec.ofNat 64 ((u.reg a).toNat * (u.reg b).toNat / 2 ^ 64)) 3)) ∧
    exec (.and t d a b) s = .next (ctEnd t (nextPc u) 1 1 (u.wreg d (u.reg a &&& u.reg b) 1)) ∧
    exec (.or t d a b) s = .next (ctEnd t (nextPc u) 1 1 (u.wreg d (u.reg a ||| u.reg b) 1)) ∧
    exec (.xor t d a b) s = .next (ctEnd t (nextPc u) 1 1 (u.wreg d (u.reg a ^^^ u.reg b) 1)) ∧
    exec (.shl t d a b) s = .next (ctEnd t (nextPc u) 1 1 (u.wreg d (u.reg a <<< ((u.reg b).toNat % 64)) 1)) ∧
    exec (.shr t d a b) s = .next (ctEnd t (nextPc u) 1 1 (u.wreg d (u.reg a >>> ((u.reg b).toNat % 64)) 1)) ∧
    exec (.sra t d a b) s = .next (ctEnd t (nextPc u) 1 1 (u.wreg d ((u.reg a).sshiftRight ((u.reg b).toNat % 64)) 1)) ∧
    exec (.min t d a b) s = .next (ctEnd t (nextPc u) 1 1
      (u.wreg d (if (u.reg a).toInt ≤ (u.reg b).toInt then u.reg a else u.reg b) 1)) ∧
    exec (.max t d a b) s = .next (ctEnd t (nextPc u) 1 1
      (u.wreg d (if (u.reg b).toInt ≤ (u.reg a).toInt then u.reg a else u.reg b) 1)) ∧
    exec (.slt t d a b) s = .next (ctEnd t (nextPc u) 1 1
      (u.wreg d (if (u.reg a).toInt < (u.reg b).toInt then 1 else 0) 1)) ∧
    exec (.sltu t d a b) s = .next (ctEnd t (nextPc u) 1 1
      (u.wreg d (if (u.reg a).toNat < (u.reg b).toNat then 1 else 0) 1))

/-- DIV, DIVU, REM and REMU with a nonzero divisor, once no earlier divide is under way, complete with the quotient truncated
toward zero or the remainder with the sign of a (−2^63 / −1 gives −2^63 and remainder 0), readable after 36 mc; with a zero
divisor they trap with DIVIDE_BY_ZERO and write no register. (R101, R100) -/
def Obligations.CtDivision : Prop :=
  ∀ (t : Tok) (d a b : BitVec 5) (s u : State), CtStarts t [a, b] d s u → u.cur.ct.divFree ≤ u.datum →
    (u.reg b ≠ 0 →
      exec (.div t d a b) s = .next (ctEnd t (nextPc u) 1 36
        ((u.wreg d (BitVec.ofInt 64 ((u.reg a).toInt.tdiv (u.reg b).toInt)) 36).onCt fun c => { c with divFree := u.datum + 36 })) ∧
      exec (.divu t d a b) s = .next (ctEnd t (nextPc u) 1 36
        ((u.wreg d (BitVec.ofNat 64 ((u.reg a).toNat / (u.reg b).toNat)) 36).onCt fun c => { c with divFree := u.datum + 36 })) ∧
      exec (.rem t d a b) s = .next (ctEnd t (nextPc u) 1 36
        ((u.wreg d (BitVec.ofInt 64 ((u.reg a).toInt.tmod (u.reg b).toInt)) 36).onCt fun c => { c with divFree := u.datum + 36 })) ∧
      exec (.remu t d a b) s = .next (ctEnd t (nextPc u) 1 36
        ((u.wreg d (BitVec.ofNat 64 ((u.reg a).toNat % (u.reg b).toNat)) 36).onCt fun c => { c with divFree := u.datum + 36 }))) ∧
    (u.reg b = 0 →
      exec (.div t d a b) s = .next (u.ctTrap .divideByZero [u.cur.ct.ir, trapInfo1 0 0 .ct 0, u.reg a, 0]) ∧
      exec (.divu t d a b) s = .next (u.ctTrap .divideByZero [u.cur.ct.ir, trapInfo1 0 0 .ct 0, u.reg a, 0]) ∧
      exec (.rem t d a b) s = .next (u.ctTrap .divideByZero [u.cur.ct.ir, trapInfo1 0 0 .ct 0, u.reg a, 0]) ∧
      exec (.remu t d a b) s = .next (u.ctTrap .divideByZero [u.cur.ct.ir, trapInfo1 0 0 .ct 0, u.reg a, 0]))

/-- CLZ, POPC, SEXT, ZEXT, ADDI, ANDI, ORI, XORI, SHLI, SHRI, SRAI, SLTI, LI, LIW.LO and LIW.HI complete once they start,
writing s[D] with the value of R102 to R104, readable after 1 mc. For widths 1 to 63, SEXT gives the low w bits read as a
two's-complement number and ZEXT the low w bits; shift counts are 0 to 63. (R102, R103, R104, R100) -/
def Obligations.CtOneRegisterResults : Prop :=
  ∀ (t : Tok) (d a : BitVec 5) (i : BitVec 30) (m : BitVec 32) (s u : State),
    (CtStarts t [a] d s u →
      exec (.clz t d a) s = .next (ctEnd t (nextPc u) 1 1 (u.wreg d (BitVec.ofNat 64 (64 - Nat.size (u.reg a).toNat)) 1)) ∧
      exec (.popc t d a) s = .next (ctEnd t (nextPc u) 1 1
        (u.wreg d (BitVec.ofNat 64 ((List.range 64).filter fun k => (u.reg a).getLsbD k).length) 1)) ∧
      (0 < i.toNat → i.toNat < 64 →
        exec (.sext t d a i) s = .next (ctEnd t (nextPc u) 1 1
          (u.wreg d (((u.reg a).setWidth i.toNat).signExtend 64) 1)) ∧
        exec (.zext t d a i) s = .next (ctEnd t (nextPc u) 1 1 (u.wreg d (((u.reg a).setWidth i.toNat).setWidth 64) 1))) ∧
      exec (.addi t d a i) s = .next (ctEnd t (nextPc u) 1 1 (u.wreg d (u.reg a + i.signExtend 64) 1)) ∧
      exec (.andi t d a i) s = .next (ctEnd t (nextPc u) 1 1 (u.wreg d (u.reg a &&& i.signExtend 64) 1)) ∧
      exec (.ori t d a i) s = .next (ctEnd t (nextPc u) 1 1 (u.wreg d (u.reg a ||| i.signExtend 64) 1)) ∧
      exec (.xori t d a i) s = .next (ctEnd t (nextPc u) 1 1 (u.wreg d (u.reg a ^^^ i.signExtend 64) 1)) ∧
      (i.toNat < 64 →
        exec (.shli t d a i) s = .next (ctEnd t (nextPc u) 1 1 (u.wreg d (u.reg a <<< i.toNat) 1)) ∧
        exec (.shri t d a i) s = .next (ctEnd t (nextPc u) 1 1 (u.wreg d (u.reg a >>> i.toNat) 1)) ∧
        exec (.srai t d a i) s = .next (ctEnd t (nextPc u) 1 1 (u.wreg d ((u.reg a).sshiftRight i.toNat) 1))) ∧
      exec (.slti t d a i) s = .next (ctEnd t (nextPc u) 1 1
        (u.wreg d (if (u.reg a).toInt < i.toInt then 1 else 0) 1))) ∧
    (CtStarts t [] d s u →
      exec (.li t d m) s = .next (ctEnd t (nextPc u) 1 1 (u.wreg d (m.signExtend 64) 1))) ∧
    (CtStarts t [d] d s u →
      exec (.liwLo t d m) s = .next (ctEnd t (nextPc u) 1 1
        (u.wreg d (BitVec.ofNat 64 ((u.reg d).toNat / 2 ^ 32 * 2 ^ 32 + m.toNat)) 1)) ∧
      exec (.liwHi t d m) s = .next (ctEnd t (nextPc u) 1 1
        (u.wreg d (BitVec.ofNat 64 (m.toNat * 2 ^ 32 + (u.reg d).toNat % 2 ^ 32)) 1)))

/-- With a target that is 8-byte aligned and inside the code, a branch whose condition of R106 holds, JMP, JAL and JR complete
and CT goes on at the target after 3 mc, JAL and JR writing PC + 8 to s[D] (JR reads s[A] first); a branch or JMP leaves the
loops whose bodies do not hold the target. A branch whose condition does not hold goes on with the next word. With any other
target every one of them, a not-taken branch too, traps: MISALIGNED where bits 2 to 0 are not zero, else FETCH_BOUND, with the
target in TRAPINFO0. JR's sum is taken modulo 2^64 and read unsigned, which is the model's choice (log entry 75). All eight
forms complete, by a taken transfer or with the next word, whenever the word starts and its target is good. (R105, R106, R107,
R346) -/
def Obligations.CtBranches : Prop :=
  ∀ (t : Tok) (d a b : BitVec 5) (off : BitVec 30) (s u : State),
    (CtStarts t [a, b] 0 s u →
      let x := relTo u off
      let taken : Out := .next (ctEnd t x.toNat 3 1 (u.onCt fun c => { c with loops := exitLoops x.toNat c.loops }))
      let not_ : Out := .next (ctEnd t (nextPc u) 1 1 u)
      (targetOk u x →
        exec (.beq t a b off) s = (if u.reg a = u.reg b then taken else not_) ∧
        exec (.bne t a b off) s = (if u.reg a ≠ u.reg b then taken else not_) ∧
        exec (.blt t a b off) s = (if (u.reg a).toInt < (u.reg b).toInt then taken else not_) ∧
        exec (.bge t a b off) s = (if (u.reg b).toInt ≤ (u.reg a).toInt then taken else not_) ∧
        exec (.bltu t a b off) s = (if (u.reg a).toNat < (u.reg b).toNat then taken else not_) ∧
        exec (.bgeu t a b off) s = (if (u.reg b).toNat ≤ (u.reg a).toNat then taken else not_)) ∧
      (¬ targetOk u x → ∀ i ∈ [Instr.beq t a b off, .bne t a b off, .blt t a b off, .bge t a b off, .bltu t a b off, .bgeu t a b off],
        exec i s = .next (ctRefused (if x % 8 ≠ 0 then .misaligned else .fetchBound) (BitVec.ofInt 64 x) 0 u))) ∧
    (CtStarts t [] 0 s u → targetOk u (relTo u off) →
      exec (.jmp t off) s =
        .next (ctEnd t (relTo u off).toNat 3 1 (u.onCt fun c => { c with loops := exitLoops (relTo u off).toNat c.loops }))) ∧
    (CtStarts t [] 0 s u → ¬ targetOk u (relTo u off) →
      exec (.jmp t off) s = .next (ctRefused (if relTo u off % 8 ≠ 0 then .misaligned else .fetchBound)
        (BitVec.ofInt 64 (relTo u off)) 0 u)) ∧
    (CtStarts t [] d s u → targetOk u (relTo u off) →
      exec (.jal t d off) s = .next (ctEnd t (relTo u off).toNat 3 1 (u.wreg d (BitVec.ofNat 64 (nextPc u)) 1))) ∧
    (CtStarts t [] d s u → ¬ targetOk u (relTo u off) →
      exec (.jal t d off) s = .next (ctRefused (if relTo u off % 8 ≠ 0 then .misaligned else .fetchBound)
        (BitVec.ofInt 64 (relTo u off)) 0 u)) ∧
    (CtStarts t [a] d s u →
      let x : Int := ((u.reg a + off.signExtend 64).toNat : Int)
      (targetOk u x → exec (.jr t d a off) s = .next (ctEnd t x.toNat 3 1 (u.wreg d (BitVec.ofNat 64 (nextPc u)) 1))) ∧
      (¬ targetOk u x → exec (.jr t d a off) s =
        .next (ctRefused (if x % 8 ≠ 0 then .misaligned else .fetchBound) (u.reg a + off.signExtend 64) 0 u)))

/-- LOOP with its ENDL inside the code computes start, bound and trips as R345 says: with no trip CT goes on past the ENDL after
3 mc with s[I] unchanged; otherwise the loop is pushed, unless four loops are open, which traps with ILLEGAL_OPERAND; an ENDL
offset at or beyond CODESIZE traps with FETCH_BOUND. ENDL at the innermost loop's end writes start + k·step to its index
register and goes back to the body in 1 mc while trips remain, else pops the loop and goes on; elsewhere it traps with
ILLEGAL_OPERAND. BRQ with a bit in its queue and a good target pops the bit and branches when the bit equals SENSE; with a bad
target it traps and the bit stays (the model's reading, log entry 76); with no bit it waits in step 4. LOOP completes in both of
its two outcomes, pushed or skipped, ENDL in both of its two, and BRQ in both of its two. (R345, R346, R108, R105) -/
def Obligations.CtLoopsAndOutcomeBranch : Prop :=
  (∀ (t : Tok) (x a : BitVec 5) (step : BitVec 12) (body : BitVec 18) (s u : State), CtStarts t [x, a] 0 s u → step ≠ 0 →
    let start : Int := if x = 0 then 0 else (u.reg x).toInt
    let bound : Int := (u.reg a).toInt
    let st : Int := step.toInt
    let trips : Nat := if 0 < st then ((bound - start + st - 1) / st).toNat else ((start - bound + -st - 1) / -st).toNat
    let endOff : Nat := u.cur.ct.pc + 8 * body.toNat
    (u.cur.codesize ≤ endOff → exec (.loop t x a step body) s = .next (ctRefused .fetchBound (BitVec.ofNat 64 endOff) 0 u)) ∧
    (endOff < u.cur.codesize → trips = 0 → exec (.loop t x a step body) s = .next (ctEnd t (endOff + 8) 3 1 u)) ∧
    (endOff < u.cur.codesize → trips ≠ 0 → 4 ≤ u.cur.ct.loops.length →
      exec (.loop t x a step body) s = .next (ctRefused .illegalOperand u.cur.ct.ir 0 u)) ∧
    (endOff < u.cur.codesize → trips ≠ 0 → u.cur.ct.loops.length < 4 →
      exec (.loop t x a step body) s = .next (ctEnd t (nextPc u) 1 1
        (u.onCt fun c => { c with loops := ⟨x, st, start, trips, 0, c.pc + 8, endOff⟩ :: c.loops })))) ∧
  (∀ (t : Tok) (s u : State),
    (∀ (e : LoopEntry) (r : List LoopEntry), u.cur.ct.loops = e :: r → s.cur.ct.loops = e :: r → CtStarts t [] e.idx s u →
      e.endOff = u.cur.ct.pc →
      let w := u.wreg e.idx (BitVec.ofInt 64 (e.start + (e.done + 1 : Nat) * e.step)) 1
      (e.done + 1 < e.trips → exec (.endl t) s =
        .next (ctEnd t e.body 1 1 (w.onCt fun c => { c with loops := { e with done := e.done + 1 } :: r }))) ∧
      (e.trips ≤ e.done + 1 → exec (.endl t) s = .next (ctEnd t (nextPc u) 1 1 (w.onCt fun c => { c with loops := r })))) ∧
    (s.cur.ct.loops = [] → CtStarts t [] 0 s u → exec (.endl t) s = .next (ctRefused .illegalOperand u.cur.ct.ir 0 u)) ∧
    (∀ (e : LoopEntry) (r : List LoopEntry), s.cur.ct.loops = e :: r → CtStarts t [] e.idx s u → e.endOff ≠ u.cur.ct.pc →
      exec (.endl t) s = .next (ctRefused .illegalOperand u.cur.ct.ir 0 u))) ∧
  (∀ (t : Tok) (q : BitVec 2) (sense : BitVec 1) (off : BitVec 30) (s u : State) (bit : Bool) (r : List Bool),
    CtStarts t [] 0 s u → sget [] q.toNat s.cur.oq = bit :: r →
    let w := u.onCur fun l => { l with oq := sset [] q.toNat r l.oq }
    (targetOk u (relTo u off) → bit = decide (sense = 1) → exec (.brq t q sense off) s =
      .next (ctEnd t (relTo u off).toNat 3 1 (w.onCt fun c => { c with loops := exitLoops (relTo u off).toNat c.loops }))) ∧
    (targetOk u (relTo u off) → bit ≠ decide (sense = 1) → exec (.brq t q sense off) s =
      .next (ctEnd t (nextPc u) 1 1 w)) ∧
    (¬ targetOk u (relTo u off) → exec (.brq t q sense off) s =
      .next (ctRefused (if relTo u off % 8 ≠ 0 then .misaligned else .fetchBound) (BitVec.ofInt 64 (relTo u off)) 0 u))) ∧
  (∀ (t : Tok) (q : BitVec 2) (sense : BitVec 1) (off : BitVec 30) (s v : State), s.ctRuns = true → s.ctAccept t = .ok v →
    v.cur.ct.wdone = false → sget [] q.toNat v.cur.oq = [] → exec (.brq t q sense off) s = .next v)

/-- A CT NOP that starts completes in 1 mc with no effect beyond its WAIT and SIGNAL bytes: its next state is the state its
waits leave, ended as every word ends. Its encoding is CX with every field zero: a word of opcode 0x00 decodes to NOP when bits
39 to 0 are zero, and is refused with RESERVED_FIELD otherwise. That makes it the way CT relays tokens: it pops and pushes what
its bytes say. (R128) -/
def Obligations.CtNop : Prop :=
  (∀ (t : Tok) (s u : State), CtStarts t [] 0 s u → exec (.ctNop t) s = .next (ctEnd t (nextPc u) 1 1 u)) ∧
  (∀ (t : Tok) (x : BitVec 40), decodeCt false (enc t 0x00 x) = if x = 0 then .ok (.ctNop t) else .error .reservedField)

/-- Once they start, TREN sets TRAPCTL.TE and nothing else, TMARK generates a TYPE 2 trace record with its tag, and PCSEL copies
the 28 stream-head counters and the count of counted mc into the snapshot, zeroing them when M is 1; each takes 1 mc. (R123,
R363, R351) -/
def Obligations.CtStatusWords : Prop :=
  ∀ (t : Tok) (tag : BitVec 16) (m : BitVec 4) (s u : State), CtStarts t [] 0 s u →
    exec (.tren t) s = .next (ctEnd t (nextPc u) 1 1 (u.onCt fun c => { c with trapCtl := c.trapCtl ||| 1 })) ∧
    exec (.tmark t tag) s = .next (ctEnd t (nextPc u) 1 1
      (u.trace 2 .ct (u.cur.ct.pc / 8) (if u.cur.prologue then 0 else u.cur.vc) tag.toNat 0)) ∧
    (m = 0 → exec (.pcsel t m) s = .next (ctEnd t (nextPc u) 1 1
      (u.onCur fun l => { l with snap := sset 0 0x1C l.counted l.ctrs }))) ∧
    (m = 1 → exec (.pcsel t m) s = .next (ctEnd t (nextPc u) 1 1
      (u.onCur fun l => { l with snap := sset 0 0x1C l.counted l.ctrs, ctrs := [], counted := 0 })))

/-- Once they start, RDVC reads the group counter; and, in a lease that neither logs its inputs nor replays a log, RDCYC reads
the die's copy of the datum counter, PCRD the snapshot counter, the live visible or held token count or the credit of its index,
and CLKRD the clock, the knowledge entry of agent s[A] (zero under another generation) or the folded and dirty bits of the
stream it names; sel 1 with s[A] above 4,095 traps with ILLEGAL_OPERAND. Each takes 1 mc; a knowledge entry that is not in the
lease's cache of the store is readable after the fetch (R251; its 48 mc and the cache's victim are the model's, log entries 31
and 5). (R348, R349, R350, R351, R251) -/
def Obligations.CtCounterAndClockReads : Prop :=
  ∀ (t : Tok) (d a : BitVec 5) (s u : State),
    (CtStarts t [] d s u →
      exec (.rdvc t d) s = .next (ctEnd t (nextPc u) 1 1 (u.wreg d (BitVec.ofNat 64 u.cur.vc) 1))) ∧
    (CtStarts t [] d s u → u.cur.replay = none → (u.part u.cur.part).dbg.ctl.getLsbD 3 = false →
      exec (.rdcyc t d) s = .next (ctEnd t (nextPc u) 1 1 (u.wreg d (BitVec.ofNat 64 (u.datumAt u.cur.die)) 1)) ∧
      ∀ idx : BitVec 16, exec (.pcrd t d idx) s = .next (ctEnd t (nextPc u) 1 1 (u.wreg d (BitVec.ofNat 64
        (if idx.toNat ≤ 0x1C then sget 0 idx.toNat u.cur.snap
         else if idx.toNat ≤ 0x2B then Nat.min 63 (u.cur.tokens (idx.toNat - 0x20)).length
         else if idx.toNat ≤ 0x3B then (u.cur.tokens (idx.toNat - 0x30)).length - 63
         else u.cur.creditOf (idx.toNat - 0x40))) 1))) ∧
    (CtStarts t [a] d s u → u.cur.replay = none → (u.part u.cur.part).dbg.ctl.getLsbD 3 = false → ∀ st : Stream,
      let q := u.part u.cur.part
      let x := q.agent (u.cur.aidOf st)
      exec (.clkrd t d a (BitVec.ofNat 4 (4 * st.index))) s = .next (ctEnd t (nextPc u) 1 1
        (u.wreg d (BitVec.ofNat 64 ((q.gen * 2 ^ 16 + x.count) % 2 ^ 32)) 1)) ∧
      ((u.reg a).toNat ≤ 4095 → ∀ lat : Nat, lat = (if u.cur.knows st (u.reg a).toNat then 1 else knowMc) →
        exec (.clkrd t d a (BitVec.ofNat 4 (4 * st.index + 1))) s = .next (ctEnd t (nextPc u) 1 lat
          ((u.fetchKnow st (u.reg a).toNat).wreg d ((vecAt q.gen x.know (u.reg a).toNat).setWidth 64) lat))) ∧
      (4095 < (u.reg a).toNat → exec (.clkrd t d a (BitVec.ofNat 4 (4 * st.index + 1))) s =
        .next (ctRefused .illegalOperand u.cur.ct.ir 0 u)) ∧
      exec (.clkrd t d a (BitVec.ofNat 4 (4 * st.index + 2))) s = .next (ctEnd t (nextPc u) 1 1
        (u.wreg d (BitVec.ofNat 64 ((if x.folded then 2 else 0) + if x.dirty then 1 else 0)) 1)))

/-- Once it starts, CSRR reads the register that R93 numbers, and traps with ILLEGAL_OPERAND for a number not in the map. CSRW
writes TRAPPC, UIVEC, UIPC; of TRAPCTL it writes TE and RSUP only; NSTAT is written one-to-clear, a bit that a word set in the
same mc staying set; VCMODE keeps bit 0 and an ACCWIN window inside the granted rows is written, both once CP has issued every
word placed in its ring, or stands refused at the issue of one (R419), before which it waits and after which it completes; a
written register's error marks are cleared (R96); VCMODE from a parcel with an incoming chain traps with PRIVILEGED; a window
beyond the granted rows, a read-only register and a number not in the map trap with ILLEGAL_OPERAND. Each takes 1 mc. (R93, R94,
R125, R83, R96, R419) -/
def Obligations.CtControlRegisters : Prop :=
  (∀ (t : Tok) (d : BitVec 5) (s u : State), CtStarts t [] d s u →
    (∀ x ∈ [(0x000, u.cur.ct.trapCause), (0x001, u.cur.ct.trapPc), (0x002, u.cur.ct.trapCtl), (0x004, u.cur.ct.info0),
        (0x005, u.cur.ct.info1), (0x006, u.cur.ct.info2), (0x007, u.cur.ct.info3), (0x008, u.cur.ct.uivec), (0x009, u.cur.ct.uipc),
        (0x010, BitVec.ofNat 64 u.cur.race), (0x011, (u.firstOf 16 u.cur).ct.vcmode), (0x012, u.cur.ct.nstat),
        (0x013, u.cur.info), (0x014, u.cur.ct.cerr), (0x015, BitVec.ofNat 64 u.cur.kernel)],
      exec (.csrr t d (BitVec.ofNat 16 x.1)) s = .next (ctEnd t (nextPc u) 1 1 (u.wreg d x.2 1))) ∧
    (∀ k < 4, exec (.csrr t d (BitVec.ofNat 16 (0x018 + k))) s = .next (ctEnd t (nextPc u) 1 1 (u.wreg d (u.cur.huse k) 1))) ∧
    (∀ k < 16, exec (.csrr t d (BitVec.ofNat 16 (0x020 + k))) s = .next (ctEnd t (nextPc u) 1 1 (u.wreg d (u.cur.accWin k) 1))) ∧
    (∀ n : BitVec 16, n.toNat ∉ [0, 1, 2, 4, 5, 6, 7, 8, 9, 0x10, 0x11, 0x12, 0x13, 0x14, 0x15, 0x18, 0x19, 0x1A, 0x1B] →
      ¬ (0x20 ≤ n.toNat ∧ n.toNat < 0x30) → exec (.csrr t d n) s = .next (ctRefused .illegalOperand u.cur.ct.ir 0 u))) ∧
  (∀ (t : Tok) (a : BitVec 5) (s u : State), CtStarts t [a] 0 s u →
    let v := u.reg a
    let drained : Prop := u.cur.cp.ring.count = 0 ∨ ∃ x, u.cur.cp.stop = some x ∧ x.late = false
    let put (n : Nat) (f : Ct → Ct) : Out := .next (ctEnd t (nextPc u) 1 1 (u.onCt fun c => (f c).rewritten 5 n))
    exec (.csrw t a 0x001) s = put 1 (fun c => { c with trapPc := v }) ∧
    exec (.csrw t a 0x002) s = put 2 (fun c => { c with trapCtl := (c.trapCtl &&& 12) ||| (v &&& 3) }) ∧
    exec (.csrw t a 0x008) s = put 8 (fun c => { c with uivec := v }) ∧
    exec (.csrw t a 0x009) s = put 9 (fun c => { c with uipc := v }) ∧
    exec (.csrw t a 0x012) s = put 0x12 (fun c => { c with nstat := (c.nstat &&& ~~~v &&& 0x1F) ||| c.nstatNow }) ∧
    (u.cur.chin.isSome = true → exec (.csrw t a 0x011) s = .next (ctRefused .privileged u.cur.ct.ir 0 u)) ∧
    (u.cur.chin.isSome = false → drained →
      exec (.csrw t a 0x011) s = put 0x11 (fun c => { c with vcmode := v &&& 1 })) ∧
    (u.cur.chin.isSome = false → ¬ drained → exec (.csrw t a 0x011) s = .next u) ∧
    (∀ k < 16, let n := BitVec.ofNat 16 (0x020 + k)
      (u.cur.accrows < v.toNat % 512 + v.toNat / 512 % 1024 →
        exec (.csrw t a n) s = .next (ctRefused .illegalOperand u.cur.ct.ir 0 u)) ∧
      (v.toNat % 512 + v.toNat / 512 % 1024 ≤ u.cur.accrows → drained →
        exec (.csrw t a n) s = put (0x20 + k) (fun c => { c with accwin := sput k (v &&& 0x7FFFF) c.accwin })) ∧
      (v.toNat % 512 + v.toNat / 512 % 1024 ≤ u.cur.accrows → ¬ drained → exec (.csrw t a n) s = .next u)) ∧
    (∀ n : BitVec 16, n.toNat ∉ [1, 2, 8, 9, 0x11, 0x12] → ¬ (0x20 ≤ n.toNat ∧ n.toNat < 0x30) →
      exec (.csrw t a n) s = .next (ctRefused .illegalOperand u.cur.ct.ir 0 u)))

/-- LDS, STS, AMO and CAS compute ea = s[A] + sext(IMM16) modulo 2^64; an ea with bits 63 to 57 set traps with PAGE_PERMISSION
and a misaligned one with MISALIGNED, ea in TRAPINFO0, nothing sent. Otherwise a word whose page misses the plot's TLB stays at
it for the mc that the shared TLB or the walk takes (R406). Then, when the access passes translation and its checks and the
lease does not replay a log (an STS: fewer than eight STS outstanding), each of the four completes its step 5 by sending the
request of the given kind, size, data and expected value: to its home in this package, where it arrives 24 + 20 per hop mc later
(for a load that a read copy on its own die serves, 24) or behind the lease's earlier requests to the granule, or, for a page of
another package, over the fabric. The destination is outstanding until it answers, and CT goes on with the next word in the next
mc; an STS of parcel scope has completed by then, and one of die scope to a home elsewhere 24 mc on (R239; the model's reading,
log entry 14). Where a race must be refused (RACEMODE TRAP, a tracked page), the request leaves too, and CT waits for its home's
check (R260). A ninth STS waits. (R110, R111, R112, R113, R100, R196, R239, R260, R406) -/
def Obligations.CtMemoryWords : Prop :=
  ∀ (t : Tok) (d a b c : BitVec 5) (m : BitVec 4) (imm : BitVec 16) (s u : State),
    let ea := u.reg a + imm.signExtend 64
    let size := 2 ^ (c.toNat / 8)
    let mc := u.transMc u.cur.part u.cur.die ea.toNat
    let stands : Prop := (u.cur.ct.wait = .none ∧ mc = 0) ∨ ∃ k, u.cur.ct.wait = .walk k ∧ k ≤ u.datum
    let sent (w : State) (tr : Tr) (kind : ReqKind) (op data cmp : Nat) (x : BitVec 5) : State :=
      let asks : Bool := w.cur.race = 2 && !w.cur.prologue && w.clockStore && tr.tracked && w.cur.replay.isNone
      let told : Option Nat := if kind ≠ .store || asks then none
        else if c.toNat % 4 = 0 then some (w.datum + 1)
        else if c.toNat % 4 = 1 && (tr.tier = 3 || keyHome tr.key ≠ w.cur.die) then some (w.datum + 24) else none
      let x0 := (w.part w.cur.part).agent (w.cur.aidOf .ct)
      let r : Req :=
        { num := 0, lease := w.cur.id, aid := w.cur.aidOf .ct, part := w.cur.part, die := w.cur.die, kind := kind, va := ea.toNat,
          tier := tr.tier, pa := tr.pa, key := tr.key, slotKey := tr.slot, leaf := tr.leaf, size := size, sx := c.getLsbD 2,
          dreg := x.toNat, data := data, cmp := cmp, op := op, scope := c.toNat % 4, atHome := tr.tier ≠ 3, sig := t.sig,
          slot := u.cur.ct.pc / 8, opc := opcodeOf w.cur.ct.ir, virt := some ea.toNat, asks := asks, told := told.isSome,
          clk := (w.part w.cur.part).gen * 2 ^ 16 + x0.count,
          due := if tr.tier = 3 then never else
            (w.reqs.filter fun y => y.lease = w.cur.id && y.cmd.isNone && y.atHome && !y.back && y.key / 64 = tr.key / 64).foldl
              (fun m y => Nat.max m y.due)
              (Nat.max (w.datum + (24 + 20 * w.hopsFor (kind = .load) w.cur.die tr.key)) ((w.ahead tr).getD 0)) }
      let v := w.addReq r
      let v := match told with
        | none => v
        | some due =>
          let v := if tr.tracked && w.cur.race ≠ 0 && w.clockStore && !w.cur.prologue
            then v.setAgent w.cur.part (w.cur.aidOf .ct) { x0 with dirty := true } else v
          v.onCur fun l => { l with doneQ := l.doneQ ++ [{ stream := .ct, sig := t.sig, slot := r.slot, op := r.opc, due := due }] }
      let v := if x = 0 then v else v.onCt fun ct => { ct with ready := sset 0 x.toNat never ct.ready }
      let code := match kind with | .load => 32 | .store => 33 | .amo => 98 + op | _ => 107
      let v := if tr.tier = 3 then v.sendFabric (v.leafPkg tr).1 (v.leafPkg tr).2 r.aid code w.nextReq tr.farAddr
        (if kind = .load then size else data) cmp (if kind = .load then [] else leBytes data size) else v
      if asks then v.onCt fun ct => { ct with wait := .sent } else ctFinish t (.sent v (nextPc w) 1)
    let acc (k : AccKind) : Access :=
      { st := .ct, kind := k, scope := c.toNat % 4, va := ea.toNat, scr := false, slot := u.cur.ct.pc / 8 }
    let low (w : State) (x : BitVec 5) : Nat := (w.reg x).toNat % 2 ^ (8 * size)
    (∀ i srcs x, (i, srcs, x) ∈ [(Instr.lds t d a c imm, [a], d), (.sts t a b c imm, [a, b], 0), (.amo t d a b c m imm, [a, b], d),
        (.cas t d a b c imm, [a, b, d], d)] → CtStarts t srcs x s u →
      (2 ^ 57 ≤ ea.toNat → exec i s = .next (ctRefused .pagePermission ea 0 u)) ∧
      (ea.toNat < 2 ^ 57 → ea.toNat % size ≠ 0 → exec i s = .next (ctRefused .misaligned ea 0 u))) ∧
    (∀ i srcs x, (i, srcs, x) ∈ [(Instr.lds t d a c imm, [a], d), (.amo t d a b c m imm, [a, b], d), (.cas t d a b c imm, [a, b, d], d)] →
      CtStarts t srcs x s u → ea.toNat < 2 ^ 57 → ea.toNat % size = 0 → u.cur.replay = none →
      (∀ k, u.cur.ct.wait = .walk k → u.datum < k → exec i s = .next u) ∧
      (u.cur.ct.wait = .none → mc ≠ 0 → ∀ z w, u.lookup u.cur.part u.cur.die ea.toNat = (some z, w) →
        exec i s = .next (w.onCt fun ct => { ct with wait := .walk (u.datum + mc) }))) ∧
    (ea.toNat < 2 ^ 57 → ea.toNat % size = 0 → stands → ∀ (tr : Tr) (w : State), u.cur.replay = none → w.cur.replay = none →
      (CtStarts t [a] d s u → u.accessAt true (acc .read) false = .ok tr w →
        exec (.lds t d a c imm) s = .next (sent w tr .load 0 0 0 d)) ∧
      (CtStarts t [a, b] 0 s u → u.storesOut < 8 → u.accessAt true (acc .write) false = .ok tr w →
        exec (.sts t a b c imm) s = .next (sent w tr .store 0 (low w b) 0 0)) ∧
      (CtStarts t [a, b] d s u → u.accessAt true (acc .atomic) false = .ok tr w →
        exec (.amo t d a b c m imm) s = .next (sent w tr .amo m.toNat (low w b) 0 d)) ∧
      (CtStarts t [a, b, d] d s u → u.accessAt true (acc .atomic) false = .ok tr w →
        exec (.cas t d a b c imm) s = .next (sent w tr .cas 0 (low w b) (low w d) d))) ∧
    (ea.toNat < 2 ^ 57 → ea.toNat % size = 0 → CtStarts t [a, b] 0 s u → 8 ≤ u.storesOut →
      exec (.sts t a b c imm) s = .next u)

/-- When a request that waits at its home arrives there, where no error stands in its granule, and its race check passes, it
completes: its access is counted, the old bytes at its location are read, and it writes there as its kind says: a store its
data, and it leaves the list; an AMO the sum modulo 2^(8·size), and, or, xor, signed or unsigned minimum or maximum, or the
operand (operations 0 to 8); a CAS its data where the old value equals the expected one; a load nothing. A load's, AMO's or
CAS's old value is on its way back until the mc that R196 gives its line. In a lease in focus that neither logs nor replays its
inputs, the destination register takes it, extended to 64 bits, readable at that mc, and the word completes then; a store with
signals completes at the home, unless it completed before (R239). A race that must be refused traps CT with the race's TRAPINFO,
the request not performed (R260). What reaches a group that a debugger has stopped waits (R355). An AFFP that arrives updates
its record or starts its prefetch, and its word completes (R338). (R111, R112, R113, R196, R239, R253, R260, R355, R338) -/
def Obligations.HomeAccess : Prop :=
  (∀ (s : State) (r : Req), s.reqs.find? (fun x => x.num = r.num && !x.back && (x.atHome || s.replays x)) = some r →
    r.atHome = true →
    let m := 2 ^ (8 * r.size)
    let mc := s.datum + ((if r.kind = .load then s.lineMc r.die r.key else s.homeMc r.die r.key) - (24 + 20 * s.hopsFor (r.kind = .load) r.die r.key))
    (s.badAt r.tr = false → r.kind ≠ .affp → ∀ s', s.homeArrival r.lease r.access r.tr = .ok s' →
    let left := if r.kind = .store then s'.reqs.filter (fun x => x.num ≠ r.num)
      else s'.reqs.map (fun x => if x.num = r.num then { x with back := true, due := mc, onLink := isHostKey r.key && s.lineOf r.key = 0 } else x)
    let s0 : State := { s' with reqs := left }
    let bs := (s0.readTr r.tr r.size false).1
    let s1 := (s0.readTr r.tr r.size false).2
    let old := leNat bs
    let so := sint (8 * r.size) old
    let sd := sint (8 * r.size) r.data
    let put (v : Nat) : State := s1.writeTr r.tr (leBytes v r.size) false
    let new : Nat := match r.op with
      | 0 => (old + r.data) % m | 1 => old &&& r.data | 2 => old ||| r.data | 3 => old ^^^ r.data
      | 4 => if so ≤ sd then old else r.data | 5 => if so ≤ sd then r.data else old
      | 6 => Nat.min old r.data | 7 => Nat.max old r.data | _ => r.data
    let fin (v : State) : Out := .next (if r.asks = false then v else if v.stoppedAt r.lease then v.hold (.goOn r.lease)
      else asLease r.lease v fun v => v.performed (v.cur.ct.pc + 8) 1)
    (r.kind = .load → exec (.homeAccess r.num) s = fin (s1.answer r old mc)) ∧
    (r.kind = .store → exec (.homeAccess r.num) s = fin ((put r.data).answer r old (put r.data).datum)) ∧
    (r.kind = .amo → exec (.homeAccess r.num) s = fin ((put new).answer r old mc)) ∧
    (r.kind = .cas → old = r.cmp → exec (.homeAccess r.num) s = fin ((put r.data).answer r old mc)) ∧
    (r.kind = .cas → old ≠ r.cmp → exec (.homeAccess r.num) s = fin (s1.answer r old mc))) ∧
    (s.badAt r.tr = false → r.kind ≠ .affp → ∀ k i x, s.homeArrival r.lease r.access r.tr = .error (k, i, x) →
      exec (.homeAccess r.num) s = .next (asLease r.lease { x with reqs := x.reqs.filter fun y => y.num ≠ r.num } fun x =>
        let x := if r.dreg = 0 then x else x.onCt fun ct => { ct with ready := sset 0 r.dreg x.datum ct.ready }
        if x.cur.frozen then x.hold (.trap x.cur.id k i) else x.ctTrap k i)) ∧
    (s.badAt r.tr = false → r.kind = .affp → s.stoppedAt r.lease = false →
      let x := { s with reqs := s.reqs.filter fun y => y.num ≠ r.num }
      let x := if r.op = 0 then affTouch r.part r.va r.cmp r.data x else affPrefetch r.part r.va r.cmp x
      x.stoppedAt r.lease = false → exec (.homeAccess r.num) s = .next (asLease r.lease x fun x =>
        ctEnd (tokOf x.cur.ct.ir) (x.cur.ct.pc + 8) 1 0 x))) ∧
  (∀ (s : State) (r : Req) (old mc : Nat), s.cur.id = r.lease → s.cur.st ≠ .free → s.cur.replay = none →
    (s.part s.cur.part).dbg.ctl.getLsbD 3 = false →
    let v : W64 := if r.sx then BitVec.ofInt 64 (sint (8 * r.size) old) else BitVec.ofNat 64 old
    let w := if r.dreg = 0 then s else s.onCt fun c => { c.setReg r.dreg v with ready := sset 0 r.dreg mc c.ready }
    let done (s : State) : State := s.onCur fun l => { l with doneQ := l.doneQ ++
      [{ stream := .ct, sig := r.sig, slot := r.slot, op := r.opc, vc := s.cur.vc, due := mc }] }
    (s.cur.frozen = true → s.answer r old mc = { s with heldIn := s.heldIn ++ [.answer r old mc] }) ∧
    (s.cur.frozen = false → r.told = false → r.kind ≠ .store → s.answer r old mc = done w) ∧
    (s.cur.frozen = false → r.kind = .store → s.answer r old mc = if r.told || r.sig = 0 then s else done s))

/-- Once they start and no ring word names the handle they write, HSET replaces quarter q by s[A], HMOV copies hA, HADV moves
BASE by k bytes, k rows or k planes modulo 2^57 and, for MXFP8, MXFP4 and INT4G, SCALEOFF by the matching amount modulo 2^32,
HVIEW copies hA and replaces the fields of sel, and HCLR writes 0; reserved handle bits are written as zero, and each takes 1
mc. HVIEW with sel 2 on a scratch or remote handle traps with ILLEGAL_OPERAND. While the handle's in-use count is nonzero they
wait. HGET writes the quarter to s[D]. Each of the six completes whenever it starts on a handle not in use (HGET on any). (R115,
R116, R117, R87, R89) -/
def Obligations.HandleWords : Prop :=
  (∀ (t : Tok) (d a b : BitVec 5) (q : BitVec 2) (s u : State),
    let fin (h : Handle) : Out := .next (ctEnd t (nextPc u) 1 1 (u.setHandle d.toNat h))
    let h := u.handle d.toNat
    let ha := u.handle a.toNat
    let k := (u.reg a).toInt
    let x := (u.reg b).toNat
    let base (y : Int) : Handle := hPut h 120 64 (((hBase h : Int) + y) % 2 ^ 57).toNat
    let both (y z : Int) : Handle := if hFmt h = 0x06 ∨ hFmt h = 0x07 ∨ hFmt h = 0x0A
      then hPut (base y) 223 192 (((hScaleOff h : Int) + z) % 2 ^ 32).toNat else base y
    (sget 0 d.toNat u.cur.inUse = 0 →
      (CtStarts t [a] 0 s u →
        exec (.hset t d a q) s = fin (hPut h (64 * q.toNat + 63) (64 * q.toNat) (u.reg a).toNat) ∧
        exec (.hadv t d a 0) s = fin (both k (-k)) ∧
        exec (.hadv t d a 1) s = fin (both (k * hStride1 h) (k * ((hScaleRow h : Int) - hStride1 h))) ∧
        exec (.hadv t d a 2) s = fin (both (k * hStride2 h) (k * ((hDim1 h : Int) * hScaleRow h - hStride2 h)))) ∧
      (CtStarts t [b] 0 s u →
        exec (.hview t d a b 0) s = fin (hPut (hPut (hPut ha 175 160 (x % 2 ^ 16)) 191 176 (x / 2 ^ 16 % 2 ^ 16)) 63 48 (x / 2 ^ 32 % 2 ^ 16)) ∧
        exec (.hview t d a b 1) s = fin (hPut (hPut ha 159 128 (x % 2 ^ 32)) 47 16 (x / 2 ^ 32 % 2 ^ 32)) ∧
        (hSpace ha = 1 → exec (.hview t d a b 2) s = fin (hPut ha 249 248 3)) ∧
        (hSpace ha = 3 → exec (.hview t d a b 2) s = fin (hPut ha 249 248 1)) ∧
        (hSpace ha = 0 ∨ hSpace ha = 2 → exec (.hview t d a b 2) s = .next (ctRefused .illegalOperand u.cur.ct.ir 0 u)) ∧
        exec (.hview t d a b 3) s = fin (hPut (hPut (hPut (hPut ha 255 250 (x % 2 ^ 6)) 227 226 (x / 2 ^ 6 % 4))
          232 228 (x / 2 ^ 8 % 32)) 223 192 (x / 2 ^ 32 % 2 ^ 32))) ∧
      (CtStarts t [] 0 s u → exec (.hmov t d a) s = fin ha ∧ exec (.hclr t d) s = fin 0)) ∧
    (sget 0 d.toNat u.cur.inUse ≠ 0 →
      (CtStarts t [a] 0 s u → exec (.hset t d a q) s = .next u ∧ exec (.hadv t d a q) s = .next u) ∧
      (CtStarts t [b] 0 s u → exec (.hview t d a b q) s = .next u) ∧
      (CtStarts t [] 0 s u → exec (.hmov t d a) s = .next u ∧ exec (.hclr t d) s = .next u)) ∧
    (CtStarts t [] d s u → exec (.hget t d a q) s = .next (ctEnd t (nextPc u) 1 1
      (u.wreg d (BitVec.ofNat 64 (ha.toNat / 2 ^ (64 * q.toNat) % 2 ^ 64)) 1)))) ∧
  (∀ (s : State) (k : Nat) (h : Handle), keysRise s.cur.ct.handles = true →
    (s.setHandle k h).handle k = h &&& ~~~((3#256 <<< 224) ||| (0x7F#256 <<< 121) ||| 0xFFFF#256) ∧
    keysRise (s.setHandle k h).cur.ct.handles = true ∧ ∀ j, j ≠ k → (s.setHandle k h).handle j = s.handle j)

/-- Once it starts, ISSUE of n words whose block ends inside the code places, while its index i is below n and the ring has a
free slot, the word of code at PC + 8·(i + 1) at the ring's tail and moves its index on, one word an mc, and with i at n goes on
behind the block; a block that reaches beyond CODESIZE traps with FETCH_BOUND, nothing placed (that offset in TRAPINFO0 is the
model's reading, log entry 77); a word the push-time checks refuse traps with their cause, the word in TRAPINFO0 and i in
TRAPINFO1, at once with TE set and else waits for TE, the word unplaced (R369; the model's reading, log entry 95); a full ring
makes it wait. ISSUER does the same with the one word s[A] and ends. When a slot comes free, the ring placement event goes on
with the ISSUE or ISSUER that waits with its pops taken. ISSUE completes in the mc in which its index has reached n, ISSUER in
the mc in which its word is placed. (R118, R119, R120, R51, R369) -/
def Obligations.IssueAndIssuer : Prop :=
  (∀ (t : Tok) (tgt : BitVec 2) (n : BitVec 12) (s u : State), CtStarts t [] 0 s u →
    let st := Stream.ofIndex tgt.toNat
    let pc := u.cur.ct.pc
    let i := u.cur.ct.idx
    let w := sget 0 (pc / 8 + i + 1) u.cur.code
    let r := (u.cur.stream st).ring
    (u.cur.codesize < pc + 8 * (n.toNat + 1) →
      exec (.issue t tgt n) s = .next (ctRefused .fetchBound (BitVec.ofNat 64 (pc + 8 * (n.toNat + 1))) 0 u)) ∧
    (pc + 8 * (n.toNat + 1) ≤ u.cur.codesize →
      (n.toNat ≤ i → exec (.issue t tgt n) s = .next (ctEnd t (pc + 8 * (n.toNat + 1)) 1 1 u)) ∧
      (i < n.toNat → r.slots ≤ r.count → exec (.issue t tgt n) s = .next u) ∧
      (i < n.toNat → r.count < r.slots → ∀ j, pushCheck u.cur st w = .ok j →
        exec (.issue t tgt n) s = .next ((u.place st w j).onCt fun c => { c with idx := i + 1, did := (u.place st w j).datum + 1 })) ∧
      (i < n.toNat → r.count < r.slots → ∀ c i2, pushCheck u.cur st w = .error (c, i2) →
        (u.cur.ct.trapCtl.getLsbD 0 = true → exec (.issue t tgt n) s = .next (u.ctTrap c [w, trapInfo1 0 1 st i, i2, 0])) ∧
        (u.cur.ct.trapCtl.getLsbD 0 = false → exec (.issue t tgt n) s = .next u)))) ∧
  (∀ (t : Tok) (tgt : BitVec 2) (a : BitVec 5) (s u : State), CtStarts t [a] 0 s u →
    let st := Stream.ofIndex tgt.toNat
    let r := (u.cur.stream st).ring
    (r.slots ≤ r.count → exec (.issuer t tgt a) s = .next u) ∧
    (r.count < r.slots → ∀ j, pushCheck u.cur st (u.reg a) = .ok j →
      exec (.issuer t tgt a) s = .next (ctFinish t (.plain (u.place st (u.reg a) j)))) ∧
    (r.count < r.slots → ∀ c i2, pushCheck u.cur st (u.reg a) = .error (c, i2) →
      (u.cur.ct.trapCtl.getLsbD 0 = true → exec (.issuer t tgt a) s = .next (u.ctTrap c [u.reg a, trapInfo1 0 1 st 0, i2, 0])) ∧
      (u.cur.ct.trapCtl.getLsbD 0 = false → exec (.issuer t tgt a) s = .next u))) ∧
  (∀ (l : Nat) (s : State), (s.lease? l).isSome = true → (s.focus l).cur.ct.wdone = true →
    (∀ t tgt n, decodeCt false (s.focus l).cur.ct.ir = .ok (.issue t tgt n) →
      exec (.ringPlacement l) s = exec (.issue t tgt n) (s.focus l)) ∧
    (∀ t tgt a, decodeCt false (s.focus l).cur.ct.ir = .ok (.issuer t tgt a) →
      exec (.ringPlacement l) s = exec (.issuer t tgt a) (s.focus l)))

/-- Placing a word puts its 8 bytes at the tail slot of the ring in the window, moves the tail on by one slot modulo the ring's
size, adds one to its count, takes the word's credit and adds one to the in-use count of each handle it names; no byte of memory
outside the slot changes, and no scalar register, handle or trap register of CT, no vector register and no accumulator row
changes. Taking the pops and the sync point of an LD or SD word, entering its command into the footprint table and leaving its
ring slot change no scalar register, no handle, not the pc, NSTAT or the trap registers, no vector register, no accumulator
bank, no byte of memory and not the datum; the ring of the stream counts one word less outside a REP, and the other rings are
unchanged. (R118, R89, R19, R262, R209, R212) -/
def Obligations.RingAndIssueFrames : Prop :=
  (∀ (s : State) (st : Stream) (w : W64) (i : Instr), st ≠ .ct →
    let r := (s.cur.stream st).ring
    let k := s.cur.winKey (r.base + 8 * r.tail)
    let u := s.place st w i
    (u.cur.stream st).ring.tail = (r.tail + 1) % r.slots ∧ (u.cur.stream st).ring.count = r.count + 1 ∧
    (u.cur.stream st).ring.head = r.head ∧ (u.cur.stream st).ring.base = r.base ∧ (u.cur.stream st).ring.slots = r.slots ∧
    u.cur.credit = (s.cur.accept st (tokOf w)).credit ∧
    u.cur.inUse = (s.cur.useHandles (namedHandles st i)).inUse ∧
    (Memory.wf s.mem = true → readLe u.mem k 8 = w.toNat ∧ Memory.wf u.mem = true) ∧
    (∀ a, a < k ∨ k + 8 ≤ a → readByte u.mem a = readByte s.mem a) ∧
    u.cur.ct = s.cur.ct ∧ u.vfile = s.vfile ∧ u.accs = s.accs ∧ u.rest = s.rest ∧ u.parts = s.parts) ∧
  (∀ (t : Tok) (c : Cmd) (s u v : State),
    let same (x y : State) : Prop := (∀ r, y.reg r = x.reg r) ∧ (∀ k, y.handle k = x.handle k) ∧ y.cur.ct.pc = x.cur.ct.pc ∧
      y.cur.ct.nstat = x.cur.ct.nstat ∧ y.cur.ct.trapCtl = x.cur.ct.trapCtl ∧ y.cur.ct.trapPc = x.cur.ct.trapPc ∧
      y.cur.ct.trapCause = x.cur.ct.trapCause ∧ y.vfile = x.vfile ∧ y.accs = x.accs ∧ y.mem = x.mem ∧ y.datum = x.datum
    (LsStarts t s u → same s u) ∧ same u (lsAccepted c u) ∧ same v (lsIssued s v) ∧
    ((v.cur.stream s.curStream).ring.rep = none → s.curStream ≠ .ct →
      ((lsIssued s v).cur.stream s.curStream).ring.count = (v.cur.stream s.curStream).ring.count - 1 ∧
      ((lsIssued s v).cur.stream s.curStream).ring.head =
        ((v.cur.stream s.curStream).ring.head + 1) % (v.cur.stream s.curStream).ring.slots) ∧
    ((v.cur.stream s.curStream).ring.rep = none → ∀ st, st ≠ s.curStream →
      (lsIssued s v).cur.stream st = v.cur.stream st))

/-- A trap taken by a lease that is no prologue, with TE set or the trap asynchronous and a handler offset that is not 0, does
the following in one step and nothing else: TRAPPC takes the resume point, TRAPCAUSE the cause code, TRAPINFO0 to 3 the four
words; TE is cleared; CT goes to the handler (LOADER for XOP_UNLOADED where it is set, else TRAPH) after 3 mc, with no word
accepted; the word it leaves no longer stands ready at a sync point (R38), and no error is left in the written trap registers
(R96); a race cause other than CLOCK_FOLD also notes the access that RSUP may exempt. A synchronous trap of CT's word stands
due, with its cause and words, until earlier words have written their results, and its resume point is the word's offset, ACCD,
WDONE and IDX. (R122, R99, R162, R370, R38, R96) -/
def Obligations.TrapEntry : Prop :=
  (∀ (s : State) (sync : Bool) (c : Cause) (i0 i1 i2 i3 resume : W64), s.cur.prologue = false →
    (sync = true → s.cur.ct.trapCtl.getLsbD 0 = true) →
    let h := if c = .xopUnloaded ∧ s.cur.loader ≠ 0 then s.cur.loader else s.cur.traph
    h ≠ 0 →
    let s0 := s.onCur fun l => { l with grpReady := sset 0 0 0 l.grpReady }
    let s1 := if c ∈ [Cause.raceWW, .raceRW, .raceWR, .raceScope, .raceReadOverflow]
      then s0.onCur fun l => { l with rsupAcc := some (i3.toNat % 2 ^ 32, i1.toNat / 64), rsupOn := false } else s0
    s.enterTrap sync c [i0, i1, i2, i3] resume = s1.onCt fun ct =>
      { ct with trapPc := resume, trapCause := BitVec.ofNat 64 c.code, info0 := i0, info1 := i1, info2 := i2, info3 := i3,
                bad := ct.bad.filter fun b => decide (¬ (b.file = 5 ∧ b.reg ∈ [0, 1, 2, 4, 5, 6, 7])),
                trapCtl := ct.trapCtl &&& ~~~1#64, pc := h, accd := false, wdone := false, idx := 0, wait := .none,
                begun := false, trapDue := none, nextMc := s.datum + 3 }) ∧
  (∀ (s : State) (c : Cause) (i : List W64), c ≠ .uncorrectable →
    (s.regsWritten = false → s.ctTrap c i = s.onCt fun ct => { ct with trapDue := some (c, i) }) ∧
    (s.regsWritten = true → s.ctTrap c i = s.enterTrap true c i (BitVec.ofNat 64
      (s.cur.ct.idx % 4096 * 2 ^ 52 + (if s.cur.ct.wdone then 2 ^ 51 else 0) + (if s.cur.ct.accd then 2 ^ 50 else 0) +
        s.cur.ct.pc / 8 % 2 ^ 21 * 8))))

/-- A TRAP that starts, in a lease that is no prologue whose earlier results are written, with TE set and a trap handler, enters
the handler with cause TRAP_INSTR, IMM16 zero-extended in TRAPINFO0 and a TRAPPC that names the following word with ACCD, WDONE
and IDX clear; a resume from that TRAPPC therefore continues at the following word. Its encoding is CX with D, A, B, C and M
zero: a word of opcode 0x54 with IMM16 alone decodes to it, and one with another operand bit set is refused with RESERVED_FIELD.
(R121) -/
def Obligations.TrapInstruction : Prop :=
  (∀ (t : Tok) (imm : BitVec 16) (s u : State), CtStarts t [] 0 s u → u.cur.prologue = false → u.regsWritten = true →
    u.cur.ct.trapCtl.getLsbD 0 = true → u.cur.traph ≠ 0 →
    ∃ v, exec (.trap t imm) s = .next v ∧ v.cur.ct.trapCause = 0x09 ∧ v.cur.ct.info0 = imm.setWidth 64 ∧
      v.cur.ct.trapPc = BitVec.ofNat 64 (nextPc u / 8 % 2 ^ 21 * 8) ∧ v.cur.ct.pc = u.cur.traph ∧
      v.cur.ct.trapCtl.getLsbD 0 = false ∧ (∀ r, v.reg r = u.reg r) ∧ (∀ k, v.handle k = u.handle k) ∧
      (v.cur.resumeAt v.cur.ct.trapPc).ct.pc = nextPc u / 8 % 2 ^ 21 * 8 ∧ (v.cur.resumeAt v.cur.ct.trapPc).ct.idx = 0 ∧
      (v.cur.resumeAt v.cur.ct.trapPc).ct.accd = false ∧ (v.cur.resumeAt v.cur.ct.trapPc).ct.wdone = false) ∧
  (∀ (t : Tok) (x : BitVec 24) (imm : BitVec 16),
    decodeCt false (enc t 0x54 (x ++ imm)) = if x = 0 then .ok (.trap t imm) else .error .reservedField)

/-- Once they start: ERET sets TE, restarts every ring stream that stands at a refusal whose trap was entered, and resumes at
TRAPPC after 3 mc by its offset, ACCD, WDONE and IDX, which a word other than an ISSUE ignores; RSUP, if set, stands from there;
the break that stood before the word is spent (R361); UIRET with UIACT set and earlier results written clears UIACT, which gives
s24-s31 back their ordinary registers, and resumes at UIPC; with UIACT clear it traps with ILLEGAL_OPERAND; while results are in
flight it waits, which is the model's choice (log entry 74). Delivery of a user-level interrupt of a lease at a boundary with
UIP and TE set, UIACT clear and UIVEC not zero, no pre-emption beginning there, writes UIPC, sets UIACT, clears UIP and sends CT
to UIVEC with bits 2 to 0 ignored, ready at no sync point; without one of these it changes nothing. (R123, R124, R99, R86, R370,
R361, R381) -/
def Obligations.TrapReturns : Prop :=
  (∀ (t : Tok) (s u : State), CtStarts t [] 0 s u →
    let sig (x : State) : State := x.signals .ct t.sig (x.cur.ct.pc / 8) (opcodeOf x.cur.ct.ir) x.cur.vc
    let back (l : Lease) (r : W64) : Lease :=
      { l with ct :=
        { l.ct with did := u.datum + 1, pc := r.toNat / 8 % 2 ^ 21 * 8, accd := decide (r.toNat / 2 ^ 50 % 2 = 1),
                    wdone := decide (r.toNat / 2 ^ 51 % 2 = 1),
                    idx := if opcodeOf (l.codeWord (r.toNat / 8 % 2 ^ 21 * 8)) = 0x38 then r.toNat / 2 ^ 52 % 4096 else 0,
                    wait := .none, begun := false, nextMc := u.datum + 3 } }
    let spent (l : Lease) : Lease := { l with brkPc := if l.brkPc = some l.ct.pc then none else l.brkPc }
    exec (.eret t) s = .next ((sig u).onCur fun l => back
      { (spent l).restart with rsupOn := l.ct.trapCtl.getLsbD 1, ct := { l.ct with trapCtl := l.ct.trapCtl ||| 1 } } l.ct.trapPc) ∧
    (u.cur.ct.trapCtl.getLsbD 2 = false → exec (.uiret t) s = .next (ctRefused .illegalOperand u.cur.ct.ir 0 u)) ∧
    (u.cur.ct.trapCtl.getLsbD 2 = true → u.regsWritten = true →
      exec (.uiret t) s = .next ((sig u).onCur fun l => back
        { spent l with ct := { l.ct with trapCtl := l.ct.trapCtl &&& ~~~4#64 } } l.ct.uipc)) ∧
    (u.cur.ct.trapCtl.getLsbD 2 = true → u.regsWritten = false → exec (.uiret t) s = .next u)) ∧
  (∀ (l : Nat) (s : State), (s.lease? l).isSome = true →
    let u := s.focus l
    let c := u.cur.ct
    let may := u.atBoundary = true ∧ c.trapCtl.getLsbD 3 = true ∧ c.trapCtl.getLsbD 0 = true ∧ c.trapCtl.getLsbD 2 = false ∧ c.uivec ≠ 0 ∧
      u.saveDue = false
    let handled : State := (u.onCur fun l => { l with grpReady := sset 0 0 0 l.grpReady }).onCt fun c =>
      { c with bad := c.bad.filter fun b => decide (¬ (b.file = 5 ∧ b.reg ∈ [2, 9])), uipc := c.resume, trapCtl := (c.trapCtl ||| 4) &&& ~~~8#64, pc := c.uivec.toNat / 8 * 8, accd := false,
               wdone := false, idx := 0, wait := .none, begun := false, nextMc := u.datum + 3 }
    (may → exec (.uirqDelivery l) s = .next handled) ∧
    (¬ may → exec (.uirqDelivery l) s = .next u))

/-- At a boundary of CT with TE set, the trap entry event of a lease takes the oldest refusal of its ring streams, in stream
order within one mc, marks it entered and enters its trap with CT's resume point; a CLOCK_FOLD of an earlier mc than the
refusal, or with no refusal waiting, is taken instead and leaves the list of folds; with neither, or away from a boundary, or
with TE clear, nothing changes. Each of these cases is a next state. (R369, R370, R122) -/
def Obligations.AsynchronousTrapEntry : Prop :=
  ∀ (l : Nat) (s : State), (s.lease? l).isSome = true →
    let u := s.focus l
    let may := u.atBoundary = true ∧ u.cur.ct.trapCtl.getLsbD 0 = true
    let fold (x : Nat × Nat × List Byte) (r : List (Nat × Nat × List Byte)) : State :=
      (u.onCur fun l => { l with folds := r }).enterTrap false .clockFold (infoOf x.2.2) u.cur.ct.resume
    (¬ may → exec (.trapEntry l) s = .next u) ∧
    (may → oldestStop u.cur.pendingStops = none →
      (u.cur.folds = [] → exec (.trapEntry l) s = .next u) ∧
      (∀ x r, u.cur.folds = x :: r → exec (.trapEntry l) s = .next (fold x r))) ∧
    (may → ∀ st r, oldestStop u.cur.pendingStops = some (st, r) →
      (∀ x y, u.cur.folds = x :: y → x.1 < r.mc → exec (.trapEntry l) s = .next (fold x y)) ∧
      ((∀ x y, u.cur.folds = x :: y → r.mc ≤ x.1) → exec (.trapEntry l) s =
        .next ((u.onStream st fun x => { x with stop := some { r with entered := true } }).enterTrap false r.cause
          [r.i0, r.i1, r.i2, r.i3] (u.onStream st fun x => { x with stop := some { r with entered := true } }).cur.ct.resume)))

/-- Outside a replay, an ACQ that starts traps with ILLEGAL_OPERAND for an index above 4095, an object that the lease holds or a
full held set; else it does its own work: its request sets out for the table, to arrive after the trip, and CT waits. There, an
entry that is not valid refuses it with ILLEGAL_OPERAND; a valid one counts it in HOLDS and, its object translating, the request
goes on to the object, to arrive when its own way has run. When the object may go to the arrived request of the lease in focus
(X clear, and for exclusive no sharer and no request before it) and no scope race is found, the grant completes the ACQ: the
state or owner is written, CT's knowledge takes the object's vector, the object joins the held set, and CT goes on 128 mc and a
trip later. A REL of an object that is not held in its mode traps with RELEASE_NOT_HELD; else it waits for CT's accesses, then
travels and merges for 128 mc, and completes a trip later: CT's clock is released into the object's vector, LASTREL takes the
AID and scope, RELCOUNT goes up by one, S down by one or X and OWNER are cleared, HOLDS goes down and the object leaves the held
set; no register changes. FENCE waits while an earlier access of its kind is outstanding, or an STS has completed at a scope
narrower than its own and not reached its home (log entry 14), and completes in 1 mc when none is. Every CT that may act brings
ACQ, REL and FENCE to these next states. (The times of ACQ are the model's reading, log entry 38.) (R243, R244, R245, R246,
R311, R312) -/
def Obligations.SyncObjects : Prop :=
  (∀ (t : Tok) (a : BitVec 5) (sc : BitVec 2) (m : BitVec 4) (s u : State), CtStarts t [a] 0 s u → u.cur.replay = none →
    let i := (u.reg a).toNat
    (u.cur.ct.wait ≠ .none → exec (.acq t a sc m) s = .next u) ∧
    (u.cur.ct.wait = .none → (4095 < i ∨ (∃ h ∈ u.cur.held, h.1 = i) ∨ 16 ≤ u.cur.held.length) →
      exec (.acq t a sc m) s = .next (ctRefused .illegalOperand u.cur.ct.ir 0 u)) ∧
    (u.cur.ct.wait = .none → i ≤ 4095 → (∀ h ∈ u.cur.held, h.1 ≠ i) → u.cur.held.length < 16 →
      exec (.acq t a sc m) s = .next ((u.addWaiter u.cur.part
        { obj := 0, lease := u.cur.id, idx := i, shared := m = 1, scope := sc.toNat,
          due := u.datum + (24 + 20 * u.tableHops), atHome := u.datum }).ctSent))) ∧
  (∀ (s : State) (w : Waiter), s.cur.id = w.lease → CtAt 0x3B s → s.cur.st = .running → s.cur.ct.wait = .sent →
    (s.part s.cur.part).waiters.find? (fun x => x.lease = s.cur.id) = some w → w.arrived = false → w.due ≤ s.datum →
    let p := s.cur.part
    let e := s.entry p w.idx
    (e.valid = false → let v := ctRefused .illegalOperand s.cur.ct.ir 0 (s.unsent p)
      v.cur.id = s.cur.id → (v.part p).waiters.find? (fun x => x.lease = s.cur.id) = none → exec (.acqGrant p s.cur.id) s = .next v) ∧
    (e.valid = true → e.obj < 2 ^ 57 → ∀ (tr : Tr) (x y : State), s.translate p s.cur.die e.obj .atomic false = (.ok tr, x) →
      (x.unsent p).translate p x.cur.die e.obj .atomic false = (.ok tr, y) → y.cur.id = s.cur.id → y.cur.part = p → x.cur.part = p →
      let home := Nat.max y.datum (w.atHome + (24 + 20 * y.hopsTo e.obj))
      let v := ((y.addHolds p w.idx true).addWaiter p { w with obj := y.markAt p e.obj, atHome := home, arrived := true }).ctSent
      v.datum < home → (v.part p).waiters.find? (fun x => x.lease = s.cur.id) =
        some { w with obj := y.markAt p e.obj, atHome := home, arrived := true } →
      exec (.acqGrant p s.cur.id) s = .next v)) ∧
  (∀ (s : State) (w : Waiter), s.cur.id = w.lease → CtAt 0x3B s → s.cur.st = .running → s.cur.ct.wait = .sent →
    (s.part s.cur.part).waiters.find? (fun x => x.lease = s.cur.id) = some w → w.arrived = true → w.atHome ≤ s.datum →
    s.cur.race = 0 ∨ s.clockStore = false ∨ s.scopeBad s.cur.part w (s.cur.aidOf .ct) = none →
    let p := s.cur.part
    let obj := (s.entry p w.idx).obj
    let st := s.objGet p obj 0 4
    let before := ((s.part p).waiters.takeWhile fun x => x.lease ≠ w.lease).filter fun x => x.obj = w.obj && x.arrived
    let got (v : State) : State := ((v.dropWaiter p w.lease).acquire .ct (v.vecOf (w.obj - 1))).onCur fun l =>
      { l with held := l.held ++ [(w.idx, w.shared, w.scope)] }
    (nbits st 31 31 = 0 → w.shared = true → (∀ x ∈ before, x.shared = true) →
      let v := got (s.objSet p obj 0 4 (st + 1))
      exec (.acqGrant p s.cur.id) s = .next (ctEventEnd s v (128 + (24 + 20 * v.hopsTo obj)))) ∧
    (nbits st 31 31 = 0 → w.shared = false → nbits st 15 0 = 0 → before = [] →
      let v := got ((s.objSet p obj 0 4 (st + 2 ^ 31)).objSet p obj 4 2 (s.cur.aidOf .ct))
      exec (.acqGrant p s.cur.id) s = .next (ctEventEnd s v (128 + (24 + 20 * v.hopsTo obj)))) ∧
    (nbits st 31 31 = 1 ∨ (w.shared = false ∧ nbits st 15 0 ≠ 0) → exec (.acqGrant p s.cur.id) s = .next s)) ∧
  (∀ (t : Tok) (a : BitVec 5) (sc : BitVec 2) (m : BitVec 4) (s u : State), CtStarts t [a] 0 s u → u.cur.replay = none →
    let p := u.cur.part
    let i := (u.reg a).toNat
    let obj := (u.entry p i).obj
    let trip := 24 + 20 * u.hopsTo obj
    let slot := u.cur.ct.pc / 8
    let u1 := (u.release .ct slot).2
    let k := u1.markAt p obj - 1
    let u2 := u1.setVec k (vecMax (u1.part p).gen (u1.vecOf k) (u.release .ct slot).1)
    let u3 := u2.objSet p obj 6 2 (u.cur.aidOf .ct + sc.toNat * 2 ^ 12)
    let u4 := u3.objSet p obj 8 8 (u3.objGet p obj 8 8 + 1)
    let st := u4.objGet p obj 0 4
    let fin (x : State) : State := (x.addHolds p i false).onCur fun l => { l with held := l.held.filter (fun h => h.1 ≠ i) }
    (u.cur.ct.wait = .none → (∀ h ∈ u.cur.held, ¬ (h.1 = i ∧ h.2.1 = decide (m = 1))) →
      exec (.rel t a sc m) s = .next (ctRefused .releaseNotHeld u.cur.ct.ir 0 u)) ∧
    (u.cur.ct.wait = .none → (∃ h ∈ u.cur.held, h.1 = i ∧ h.2.1 = decide (m = 1)) → u.ctAccessesDone = true →
      exec (.rel t a sc m) s = .next (u.onCt fun c => { c with wait := .change (u.datum + trip + 128) })) ∧
    (u.cur.ct.wait = .none → (∃ h ∈ u.cur.held, h.1 = i ∧ h.2.1 = decide (m = 1)) → u.ctAccessesDone = false →
      exec (.rel t a sc m) s = .next u) ∧
    (∀ at_, u.cur.ct.wait = .change at_ →
      (u.datum < at_ → exec (.rel t a sc m) s = .next u) ∧
      (at_ ≤ u.datum → m = 1 →
        exec (.rel t a sc m) s = .next (ctEnd t (nextPc (fin (u4.objSet p obj 0 4 (st - 1)))) (trip + 1) trip
          (fin (u4.objSet p obj 0 4 (st - 1))))) ∧
      (at_ ≤ u.datum → m ≠ 1 →
        exec (.rel t a sc m) s = .next (ctEnd t (nextPc (fin ((u4.objSet p obj 0 4 (st % 2 ^ 31)).objSet p obj 4 2 0xFFF)))
          (trip + 1) trip (fin ((u4.objSet p obj 0 4 (st % 2 ^ 31)).objSet p obj 4 2 0xFFF)))))) ∧
  (∀ (i sc : Nat) (sh : Bool) (s : State),
    (releaseObject i sh sc s).cur.held = s.cur.held.filter (fun h => h.1 ≠ i) ∧
    (releaseObject i sh sc s).cur.ct = s.cur.ct ∧
    (∀ r, (releaseObject i sh sc s).reg r = s.reg r)) ∧
  (∀ (t : Tok) (sc : BitVec 2) (m : BitVec 4) (s u : State), CtStarts t [] 0 s u →
    let open_ := (u.reqs.any fun r => r.lease = u.cur.id && r.cmd.isNone && r.size ≠ 64 && (m = 0 || r.kind ≠ .load) &&
      (r.told = false || r.scope < sc.toNat)) || u.cur.doneQ.any fun d => d.stream = .ct && d.op = 0x2F && u.datum < d.due
    (open_ = false → exec (.fence t sc m) s = .next (ctEnd t (nextPc u) 1 1 u)) ∧
    (open_ = true → exec (.fence t sc m) s = .next u))

/-- Outside a replay, its object 64-byte aligned and translating for a write, a BIND that starts travels to the table; there,
when due and after the ACQ requests of lower AIDs that arrive with it, it traps with ILLEGAL_OPERAND if the object is outside
HBM, the entry is valid, the length is zero, base plus length exceeds 2^57, or M = 1 and the granule is marked, or M = 0 and it
is not; otherwise it completes: the entry holds the owner (CT's AID), HOLDS 0, the object, base and length, BIND with M = 1
initialises the object's 64 bytes and marks its granule, and CT goes on a trip later. UNBIND, due there in the same order, traps
with ILLEGAL_OPERAND for an entry not valid or held, or with M = 1 while another entry names the object or the object is held;
otherwise it completes, clearing the entry, and with M = 1 the mark and the vector. (The vector's place is a free value, log
entry 23; the trip and its order of arrival are the model's, log entry 38.) A BARG that starts outside a replay traps with
ILLEGAL_OPERAND for a count of 0 or above 4,096 (the model's reading, log entry 41), waits until rings are idle and CT's
accesses done, and then releases the lease's four agents and sends its arrival. The arrival of the lease in focus opens an
instance where none takes arrivals at its level, RCB and group, joins one with its count, the vectors merging at levels 0 and 1,
and with another count traps with ILLEGAL_OPERAND; an instance whose count has arrived takes no more. A completed instance
leaves the list, and a single participant in focus goes on after its notice's trip, at levels 0 and 1 after 128 mc more with its
four agents knowing the merged vector. At level 2 the generation goes up by one modulo 2^16, every agent's count becomes 1 with
D and FOLDED clear, AID quarantine ends and a sweep starts, to end when every usable granule of a die has been visited at 512 an
mc (log entry 102). A sweep that ends leaves no vector entry of the partition with an older tag. (R311, R312, R313, R242, R247,
R248, R251) -/
def Obligations.BindingsAndBarriers : Prop :=
  ((∀ (t : Tok) (a b c : BitVec 5) (m : BitVec 4) (k : BitVec 12) (s u : State), CtStarts t [a, b, c] 0 s u →
    u.cur.replay = none →
    let obj := (u.reg a).toNat
    (obj % 64 ≠ 0 → exec (.bind t a b c m k) s = .next (ctRefused .misaligned (u.reg a) 0 u)) ∧
    (obj % 64 = 0 → obj < 2 ^ 57 →
      ∀ (tr : Tr) (v : State), u.translate u.cur.part u.cur.die obj .write false = (.ok tr, v) → v.cur = u.cur →
        let z := arriveBefore v
        let p := z.cur.part
        let bad : Prop := tr.tier ≠ 0 ∨ (z.entry p k.toNat).valid = true ∨ (u.reg c).toNat = 0 ∨
          2 ^ 57 < (u.reg b).toNat + (u.reg c).toNat ∨ (m = 1 ↔ sget 0 (tr.key / 64) z.marks ≠ 0)
        let e : Binding :=
          { valid := true, owner := z.cur.aidOf .ct, holds := 0, obj := obj, base := (u.reg b).toNat, len := (u.reg c).toNat }
        let new := p * 2 ^ 32 + z.nextVec
        let w := { z with nextVec := z.nextVec + 1 }
        let x := w.vecField.2.unitWrite p obj (packLe [(0, 4), (0xFFF, 2), (0xFFF, 2), (0, 8), (w.vecField.1, 8), (0, 40)])
        let y := { x with marks := sset 0 (tr.key / 64) (new + 1) x.marks }
        let trip (y : State) : Nat := 24 + 20 * y.tableHops
        (u.cur.ct.wait = .none →
          exec (.bind t a b c m k) s = .next (v.onCt fun ct => { ct with wait := .change (v.datum + trip v) })) ∧
        (∀ at_, u.cur.ct.wait = .change at_ →
          (v.datum < at_ → exec (.bind t a b c m k) s = .next v) ∧
          (at_ ≤ v.datum → bad → exec (.bind t a b c m k) s = .next (ctRefused .illegalOperand z.cur.ct.ir 0 z)) ∧
          (at_ ≤ v.datum → ¬ bad → m ≠ 1 →
            exec (.bind t a b c m k) s = .next (ctEnd t (nextPc z) (trip z + 1) (trip z) (z.setEntry p k.toNat e))) ∧
          (at_ ≤ v.datum → ¬ bad → m = 1 →
            exec (.bind t a b c m k) s = .next (ctEnd t (nextPc y) (trip y + 1) (trip y) (y.setEntry p k.toNat e)))))) ∧
  (∀ (t : Tok) (m : BitVec 4) (k : BitVec 12) (s u : State), CtStarts t [] 0 s u → u.cur.replay = none →
    let z := arriveBefore u
    let p := z.cur.part
    let e := z.entry p k.toNat
    let st := z.objGet p e.obj 0 4
    let bad : Prop := e.valid = false ∨ e.holds ≠ 0 ∨ (m = 1 ∧ ((∃ x ∈ (z.part p).bind, x.1 ≠ k.toNat ∧ x.2.valid = true ∧ x.2.obj = e.obj) ∨
      nbits st 31 31 = 1 ∨ nbits st 15 0 ≠ 0))
    let trip (y : State) : Nat := 24 + 20 * y.tableHops
    (u.cur.ct.wait = .none → exec (.unbind t m k) s = .next (u.onCt fun ct => { ct with wait := .change (u.datum + trip u) })) ∧
    (∀ at_, u.cur.ct.wait = .change at_ →
      (u.datum < at_ → exec (.unbind t m k) s = .next u) ∧
      (at_ ≤ u.datum → bad → exec (.unbind t m k) s = .next (ctRefused .illegalOperand z.cur.ct.ir 0 z)) ∧
      (at_ ≤ u.datum → ¬ bad → m ≠ 1 →
        exec (.unbind t m k) s = .next (ctEnd t (nextPc z) (trip z + 1) (trip z) (z.setEntry p k.toNat {}))) ∧
      (at_ ≤ u.datum → ¬ bad → m = 1 → ∀ tr, z.unitTr p 0 e.obj .read = some tr →
        let y := { z with marks := sset 0 (tr.key / 64) 0 z.marks, vecs := sset [] (z.markAt p e.obj - 1) [] z.vecs }
        exec (.unbind t m k) s = .next (ctEnd t (nextPc z) (trip y + 1) (trip y) (y.setEntry p k.toNat {})))))) ∧
  ((∀ (t : Tok) (a : BitVec 5) (sc : BitVec 2) (m : BitVec 4) (s u : State), CtStarts t [a] 0 s u → u.cur.replay = none →
    u.cur.ct.wait = .none →
    let n := if m = 0 then (u.groupOf u.cur).length else (u.reg a).toNat
    let rcb := u.barrierRcb m.toNat
    let v := u.releaseAll.2
    (n = 0 ∨ 4096 < n → exec (.barg t a sc m) s = .next (ctRefused .illegalOperand u.cur.ct.ir 0 u)) ∧
    (0 < n → n ≤ 4096 → ¬ (u.cur.ringsIdle u.datum = true ∧ u.ctDrained = true) → exec (.barg t a sc m) s = .next u) ∧
    (0 < n → n ≤ 4096 → u.cur.ringsIdle u.datum = true → u.ctDrained = true →
      exec (.barg t a sc m) s = .next (v.onPart u.cur.part fun q => { q with arrivals := q.arrivals ++
        [{ level := m.toNat, rcb := rcb, grp := if m = 0 then (v.firstOf 16 u.cur).id else 0, count := n,
           arrived := [u.cur.id], vec := u.releaseAll.1, due := v.datum + (24 + 20 * v.hopsTo rcb) }] }).ctSent)) ∧
  (∀ (s : State) (p : Nat) (x : Barrier), (s.part p).arrivals.find? (fun y => y.arrived = [s.cur.id]) = some x →
    let q := { s.part p with arrivals := (s.part p).arrivals.filter fun y => y.arrived ≠ [s.cur.id] }
    let d := if x.level = 2 then 1 else 128
    let takes (b : Barrier) : Bool := b.level = x.level && b.rcb = x.rcb && b.grp = x.grp && b.arrived.length < b.count
    (q.barriers.find? takes = none → exec (.bargArrival p s.cur.id) s =
      .next (s.setPart p { q with barriers := q.barriers ++ [{ x with due := s.datum + d }] })) ∧
    (∀ b, q.barriers.find? takes = some b → b.count = x.count → exec (.bargArrival p s.cur.id) s =
      .next (s.setPart p { q with barriers := q.barriers.map fun y => if y.arrived.head? = b.arrived.head? then
        { y with arrived := y.arrived ++ x.arrived, vec := if y.level = 2 then y.vec else vecMax q.gen y.vec x.vec,
                 due := s.datum + if y.level = 2 then 1 else 128 } else y })) ∧
    (∀ b, q.barriers.find? takes = some b → b.count ≠ x.count → CtAt 0x3E s → s.cur.prologue = false →
      s.cur.ct.trapCtl.getLsbD 0 = true → s.cur.traph ≠ 0 →
      exec (.bargArrival p s.cur.id) s = .next (ctRefused .illegalOperand s.cur.ct.ir 0 (s.setPart p q)))) ∧
  (∀ (s : State) (b : Barrier), CtAt 0x3E s → b.arrived = [s.cur.id] → b.count = 1 → b.due ≤ s.datum →
    let p := s.cur.part
    (s.part p).barriers.find? (fun y => y.arrived.head? = some s.cur.id) = some b →
    let v := s.onPart p fun q => { q with barriers := q.barriers.filter fun y => y.arrived.head? ≠ some s.cur.id }
    (b.level ≠ 2 → exec (.bargComplete p s.cur.id) s =
      .next (ctEventEnd s (v.acquireAll b.vec) (24 + 20 * v.hopsTo b.rcb + 128))) ∧
    (b.level = 2 → (∀ x ∈ (s.part p).sweeps, ((s.part p).gen + 65536 - x.1) % 65536 < 3) →
      exec (.bargComplete p s.cur.id) s =
        .next (ctEventEnd s (nextGeneration p v) (24 + 20 * (nextGeneration p v).hopsTo b.rcb)))) ∧
  (∀ (p : Nat) (s : State), let q := (nextGeneration p s).part p
    (keysRise s.parts = true → q.gen = ((s.part p).gen + 1) % 65536 ∧ q.aidQuar = [] ∧
      q.sweeps = (s.part p).sweeps ++ [(((s.part p).gen + 1) % 65536, s.datum + s.sweepMc)] ∧
      ∀ a ∈ q.agents, a.2.count = 1 ∧ a.2.dirty = false ∧ a.2.folded = false) ∧
    (nextGeneration p s).mem = s.mem ∧ (nextGeneration p s).cur = s.cur) ∧
  (∀ (p : Nat) (s : State) (g mc : Nat) (rest : List (Nat × Nat)), (s.part p).sweeps = (g, mc) :: rest →
    ∃ v, exec (.genSweep p) s = .next v ∧ v.mem = s.mem ∧ v.cur.ct = s.cur.ct ∧ v.cur.vc = s.cur.vc ∧
      (∀ x ∈ v.vecs, x.1 / 2 ^ 32 = p → ∀ e ∈ x.2,
        ¬ (0 < (g + 65536 - e.2.toNat / 2 ^ 16) % 65536 ∧ (g + 65536 - e.2.toNat / 2 ^ 16) % 65536 < 32768))))

/-- SPLIT, FUSE and ORIENT that start check in the order of R303: a chained lease or a bad geometry traps with SHAPE_INVALID, an
ACC that the word does not take with ILLEGAL_OPERAND, then they wait for the drain, and a queue that is not empty traps with
ILLEGAL_OPERAND; then SPLIT without room under the limits or free AID groups traps with LEASE_LIMIT and else takes the AID
groups of its parts and falls due after 224 mc, ORIENT falls due after 32, and FUSE, without a clashing arrival, which traps
with ILLEGAL_OPERAND, arrives at its rectangle; with the last arrival the change of every participant falls due after 224 mc.
CHAIN and UNCHAIN name another parcel of the grid or trap with SHAPE_INVALID; without a partner they wait for it, with a partner
that fits CP issue is held, and when both groups' CP commands have completed the change of both falls due after 32 mc. While a
word waits for its change nothing happens. Each of the five has done its own work in CT in the state where its change stands
due; the change events complete it. (The drain waits for CT's own requests too, log entry 44; that nothing changes before a
change falls due is the model's reading, log entry 51.) (R303, R304, R305, R307, R308, R309) -/
def Obligations.ShapeWords : Prop :=
  (∀ (t : Tok) (sh : BitVec 4) (dy dx : BitVec 3) (o : BitVec 1) (acc : BitVec 3) (s u : State), CtStarts t [] 0 s u →
    let geo : Instr → Bool
      | .split .. => splitOk u.cur sh.toNat
      | .fuse .. => (u.cur.fuseRect.map u.fuseOk).getD false
      | _ => true
    let accOk : Instr → Prop
      | .split .. => acc ≠ 2
      | .fuse .. => acc ≠ 1
      | _ => acc = 0 ∨ acc = 3
    (∀ i ∈ [Instr.split t sh o acc, .fuse t dy dx sh o acc, .orient t o acc],
      (u.cur.ct.wait ≠ .none → exec i s = .next u) ∧
      (u.cur.ct.wait = .none → u.cur.chained = true ∨ geo i = false →
        exec i s = .next (ctRefused .shapeInvalid u.cur.ct.ir 0 u)) ∧
      (u.cur.ct.wait = .none → u.cur.chained = false → geo i = true →
        (¬ accOk i → exec i s = .next (ctRefused .illegalOperand u.cur.ct.ir 0 u)) ∧
        (accOk i → u.shapeDrained = false → exec i s = .next u) ∧
        (accOk i → u.shapeDrained = true → u.cur.queuesEmpty = false →
          exec i s = .next (ctRefused .illegalOperand u.cur.ct.ir 0 u)))) ∧
    (u.cur.ct.wait = .none → u.cur.chained = false → u.shapeDrained = true → u.cur.queuesEmpty = true →
      (splitOk u.cur sh.toNat = true → acc ≠ 2 →
        let more := splitMore u.cur sh.toNat
        let room : Prop := u.limitsOk u.cur.part u.cur.rcb 0 more = true ∧ more ≤ (u.part u.cur.part).freeGroups.length
        (¬ room → exec (.split t sh o acc) s = .next (ctRefused .leaseLimit u.cur.ct.ir 0 u)) ∧
        (room → let gs := (u.part u.cur.part).freeGroups.take more
          exec (.split t sh o acc) s = .next (((u.onPart u.cur.part fun q => { q with aidUsed := q.aidUsed ++ gs }).onCur fun l =>
            { l with splitAids := gs }).onCt fun c => { c with wait := .change (u.datum + 224) }))) ∧
      (acc = 0 ∨ acc = 3 → exec (.orient t o acc) s = .next (u.onCt fun c => { c with wait := .change (u.datum + 32) })) ∧
      (acc ≠ 1 → ∀ r, u.cur.fuseRect = some r → u.fuseOk r = true →
        let v := u.ctSent
        let here : Prop := ∀ x ∈ v.inRect r, x.ct.wait = .sent ∧ opcodeOf x.ct.ir = 0x42 ∧ x.fuseRect = some r
        (u.fuseClash r = true → exec (.fuse t dy dx sh o acc) s = .next (ctRefused .illegalOperand u.cur.ct.ir 0 u)) ∧
        (u.fuseClash r = false → ¬ here → exec (.fuse t dy dx sh o acc) s = .next v) ∧
        (u.fuseClash r = false → here → exec (.fuse t dy dx sh o acc) s = .next (v.mapLeases fun x =>
          if (v.inRect r).any (fun y => y.id = x.id) then { x with ct := { x.ct with wait := .change (u.datum + 224) } } else x))))) ∧
  (∀ (t : Tok) (sh : BitVec 4) (dy dx : BitVec 3) (o : BitVec 1) (s u : State), CtStarts t [] 0 s u →
    ∀ i op, (i, op) ∈ [(Instr.chain t dy dx sh o, 0x43), (.unchain t dy dx sh o, 0x44)] →
    (u.cur.ct.wait = .none → (∀ x, u.cur.names = some x → x = (u.cur.row, u.cur.col) ∨ parcelOk (irShape u.cur.ct.ir) x.1 x.2 = false) →
      exec i s = .next (ctRefused .shapeInvalid u.cur.ct.ir 0 u)) ∧
    (u.cur.ct.wait = .none → ∀ x, u.cur.names = some x → x ≠ (u.cur.row, u.cur.col) → parcelOk (irShape u.cur.ct.ir) x.1 x.2 = true →
      (u.linkPartner u.cur = none → exec i s = .next u.ctSent) ∧
      (∀ y, u.linkPartner u.cur = some y → (linkPair u.cur y).isSome = true → exec i s = .next u.ctSent.holdPairs) ∧
      (∀ y, u.linkPartner u.cur = some y → linkPair u.cur y = none →
        let v := asLease y.id u (ctEvent op fun w => .refuse .shapeInvalid w)
        exec i s = .next (ctRefused .shapeInvalid v.cur.ct.ir 0 v))) ∧
    (u.cur.ct.wait = .sent →
      (u.linkPartner u.cur = none → exec i s = .next u) ∧
      (∀ y, u.linkPartner u.cur = some y → u.cpEnded u.cur = true → u.cpEnded y = true → exec i s = .next (u.mapLeases fun x =>
        if x.id = u.cur.id || x.id = y.id then { x with ct := { x.ct with wait := .change (u.datum + 32) } } else x)) ∧
      (∀ y, u.linkPartner u.cur = some y → u.cpEnded u.cur = false ∨ u.cpEnded y = false → exec i s = .next u)) ∧
    (∀ at_, u.cur.ct.wait = .change at_ → exec i s = .next u))

/-- When the change of the shape word in focus falls due, and not before, the word completes and CT goes on in the next mc:
SPLIT with the parts made, each at its corner with its AID group, the shape, orientation, registers, handles and code of the
word's lease, and the first part's shape, orientation and fresh rings set; FUSE, in the lease at the top-left plot, which takes
the rectangle, the orientation and the largest counter of its leases, the other leases of the rectangle gone; ORIENT with the
orientation set; all three empty the weight buffers and reset the output chain, and SPLIT and ORIENT leave the scalar registers
and handles as they are. ORIENT changes no byte of memory and no vector register, and with ACC other than clear no bank. CHAIN's
change joins producer and consumer, whose groups take the larger vector counter and count their sync points from 0; UNCHAIN's
parts them; the rows of the edge's FIFO are gone; both words complete, where neither lease stands stopped. (Clocks, the table
and the order within a change: log entry 51. Lease numbers start from 1, which no step changes: number 0 is no lease.) (R303,
R304, R305, R307, R308, R309, R410) -/
def Obligations.ShapeChanges : Prop :=
  (∀ (s : State) (at_ : Nat), s.cur.st ≠ .free → s.cur.ct.wait = .change at_ → s.datum < at_ →
    ∀ i ∈ [Instr.splitChange s.cur.id, .orientChange s.cur.id, .fuseChange s.cur.id, .chainChange s.cur.id, .unchainChange s.cur.id],
      exec i s = .next s) ∧
  (∀ (s : State) (at_ : Nat), s.cur.ct.wait = .change at_ → at_ ≤ s.datum →
    (CtAt 0x41 s → exec (.splitChange s.cur.id) s = .next (ctEventEnd s (applySplit s) 0)) ∧
    (CtAt 0x45 s → exec (.orientChange s.cur.id) s = .next (ctEventEnd s (applyOrient s) 0)) ∧
    (CtAt 0x42 s → ∀ r, s.cur.fuseRect = some r → s.cur.row = r.row → s.cur.col = r.col →
      exec (.fuseChange s.cur.id) s = .next (ctEventEnd s (applyFuse r s) 0)) ∧
    (CtAt 0x42 s → ∀ r, s.cur.fuseRect = some r → s.cur.row ≠ r.row ∨ s.cur.col ≠ r.col →
      exec (.fuseChange s.cur.id) s = .next s)) ∧
  (∀ s : State, (applySplit s).cur.shape = irShape s.cur.ct.ir ∧ (applySplit s).cur.ori = irOri s.cur.ct.ir ∧
    (applySplit s).cur.ct = s.cur.ct ∧ (applySplit s).cur.wact = {} ∧ (applySplit s).cur.wshd = {} ∧ (applySplit s).cur.cfg = {} ∧
    (applySplit s).cur.ld.ring = { base := 0, slots := s.cur.ld.ring.slots } ∧
    (s.cur.st ≠ .free → ∀ c g, (c, g) ∈ (splitCorners s.cur (irShape s.cur.ct.ir)).tail.zip s.cur.splitAids → ∃ x ∈ (applySplit s).leases,
      (x.row, x.col) = c ∧ x.aid = 4 * g ∧ x.shape = irShape s.cur.ct.ir ∧ x.ori = irOri s.cur.ct.ir ∧ x.vc = s.cur.vc ∧
      x.ct.pc = s.cur.ct.pc + 8 ∧ x.ct.sregs = s.cur.ct.sregs ∧ x.ct.handles = s.cur.ct.handles ∧ x.code = s.cur.code)) ∧
  (∀ (r : Rect) (s : State), (applyFuse r s).cur.row = r.row ∧ (applyFuse r s).cur.col = r.col ∧ (applyFuse r s).cur.shape = r.shape ∧
    (applyFuse r s).cur.ori = irOri s.cur.ct.ir ∧ (applyFuse r s).cur.wact = {} ∧ (applyFuse r s).cur.wshd = {} ∧
    (applyFuse r s).cur.cfg = {} ∧ (∀ x ∈ s.inRect r, x.vc ≤ (applyFuse r s).cur.vc) ∧
    (s.inRect r ≠ [] → ∃ x ∈ s.inRect r, (applyFuse r s).cur.vc = x.vc) ∧
    (s.cur.id ≠ 0 → s.cur.st ≠ .free → ∀ x ∈ s.inRect r, x.id ≠ 0 → x.id ≠ s.cur.id → (applyFuse r s).lease? x.id = none)) ∧
  (∀ s : State, (applyOrient s).cur = { s.cur with ori := irOri s.cur.ct.ir, wact := {}, wshd := {}, cfg := {} } ∧
    (applyOrient s).mem = s.mem ∧ (applyOrient s).vfile = s.vfile ∧
    (irAcc s.cur.ct.ir ≠ 3 → (applyOrient s).accs = s.accs) ∧
    (irAcc s.cur.ct.ir = 3 → ∀ q ∈ s.cur.plots, ∀ k < 512, k + 512 * (s.cur.die * 16 + q) ∉ (applyOrient s).accs.map (·.1))) ∧
  (∀ (s : State) (at_ : Nat) (y p q : Lease), s.cur.ct.wait = .change at_ → at_ ≤ s.datum → s.linkPartner s.cur = some y →
    linkPair s.cur y = some (p, q) → y.frozen = false →
    (CtAt 0x43 s → exec (.chainChange s.cur.id) s =
      .next ((asLease y.id (ctEventEnd s (joinEdge p q s).retable 0) (ctEvent 0x43 fun w => .after 0 w)).focus s.cur.id).holdPairs) ∧
    (CtAt 0x44 s → exec (.unchainChange s.cur.id) s =
      .next ((asLease y.id (ctEventEnd s (cutEdge p q s).retable 0) (ctEvent 0x44 fun w => .after 0 w)).focus s.cur.id).holdPairs)) ∧
  (∀ (p q : Lease) (s : State), p.id ≠ q.id →
    ((joinEdge p q s).cur.ct = s.cur.ct ∧ (cutEdge p q s).cur.ct = s.cur.ct) ∧
    (s.cur.id = p.id → (joinEdge p q s).cur.chout = some q.id ∧ (joinEdge p q s).cur.fifo = [] ∧ (cutEdge p q s).cur.chout = none ∧
      (cutEdge p q s).cur.fifo = []) ∧
    (s.cur.id = q.id → (joinEdge p q s).cur.chin = some p.id ∧ (cutEdge p q s).cur.chin = none) ∧
    ((s.groupOf p ++ s.groupOf q).contains s.cur.id = true → (joinEdge p q s).cur.vc = Nat.max p.vc q.vc ∧
      (joinEdge p q s).cur.ctGrp = 0 ∧ (joinEdge p q s).cur.cp.grp = 0))

/-- Outside a replay and a log, a SPAWN that starts traps with MISALIGNED for an RCB address that is not a multiple of 128 or a
record address that is not a multiple of 8; with RCB, record and header readable, the region attached below the task's own and
in STATE 1, the reserved bytes zero, the header good and room in the queues, it releases, queues n tasks with ARGS + i·ARGSTRIDE
and completes with TASKS of the region in s[D]; a region that is not traps with RCB_INVALID, nonzero reserved bytes or a refused
header with ILLEGAL_OPERAND, and without room it waits. Its latency counts the read of the RCB and, beside it, that of the
record and then of the header it names (R293), unless it waited for room. JOIN traps with MISALIGNED or RCB_INVALID by R294,
else waits; while TASKS of its region is not 0 nothing happens; at 0 it completes after 128 mc for each region merged, CT
knowing their vectors and s[D] holding ABN and STATUS. KILL of a region that is the task's own or below it ends its tasks, the
executing one last, and, where its own lease is left, waits; it completes when none is left. KILL.SELF ends the executing task.
A task that ended abnormally is no longer in the list of tasks. SPAWN and KILL.SELF complete in one exec; JOIN and KILL do their
own work there and are completed by joinComplete and killComplete. (When a region counts as attached: log entry 48; what KILL
does in one step: log entry 49.) An END that starts in a chained parcel traps with SHAPE_INVALID; elsewhere, once every word
placed before it has completed, its retirement is due in the same mc, and until then it waits. The retirement, which completes
the END, gives, if CT still stands there, the word's signals and retires the lease: it is gone, while a lease that has moved on
stays, and, where no stored byte has an error, every other lease as it was. YIELD completes in 1 mc, and asks for a save of its
group when a launch waits that the group's plots would serve (which launches those are: log entry 50). (R290, R293, R294, R295,
R306, R127, R126, R245, R410) -/
def Obligations.RegionWordsAndEnds : Prop :=
  ((∀ (t : Tok) (d a b : BitVec 5) (n : BitVec 16) (s u : State), CtStarts t [a, b] d s u → NoLog u →
    let rcb := (u.reg a).toNat
    let rec_ := (u.reg b).toNat
    let p := u.cur.part
    (rcb % 128 ≠ 0 → exec (.spawn t d a b n) s = .next (ctRefused .misaligned (u.reg a) 0 u)) ∧
    (rcb % 128 = 0 → rec_ % 8 ≠ 0 → exec (.spawn t d a b n) s = .next (ctRefused .misaligned (u.reg b) 0 u)) ∧
    (rcb % 128 = 0 → rec_ % 8 = 0 → ∀ v1 v2 v3 : State, CtReads rcb 128 u v1 → CtReads rec_ 32 v1 v2 →
      v1.cur = u.cur → v2.cur = u.cur → v3.cur = u.cur →
      let f (o : Nat) : Nat := v2.unitLe p (rec_ + o) 8
      CtReads (f 0) 128 v2 v3 →
      (v3.attach p rcb = none → exec (.spawn t d a b n) s = .next (ctRefused .rcbInvalid v3.cur.ct.ir 0 v3)) ∧
      (∀ w, v3.attach p rcb = some w → w.cur = u.cur →
        ((w.part p).below w.cur.rcb rcb = false ∨ w.rcbGet p rcb 9 1 ≠ 1 →
          exec (.spawn t d a b n) s = .next (ctRefused .rcbInvalid w.cur.ct.ir 0 w)) ∧
        ((w.part p).below w.cur.rcb rcb = true → w.rcbGet p rcb 9 1 = 1 →
          (f 24 ≠ 0 → exec (.spawn t d a b n) s = .next (ctRefused .illegalOperand w.cur.ct.ir 0 w)) ∧
          (f 24 = 0 → w.header p (f 0) = none →
            exec (.spawn t d a b n) s = .next (ctRefused .illegalOperand (BitVec.ofNat 64 (f 0)) 0 w)) ∧
          (f 24 = 0 → w.header p (f 0) ≠ none → 4096 < w.queuedOf p + n.toNat → exec (.spawn t d a b n) s = .next w.ctSent)) ∧
        (∀ h, (w.part p).below w.cur.rcb rcb = true → w.rcbGet p rcb 9 1 = 1 → f 24 = 0 → w.header p (f 0) = some h →
          w.queuedOf p + n.toNat ≤ 4096 →
          let reads := if u.cur.ct.wait = .none then Nat.max (v3.readMc rcb) (v3.readMc rec_ + v3.readMc (f 0)) else 0
          let lat := reads + 64 + 4 * n.toNat
          let y := (List.range n.toNat).foldl (fun z i => z.queueTask p rcb (f 0) ((f 8 + i * f 16) % 2 ^ 64) h.kid { ring := 16 } u.cur.die
            (w.release .ct (u.cur.ct.pc / 8)).1) (w.release .ct (u.cur.ct.pc / 8)).2
          NoLog y → exec (.spawn t d a b n) s =
            .next (ctEnd t (nextPc y) (lat + 1) lat (y.wreg d (BitVec.ofNat 64 (y.rcbGet p rcb 0x0A 2)) lat)))))) ∧
  (∀ (t : Tok) (d a : BitVec 5) (s u : State), CtStarts t [a] d s u → NoLog u → u.cur.ct.wait = .none →
    let va := (u.reg a).toNat
    let bad : Prop := u.attached u.cur.part va = none ∨ va = u.cur.rcb ∨ (u.part u.cur.part).below u.cur.rcb va = false
    (va % 128 ≠ 0 → exec (.join t d a) s = .next (ctRefused .misaligned (u.reg a) 0 u)) ∧
    (va % 128 = 0 → bad → exec (.join t d a) s = .next (ctRefused .rcbInvalid u.cur.ct.ir 0 u)) ∧
    (va % 128 = 0 → ¬ bad → exec (.join t d a) s = .next { u.ctSent with turn := u.turn ++ [.event (.joinComplete u.cur.id)] })) ∧
  (∀ s : State, CtAt 0x47 s →
    let p := s.cur.part
    let va := s.namedRcb
    let rs := ((s.part p).rcb? va).toList ++ (s.part p).rcbs.filter fun r => (s.part p).below va r.va && r.va ≠ va && s.rcbGet p r.va 9 1 ≠ 0
    let v := rs.foldl (fun z r => z.acquire .ct (z.vecOf r.vec)) s
    let d : BitVec 5 := BitVec.ofNat 5 (s.cur.ct.ir.toNat / 2 ^ 35 % 32)
    let x : W64 := BitVec.ofNat 64 (v.rcbGet p va 0x34 4 * 2 ^ 32 + if v.rcbGet p va 0x34 4 = 0 then 0 else 1)
    (s.rcbGet p va 0x0A 2 ≠ 0 → exec (.joinComplete s.cur.id) s = .next s) ∧
    (s.rcbGet p va 0x0A 2 = 0 → NoLog v →
      exec (.joinComplete s.cur.id) s = .next (ctEventEnd s (v.wreg d x (128 * rs.length)) (128 * rs.length)))) ∧
  (∀ (t : Tok) (a : BitVec 5) (s u : State), CtStarts t [a] 0 s u → u.cur.replay = none → u.cur.ct.wait = .none →
    let va := (u.reg a).toNat
    (u.attach u.cur.part va = none → exec (.kill t a) s = .next (ctRefused .rcbInvalid u.cur.ct.ir 0 u)) ∧
    (∀ w, u.attach u.cur.part va = some w →
      ((w.part u.cur.part).below u.cur.rcb va = false → exec (.kill t a) s = .next (ctRefused .rcbInvalid w.cur.ct.ir 0 w)) ∧
      ((w.part u.cur.part).below u.cur.rcb va = true →
        let v := killTree u.cur.part va 2 u.cur.aid (some u.cur.task) w
        (v.lease? u.cur.id = none → exec (.kill t a) s = .next v) ∧
        (v.lease? u.cur.id ≠ none →
          exec (.kill t a) s = .next { v.ctSent with turn := v.turn ++ [.event (.killComplete u.cur.id)] })))) ∧
  (∀ (t : Tok) (s u : State), CtStarts t [] 0 s u → u.cur.replay = none →
    exec (.killSelf t) s = .next (abortDomain u.cur.part u.cur.task 2 0 u.cur.aid u)) ∧
  (∀ s : State, CtAt 0x48 s →
    (s.tasksBelow s.cur.part s.namedRcb = [] → exec (.killComplete s.cur.id) s = .next (ctEventEnd s s 0)) ∧
    (s.tasksBelow s.cur.part s.namedRcb ≠ [] → exec (.killComplete s.cur.id) s = .next s)) ∧
  (∀ (p t kind cause killer : Nat) (s : State), (((abortTask p t kind cause killer s).part p).task? t).isNone = true)) ∧
  ((∀ (t : Tok) (s u : State), CtStarts t [] 0 s u →
    (u.cur.chin ≠ none ∨ u.cur.chout ≠ none → exec (.endTask t) s = .next (ctRefused .shapeInvalid u.cur.ct.ir 0 u)) ∧
    (u.cur.chin = none → u.cur.chout = none → u.cur.ringsIdle u.datum = true → u.ctDrained = true →
      exec (.endTask t) s = .next { u with turn := u.turn ++ [.event (.taskRetire u.cur.id)] }) ∧
    (u.cur.chin = none → u.cur.chout = none → u.cur.ringsIdle u.datum = false ∨ u.ctDrained = false →
      exec (.endTask t) s = .next u)) ∧
  (∀ s : State, s.cur.st ≠ .free →
    let at_ : Prop := (s.cur.st = .running ∨ s.cur.st = .parked) ∧ s.cur.ct.wdone = true ∧ opcodeOf s.cur.ct.ir = 0x5B ∧
      s.cur.ringsIdle s.datum = true ∧ s.ctDrained = true
    (at_ → exec (.taskRetire s.cur.id) s =
      .next (retireLease (s.signals .ct (tokOf s.cur.ct.ir).sig (s.cur.ct.pc / 8) 0x5B s.cur.vc))) ∧
    (¬ at_ → exec (.taskRetire s.cur.id) s = .next s)) ∧
  (∀ s : State, (∀ x ∈ s.rest, x.id ≠ s.cur.id) →
    (retireLease s).lease? s.cur.id = none ∧ (retireLease s).cur.st = .free ∧
    (s.badGran = [] → ∀ x ∈ s.rest, x ∈ (retireLease s).rest)) ∧
  (∀ (t : Tok) (s u : State), CtStarts t [] 0 s u →
    (u.yieldTo = true → exec (.yield t) s =
      .next (ctEnd t (nextPc (askSave u.cur.id .byYield u)) 1 1 (askSave u.cur.id .byYield u))) ∧
    (u.yieldTo = false → exec (.yield t) s = .next (ctEnd t (nextPc u) 1 1 u))))

/-- While CP's ring holds a word that has not issued, but those at or behind one refused at issue (R419), and for CBLD while a
weight load runs, CBLD, XLOAD and XUNLD wait. CBLD traps with MISALIGNED where s[A] is no multiple of 32; with its 32 bytes
read, it sets the sixteen entries of its codebook; with its 256 bytes read, XLOAD loads a graph that passes its checks and traps
with XOP_GRAPH_INVALID on another; XUNLD empties its slot. BUPD with a bad record traps; with a good one it waits for a SELK of
the other generation, takes the record's counts where s[B] = 0, else those at s[B] once their read has returned, zeroes the
record's and flips after 64 mc and one for each four experts; at that mc it writes the biases of the other generation and
completes. AFFP traps for an index beyond the table, and else sends its request to its record's home and waits: it acts and
completes as it arrives there (see HomeAccess). RINGSET, once every ring is idle, gives a legal window range to the ring, empty,
and traps with ILLEGAL_OPERAND for another. QUIES with s[A] = 0 pops the return queue into s[D] and waits while it is empty;
with an address it waits, and completes with the descriptor's count and bits once the set is quiescent or malformed. Each of
these words completes in the state that its clause names: CBLD, XLOAD, XUNLD and RINGSET in one exec, BUPD at its flip, AFFP as
its request arrives, QUIES by the pop or by quiesComplete. (AFFP's expert with PF = 1, and that its table is not race-checked:
log entry 89; the instant at which a codebook is read and the mc at which the next word begins: log entries 39 and 32.) (R318,
R323, R419, R328, R337, R338, R263, R277) -/
def Obligations.ModelWords : Prop :=
  (∀ (t : Tok) (a : BitVec 5) (k : BitVec 16) (s u : State), CtStarts t [a] 0 s u →
    (u.cur.cpDrained = false → exec (.cbld t a k) s = .next u ∧ exec (.xload t a k) s = .next u) ∧
    (u.cur.load.isSome = true → exec (.cbld t a k) s = .next u) ∧
    (u.cur.cpDrained = true → u.cur.load = none → (u.reg a).toNat % 32 ≠ 0 →
      exec (.cbld t a k) s = .next (ctRefused .misaligned (u.reg a) 0 u)) ∧
    (∀ bs v, u.cur.cpDrained = true → u.cur.load = none → CtGets 0 (u.reg a) 32 32 u bs v → v.cur = u.cur →
      exec (.cbld t a k) s =
        let w := v.onCur fun l => { l with cb := (List.range 16).foldl (fun m i => sset 0 (k.toNat % 32 * 16 + i) (recLe bs (2 * i) 2) m) l.cb }
        .next (ctEnd t (nextPc u) (v.readMc (v.reg a).toNat + 3) (v.readMc (v.reg a).toNat + 2) w)) ∧
    (∀ bs v, u.cur.cpDrained = true → CtGets 0 (u.reg a) 64 256 u bs v → v.cur = u.cur →
      (gValid bs = false → exec (.xload t a k) s = .next (ctRefused .xopGraphInvalid (v.reg a) 0 v)) ∧
      (gValid bs = true → exec (.xload t a k) s =
        .next (ctEnd t (nextPc u) (v.readMc (v.reg a).toNat + 17) (v.readMc (v.reg a).toNat + 16)
          (v.onCur fun l => { l with xop := sset [] (k.toNat % 32) bs l.xop }))))) ∧
  (∀ (t : Tok) (k : BitVec 16) (s u : State), CtStarts t [] 0 s u →
    (u.cur.cpDrained = true → exec (.xunld t k) s =
      .next (ctEnd t (nextPc u) 2 1 (u.onCur fun l => { l with xop := sset [] (k.toNat % 32) [] l.xop }))) ∧
    (u.cur.cpDrained = false → exec (.xunld t k) s = .next u)) ∧
  (∀ (t : Tok) (a b : BitVec 5) (s u : State), CtStarts t [b] 0 s u →
    let g := u.handle (a.toNat % 16)
    let e := u.recField g 0 2
    let gen := u.recField g 2 1 % 2
    let fin (v : State) (cnt : List Nat) : State :=
      let w := v.recWrite g 0x440 (List.replicate (4 * cnt.length) 0)
      w.onCt fun c => { c with wait := .flip (w.datum + 64 + (cnt.length + 3) / 4) (v.recField g 2 1 % 2) cnt }
    (∀ due cnt, u.cur.ct.wait = .counts due cnt →
      (u.datum < due → exec (.bupd t a b) s = .next u) ∧ (due ≤ u.datum → exec (.bupd t a b) s = .next (fin u cnt))) ∧
    (∀ due gen' cnt, u.cur.ct.wait = .flip due gen' cnt →
      (u.datum < due → exec (.bupd t a b) s = .next u) ∧
      (due ≤ u.datum → exec (.bupd t a b) s = .next (ctEnd t (nextPc (bupdFlip g gen' cnt u)) 1 0 (bupdFlip g gen' cnt u)))) ∧
    (u.cur.ct.wait = .none →
      (∀ c x, u.cur.recBad g = some (c, x) →
        exec (.bupd t a b) s = .next (ctRefused c (if c = .misaligned then BitVec.ofNat 64 x else u.cur.ct.ir) 0 u)) ∧
      (u.cur.recBad g = none → e = 0 ∨ 256 < e → exec (.bupd t a b) s = .next (ctRefused .illegalOperand u.cur.ct.ir 0 u)) ∧
      (u.cur.recBad g = none → 0 < e → e ≤ 256 →
        let other : Prop := ∃ c ∈ u.cur.cfgQ, c.op = 0x0D ∧ c.selRec = hBase g ∧ c.gen ≠ gen
        (other → exec (.bupd t a b) s = .next u) ∧
        (¬ other → u.reg b = 0 →
          exec (.bupd t a b) s = .next (fin u ((List.range e).map fun i => u.recField g (0x440 + 4 * i) 4))) ∧
        (¬ other → u.reg b ≠ 0 → (u.reg b).toNat % 4 ≠ 0 →
          exec (.bupd t a b) s = .next (ctRefused .misaligned (u.reg b) 0 u)) ∧
        (¬ other → u.reg b ≠ 0 → ∀ bs v, CtGets 2 (u.reg b) 4 (4 * e) u bs v →
          exec (.bupd t a b) s = .next (v.onCt fun c =>
            { c with wait := .counts (v.datum + u.readMc (u.reg b).toNat) ((List.range e).map fun i => recLe bs (4 * i) 4) }))))) ∧
  (∀ (t : Tok) (a b : BitVec 5) (m : BitVec 16) (s u : State), CtStarts t [a, b] 0 s u → u.cur.replay = none → m = 0 ∨ m = 1 →
    (u.cur.ct.wait = .sent → exec (.affp t a b m) s = .next u) ∧ (u.cur.ct.wait ≠ .sent →
    let x := (u.reg a).toNat
    let slot := (u.reg b).toNat / 2 ^ 16 % 2 ^ 16
    let e := (u.reg b).toNat % 2 ^ 16
    let p := u.cur.part
    (x % 64 = 0 → 2 ^ 57 ≤ x → exec (.affp t a b m) s = .next (ctRefused .pagePermission (u.reg a) 0 u)) ∧
    (x % 64 ≠ 0 → exec (.affp t a b m) s = .next (ctRefused .misaligned (u.reg a) 0 u)) ∧
    (x < 2 ^ 57 → x % 64 = 0 → ∀ v, CtReaches x .read u v → v.cur = u.cur →
      let bad : Prop := v.unitLe p x 2 ≤ slot ∨ (m = 0 ∧ v.unitLe p (x + 2) 2 ≤ e) ∨ (m = 1 ∧ e ≠ 0)
      (bad → exec (.affp t a b m) s = .next (ctRefused .illegalOperand v.cur.ct.ir 0 v)) ∧
      (¬ bad → ∀ w, CtReaches (x + 0x40 + 32 * slot) (if m = 0 then .write else .read) v w → w.cur = u.cur →
        ∀ z, w.unitTr p 0 (x + 0x40 + 32 * slot) .read = some z → exec (.affp t a b m) s = .next ((w.addReq
          { num := 0, lease := w.cur.id, aid := w.cur.aidOf .ct, part := p, die := w.cur.die, kind := .affp, va := x, tier := z.tier,
            pa := z.pa, key := z.key, slotKey := z.slot, leaf := z.leaf, size := 0, data := e, cmp := slot, op := m.toNat,
            slot := w.cur.ct.pc / 8, opc := opcodeOf w.cur.ct.ir, virt := some x,
            due := w.datum + (24 + 20 * dieHops w.cur.die (keyHome z.key)) }).onCt fun ct => { ct with wait := .sent }))))) ∧
  (∀ (t : Tok) (tgt : BitVec 2) (a b : BitVec 5) (s u : State), CtStarts t [a, b] 0 s u →
    let st := Stream.ofIndex tgt.toNat
    let idle : Prop := u.cur.ringsIdle u.datum = true ∧ (u.cur.stream st).retry = none
    let legal := u.cur.ringLegal st (u.reg a).toNat (u.reg b).toNat
    let set := u.onRing st fun _ => { base := (u.reg a).toNat, slots := (u.reg b).toNat }
    (¬ idle → exec (.ringset t tgt a b) s = .next u) ∧
    (idle → legal = true → exec (.ringset t tgt a b) s = .next (ctEnd t (nextPc set) 1 1 set)) ∧
    (idle → legal = false → exec (.ringset t tgt a b) s = .next (ctRefused .illegalOperand u.cur.ct.ir 0 u))) ∧
  (∀ (t : Tok) (d a : BitVec 5) (s u : State), CtStarts t [a] d s u →
    (u.reg a = 0 → u.cur.sret = [] → exec (.quies t d a) s = .next u) ∧
    (∀ v r, u.reg a = 0 → u.cur.sret = v :: r →
      exec (.quies t d a) s = .next (ctEnd t (nextPc u) 1 1 ((u.onCur fun l => { l with sret := r }).wreg d v 1))) ∧
    (u.reg a ≠ 0 → u.cur.replay = none → u.cur.ct.wait = .none →
      (2 ^ 57 ≤ (u.reg a).toNat → exec (.quies t d a) s = .next (ctRefused .pagePermission (u.reg a) 0 u)) ∧
      ((u.reg a).toNat < 2 ^ 57 → (u.reg a).toNat % 64 ≠ 0 → exec (.quies t d a) s = .next (ctRefused .misaligned (u.reg a) 0 u)) ∧
      ((u.reg a).toNat < 2 ^ 57 → (u.reg a).toNat % 64 = 0 → ∀ v, CtReaches (u.reg a).toNat .read u v →
        exec (.quies t d a) s = .next v.ctSent))) ∧
  (∀ s : State, CtAt 0x49 s → NoLog s →
    let p := s.cur.part
    let desc := quiesSet s
    let bad := s.dsc p desc 1 1 = 1
    let d : BitVec 5 := BitVec.ofNat 5 (s.cur.ct.ir.toNat / 2 ^ 35 % 32)
    let lat := resultMc (dieHops s.cur.die (s.wlHome p desc))
    (¬ bad → s.dsc p desc 0x0C 4 % 2 ≠ 1 → exec (.quiesComplete s.cur.id) s = .next s) ∧
    (bad ∨ s.dsc p desc 0x0C 4 % 2 = 1 → exec (.quiesComplete s.cur.id) s = .next (ctEventEnd s
      (s.wreg d (BitVec.ofNat 64 (s.dsc p desc 0x34 4 * 2 ^ 32 + (if bad then 2 ^ 31 else 0) + s.dsc p desc 0x0C 4 % 256)) lat) lat)))

/-- Once it starts, NOP of LD or SD issues and completes in the mc of its issue; TMARK does so after a TYPE 2 record with its
tag; REP, once the stream lets it issue, passes its sync point, takes its pops, leaves its slot and starts CNT repetitions of
the LEN words that follow it, passing over them where CNT is 0, and the next word issues in the next mc at the earliest. All
three complete so wherever they start. (R234, R235, R363, R347) -/
def Obligations.LsPlainWords : Prop :=
  (∀ (t : Tok) (tag : BitVec 20) (s u : State), LsStarts t s u →
    let done (x : State) : State := (x.onCur fun l => { l with nextSeq := l.nextSeq + 1 }).addDone
      { stream := x.curStream, sig := t.sig, slot := x.cur.curSlot x.curStream, op := opcodeOf (x.curWord x.curStream), vc := x.cur.vc,
        seq := x.cur.nextSeq, due := x.datum }
    exec (.lsNop t) s = .next (lsIssued s (done u)) ∧
    exec (.lsTmark t tag) s = .next (lsIssued s (done (u.trace 2 u.curStream (u.cur.curSlot u.curStream) u.cur.vc tag.toNat 0)))) ∧
  (∀ (t : Tok) (cnt : BitVec 16) (len : BitVec 8) (s : State), s.lsGoes s.curStream t = true →
    let v := repWork t cnt.toNat len.toNat s.curStream ((s.grpNext s.curStream t).takePops s.curStream t.wait)
    exec (.lsRep t cnt len) s =
      .next ((v.passBody s.curStream 255).onStream s.curStream fun x => { x with nextMc := s.datum + 1 })) ∧
  (∀ (t : Tok) (cnt len : Nat) (st : Stream) (s : State), st ≠ .ct →
    let r := (s.cur.stream st).ring
    ((repWork t cnt len st s).cur.stream st).ring.rep = some { first := (r.head + 1) % r.slots, len := len, left := cnt, pos := 0 } ∧
    ((repWork t cnt len st s).cur.stream st).ring.count = r.count - 1 ∧
    (cnt ≠ 0 → (repWork t cnt len st s).passBody st 255 = repWork t cnt len st s))

/-- Once it starts, with room in the footprint table, COPY of two good handles of one format and shape whose ranges do not
overlap issues as a command over the walk bytes and scale plane of its source (or, with none, completes empty); a remote handle
stops the stream with HANDLE_INVALID, another format with FORMAT_INVALID, another shape or an overlap with ILLEGAL_OPERAND. The
queue form moves the walk of its one handle, whose rows are queue entries, and stops for a scaled format or a row longer than an
entry. COPYP, in memory or with a data queue on its stream's side, reads its 64-byte pattern record and moves
LEN0·CNT1·CNT2·CNT3 bytes, or stops: PATTERN_INVALID for a bad record, SCRATCH_BOUNDS for a side that leaves the window,
ILLEGAL_OPERAND for an overlap. GATH and SCAT, in both forms, read their index list and move the rows whose index is in range,
GATH a row of zeros for another unless M = 1, SCAT the bytes of a row that SH does not have as open ones (the model's choice,
log entry 83; with a queue, an entry only for a row in range: log entry 40). Each of the six issues wherever these conditions
hold, in every form. (R220, R221, R222, R223, R224, R212, R219) -/
def Obligations.Copies : Prop :=
  (∀ (t : Tok) (dh sh : BitVec 4) (sc : BitVec 2) (s u : State), LsStarts t s u → LsRoom u →
    let d := u.handle dh.toNat
    let h := u.handle sh.toNat
    let fp := hRange h true false ++ hRange d true true
    let good : Prop := u.cur.fullCheck d = none ∧ u.cur.fullCheck h = none
    let local_ : Prop := hSpace h ≠ spRemote ∧ hSpace d ≠ spRemote
    let shape : Prop := hDim0 h = hDim0 d ∧ hDim1 h = hDim1 d ∧ hDim2 h = hDim2 d
    let apart : Prop := fpOverlap (hRange h true false) (hRange d true true) = false
    let c : Cmd := { u.newCmd t .copy sc with dst := d, src := h }
    (good → local_ → hFmt h = hFmt d → shape → apart → exec (.copy t dh sh sc) s = .next (lsIssued s (lsMoved t c (hTotal h) fp u))) ∧
    (∀ c, u.cur.fullCheck d = some c → exec (.copy t dh sh sc) s = .next (lsRefused s c 0)) ∧
    (∀ c, u.cur.fullCheck d = none → u.cur.fullCheck h = some c → exec (.copy t dh sh sc) s = .next (lsRefused s c 0)) ∧
    (good → ¬ local_ → exec (.copy t dh sh sc) s = .next (lsRefused s .handleInvalid 0)) ∧
    (good → local_ → hFmt h ≠ hFmt d → exec (.copy t dh sh sc) s = .next (lsRefused s .formatInvalid 0)) ∧
    (good → local_ → hFmt h = hFmt d → ¬ shape ∨ ¬ apart → exec (.copy t dh sh sc) s = .next (lsRefused s .illegalOperand 0))) ∧
  (∀ (t : Tok) (dh sh : BitVec 4) (sc : BitVec 2) (s u : State), LsStarts t s u → LsRoom u →
    let ld := s.curStream = .ld
    let h := u.handle (if ld then sh else dh).toNat
    let c : Cmd := { u.newCmd t (if ld then .copyIn else .copyOut) sc with dst := h, src := h }
    (∀ c, u.cur.handleCheck h = some c → exec (.copyDq t dh sh sc) s = .next (lsRefused s c 0)) ∧
    (u.cur.handleCheck h = none → hSpace h = spRemote → exec (.copyDq t dh sh sc) s = .next (lsRefused s .handleInvalid 0)) ∧
    (u.cur.handleCheck h = none → hSpace h ≠ spRemote → fmtScaled (hFmt h) = true →
      exec (.copyDq t dh sh sc) s = .next (lsRefused s .formatInvalid 0)) ∧
    (u.cur.handleCheck h = none → hSpace h ≠ spRemote → fmtScaled (hFmt h) = false → u.cur.n * 512 < hRowBytes h →
      exec (.copyDq t dh sh sc) s = .next (lsRefused s .illegalOperand 0)) ∧
    (u.cur.handleCheck h = none → hSpace h ≠ spRemote → fmtScaled (hFmt h) = false → hRowBytes h ≤ u.cur.n * 512 →
      exec (.copyDq t dh sh sc) s = .next (lsIssued s (lsMoved t c (hWalkBytes h) (hRange h false (s.curStream = .sd)) u)))) ∧
  (∀ (t : Tok) (dh sh xh : BitVec 4) (dq : BitVec 1) (sc : BitVec 2) (s u : State), LsStarts t s u →
    let useD : Bool := dq = 0 || s.curStream = .sd
    let useS : Bool := dq = 0 || s.curStream = .ld
    let d := if useD then u.handle dh.toNat else 0
    let h := if useS then u.handle sh.toNat else 0
    let x := u.handle xh.toNat
    (useD = true → u.cur.handleCheck d = none ∧ hSpace d ≠ spRemote) → (useS = true → u.cur.handleCheck h = none ∧ hSpace h ≠ spRemote) →
    u.cur.handleCheck x = none → hSpace x = spScratch → hFmt x = 0x0C →
    ∀ bs v, LsGets sc (hBase x) 64 u bs v → LsRoom v →
      let c0 : Cmd := { v.newCmd t (if dq = 0 then .pattern else if s.curStream = .ld then .patternIn else .patternOut) sc with
        dst := d, src := h, pat := (patRecord bs).1 }
      let c := { c0 with bit := if patN c0 12 % 2 = 1 then some (decide (patN c0 12 / 2 % 2 = 1)) else none }
      let total := patN c 0 * patN c 1 * patN c 2 * patN c 3
      let bad : Prop := 4 ≤ patN c 12 ∨ (patRecord bs).2 ≠ 0 ∨ 2 ^ 40 ≤ total ∨ (dq = 1 ∧ u.cur.n * 512 < patN c 0)
      let out : Prop := (useS = true ∧ patSideBad u.cur c h 10 4 = true) ∨ (useD = true ∧ patSideBad u.cur c d 11 7 = true)
      let src := if useS then patRange c h 10 4 false else []
      let dst := if useD then patRange c d 11 7 true else []
      (bad → exec (.copyp t dh sh xh dq sc) s = .next (lsRefused s .patternInvalid 0)) ∧
      (¬ bad → total = 0 → exec (.copyp t dh sh xh dq sc) s = .next (lsIssued s (lsEmpty t c.bit v))) ∧
      (¬ bad → total ≠ 0 → out → exec (.copyp t dh sh xh dq sc) s = .next (lsRefused s .scratchBounds 0)) ∧
      (¬ bad → total ≠ 0 → ¬ out → fpOverlap src dst = true →
        exec (.copyp t dh sh xh dq sc) s = .next (lsRefused s .illegalOperand 0)) ∧
      (¬ bad → total ≠ 0 → ¬ out → fpOverlap src dst = false →
        exec (.copyp t dh sh xh dq sc) s = .next (lsIssued s (lsAccepted { c with total := total, fp := src ++ dst } v)))) ∧
  (∀ (t : Tok) (dh sh xh : BitVec 4) (dq : BitVec 1) (sc : BitVec 2) (m : BitVec 4) (s u : State), LsStarts t s u →
    let h := u.handle sh.toNat
    let d := if dq = 0 then u.handle dh.toNat else h
    let x := u.handle xh.toNat
    u.cur.handleCheck d = none → u.cur.handleCheck h = none → indexBad u.cur x = none → hSpace d ≠ spRemote → hSpace h ≠ spRemote →
    hFmt h = hFmt d → fmtScaled (hFmt h) = false → hDim0 h = hDim0 d → (dq = 0 → hDim0 x ≤ hDim1 d) →
    (dq = 1 → hRowBytes h ≤ u.cur.n * 512) →
    ∀ bs v, LsGets sc (hBase x) (4 * hDim0 x) u bs v → LsRoom v →
      let rows := ((ints32 bs).mapIdx fun i k =>
        if 0 ≤ k ∧ k < (hDim1 h : Int) then [k, (i : Int)] else if m = 1 then [] else [-1, (i : Int)]).flatten
      let c : Cmd := { v.newCmd t (if dq = 0 then .gath else .gathIn) sc with src := h, dst := d, idxs := rows }
      exec (.gath t dh sh xh dq sc m) s = .next (lsIssued s (lsMoved t c (rows.length / 2 * hRowBytes h)
        (hRange h false false ++ if dq = 0 then hRange d false true else []) v))) ∧
  (∀ (t : Tok) (dh sh xh : BitVec 4) (dq : BitVec 1) (sc : BitVec 2) (s u : State), LsStarts t s u →
    let d := u.handle dh.toNat
    let h := if dq = 0 then u.handle sh.toNat else d
    let x := u.handle xh.toNat
    u.cur.handleCheck d = none → u.cur.handleCheck h = none → indexBad u.cur x = none → hSpace d ≠ spRemote → hSpace h ≠ spRemote →
    hFmt h = hFmt d → fmtScaled (hFmt h) = false → hDim0 h = hDim0 d → (dq = 1 → hRowBytes d ≤ u.cur.n * 512) →
    ∀ bs v, LsGets sc (hBase x) (4 * hDim0 x) u bs v → LsRoom v →
      let have_ := if dq = 0 then hDim1 h else hDim0 x
      let rows := ((ints32 bs).mapIdx fun i k =>
        if 0 ≤ k ∧ k < (hDim1 d : Int) then [if i < have_ then (i : Int) else -2, k] else []).flatten
      let c : Cmd := { v.newCmd t (if dq = 0 then .scat else .scatOut) sc with src := h, dst := d, idxs := rows, imm := hDim0 x }
      let total := rows.length / 2 * hRowBytes h
      let fp := (if dq = 0 then hRange h false false else []) ++ hRange d false true
      (dq = 0 → exec (.scat t dh sh xh dq sc) s = .next (lsIssued s (lsMoved t c total fp v))) ∧
      (dq = 1 → exec (.scat t dh sh xh dq sc) s = .next (lsIssued s (lsAccepted { c with total := total, fp := fp } v))))

/-- Once it starts, with room in the footprint table, RREAD of a good remote source of a package with a usable peer entry, into
a good local destination of its format and shape or into data queue entries, issues as a command over the source's walk (and
scale plane), and RWRITE and RWRITE.WIN the other way round; RWRITE.WIN's window lies on an existing die, in this package one
that edges join to its own, or behind at most one switch (how many a route crosses is the model's free value, log entry 82). A
peer that is not usable, or another window, stops the stream with REMOTE_UNREACHABLE. JOB with good cards, in the window or in
global memory, enters the job and its cards, each waiting for a scheduler entry; a bad card stops the stream with
PATTERN_INVALID. KVGET and KVPUT with a usable peer and local pages inside the pool issue over the rows of their page list; a
page outside the pool stops the stream with ILLEGAL_OPERAND. (Which pool, where a partition has several: log entry 21; cards of
kind fill: log entry 43.) (R229, R230, R231, R232, R394, R41) -/
def Obligations.RemoteCopiesAndJobs : Prop :=
  (∀ (t : Tok) (dh sh : BitVec 4) (dq : BitVec 1) (sc : BitVec 2) (s u : State), LsStarts t s u → LsRoom u →
    let h := u.handle sh.toNat
    let d := if dq = 0 then u.handle dh.toNat else h
    let pair : Prop := u.cur.fullCheck d = none ∧ hSpace d ≠ spRemote ∧ hFmt h = hFmt d ∧ hDim0 h = hDim0 d ∧ hDim1 h = hDim1 d ∧
      hDim2 h = hDim2 d
    let entry : Prop := fmtScaled (hFmt h) = false ∧ hRowBytes h ≤ u.cur.n * 512
    let c : Cmd := { u.newCmd t (if dq = 0 then .rread else .rreadIn) sc with dst := d, src := h }
    u.cur.handleCheck h = none → hSpace h = spRemote → (dq = 0 → pair) → (dq = 1 → entry) → hDp h ≠ 0 → hDd h = 0 → sc = 3 →
      (u.farPkg (hDp h) = none → exec (.rread t dh sh dq sc) s = .next (lsRefused s .remoteUnreachable 0)) ∧
      (∀ x, u.farPkg (hDp h) = some x → exec (.rread t dh sh dq sc) s = .next (lsIssued s
        (lsMoved t c (if dq = 0 then hTotal h else hWalkBytes h) (hRange h true false ++ if dq = 0 then hRange d true true else []) u)))) ∧
  (∀ (t : Tok) (dh sh : BitVec 4) (dq : BitVec 1) (sc : BitVec 2) (s u : State), LsStarts t s u → LsRoom u →
    let d := u.handle dh.toNat
    let h := if dq = 0 then u.handle sh.toNat else d
    let pair : Prop := u.cur.fullCheck h = none ∧ hSpace h ≠ spRemote ∧ hFmt h = hFmt d ∧ hDim0 h = hDim0 d ∧ hDim1 h = hDim1 d ∧
      hDim2 h = hDim2 d
    let entry : Prop := fmtScaled (hFmt d) = false ∧ hRowBytes d ≤ u.cur.n * 512
    let cmd (k q : CmdKind) : Cmd := { u.newCmd t (if dq = 0 then k else q) sc with dst := d, src := h }
    let ends (k q : CmdKind) : Out := .next (lsIssued s (lsMoved t (cmd k q) (if dq = 0 then hTotal h else hWalkBytes d)
      ((if dq = 0 then hRange h true false else []) ++ hRange d true true) u))
    u.cur.handleCheck d = none → hSpace d = spRemote → (dq = 0 → pair) → (dq = 1 → entry) →
      (hDp d ≠ 0 → hDd d = 0 → sc = 3 →
        (∀ x, u.farPkg (hDp d) = some x → exec (.rwrite t dh sh dq sc) s = ends .rwrite .rwriteOut) ∧
        (u.farPkg (hDp d) = none → exec (.rwrite t dh sh dq sc) s = .next (lsRefused s .remoteUnreachable 0))) ∧
      (hDp d ≠ 0 ∨ hDd d ≠ 0 → (if hDp d = 0 then 1 else 3) ≤ sc.toNat →
        let die := (u.cur.die : Int) + hDd d
        let there : Prop := 0 ≤ die ∧ die < 8 ∧ (hDp d = 0 → u.joined u.cur.die die.toNat = true) ∧ (hDp d = 0 ∨ ∃ x, u.farPkg (hDp d) = some x ∧ Config.switches u.pod x.1 ≤ 1)
        (there → exec (.rwriteWin t dh sh dq sc) s = ends .rwin .rwinOut) ∧
        (¬ there → exec (.rwriteWin t dh sh dq sc) s = .next (lsRefused s .remoteUnreachable 0)))) ∧
  (∀ (t : Tok) (sh : BitVec 4) (sc : BitVec 2) (n : BitVec 20) (s u : State), LsStarts t s u →
    let h := u.handle sh.toNat
    u.cur.handleCheck h = none → hFmt h = 0x0C →
    ∀ bs v, LsTakes sc h (64 * n.toNat) u bs v → LsRoom v →
      let c := { v.newCmd t .job sc with aux := h, total := n.toNat }
      let cards := (List.range n.toNat).map fun k => cardCmd c k ((bs.drop (64 * k)).take 64)
      let fp := [mkRange (hSpace h) (hBase h) (hBase h + 64 * n.toNat : Nat) false]
      ((∃ x ∈ cards, x = none) → exec (.job t sh sc n) s = .next (lsRefused s .patternInvalid 0)) ∧
      ((∀ x ∈ cards, x ≠ none) → exec (.job t sh sc n) s = .next (lsIssued s
        (((lsAccepted { c with fp := fp } v).onCur fun l =>
          { l with nextSeq := l.nextSeq + n.toNat, cmds := l.cmds ++ cards.filterMap id }).acceptCards u.cur.die 64)))) ∧
  (∀ (t : Tok) (xh : BitVec 4) (sc : BitVec 2) (m : BitVec 4) (peer : BitVec 12) (s u v : State), LsStarts t s u →
    let x := u.handle xh.toNat
    let e := sget 0 peer.toNat (u.part u.cur.part).peers
    u.cur.handleCheck x = none → hSpace x = spScratch → hFmt x = 0x0B → hDim0 x = 2 → hDim1 x ≠ 0 → hDim2 x = 1 →
    (peerUsable e m.toNat = false →
      exec (.kvget t xh sc m peer) s = .next (lsRefused s .remoteUnreachable 0) ∧
      exec (.kvput t xh sc m peer) s = .next (lsRefused s .remoteUnreachable 0)) ∧
    (peerUsable e m.toNat = true →
      scratchCheck u.curStream (u.cur.curSlot u.curStream) sc.toNat
        (asKind .read ((List.range (hDim1 x)).flatMap fun r => granulesOf (hRowAt x 0 r).toNat 8)) u = .ok v → LsRoom v →
      let p := u.cur.part
      let rows := (List.range (hDim1 x)).flatMap fun r => ints32 (v.winBytes (hRowAt x 0 r).toNat 8)
      let locals := (List.range (hDim1 x)).map fun r => rows.getD (2 * r) 0
      let pages := locals.map fun i => v.poolPage p i.toNat
      let lo := pages.foldl Nat.min (pages.headD 0)
      let hi := pages.foldl Nat.max 0
      let cmd (k : CmdKind) (get : Bool) : Cmd := { v.newCmd t k sc with
        idxs := rows, total := hDim1 x, imm := peer.toNat, m := m.toNat,
        fp := [mkRange spGlobal lo (hi + 65536 : Nat) get, ⟨spRemote, 0, 1, !get⟩] }
      let inside : Prop := ∀ i ∈ locals, 0 ≤ i ∧ i < (v.poolPages p : Int)
      (inside → exec (.kvget t xh sc m peer) s = .next (lsIssued s (lsAccepted (cmd .kvget true) v)) ∧
        exec (.kvput t xh sc m peer) s = .next (lsIssued s (lsAccepted (cmd .kvput false) v))) ∧
      (¬ inside → exec (.kvget t xh sc m peer) s = .next (lsRefused s .illegalOperand 0) ∧
        exec (.kvput t xh sc m peer) s = .next (lsRefused s .illegalOperand 0))))

/-- Once it starts, with room in the footprint table, each of these words with good handles of the space and format its rule
asks for issues as one command: the maintenance words over the walk of a global (PREF and DCMPF: or view) handle, whose
footprint PREF leaves empty and DCMPF claims in both spaces; ATOMV over the elements of its global destination, from the window
or from queue entries (an SH with fewer elements stops it with ILLEGAL_OPERAND, the model's choice, log entry 81); RATOM over
its operands, to global memory or to a package with a usable peer; OUTQ over the eight bytes it tests, or at once with its
immediate bit for M = 0; the list words with a set reference that is aligned and inside the window, which they read once no edge
leads to them (R214). A handle of the wrong space stops the stream with HANDLE_INVALID, a misaligned base of RATOM, OUTQ or a
set reference with MISALIGNED. All ten issue so wherever these conditions hold. (R225, R226, R227, R228, R268, R270, R273, R274,
R275, R219, R214) -/
def Obligations.SliceAndListCommands : Prop :=
  (∀ (t : Tok) (sh : BitVec 4) (sc : BitVec 2) (s u : State), LsStarts t s u → LsRoom u →
    let h := u.handle sh.toNat
    let ends (k : CmdKind) (fp : List FpRange) : Out :=
      .next (lsIssued s (lsMoved t { u.newCmd t k sc with src := h, dst := h } (hWalkBytes h) fp u))
    let both := (hRange h false true).flatMap fun r => [{ r with space := spGlobal }, { r with space := spView }]
    (∀ c, u.cur.handleCheck h = some c → ∀ i ∈ [Instr.pref t sh sc, .dcmpf t sh sc, .flush t sh sc, .inval t sh sc],
      exec i s = .next (lsRefused s c 0)) ∧
    (u.cur.handleCheck h = none →
      (hSpace h = spGlobal ∨ hSpace h = spView → exec (.pref t sh sc) s = ends .pref [] ∧ exec (.dcmpf t sh sc) s = ends .dcmpf both) ∧
      (hSpace h = spGlobal → exec (.flush t sh sc) s = ends .flush (hRange h false true) ∧
        exec (.inval t sh sc) s = ends .inval (hRange h false true)) ∧
      (¬ (hSpace h = spGlobal ∨ hSpace h = spView) → exec (.pref t sh sc) s = .next (lsRefused s .handleInvalid 0) ∧
        exec (.dcmpf t sh sc) s = .next (lsRefused s .handleInvalid 0)) ∧
      (hSpace h ≠ spGlobal → exec (.flush t sh sc) s = .next (lsRefused s .handleInvalid 0) ∧
        exec (.inval t sh sc) s = .next (lsRefused s .handleInvalid 0)))) ∧
  (∀ (t : Tok) (dh sh : BitVec 4) (dq : BitVec 1) (sc : BitVec 2) (m : BitVec 4) (s u : State), LsStarts t s u → LsRoom u →
    let d := u.handle dh.toNat
    let h := if dq = 0 then u.handle sh.toNat else d
    u.cur.handleCheck d = none → u.cur.handleCheck h = none → hSpace d = spGlobal → (dq = 0 → hSpace h = spScratch) → hFmt h = hFmt d →
    (if m.toNat < 8 then hFmt d = 0x0B else if m = 8 then hFmt d = 1 ∨ hFmt d = 2 else hFmt d = 1) →
    let n (x : Handle) := hDim0 x * hDim1 x * hDim2 x
    let c : Cmd := { u.newCmd t (if dq = 0 then .atomv else .atomvOut) sc with dst := d, src := h, m := m.toNat }
    (n d ≤ n h → exec (.atomv t dh sh dq sc m) s = .next (lsIssued s
      (lsMoved t c (n d) ((if dq = 0 then hRange h false false else []) ++ hRange d false true) u))) ∧
    (n h < n d → exec (.atomv t dh sh dq sc m) s = .next (lsRefused s .illegalOperand 0))) ∧
  (∀ (t : Tok) (dh sh xh : BitVec 4) (sc : BitVec 2) (m : BitVec 4) (same w64 fetch : BitVec 1) (s u : State), LsStarts t s u → LsRoom u →
    let d := u.handle dh.toNat
    let h := u.handle sh.toNat
    let x := u.handle xh.toNat
    let size := if w64 = 1 then 8 else 4
    let n := if m.toNat = 9 then hDim0 x / 2 else hDim0 x
    (fetch = 1 → u.cur.handleCheck d = none ∧ hSpace d = spScratch ∧ n ≤ hDim0 d * hDim1 d * hDim2 d ∧
      ∀ i < n, u.cur.winOk (elemAt d i size) (elemAt d i size + size) = true) →
    u.cur.handleCheck h = none → u.cur.handleCheck x = none → hSpace x = spScratch →
    hSpace h = spGlobal ∨ (hSpace h = spRemote ∧ hDp h ≠ 0 ∧ hDd h = 0 ∧ u.farPkg (hDp h) ≠ none) →
    (m.toNat = 9 → hDim0 x % 2 = 0) → n ≠ 0 → u.cur.winOk (hBase x) (hBase x + hDim0 x * size : Nat) = true →
    let c : Cmd := { u.newCmd t .ratom sc with
      dst := d, src := h, aux := x, m := m.toNat, total := n, imm := same.toNat + 2 * w64.toNat + 4 * fetch.toNat,
      fp := mkRange (hSpace h) (hBase h) (hBase h + (if same = 1 then size else n * size) : Nat) true ::
        (if fetch = 1 then hRange d false true else []) }
    (hBase h % size = 0 → exec (.ratom t dh sh xh sc m same w64 fetch) s = .next (lsIssued s (lsAccepted c u))) ∧
    (hBase h % size ≠ 0 → exec (.ratom t dh sh xh sc m same w64 fetch) s = .next (lsRefused s .misaligned (hBase h)))) ∧
  (∀ (t : Tok) (sh : BitVec 4) (sc : BitVec 2) (m : BitVec 4) (imm : BitVec 20) (s u : State), LsStarts t s u →
    let h := u.handle sh.toNat
    (m = 0 → exec (.outq t sh sc m imm) s = .next (lsIssued s (lsEmpty t (some (imm.getLsbD 0)) u))) ∧
    (m ≠ 0 → u.cur.handleCheck h = none → hSpace h = spScratch ∨ hSpace h = spGlobal → LsRoom u →
      (hBase h % 8 ≠ 0 → exec (.outq t sh sc m imm) s = .next (lsRefused s .misaligned (hBase h))) ∧
      (hBase h % 8 = 0 → (hSpace h = spScratch → u.cur.winOk (hBase h) (hBase h + 8 : Nat) = true) →
        let c : Cmd := { u.newCmd t .outq sc with
          src := h, m := m.toNat, total := 8, fp := [mkRange (hSpace h) (hBase h) (hBase h + 8 : Nat) false] }
        exec (.outq t sh sc m imm) s = .next (lsIssued s (lsAccepted c u))))) ∧
  (∀ (t : Tok) (dh sh : BitVec 4) (sc st : BitVec 2) (m : BitVec 4) (max : BitVec 8) (list : BitVec 12) (s u : State), LsStarts t s u →
    let d := u.handle dh.toNat
    let h := u.handle sh.toNat
    let ref (x : Handle) : Prop := hBase x % 8 = 0 ∧ u.cur.winOk (hBase x) (hBase x + 8 : Nat) = true
    let fp8 (x : Handle) : FpRange := mkRange spScratch (hBase x) (hBase x + 8 : Nat) false
    u.cur.handleCheck h = none → hSpace h = spScratch →
    (u.cur.handleCheck d = none → hSpace d = spScratch → hFmt h = 0x0B → hDim0 h = 3 → hDim2 h = 1 → LsRoom u →
      (hBase d % 8 ≠ 0 → exec (.wlapp t dh sh sc m) s = .next (lsRefused s .misaligned (hBase d))) ∧
      (ref d → exec (.wlapp t dh sh sc m) s = .next (lsIssued s
        (lsMoved t { u.newCmd t .wlapp sc with src := h, dst := d, m := m.toNat } (hDim1 h) (hRange h false false ++ [fp8 d]) u)))) ∧
    (u.cur.handleCheck d = none → hSpace d = spScratch → hFmt d = 0x0B → max.toNat < hDim0 d → hDim1 d ≠ 0 → hDim2 d ≠ 0 →
      (hBase h % 8 ≠ 0 → exec (.wltake t dh sh sc m max list) s = .next (lsRefused s .misaligned (hBase h))) ∧
      (hBase h % 8 = 0 → u.cur.winOk (hBase h) (hBase h + 8 : Nat) = false →
        exec (.wltake t dh sh sc m max list) s = .next (lsRefused s .scratchBounds 0)) ∧
      (ref h → LsRoom u → exec (.wltake t dh sh sc m max list) s = .next (lsIssued s (lsAccepted { u.newCmd t .wltake sc with
        dst := d, src := h, m := m.toNat, card := list.toNat, total := max.toNat, fp := hRange d false true } u)))) ∧
    (hBase h % 8 ≠ 0 → exec (.wlseal t sh sc st) s = .next (lsRefused s .misaligned (hBase h))) ∧
    (ref h → LsRoom u → exec (.wlseal t sh sc st) s = .next (lsIssued s
      (lsAccepted { u.newCmd t .wlseal sc with src := h, m := st.toNat, fp := [fp8 h] } u))))

/-- Whatever its command is, a unit of it leaves CT's scalar registers, shadows, handles, loop stack, pc, TRAPPC and TRAPCAUSE
as they are. A FLUSH of a line that translates writes the line back and passes over its bytes, completing with the last; an
ATOMV element, from the window or a queue entry, is combined at its home with the old value; a WLSEAL reads its set reference,
hands its seal to the set's home and completes. (The order of an entry's elements: log entry 42.) A command that moves on so is
no longer due a retry. A cycle of a copy engine cluster begins at most eight units, each the turn of one command, and changes no
byte of memory; a staged slot table takes effect only in a cycle that is a multiple of 64. (R217, R225, R227, R275, R314) -/
def Obligations.CommandUnits : Prop :=
  (∀ (s : State) (k : Nat), ∃ v, exec (.copySegment s.cur.id k) s = .next v ∧
    v.cur.ct.sregs = s.cur.ct.sregs ∧ v.cur.ct.shadow = s.cur.ct.shadow ∧ v.cur.ct.handles = s.cur.ct.handles ∧
    v.cur.ct.pc = s.cur.ct.pc ∧ v.cur.ct.loops = s.cur.ct.loops ∧ v.cur.ct.trapPc = s.cur.ct.trapPc ∧
    v.cur.ct.trapCause = s.cur.ct.trapCause ∧ v.datum = s.datum) ∧
  (∀ (s : State) (c : Cmd), s.cur.cmd? c.seq = some c → s.cur.active = true → s.cmdGoes c = true → s.cur.replay = none →
    let ends (v : State) : Out := .next (cmdStep c.seq (fun _ => v) s)
    (c.kind = .flush → ∀ tr v, (s.unretry c).translate s.cur.part s.cur.die (maintAddr c) .read false = (.ok tr, v) →
      exec (.copySegment s.cur.id c.seq) s = ends (maintStep c (linePart c.src c.offset c.total) (v.flushLine tr.slot tr.key false))) ∧
    (c.kind = .wlseal → ∀ desc v, readSet c c.src (s.unretry c) = (some desc, v) → exec (.copySegment s.cur.id c.seq) s =
      ends ((v.handOver desc (.seal v.cur.part desc (v.cur.aid + c.m))).finishCmd c.seq none)) ∧
    (c.kind = .atomv ∨ (c.kind = .atomvOut ∧ (s.unretry c).cur.dqTurn c = true) →
      let w := fmtWidth (hFmt c.dst) / 8
      ∀ bs v parts x, atomvSource c w (s.unretry c) = (some bs, v) →
        globalParts c .atomic (elemParts (addr64 (elemAt c.dst c.offset w)) w) v = .ok (parts, x) → (∀ y ∈ parts, y.1.tier ≠ 3) →
        let old := readParts parts x
        let new := atomvOp c.m (hFmt c.dst) (leNat old.1) (leNat bs)
        let y := (writeParts parts (leBytes new.1 w) old.2).onCmd c.seq fun z =>
          { z with offset := z.offset + 1, buf := z.buf.drop w, flags := z.flags ||| new.2 }
        (c.offset + 1 < c.total → exec (.copySegment s.cur.id c.seq) s = ends y) ∧
        (c.total ≤ c.offset + 1 → exec (.copySegment s.cur.id c.seq) s = ends (y.finishCmd c.seq none)))) ∧
  (∀ (s : State) (d : Nat), ∃ (v : State) (ev : List (Nat × Nat)), exec (.slotTableCycle 0 d) s = .next v ∧ ev.length ≤ 8 ∧
    (∀ x, x ∈ v.turn ↔ x ∈ s.turn ∨ ∃ y ∈ ev, x = Turn.event (.copySegment y.1 y.2)) ∧ v.mem = s.mem) ∧
  (∀ (s : State) (kind unit c : Nat) (m : SMap Nat) (wc : Bool), (s.slotTable kind unit).staged = some (m, wc) →
    (c % 64 = 0 → (swapTable kind unit c s).slotTable kind unit =
      { s.slotTable kind unit with slots := m, wc := wc, staged := none }) ∧
    (c % 64 ≠ 0 → swapTable kind unit c s = s))

/-- LGO and LREPEAT that start wait until every store of the prologue has been performed and the lease queues have room; then
the task is queued with the arguments that s1 holds and the prologue is gone. LCANCEL waits for the stores only, and the
prologue ends with completion STATUS 2. (R283, R412, R300) -/
def Obligations.PrologueWords : Prop :=
  ∀ (t : Tok) (s u : State), CtStarts t [] 0 s u →
    let stored : Prop := ∀ r ∈ u.reqs, r.lease = u.cur.id → r.kind = .load
    let go (again : Bool) : State := ((launchTask u.cur.part u.cur.origin (u.reg 1).toNat again u).focus u.cur.id).prologueGone
    (¬ stored → exec (.lgo t) s = .next u ∧ exec (.lrepeat t) s = .next u ∧ exec (.lcancel t) s = .next u) ∧
    (stored → u.queueRoom u.cur.part = false → exec (.lgo t) s = .next u ∧ exec (.lrepeat t) s = .next u) ∧
    (stored → u.queueRoom u.cur.part = true → exec (.lgo t) s = .next (go false) ∧ exec (.lrepeat t) s = .next (go true)) ∧
    (stored → exec (.lcancel t) s = .next ((u.writeDone u.cur.part u.cur.origin 2 0).prologueGone))

/-- Each floating-point vector word that starts issues with the lane-by-lane result of R136 to R139 and the union of its lanes'
flags, due for its register and its path's last-result register after the latency of R131: VADD, VSUB, VMUL, VFMA, VFMS, VFNMA
and VTAB 4 vc on the FMA path, VRCP, VRSQ, VEXP2 and VLOG2 8, VDIV and VSQRT 12, VMIN, VMAX, VABS, VNEG and VSCALE 1 on the ALU
path. The integer forms of VDIV truncate toward zero, and give all ones and DZ for a zero divisor. (R131, R134, R136, R137,
R138, R139) -/
def Obligations.VectorFloat : Prop :=
  ∀ (t : Tok) (d a b c : BitVec 8) (tab : BitVec 2) (k : BitVec 9) (s u : State),
    let x := u.vec a
    let y := u.vec b
    let z := u.vec c
    let lanes (r : List (W32 × Nat)) : Lanes × Nat := (r.map (·.1), r.foldl (fun f e => f ||| e.2) 0)
    let one (f : W32 → W32 × Nat) : Lanes × Nat := lanes (x.map f)
    let two (f : W32 → W32 → W32 × Nat) : Lanes × Nat := lanes ((x.zip y).map fun e => f e.1 e.2)
    let three (f : W32 → W32 → W32 → W32 × Nat) : Lanes × Nat := lanes ((x.zip (y.zip z)).map fun e => f e.1 e.2.1 e.2.2)
    let tb : Table := sget {} tab.toNat u.cur.cfg.tabs
    ∀ (i : Instr) (path lat : Nat) (r : Lanes × Nat), (i, path, lat, r) ∈ [
      (Instr.vadd t d a b, 1, 4, two fadd), (.vsub t d a b, 1, 4, two fsub), (.vmul t d a b, 1, 4, two fmul),
      (.vfma t d a b c, 1, 4, three ffma), (.vfms t d a b c, 1, 4, three ffms), (.vfnma t d a b c, 1, 4, three ffnma),
      (.vmin t d a b, 2, 1, two fun p q => (fmin p q, 0)), (.vmax t d a b, 2, 1, two fun p q => (fmax p q, 0)),
      (.vabs t d a, 2, 1, one fun p => (fabs p, 0)), (.vneg t d a, 2, 1, one fun p => (fneg p, 0)),
      (.vdiv t d a b 0, 1, 12, two fdiv),
      (.vdiv t d a b 1, 1, 12, two fun p q => if q = 0 then (0xFFFFFFFF, flagDZ) else (BitVec.ofInt 32 (p.toInt.tdiv q.toInt), 0)),
      (.vdiv t d a b 2, 1, 12, two fun p q => if q = 0 then (0xFFFFFFFF, flagDZ) else (BitVec.ofNat 32 (p.toNat / q.toNat), 0)),
      (.vsqrt t d a, 1, 12, one fsqrt), (.vrcp t d a, 1, 8, one frcp), (.vrsq t d a, 1, 8, one frsq),
      (.vexp2 t d a, 1, 8, one fexp2), (.vlog2 t d a, 1, 8, one flog2),
      (.vtab t d a tab, 1, 4, one (tableEval tb.lo tb.wexp fun e => (sget 0x3F800000 e tb.a, sget 0 e tb.b))),
      (.vscale t d a k, 2, 1, one fun p => fscale p k.toInt)] →
    CpStarts i t s u → exec i s = .next (vecEnd u t d path lat r)

/-- With any NaN source a floating-point lane is 0x7FC0_0000 and sets no flag. Without one, VABS clears and VNEG inverts the
sign bit; the smaller and the larger of two lanes order −0 below +0; sums and products do not depend on the order of their
operands; an infinity less itself and zero times infinity are NaN and set NV. The special cases of R138 hold for VDIV, VSQRT,
VRCP, VRSQ, VEXP2 and VLOG2, and VSCALE keeps zeros and infinities. (R136, R137, R138, R139) -/
def Obligations.FloatRules : Prop :=
  (∀ a b c : W32, isNan32 a = true ∨ isNan32 b = true →
    fadd a b = (0x7FC00000, 0) ∧ fsub a b = (0x7FC00000, 0) ∧ fmul a b = (0x7FC00000, 0) ∧ ffma a b c = (0x7FC00000, 0) ∧
    ffma c a b = (0x7FC00000, 0) ∧ ffms a b c = (0x7FC00000, 0) ∧ ffnma a b c = (0x7FC00000, 0) ∧ fdiv a b = (0x7FC00000, 0) ∧
    fmin a b = 0x7FC00000 ∧ fmax a b = 0x7FC00000) ∧
  (∀ (a : W32) (k : Int), isNan32 a = true → fsqrt a = (0x7FC00000, 0) ∧ frcp a = (0x7FC00000, 0) ∧ frsq a = (0x7FC00000, 0) ∧
    fexp2 a = (0x7FC00000, 0) ∧ flog2 a = (0x7FC00000, 0) ∧ fscale a k = (0x7FC00000, 0) ∧ fabs a = 0x7FC00000 ∧ fneg a = 0x7FC00000) ∧
  (∀ a : W32, isNan32 a = false → fabs a = a &&& 0x7FFFFFFF ∧ fneg a = a ^^^ 0x80000000) ∧
  (∀ a b : W32, fadd a b = fadd b a ∧ fmul a b = fmul b a ∧ fmin a b = fmin b a ∧ fmax a b = fmax b a) ∧
  (fmin 0 0x80000000 = 0x80000000 ∧ fmax 0x80000000 0 = 0) ∧
  (fadd 0x7F800000 0xFF800000 = (0x7FC00000, flagNV) ∧ fmul 0 0x7F800000 = (0x7FC00000, flagNV) ∧
    fsub 0x7F800000 0x7F800000 = (0x7FC00000, flagNV)) ∧
  (∀ a : W32, a.toNat % 2 ^ 31 ≠ 0 → a.toNat % 2 ^ 31 < 0x7F800000 →
    fdiv a 0 = (if a.getLsbD 31 then 0xFF800000 else 0x7F800000, 0) ∧ fdiv 0 0 = (0x7FC00000, flagNV) ∧
    fdiv 0x7F800000 0x7F800000 = (0x7FC00000, flagNV) ∧
    (a.getLsbD 31 = true → fsqrt a = (0x7FC00000, flagNV) ∧ frsq a = (0x7FC00000, flagNV) ∧ flog2 a = (0x7FC00000, flagNV))) ∧
  (fsqrt 0x80000000 = (0x80000000, 0) ∧ fsqrt 0x7F800000 = (0x7F800000, 0) ∧ frcp 0x80000000 = (0xFF800000, 0) ∧
    frcp 0xFF800000 = (0x80000000, 0) ∧ frsq 0x80000000 = (0xFF800000, 0) ∧ frsq 0x7F800000 = (0, 0) ∧ fexp2 0xFF800000 = (0, 0) ∧
    fexp2 0x7F800000 = (0x7F800000, 0) ∧ flog2 0x80000000 = (0xFF800000, 0) ∧ flog2 0x7F800000 = (0x7F800000, 0) ∧
    flog2 0x3F800000 = (0, 0)) ∧
  (∀ k : Int, fscale 0 k = (0, 0) ∧ fscale 0x80000000 k = (0x80000000, 0) ∧ fscale 0x7F800000 k = (0x7F800000, 0))

/-- Each integer vector word that starts issues with the lane-by-lane result of R140 to R143, due after 1 vc on the ALU path,
VIMUL and VIMAD after 4 on the FMA path. Only the saturating forms set a flag, SA where a lane clamps. VSEL takes A's lane where
C's is not zero; VCMP writes all ones where its predicate holds; VMOV, VLI, VLI.HI and VIDX write what R143 says. (R131, R134,
R140, R141, R142, R143) -/
def Obligations.VectorInteger : Prop :=
  ∀ (t : Tok) (d a b c m : BitVec 8) (g : BitVec 1) (step : BitVec 16) (imm : BitVec 24) (s u : State),
    let x := u.vec a
    let y := u.vec b
    let z := u.vec c
    let one (f : W32 → W32) : Lanes × Nat := (x.map f, 0)
    let two (f : W32 → W32 → W32) : Lanes × Nat := ((x.zip y).map fun e => f e.1 e.2, 0)
    let three (f : W32 → W32 → W32 → W32) : Lanes × Nat := ((x.zip (y.zip z)).map fun e => f e.1 e.2.1 e.2.2, 0)
    let sat (v lo hi : Int) : W32 × Nat := if v < lo then (BitVec.ofInt 32 lo, flagSA) else if hi < v then (BitVec.ofInt 32 hi, flagSA)
      else (BitVec.ofInt 32 v, 0)
    let sats (f : Int → Int → Int) (signed : Bool) : Lanes × Nat :=
      let r := (x.zip y).map fun e => if signed then sat (f e.1.toInt e.2.toInt) (-2147483648) 2147483647
        else sat (f e.1.toNat e.2.toNat) 0 4294967295
      (r.map (·.1), r.foldl (fun k e => k ||| e.2) 0)
    let pred (p q : W32) : Bool := predLane m.toNat p q
    ∀ (i : Instr) (path lat : Nat) (r : Lanes × Nat), (i, path, lat, r) ∈ [
      (Instr.viadd t d a b 0, 2, 1, two (· + ·)), (.viadd t d a b 1, 2, 1, sats (· + ·) true), (.viadd t d a b 2, 2, 1, sats (· + ·) false),
      (.visub t d a b 0, 2, 1, two (· - ·)), (.visub t d a b 1, 2, 1, sats (· - ·) true), (.visub t d a b 2, 2, 1, sats (· - ·) false),
      (.vimul t d a b 0, 1, 4, two (· * ·)),
      (.vimul t d a b 1, 1, 4, two fun p q => BitVec.ofInt 32 (p.toInt * q.toInt / 2 ^ 32)),
      (.vimul t d a b 2, 1, 4, two fun p q => BitVec.ofNat 32 (p.toNat * q.toNat / 2 ^ 32)),
      (.vimad t d a b c, 1, 4, three fun p q o => p * q + o),
      (.vand t d a b, 2, 1, two (· &&& ·)), (.vor t d a b, 2, 1, two (· ||| ·)), (.vxor t d a b, 2, 1, two (· ^^^ ·)),
      (.vnot t d a, 2, 1, one (~~~ ·)),
      (.vshl t d a b, 2, 1, two fun p q => p <<< (q.toNat % 32)), (.vshr t d a b, 2, 1, two fun p q => p >>> (q.toNat % 32)),
      (.vsra t d a b, 2, 1, two fun p q => p.sshiftRight (q.toNat % 32)),
      (.vimin t d a b 0, 2, 1, two fun p q => if p.toInt ≤ q.toInt then p else q),
      (.vimin t d a b 1, 2, 1, two fun p q => if p.toNat ≤ q.toNat then p else q),
      (.vimax t d a b 0, 2, 1, two fun p q => if q.toInt ≤ p.toInt then p else q),
      (.vimax t d a b 1, 2, 1, two fun p q => if q.toNat ≤ p.toNat then p else q),
      (.vcmp t d a b m, 2, 1, two fun p q => if pred p q then 0xFFFFFFFF else 0),
      (.vsel t d a b c, 2, 1, three fun p q o => if o ≠ 0 then p else q),
      (.vclass t d a, 2, 1, one classLane), (.vmov t d a, 2, 1, (x, 0)),
      (.vli t d imm, 2, 1, (List.replicate (128 * u.cur.n) (imm.signExtend 32), 0)),
      (.vliHi t d imm, 2, 1, (List.replicate (128 * u.cur.n) (BitVec.ofNat 32 (imm.toNat * 2 ^ 8)), 0)),
      (.vidx t d a g step, 2, 1, (x.mapIdx fun j p => p + step.signExtend 32 * BitVec.ofNat 32 (if g = 1 then j else j % 128), 0))] →
    CpStarts i t s u → exec i s = .next (vecEnd u t d path lat r)

/-- For integer types VCMP's predicates 0 to 5 are the six orders of signed or unsigned lanes. For FP32 a NaN makes eq, lt, le,
gt and ge false and ne and uo true; without one, the two zeros are equal, lt and gt, le and ge are each other's converse, ne is
not eq, and exactly one of lt, eq and gt holds. VCLASS gives exactly one class. (R141, R142) -/
def Obligations.ComparePredicates : Prop :=
  (∀ x y : W32, (predLane 8 x y = true ↔ x = y) ∧ (predLane 9 x y = true ↔ x ≠ y) ∧ (predLane 10 x y = true ↔ x.toInt < y.toInt) ∧
    (predLane 11 x y = true ↔ x.toInt ≤ y.toInt) ∧ (predLane 12 x y = true ↔ y.toInt < x.toInt) ∧
    (predLane 13 x y = true ↔ y.toInt ≤ x.toInt) ∧ (predLane 16 x y = true ↔ x = y) ∧ (predLane 17 x y = true ↔ x ≠ y) ∧
    (predLane 18 x y = true ↔ x.toNat < y.toNat) ∧ (predLane 19 x y = true ↔ x.toNat ≤ y.toNat) ∧
    (predLane 20 x y = true ↔ y.toNat < x.toNat) ∧ (predLane 21 x y = true ↔ y.toNat ≤ x.toNat)) ∧
  (∀ x y : W32, isNan32 x = true ∨ isNan32 y = true → predLane 0 x y = false ∧ predLane 1 x y = true ∧ predLane 2 x y = false ∧
    predLane 3 x y = false ∧ predLane 4 x y = false ∧ predLane 5 x y = false ∧ predLane 6 x y = true) ∧
  (∀ x y : W32, isNan32 x = false → isNan32 y = false → predLane 6 x y = false ∧ predLane 1 x y = !predLane 0 x y ∧
    predLane 4 x y = predLane 2 y x ∧ predLane 5 x y = predLane 3 y x ∧ predLane 3 x y = (predLane 2 x y || predLane 0 x y) ∧
    (predLane 2 x y = true ∨ predLane 0 x y = true ∨ predLane 4 x y = true) ∧ ¬ (predLane 2 x y = true ∧ predLane 4 x y = true) ∧
    ¬ (predLane 2 x y = true ∧ predLane 0 x y = true)) ∧
  (predLane 0 0 0x80000000 = true) ∧
  (∀ x : W32, ∃ k < 9, classLane x = BitVec.ofNat 32 (2 ^ k)) ∧
  (classLane 0x7FC00000 = 1 ∧ classLane 0xFF800000 = 2 ∧ classLane 0xBF800000 = 4 ∧ classLane 0x80000001 = 8 ∧ classLane 0x80000000 = 16 ∧
    classLane 0 = 32 ∧ classLane 1 = 64 ∧ classLane 0x3F800000 = 128 ∧ classLane 0x7F800000 = 256)

/-- Each of these words that starts issues with its result of R144 to R151, due after the latency of R131: VCVT, VPACK and VUNPK
2 vc, VQNT and VDEQ 4 on the ALU path; on the cross-lane path VROT, VSLIDE and VBCAST 2 or, with G, 4; VPERM 4 or 8; VPART 6 or
10; VRED and VSCAN 8 or 12. With G = 0 a word acts in each lane group by itself, with G = 1 over the parcel. A VBCAST of a lane
beyond the parcel stops CP with ILLEGAL_OPERAND. (R131, R144, R145, R146, R147, R148, R149, R150, R151) -/
def Obligations.VectorConvertAndCrossLane : Prop :=
  (∀ (t : Tok) (d a b m : BitVec 8) (fa fb : BitVec 6) (sat g : BitVec 1) (kind : BitVec 2) (k : BitVec 12) (n : BitVec 11) (s u : State),
    let x := u.vec a
    let y := u.vec b
    let groups : List Nat := List.range u.cur.n
    let part (v : Lanes) (e : Nat) : Lanes := (v.drop (128 * e)).take 128
    let each (f : Nat → Lanes × Nat) : Lanes × Nat := ((groups.map f).flatMap (·.1), (groups.map f).foldl (fun q e => q ||| e.2) 0)
    let ranged (wide : Bool) (f : Lanes → Lanes × Nat) : Lanes × Nat := if wide then f x else each fun e => f (part x e)
    let move (f : Lanes → Lanes) : Lanes × Nat := if g = 1 then (f x, 0) else (groups.flatMap fun e => f (part x e), 0)
    let lat (p q : Nat) : Nat := if g = 1 then q else p
    let latM : Nat := if m.getLsbD 4 then 12 else 8
    let rot (v : Lanes) : Lanes := v.mapIdx fun j _ => lane v (((j : Int) + k.toInt) % (v.length : Int)).toNat
    let slide (v : Lanes) : Lanes := v.mapIdx fun j _ =>
      if 0 ≤ (j : Int) + k.toInt ∧ (j : Int) + k.toInt < v.length then lane v ((j : Int) + k.toInt).toNat else 0
    let perm (v w : Lanes) : Lanes := w.map fun e => if e.toNat < v.length then lane v e.toNat else 0
    let both (f : Lanes → Lanes → Lanes) (w : Lanes) : Lanes × Nat :=
      if g = 1 then (f x w, 0) else (groups.flatMap fun e => f (part x e) (part w e), 0)
    ∀ (i : Instr) (path l : Nat) (r : Lanes × Nat), (i, path, l, r) ∈ [
      (Instr.vcvt t d a fa fb sat, 2, 2, map1 (cvtLane fa.toNat fb.toNat (sat = 1)) x),
      (.vpack t d a b fa fb sat, 2, 2, each fun e => packGroup fa.toNat fb.toNat (sat = 1) (part x e) (part y e)),
      (.vunpk t d a b fa fb sat, 2, 2, each fun e => unpackGroup fa.toNat fb.toNat b.toNat (sat = 1) (part x e)),
      (.vqnt t d a fa fb sat, 2, 4, each fun e => quantGroup fb.toNat (part x e)),
      (.vdeq t d a fa fb sat, 2, 4, each fun e => dequantGroup fa.toNat (part x e)),
      (.vred t d a m, 3, latM, ranged (m.getLsbD 4) (reduceRange (m.toNat % 16))),
      (.vscan t d a m, 3, latM, ranged (m.getLsbD 4) (scanRange (m.toNat % 16) (m.getLsbD 5))),
      (.vperm t d a b g, 3, lat 4 8, both perm y),
      (.vrot t d a g k, 3, lat 2 4, move rot), (.vslide t d a g k, 3, lat 2 4, move slide),
      (.vbcast t d a g n, 3, lat 2 4, move fun v => v.map fun _ => lane v n.toNat),
      (.vpart t d a b g kind, 3, lat 6 10, both (partRange kind.toNat) (if kind.toNat % 2 = 1 then y else x))] →
    CpStarts i t s u → (i = .vbcast t d a g n → g = 1 → n.toNat < 128 * u.cur.n) → exec i s = .next (vecEnd u t d path l r)) ∧
  (∀ (t : Tok) (d a : BitVec 8) (n : BitVec 11) (s u : State), CpStarts (.vbcast t d a 1 n) t s u →
    128 * u.cur.n ≤ n.toNat → exec (.vbcast t d a 1 n) s = .next (cpStops s t .illegalOperand 0))

/-- Over a range of a power of two lanes the integer reductions are what their names say: the sum modulo 2^32, and, or, xor, the
count of nonzero lanes, and a signed maximum and minimum that is one of the lanes and bounds them all; every lane of the range
gets the result. A scan's last inclusive lane is its left-to-right combination, and an exclusive scan is the inclusive one moved
by a lane behind the identity. A partition list of kind 0 is a rearrangement of the lane numbers in which those of the nonzero
lanes come first, each part in order. For a row of 16-bit keys SELK's selection of k of them is a strictly rising list of k
columns, none beyond the row, and no column left out has a larger key than one that was taken; of equal keys the lower columns
are taken first. (R148, R149, R151, R327) -/
def Obligations.CrossLaneAndSelectionRules : Prop :=
  ((∀ (v : Lanes) (k : Nat), k ≤ 11 → v.length = 2 ^ k →
    (∀ op, (reduceRange op v).1.length = v.length ∧ ∀ x ∈ (reduceRange op v).1, ∀ y ∈ (reduceRange op v).1, x = y) ∧
    (∀ x ∈ (reduceRange 3 v).1, x = v.foldl (· + ·) 0) ∧ (∀ x ∈ (reduceRange 6 v).1, x = v.foldl (· &&& ·) 0xFFFFFFFF) ∧
    (∀ x ∈ (reduceRange 7 v).1, x = v.foldl (· ||| ·) 0) ∧ (∀ x ∈ (reduceRange 8 v).1, x = v.foldl (· ^^^ ·) 0) ∧
    (∀ x ∈ (reduceRange 9 v).1, x = BitVec.ofNat 32 (v.filter fun y => y ≠ 0).length) ∧
    (∀ x ∈ (reduceRange 4 v).1, x ∈ v ∧ ∀ y ∈ v, y.toInt ≤ x.toInt) ∧ (∀ x ∈ (reduceRange 5 v).1, x ∈ v ∧ ∀ y ∈ v, x.toInt ≤ y.toInt)) ∧
  (∀ (v : Lanes) (op : Nat), 3 ≤ op → op ≤ 5 → (scanRange op false v).1.length = v.length ∧
    (v ≠ [] → lane (scanRange op false v).1 (v.length - 1) = v.tail.foldl (fun x y => (combine op x y).1) (lane v 0)) ∧
    (∀ j, j + 1 < v.length → lane (scanRange op true v).1 (j + 1) = lane (scanRange op false v).1 j) ∧
    (v ≠ [] → lane (scanRange op true v).1 0 = identity_ op)) ∧
  (∀ (a b : Lanes), a.length ≤ 2048 → partRange 0 a b =
    ((List.range a.length).filter (fun j => lane a j ≠ 0) ++ (List.range a.length).filter (fun j => lane a j = 0)).map (BitVec.ofNat 32) ∧
    (partRange 0 a b).length = a.length ∧ ∀ j < a.length, BitVec.ofNat 32 j ∈ partRange 0 a b)) ∧
  (∀ (keys : List Nat) (k : Nat), (∀ x ∈ keys, x < 2 ^ 16) → k ≤ keys.length →
    (selectTop k keys).length = k ∧ (selectTop k keys).Pairwise (· < ·) ∧ (∀ e ∈ selectTop k keys, e < keys.length) ∧
    ∀ e ∈ selectTop k keys, ∀ f < keys.length, f ∉ selectTop k keys →
      keys.getD f 0 ≤ keys.getD e 0 ∧ (keys.getD f 0 = keys.getD e 0 → e < f))

/-- Once it starts, VTOS of a lane inside the parcel sends it, extended, and VOUT its bit, to their queues after 2 vc, VPUSH the
vector after 1; VPOP takes the head entry of the LD→CP queue into its register after 2; VFRS and VLD read the window, with the
stores of CP that were issued before, into theirs after 6, VFRS one word into every lane, and VST stores its source's lanes,
which the window shows to others when it completes after 2; addresses that are misaligned or outside the window stop CP first.
WLAPP hands an item over for every lane whose list number is not negative (all of them at its issue: the model's choice, log
entry 99). All of them complete so whenever these conditions hold. XOP runs its graph on every lane after the graph's latency,
and an unloaded slot stops CP with XOP_UNLOADED. (R131, R152, R153, R154, R155, R156, R157, R158, R160, R324) -/
def Obligations.VectorTransfers : Prop :=
  (∀ (t : Tok) (d : BitVec 8) (m : BitVec 4) (n : BitVec 11) (s u : State), CpStarts (.vtos t d m n) t s u →
    (n.toNat < 128 * u.cur.n → exec (.vtos t d m n) s = .next (cpEnd u t 0 2 [] 0
      (.vtos (if m = 1 then (lane (u.vec d) n.toNat).signExtend 64 else (lane (u.vec d) n.toNat).setWidth 64)))) ∧
    (128 * u.cur.n ≤ n.toNat → exec (.vtos t d m n) s = .next (cpStops s t .illegalOperand 0))) ∧
  (∀ (t : Tok) (d : BitVec 8) (m : BitVec 4) (imm : BitVec 24) (s u : State), CpStarts (.vout t d m imm) t s u →
    (m = 0 → exec (.vout t d m imm) s = .next (cpEnd u t 0 2 [] 0 (.vout ((u.vec d).any fun x => x ≠ 0)))) ∧
    (m = 1 → exec (.vout t d m imm) s = .next (cpEnd u t 0 2 [] 0 (.vout ((u.vec d).all fun x => x ≠ 0)))) ∧
    (m = 2 → imm.toNat < 128 * u.cur.n → exec (.vout t d m imm) s = .next (cpEnd u t 0 2 [] 0 (.vout (lane (u.vec d) imm.toNat ≠ 0)))) ∧
    (m = 2 → 128 * u.cur.n ≤ imm.toNat → exec (.vout t d m imm) s = .next (cpStops s t .illegalOperand 0))) ∧
  (∀ (t : Tok) (d : BitVec 8) (s u : State),
    (CpStarts (.vpush t d) t s u → exec (.vpush t d) s = .next (cpEnd u t 0 1 [] 0 (.vpush (u.vec d)))) ∧
    (∀ v r, CpStarts (.vpop t d) t s u → u.cur.dqIn = v :: r →
      ∃ w, exec (.vpop t d) s = .next w ∧ w.cur.dqIn = r ∧ w.cur.pend = (loadEnd u t d 2 v).cur.pend ∧ w.vfile = u.vfile)) ∧
  (∀ (t : Tok) (d : BitVec 8) (h : BitVec 4) (imm : BitVec 24) (s u v : State), CpStarts (.vfrs t d h imm) t s u →
    let hh := u.handle h.toNat
    let a := hBase hh + 4 * imm.toNat
    u.cur.handleCheck hh = none → hSpace hh = spScratch →
    (a % 4 = 0 → u.cur.winOk a (a + 4) = true → scratchCheck .cp (u.cur.curSlot .cp) 0 (asKind .read (granulesOf a 4)) u = .ok v →
      exec (.vfrs t d h imm) s = .next (loadEnd v t d 6 (List.replicate (128 * u.cur.n) (BitVec.ofNat 32 (leNat (v.cpBytes a 4)))))) ∧
    (a % 4 ≠ 0 → exec (.vfrs t d h imm) s = .next (cpStops s t .misaligned a)) ∧
    (a % 4 = 0 → u.cur.winOk a (a + 4) = false → exec (.vfrs t d h imm) s = .next (cpStops s t .scratchBounds 0))) ∧
  (∀ (t : Tok) (d : BitVec 8) (h m : BitVec 4) (imm : BitVec 24) (s u v : State),
    let hh := u.handle h.toNat
    let b := match m.toNat with | 1 => 256 | 2 => 128 | 3 => 64 | _ => 512
    let as := (List.range u.cur.n).map fun g => hBase hh + (if m.toNat = 4 then imm.toNat * 512 else (imm.toNat * u.cur.n + g) * b)
    let gs := (if m.toNat = 4 then as.take 1 else as).flatMap fun a => granulesOf a b
    u.cur.handleCheck hh = none → hSpace hh = spScratch → (∀ a ∈ as, a % 64 = 0 ∧ u.cur.winOk a (a + b : Nat) = true) →
    (CpStarts (.vld t d h m imm) t s u → scratchCheck .cp (u.cur.curSlot .cp) 0 (asKind .read gs) u = .ok v →
      exec (.vld t d h m imm) s = .next (loadEnd v t d 6
        (as.flatMap fun a => bytesLanes 128 (v.cpBytes a b ++ List.replicate (512 - b) 0)))) ∧
    (CpStarts (.vst t d h m imm) t s u → scratchCheck .cp (u.cur.curSlot .cp) 0 (asKind .write gs) u = .ok v →
      exec (.vst t d h m imm) s = .next (cpEnd (storeGroups b (v.vec d) as 0 v) t 0 2 [] 0 .none))) ∧
  (∀ (t : Tok) (d : BitVec 8) (h m : BitVec 4) (base : BitVec 24) (s u v : State), CpStarts (.cpWlapp t d h m base) t s u →
    let hh := u.handle h.toNat
    u.cur.handleCheck hh = none → hSpace hh = spScratch → hBase hh % 8 = 0 → u.cur.winOk (hBase hh) (hBase hh + 8 : Nat) = true →
    scratchCheck .cp (u.cur.curSlot .cp) 0 [(.read, hBase hh)] u = .ok v → v.cur.replay = none →
    let desc := leNat (v.cpBytes (hBase hh) 8)
    let w := ((v.vec d).zipIdx).foldl (fun z x => if x.1.msb then z
      else z.handOver desc (.item z.cur.part desc (z.cur.aidOf .cp) x.1.toNat (base.toNat + x.2) (base.toNat + x.2) (m = 1))) v
    exec (.cpWlapp t d h m base) s = .next (cpEnd w t 0 2 [] 0 .none)) ∧
  (∀ (t : Tok) (slot : BitVec 5) (d a b c e : BitVec 8) (s u : State), CpStarts (.xop t slot d a b c e) t s u →
    let r := sget [] slot.toNat u.cur.xop
    let vs := ([a, b, c].take (gSrc r)).map u.vec
    let rs := (List.range (128 * u.cur.n)).map fun j => gLane r (vs.map fun v => lane v j)
    let first := rs.map (·.1)
    (r ≠ [] → xopBad u.cur r d a b c e = none → gLat r ≠ 0 → exec (.xop t slot d a b c e) s = .next (cpEnd u t 4 (gLat r)
      (u.cur.vecWrites d.toNat first ++ u.cur.vecWrites 131 first ++
        (if gRes r = 2 then u.cur.vecWrites e.toNat (rs.map (·.2.1)) else [])) (rs.foldl (fun x y => x ||| y.2.2) 0) .none)) ∧
    (r = [] → exec (.xop t slot d a b c e) s =
      .next (cpStopsWith s t .xopUnloaded [u.curWord .cp, trapInfo1 (u.cur.curSlot .cp) 2 .cp 0, slot.setWidth 64,
        BitVec.ofNat 64 (u.xopRecord slot.toNat)] true)))

/-- Once it starts, NOP of CP issues and completes at its vc; TMARK does so after a TYPE 2 record with its tag. REP leaves its
slot, starts its body and holds the port for its vc. AT that reaches the head of CP's ring leaves it and pins the next command
to its target: that many vc after the last issue, or the only vc from 2^38 before the counter on, below 2^39 of them, with the
target's low 39 bits. A pinned command that has not issued at its vc in MISS mode, outside a replay, stops CP with
SCHEDULE_MISS, its vc in TRAPINFO2 and the counter in TRAPINFO3, the pin consumed; a head that is an AT, which replaces the pin,
does not, and without a pin nothing happens. SELK with good handles and a good bias record selects, for each row, the k columns
with the largest biased keys and writes them, and counts them when CNT is set, 8 vc and 16 for each started row of lanes after
its issue. Wherever these conditions hold the words complete so. (R159, R363, R234, R343, R344, R327, R347) -/
def Obligations.CpPlainWords : Prop :=
  (∀ (t : Tok) (tag : BitVec 20) (s u : State),
    let done (x : State) : State := ((x.onCur fun l => { l with nextSeq := l.nextSeq + 1 }).addDone
      { stream := .cp, sig := t.sig, slot := x.cur.curSlot .cp, op := opcodeOf (x.curWord .cp), vc := x.cur.vc, seq := x.cur.nextSeq,
        due := x.datum }).cpIssued
    (CpStarts (.cpNop t) t s u → exec (.cpNop t) s = .next (done u)) ∧
    (CpStarts (.cpTmark t tag) t s u →
      exec (.cpTmark t tag) s = .next (done (u.trace 2 .cp (u.cur.curSlot .cp) u.cur.vc tag.toNat 0)))) ∧
  (∀ (t : Tok) (cnt : BitVec 16) (len : BitVec 8) (s u : State), CpStarts (.cpRep t cnt len) t s u →
    exec (.cpRep t cnt len) s = .next
      (((repWork t cnt.toNat len.toNat .cp ((if s.cur.cpStart.isSome then s else s.grpNext .cp t).takePops .cp t.wait)).passBody .cp 255).onCur
        fun l => { l with lastIssue := some l.vc, portFree := l.vc + 1, pin := none, cpStart := none })) ∧
  (∀ (t : Tok) (rel : BitVec 1) (target : BitVec 39) (s : State),
    (s.streamRuns .cp = true → s.cur.cp.ring.has = true → ∃ v, exec (.atPin t rel target) s = .next v ∧
      v = (((s.onCur fun l => { l with nextSeq := l.nextSeq + 1 }).advanceRing .cp).onCur fun l =>
        { l with pin := v.cur.pin, pinSeq := s.cur.nextSeq }) ∧
      ∃ p : Int, v.cur.pin = some p ∧ (rel = 1 → p = (s.cur.lastIssue.getD 0 : Int) + target.toNat) ∧
        (rel = 0 → (p - target.toNat) % 2 ^ 39 = 0 ∧ (s.cur.vc : Int) - 2 ^ 38 ≤ p ∧ p < (s.cur.vc : Int) + 2 ^ 38)) ∧
    (s.streamRuns .cp = false ∨ s.cur.cp.ring.has = false → exec (.atPin t rel target) s = .next s)) ∧
  (∀ s : State, s.cur.st ≠ .free → (s.cur.pin = none → exec (.scheduleMiss s.cur.id) s = .next s) ∧
    (s.headIsAt = true → exec (.scheduleMiss s.cur.id) s = .next s) ∧
    (∀ p, s.cur.pin = some p → s.cpStands = true → s.missMode = true → s.cur.cpStart = none → s.cur.replay = none → s.headIsAt = false →
      ((s.cur.vc : Int) < p → exec (.scheduleMiss s.cur.id) s = .next s) ∧
      (p ≤ (s.cur.vc : Int) → exec (.scheduleMiss s.cur.id) s = .next ((s.stopStream .cp .scheduleMiss
        [s.curWord .cp, trapInfo1 (s.cur.curSlot .cp) 2 .cp 0, BitVec.ofInt 64 p, BitVec.ofNat 64 s.cur.vc] false false).onCur
          fun l => { l with pin := none })))) ∧
  (∀ (t : Tok) (h g : BitVec 4) (k : BitVec 5) (cnt : BitVec 1) (s u v : State), CpStarts (.selk t h g k cnt) t s u →
    let hh := u.handle h.toNat
    let gg := u.handle g.toNat
    let oo := u.handle (g.toNat + 1)
    let e := u.selField gg 0 2
    u.cur.cpHandle hh = none → hFmt hh = 2 ∨ hFmt hh = 3 → u.cur.recBad gg = none → u.cur.cpHandle oo = none → hFmt oo = 0x0B →
    0 < e → e ≤ 256 → hDim0 hh = e → k.toNat ≤ e → hDim1 hh ≤ hDim0 oo → k.toNat ≤ hDim1 oo →
    selkAccess hh oo k.toNat (u.cur.curSlot .cp) u = .ok v →
    let gen := v.selField gg 2 1 % 2
    let sels := (List.range (hDim1 hh)).map fun r => selectTop k.toNat ((List.range e).map fun x =>
      (clampInt ((recLe (v.cpBytes (hRowAt hh 0 r).toNat (2 * e)) (2 * x) 2 : Nat) +
        sint 16 (v.selField gg (0x40 + 0x200 * gen + 2 * x) 2)) 0 65535).toNat)
    let w := sels.zipIdx.foldl (fun y (sel, r) => sel.zipIdx.foldl (fun y (x, i) =>
      y.cpStore ((hRowAt oo 0 i).toNat + 4 * r) (leBytes x 4)) y) v
    let c : CfgCmd :=
      { seq := w.cur.nextSeq, due := u.cur.vc + (if hDim1 hh = 0 then 1 else 8 + 16 * ((hDim1 hh + 128 * u.cur.n - 1) / (128 * u.cur.n))),
        slot := u.cur.curSlot .cp, op := 0x0D, sig := t.sig, selRec := hBase gg, selCnt := if cnt = 1 then sels.flatten else [], gen := gen }
    exec (.selk t h g k cnt) s =
      .next (w.onCur fun l => { l with nextSeq := l.nextSeq + 1, cfgQ := l.cfgQ ++ [c] }).cpIssued)

/-- Once they start and their checks pass, MXMUL and MXLUT enter a command for MCNT rows from this vc; MXDRAIN enters one with a
row leaving in each vc from t + 8; MXBS enters a walk of its table from ROWPROG; MXLD starts a load, complete from the window at
t + W + 8, or 12 with PRO; MXSWAP exchanges the buffers at the end of the vc; MXCFG configures the chain after 16 vc, or 1 for
its format item (that it is refused on a race, and the place of the scale plane's bounds among the checks, are the model's
choices, log entries 97 and 98); MXRD writes a bank row to a register after 4 vc, MXWR a register to a row and MXZERO zeros to a
window after 2. All of them complete so wherever these conditions hold. An empty window stops MXZERO, MXRD and MXWR with
REG_BOUNDS, a row beyond the window MXRD and MXWR with ILLEGAL_OPERAND. (R167, R171, R172, R174, R175, R177, R178, R179, R180,
R181, R182) -/
def Obligations.ArrayWords : Prop :=
  (∀ (t : Tok) (h g acc : BitVec 4) (f : BitVec 8) (imm : BitVec 20) (s u v : State),
    let hh := u.handle h.toNat
    let gh := u.handle g.toNat
    let base := (u.cur.window acc).1
    let rows := (u.cur.window acc).2
    let m := imm.toNat % 2048
    let fin := imm.getLsbD 19
    let tag := u.cur.wact.tag
    let plot := if u.cur.ori then shapeCols u.cur.shape else shapeRows u.cur.shape
    rows ≠ 0 → m ≤ rows * plot → dstBad u.cur f gh (some m) = none →
    let a (kind : ArrKind) : ArrCmd :=
      { seq := v.cur.nextSeq, kind := kind, t := u.cur.avc, slot := u.cur.curSlot .cp, sig := t.sig, f := f, imm := imm, base := base,
        rows := rows, h := hh, g := gh, cfg := u.cur.cfg, mcnt := m }
    let enters (x : ArrCmd) : State := v.onCur fun l => { l with nextSeq := l.nextSeq + 1, arr := l.arr ++ [x] }
    (actBad u.cur hh fin m = none → spansCheck (u.cur.curSlot .cp) (if fin then [] else rowSpans hh 0 m) (outSpans f gh m) u = .ok v →
      (CpStarts (.mxmul t h g acc f imm) t s u → tag ≠ 0 → tag ≠ tagSgn → pairOk (hFmt hh) tag = true →
        exec (.mxmul t h g acc f imm) s = .next (enters (a .mul)).cpIssued) ∧
      (CpStarts (.mxlut t h g acc f imm) t s u → tag = tagSgn → hFmt hh = 0x02 ∨ hFmt hh = 0x09 →
        exec (.mxlut t h g acc f imm) s = .next (enters (a .lut)).cpIssued)) ∧
    (spansCheck (u.cur.curSlot .cp) [] (outSpans f gh m) u = .ok v → CpStarts (.mxdrain t g acc f imm) t s u →
      let es := (List.range m).map fun r => RowEmit.mk v.cur.nextSeq r r 0 (u.cur.avc + r) (u.cur.avc + r + 8) true none []
      let w := (enters { a .drain with h := 0, taken := m, doneAt := some (u.cur.avc + m + 7) }).onCur fun l => { l with rowE := l.rowE ++ es }
      exec (.mxdrain t g acc f imm) s = .next ((es.take 1).foldl readRow w).cpIssued)) ∧
  (∀ (t : Tok) (h g acc : BitVec 4) (f : BitVec 8) (imm : BitVec 20) (s u v : State), CpStarts (.mxbs t h g acc f imm) t s u →
    let hh := u.handle h.toNat
    let g0 := u.handle g.toNat
    let g1 := u.handle (g.toNat + 1)
    let g2 := u.handle (g.toNat + 2)
    let base := (u.cur.window acc).1
    let rows := (u.cur.window acc).2
    rows ≠ 0 → 64 ≤ rows * u.cur.accQ → actBad u.cur hh false 0 = none → u.cur.cpHandle g0 = none → u.cur.cpHandle g1 = none →
    u.cur.scaleOk g0 = true →
    weightFmt (hFmt g0) = true → hFmt g0 ≠ 0x08 → hFmt g0 ≠ 0x0A → pairOk (hFmt hh) (hFmt g0) = true → hDim0 g0 ≤ u.cur.kLen →
    hDim1 g0 ≤ u.cur.width → hFmt g1 = 0x0C → 16 ≤ hDim0 g1 → dstBad u.cur f g2 none = none →
    let a : ArrCmd :=
      { seq := 0, kind := .bs, t := u.cur.avc, slot := u.cur.curSlot .cp, sig := t.sig, f := f, imm := imm, base := base, rows := rows,
        h := hh, g := g0, g1 := g1, g2 := g2, cfg := u.cur.cfg, mcnt := u.cur.bsStart,
        doneAt := if hDim1 g1 ≤ u.cur.bsStart then some (u.cur.avc + 1) else none }
    spansCheck (u.cur.curSlot .cp) (bsSpans u a u.cur.bsStart).1 (bsSpans u a u.cur.bsStart).2 u = .ok v →
    exec (.mxbs t h g acc f imm) s = .next (v.onCur fun l =>
      { l with nextSeq := l.nextSeq + 1, arr := l.arr ++ [{ a with seq := v.cur.nextSeq }] }).cpIssued) ∧
  (∀ (t : Tok) (g : BitVec 4) (pro sgn : BitVec 1) (s u v : State), CpStarts (.mxld t g pro sgn) t s u →
    let h := u.handle g.toNat
    let f := hFmt h
    u.cur.handleCheck h = none → hSpace h ≠ spRemote → hSpace h ≠ spView → (sgn = 1 → f = 0x0C) → (sgn = 0 → weightFmt f = true) →
    (pro = 1 ↔ f = 0x08 ∨ f = 0x0A) → hDim1 h ≤ u.cur.width → hDim0 h ≤ (if sgn = 1 then u.cur.kLen / 4 else u.cur.kLen) →
    u.cur.scaleOk h = true →
    spansCheck (u.cur.curSlot .cp) (if hSpace h = spScratch then rowSpans h 0 (hDim1 h) else []) [] u = .ok v →
    let x : LoadCmd :=
      { seq := v.cur.nextSeq, t := u.cur.vc, slot := u.cur.curSlot .cp, sig := t.sig, g := h, pro := pro = 1, sgn := sgn = 1,
        doneAt := if hSpace h = spScratch then some (u.cur.vc + u.cur.width + (if pro = 1 then 12 else 8)) else none }
    exec (.mxld t g pro sgn) s =
      .next (v.onCur fun l => { l with nextSeq := l.nextSeq + 1, load := some x, rowprog := 0 }).cpIssued) ∧
  (∀ (t : Tok) (s u : State), CpStarts (.mxswap t) t s u →
    let c : CfgCmd := { seq := u.cur.nextSeq, due := u.cur.vc, slot := u.cur.curSlot .cp, op := 2, sig := t.sig }
    exec (.mxswap t) s = .next (u.onCur fun l => { l with nextSeq := l.nextSeq + 1, cfgQ := l.cfgQ ++ [c] }).cpIssued) ∧
  (∀ (t : Tok) (h : BitVec 4) (imm : BitVec 20) (s u v : State), CpStarts (.mxcfg t h imm) t s u →
    let hh := u.handle h.toNat
    let item := imm.toNat / 2 ^ 16
    let n := if item = 2 then 528 else 4 * u.cur.width
    (item ≠ 3 → cfgBad u.cur hh (if item = 2 then 0x0C else 0x01) n = none) →
    spansCheck (u.cur.curSlot .cp) (if item = 3 then [] else [(hBase hh, n)]) [] u = .ok v →
    ∀ x, cfgItem u.cur item (imm.toNat % 2 ^ 16) (if item = 3 then [] else v.cpBytes (hBase hh) n) = some x →
      let c : CfgCmd :=
        { seq := v.cur.nextSeq, due := u.cur.vc + (if item = 3 then 1 else 16), slot := u.cur.curSlot .cp, op := 5, sig := t.sig,
          cfg := some x }
      exec (.mxcfg t h imm) s = .next (v.onCur fun l => { l with nextSeq := l.nextSeq + 1, cfgQ := l.cfgQ ++ [c] }).cpIssued) ∧
  (∀ (t : Tok) (acc : BitVec 4) (x : BitVec 8) (r : BitVec 9) (s u : State),
    let row := (u.cur.window acc).1 + r.toNat
    let rows := (u.cur.window acc).2
    let last (w : State) : Option Pend := w.cur.pend.getLast?
    (CpStarts (.mxzero t acc) t s u → rows ≠ 0 → ∃ w p, exec (.mxzero t acc) s = .next w ∧ last w = some p ∧ p.due = u.cur.vc + 2 ∧
      p.accRow = some (0, true) ∧ p.sig = t.sig ∧ w.accs = u.accs ∧
      ∀ q ∈ u.cur.plots, ∀ k < rows, (accKey u.cur.die q ((u.cur.window acc).1 + k), zeroLanes) ∈ p.writes) ∧
    (CpStarts (.mxzero t acc) t s u → rows = 0 → exec (.mxzero t acc) s = .next (cpStops s t .regBounds 0)) ∧
    (∀ v, CpStarts (.mxrd t acc x r) t s u → r.toNat < rows → u.readRegs .cp [(6, row)] = .ok v →
      exec (.mxrd t acc x r) s = .next (cpEnd v t 0 4
        (u.cur.vecWrites x.toNat (u.cur.plots.flatMap fun q => sget zeroLanes (accKey u.cur.die q row) v.accs)) 0 .none)) ∧
    (CpStarts (.mxwr t acc x r) t s u → r.toNat < rows → ∃ w p, exec (.mxwr t acc x r) s = .next w ∧ last w = some p ∧
      p.due = u.cur.vc + 2 ∧ p.accRow = some (0, false) ∧ w.accs = u.accs ∧
      p.writes = u.cur.plots.zipIdx.map fun q => (accKey u.cur.die q.1 row, ((u.vec x).drop (128 * q.2)).take 128)) ∧
    (∀ i ∈ [Instr.mxrd t acc x r, .mxwr t acc x r], CpStarts i t s u → rows ≠ 0 → rows ≤ r.toNat →
      exec i s = .next (cpStops s t .illegalOperand 0)) ∧
    (∀ i ∈ [Instr.mxrd t acc x r, .mxwr t acc x r], CpStarts i t s u → rows = 0 → exec i s = .next (cpStops s t .regBounds 0)))

/-- For INT8 activations against an INT8 tile, the partial sum of a column is the sum modulo 2^32 of the products of K signed
bytes, missing bytes counting as 0, and raises no flag. Accumulating a column adds modulo 2^32 and raises OF exactly when the
signed sum does not fit in 32 bits; a cleared accumulation stores the sum itself; the cell reads back what was written, holds no
error any more (R96), and every cell of another bank row, of the bank rows as a map with rising keys, is unchanged. (R74, R75,
R96, R165, R167) -/
def Obligations.ArrayArithmetic : Prop :=
  (∀ (k : Nat) (w : WTile) (as sa : List Nat) (j : Nat), w.tag ≠ tagSgn →
    let c := sget [] j w.cols
    colSum k 0x09 w as sa j =
      (BitVec.ofInt 32 (((List.range k).map fun i => sint 8 (as.getD i 0) * sint 8 (c.getD i 0)).foldl (· + ·) 0), 0)) ∧
  (∀ (x : RowWrite) (a : ArrCmd) (j : Nat) (s : State),
    let c := accCell s.cur a.base a.rows x.row j
    let p := x.vals.getD j 0
    (x.clr = true → accumulate x a j s = (0, s.accSet c p x.int)) ∧
    (∀ v, x.clr = false → s.readCells [c] = .ok v →
      let o := v.accGet c
      let e := o.toInt + p.toInt
      (x.int = true → -2147483648 ≤ e → e ≤ 2147483647 → accumulate x a j s = (0, v.accSet c (BitVec.ofInt 32 e) true)) ∧
      (x.int = true → e < -2147483648 ∨ 2147483647 < e → accumulate x a j s = (flagOF, v.accSet c (BitVec.ofInt 32 e) true)) ∧
      (x.int = false → accumulate x a j s = ((fadd o p).2, v.accSet c (fadd o p).1 false)))) ∧
  (∀ (c : Nat × Nat) (v : W32) (int : Bool) (s : State), keysRise s.accs = true → c.2 < (sget zeroLanes c.1 s.accs).length →
    (s.accSet c v int).accGet c = v ∧ (s.accSet c v int).mem = s.mem ∧ (s.accSet c v int).vfile = s.vfile ∧
    (s.cur.ct.bad = [] → (s.accSet c v int).cur = s.cur) ∧
    (∀ b ∈ (s.accSet c v int).cur.ct.bad, b ∈ s.cur.ct.bad ∧ ¬ (b.file = 6 ∧ b.reg = c.1 % 512 ∧ b.word = cellWord c)) ∧ ∀ d : Nat × Nat, d.1 ≠ c.1 → (s.accSet c v int).accGet d = s.accGet d)

/-- While the vc counter is paused, by anything but chain back-pressure, the start and the end of a vc change nothing. A result
that is due writes its registers in order, ORs its flags into NSTAT and becomes a completion of its stream. At the end of a vc
with an MXSWAP and no row or load the weight buffers are exchanged. The data of a row of weights that is awaited become the
row's column of the shadow buffer, ones where they were lost on the host link; after the last row the load completes 8 vc later,
or 12 with PRO. The data of a row that is not awaited changes nothing. A row for the chain that is due enters the FIFO to the
consumer, but for one whose FIFO holds eight: that one waits and the array stands. At the end of its vc a consumer whose next
row may enter takes the head of its incoming FIFO, if it entered before: the row's sums are on their way, K + 3 vc later, its
emission too, and after the last row the command's end is fixed; with an empty FIFO nothing changes. A halted or frozen lease
completes nothing; elsewhere the completions due act in their order, and none of them changes a scalar register, a handle or the
pc. (R133, R134, R169, R171, R172, R183, R18, R20, R251, R234, R403) -/
def Obligations.ResultsAndCompletions : Prop :=
  (∀ s : State, s.cur.pause = true → exec (.chainRowEnter s.cur.id) s = .next s ∧
    (s.cur.backPressure = false → exec (.vectorWriteback s.cur.id) s = .next s)) ∧
  (∀ s : State, s.cur.st ≠ .free → exec (.vectorWriteback s.cur.id) s = .next (vcStart s) ∧
    exec (.chainRowEnter s.cur.id) s = .next (vcEnd s)) ∧
  (∀ (s : State) (p : Pend), p.accRow = none →
    (s.finishPend p).vfile = p.writes.foldl (fun f w => sset zeroLanes w.1 w.2 f) s.vfile ∧
    (s.finishPend p).cur.ct.nstat = s.cur.ct.nstat ||| BitVec.ofNat 64 p.flags ∧ (s.finishPend p).accs = s.accs ∧
    (s.finishPend p).cur.ct.sregs = s.cur.ct.sregs ∧ (s.finishPend p).cur.ct.handles = s.cur.ct.handles ∧
    (s.finishPend p).cur.ct.pc = s.cur.ct.pc ∧
    ∃ d, (s.finishPend p).cur.doneQ = s.cur.doneQ ++ [d] ∧ d.stream = .cp ∧ d.sig = p.sig ∧ d.slot = p.slot ∧ d.op = p.op ∧ d.vc = p.due ∧
      d.q = p.q ∧ d.due = s.datum) ∧
  (∀ (s : State) (c : CfgCmd), s.cur.pause = false → s.cur.arrHeld = false → s.cur.arr = [] → s.cur.load = none → s.cur.cfgQ = [c] →
    c.op = 2 → s.cur.st ≠ .free → ∃ v, exec (.chainRowEnter s.cur.id) s = .next v ∧ v.cur.wact = s.cur.wshd ∧ v.cur.wshd = s.cur.wact ∧
      v.cur.cfgQ = [] ∧ v.cur.ct = s.cur.ct ∧ v.vfile = s.vfile ∧ v.accs = s.accs) ∧
  (∀ (s : State) (j : Nat), (∀ x, s.cur.load = some x → ∀ o ∈ x.out, o.1 ≠ j) → exec (.mxldRowArrival s.cur.id j) s = .next s) ∧
  (∀ (s : State) (x : LoadCmd) (j : Nat), s.cur.st ≠ .free → NoLog s → s.cur.load = some x → (∃ o ∈ x.out, o.1 = j) →
    let get (q : Nat × Nat) : List Byte := if j ∈ x.lost then List.replicate q.2 0xFF else s.rowData q.1 q.2
    let sc : List Byte := if fmtScaled (hFmt x.g) then get (hScaleAt x.g 0 j, hScaleRow x.g) else []
    let r := decodeCol s.cur x.g x.sgn (get ((hRowAt x.g 0 j).toNat, hRowBytes x.g)) sc
    let out := x.out.filter fun o => o.1 ≠ j
    ∃ v, exec (.mxldRowArrival s.cur.id j) s = .next v ∧ v.mem = s.mem ∧ v.vfile = s.vfile ∧ v.accs = s.accs ∧
      v.cur = { s.cur with
        wshd := s.cur.wshd.setCol j r.1 r.2.1,
        load := some { x with
          flags := x.flags ||| r.2.2, out := out, onLink := x.onLink.filter fun k => k ≠ j, lost := x.lost.filter fun k => k ≠ j,
          doneAt := if out = [] ∧ s.cur.width ≤ x.next then some (s.cur.vc + if x.pro then 12 else 8) else x.doneAt } }) ∧
  (∀ (s : State) (a : ArrCmd) (e : RowEmit) (vs : List W32), s.cur.st ≠ .free → s.cur.pause = false → s.cur.arr = [a] → s.cur.rowE = [e] →
    s.cur.rowW = [] → s.cur.pend = [] → s.cur.cfgQ = [] → s.cur.load = none → e.cmd = a.seq → e.emit = true → e.vals = some vs →
    e.due ≤ s.cur.avc → dstOf a.f = 1 →
    let codes := vs.mapIdx fun k y => (chainValue a.cfg a.f (tabOf a.imm) (e.ints.getD k false) k y).1
    (s.cur.fifo.length < 8 → ∃ v, exec (.vectorWriteback s.cur.id) s = .next v ∧ v.cur.rowE = [] ∧ v.accs = s.accs ∧ v.vfile = s.vfile ∧
      v.cur.fifo = s.cur.fifo ++ [(bytesOf (fmtWidth a.cfg.ofmt) codes).map fun b => b.setWidth 32] ∧
      v.cur.fifoAt = s.cur.fifoAt ++ [s.cur.vc]) ∧
    (8 ≤ s.cur.fifo.length → exec (.vectorWriteback s.cur.id) s = .next (s.onCur fun l => { l with arrHeld := true }))) ∧
  (∀ (s : State) (a : ArrCmd) (k : Nat) (p : Lease), s.cur.st ≠ .free → s.cur.pause = false → s.cur.arrHeld = false → s.cur.saving = false →
    s.cur.load = none → s.cur.cfgQ = [] → s.cur.arr = [a] → a.kind = .mul ∨ a.kind = .lut → finOf a.imm = true → a.stopped = false →
    a.doneAt = none → a.taken < a.mcnt → a.t + a.taken ≤ s.cur.avc → (a.taken = 0 ∨ a.lastIn < s.cur.avc) → s.cur.chin = some k →
    s.lease? k = some p → p.id = k → p.id ≠ s.cur.id → p.st ≠ .free →
    (p.fifo = [] → exec (.chainRowEnter s.cur.id) s = .next s) ∧
    (∀ b bs t ts, p.fifo = b :: bs → p.fifoAt = t :: ts → t < s.cur.vc →
      let w := fmtWidth (hFmt a.h)
      let r := rowSums s.cur.kLen s.cur.width (hFmt a.h) s.cur.wact (codesOf w (b.length * 8 / w) (b.map fun y => y.setWidth 8)) []
      let int : Bool := hFmt a.h = 0x09
      let lut := if a.kind = .lut then 4 else 0
      let at_ := s.cur.avc + s.cur.kLen + s.cur.width + 2 + lut
      ∃ v q, exec (.chainRowEnter s.cur.id) s = .next v ∧ v.lease? k = some q ∧ q.fifo = bs ∧ q.fifoAt = ts ∧ v.mem = s.mem ∧
        v.vfile = s.vfile ∧ v.accs = s.accs ∧ v.cur.ct = s.cur.ct ∧
        v.cur.rowW = s.cur.rowW ++ [⟨a.seq, a.taken, s.cur.avc + s.cur.kLen + 3 + lut, r.1, a.f.getLsbD 7, int⟩] ∧
        v.cur.rowE = s.cur.rowE ++ (if a.emits then
          [⟨a.seq, a.taken, a.taken, 0, at_, at_ + 6, true, none, List.replicate s.cur.width int⟩] else []) ∧
        v.cur.arr = [{ a with
          taken := a.taken + 1, lastIn := s.cur.avc, flags := a.flags ||| r.2,
          doneAt := if a.taken + 1 = a.mcnt then some (if a.emits then at_ + 6 else at_) else none }])) ∧
  (∀ s : State, s.cur.st = .halted ∨ s.cur.frozen = true → exec (.completion s.cur.id) s = .next s) ∧
  (∀ s : State, ∃ v, exec (.completion s.cur.id) s = .next v ∧ v.cur.ct.sregs = s.cur.ct.sregs ∧ v.cur.ct.handles = s.cur.ct.handles ∧
    v.cur.ct.pc = s.cur.ct.pc ∧ v.cur.ct.nstat = s.cur.ct.nstat ∧ v.vfile = s.vfile ∧ v.accs = s.accs ∧
    (s.cur.st ≠ .halted → s.cur.frozen = false → s.cur.st ≠ .free → ∀ d ∈ v.cur.doneQ, s.datum < d.due))

/-- Without a waiting entry, or while queue 0 is full or disabled, or in a halted partition (R375), nothing is written to the
fault queue; else the oldest waiting entry is written at HEAD with its sequence number, HEAD rises by 1, and the entry is open.
A resolution that names no unresolved entry, or of a halted partition, changes nothing; with KILL it ends the task of the
entry's lease abnormally with the entry's cause; without, the lease of the only entry runs again, the stream of the entry to
retry its access first, and no entry is open. The watchdog acts on a running lease of which a ready stream has issued nothing
for 65,536 mc, or of which a command has made no progress for 2^24 mc, and on no other: it raises the halt line with WATCHDOG by
that stream or copy engine, and in a prologue it fails the packet (R366). PHALT and a fatal event raise the line, with ENGINE 10
(log entry 57; of an UNCORRECTABLE event the granule is open, log entry 107); a line that is up stays as it is; a rise sets
STATE 1 and the cause, halts every running or parked lease of the partition, changes no memory, register file or accumulator and
no other partition. Each engine that stops writes its record, as an event of its own (log entry 35), when there is room, else it
counts as lost; with the last one STATE is 2, and vector 4 is signalled. (R286, R287, R366, R371, R372, R373, R375, R376, R377,
R390) -/
def Obligations.FaultsAndHalts : Prop :=
  (∀ (p : Nat) (s : State), ((s.part p).faultWait = [] → exec (.faultEntryWrite p) s = .next s) ∧
    ((s.eq p 0).full = true → exec (.faultEntryWrite p) s = .next s) ∧ ((s.part p).pstate ≠ 0 → exec (.faultEntryWrite p) s = .next s) ∧
    (∀ e rest, (s.part p).faultWait = e :: rest → (s.eq p 0).full = false → (s.part p).pstate = 0 → ∃ v, exec (.faultEntryWrite p) s = .next v ∧
      v.mem = (s.busWrite p (eBit (s.eq p 0).base 63) ((s.eq p 0).slotAt (s.eq p 0).head) (e.bytes (s.eq p 0).head)).mem ∧
      (v.eq p 0).head = ((s.eq p 0).head + 1) % 2 ^ 32 ∧ (v.part p).faultWait = rest ∧
      (v.part p).faultOpen = (s.part p).faultOpen ++ [{ e with seq := some ((s.eq p 0).head % 2 ^ 32) }] ∧
      (s.badGran = [] → v.cur = s.cur ∧ v.rest = s.rest) ∧ v.vfile = s.vfile ∧ v.accs = s.accs)) ∧
  (∀ (p : Nat) (x : BitVec 64) (s : State), s.vfOff p = false →
    let found := (s.part p).faultOpen.find? fun e => e.seq = some (nbits x.toNat 31 0) && !e.resolved
    (found = none ∨ (s.part p).pstate ≠ 0 → exec (.fqres p x) s = .next s) ∧
    (∀ e, found = some e → (s.part p).pstate = 0 →
      (eBit x 32 = true → ∀ l, s.lease? e.lease = some l → exec (.fqres p x) s = .next (abortDomain p l.task 1 e.cause.code 0xFFF s)) ∧
      (eBit x 32 = false → (s.part p).faultOpen = [e] → (s.part p).faultWait = [] → s.cur.id = e.lease → s.cur.st = .parked →
        ∃ v, exec (.fqres p x) s = .next v ∧ v.cur = { s.cur with st := .running, retries := s.cur.retries ++ e.retries s.cur } ∧
          (v.part p).faultOpen = [] ∧ v.mem = s.mem))) ∧
  (∀ s : State, s.cur.st ≠ .free →
    let stalled (st : Stream) : Prop := 65536 ≤ sget 0 st.index s.cur.idle
    (s.cur.st ≠ .running ∨ (∀ st, ¬ stalled st) → (∀ c ∈ s.cur.cmds, c.still < 2 ^ 24) → exec (.watchdogExpiry s.cur.id) s = .next s) ∧
    (s.cur.st = .running → (∃ st, stalled st) →
      (s.cur.prologue = true → exec (.watchdogExpiry s.cur.id) s = .next (s.prologueFail .watchdog)) ∧
      (s.cur.prologue = false → ∃ st, stalled st ∧ exec (.watchdogExpiry s.cur.id) s = .next (s.haltBy .watchdog st 0))) ∧
    (s.cur.st ≠ .running ∨ (∀ st, ¬ stalled st) → (∃ c ∈ s.cur.cmds, 2 ^ 24 ≤ c.still) →
      ∃ c ∈ s.cur.cmds, 2 ^ 24 ≤ c.still ∧ exec (.watchdogExpiry s.cur.id) s = .next (s.haltLine s.cur.part .watchdog (s.cur.copyStop c)))) ∧
  (∀ (p : Nat) (s : State), s.vfOff p = false → exec (.phalt p) s = .next (s.haltLine p .hostHalt (hostStop .hostHalt))) ∧
  (∀ (p : Nat) (k : BitVec 6) (s : State),
    ((s.part p).pstate ≠ 0 ∨ (∀ c ∈ [Cause.uncorrectable, .doubleTrap, .isolation, .watchdog, .hostHalt], c.code ≠ k.toNat) →
      exec (.haltLineRise p k) s = .next s) ∧
    (∀ c ∈ [Cause.doubleTrap, .isolation, .watchdog, .hostHalt], c.code = k.toNat →
      exec (.haltLineRise p k) s = .next (s.haltLine p c (hostStop c))) ∧
    (Cause.uncorrectable.code = k.toNat → (s.part p).pstate = 0 → ∃ x : StopInfo, x.cause = .uncorrectable ∧ x.engine = 10 ∧
      exec (.haltLineRise p k) s = .next (({ s with free := s.free + 3 } : State).haltLine p .uncorrectable x))) ∧
  (∀ (p : Nat) (c : Cause) (x : StopInfo) (s : State), ((s.part p).pstate ≠ 0 → s.haltLine p c x = s) ∧
    ((s.part p).pstate = 0 →
      let v := s.haltLine p c x
      (v.part p).pstate = 1 ∧ (v.part p).pcause = c.code ∧ (v.part p).stopLeft ≠ [] ∧ v.mem = s.mem ∧ v.vfile = s.vfile ∧ v.accs = s.accs ∧
      (∀ l ∈ v.cur :: v.rest, l.part = p → l.st ≠ .running ∧ l.st ≠ .parked) ∧ (s.cur.part ≠ p → v.cur = s.cur) ∧
      ∀ q, q ≠ p → v.part q = s.part q)) ∧
  (∀ (p k : Nat) (s : State), ((s.part p).stopLeft[k]? = none → exec (.engineHaltStop p k) s = .next s) ∧
    (∀ r, (s.part p).stopLeft[k]? = some r →
      let q := s.part p
      let room : Prop := 64 * (q.records + 1) ≤ q.haltLen.toNat
      let left := q.stopLeft.eraseIdx k
      ∃ v, exec (.engineHaltStop p k) s = .next v ∧ (v.part p).stopLeft = left ∧ ((s.part p).pstate ≠ 0 → v.cur = s.cur) ∧
        (room → (v.part p).records = q.records + 1 ∧ (v.part p).reclost = q.reclost ∧
          v.mem = (s.unitWrite p (q.haltBase.toNat / 64 % 2 ^ 51 * 64 + 64 * q.records) r).mem) ∧
        (¬ room → (v.part p).records = q.records ∧ (v.part p).reclost = q.reclost + 1 ∧ v.mem = s.mem) ∧
        (left = [] → (v.part p).pstate = 2 ∧ v.out.getLast? = some (.msix p 4)) ∧ (left ≠ [] → (v.part p).pstate = 1)))

/-- A pre-emption that is asked for takes hold only at a point where CT may be saved: the lease then issues nothing more. A
group that still owes a write is not saved; a parcel saved alone, every register read and the results written that a full queue
held up, holds its registers, its bank rows and CT's registers, its cards their RESUME, its plots' files read zero, and a save
asked for by a write counts in CTXSTAT. An image drains once the pool has room, in a partition that is not halted, with its
header and the sections that have a layout, else RESULT is 4; an uncorrectable error in its window halts the partition. The
image that the allocator serves next runs again on its new plots, or stays parked with unresolved faults, with CT's registers
and its vector registers as they were saved, or as the pool holds them once the image has drained, and its counter as it was.
PREEMPT and RESTORE while BUSY or for a region that is not attached give RESULT 6, and so does RESTORE in a halted partition
(log entry 106); else PREEMPT sets BUSY and asks the leases of the subtree to save, and RESTORE queues its images, RESULT 1 with
none. RCBKILL while BUSY, for a region that is not attached, or in a halted partition (log entry 106), sets ERR, else ERR is
clear, BUSY set and the subtree killed; a read of RCBKSTAT answers ERR and BUSY and clears ERR. (When a save may take place, and
that the counts fall at it, is the model's reading, log entry 50; where a section lies in an image its choice, log entry 24.)
(R378, R379, R382, R383, R386, R387, R377, R298) -/
def Obligations.SwapsAndKills : Prop :=
  (∀ s : State, s.cur.st ≠ .free →
    (s.cur.preAsked = false ∨ s.atSavePoint = false ∨ s.cur.frozen = true → exec (.preemption s.cur.id) s = .next s) ∧
    (s.cur.preAsked = true → s.atSavePoint = true → s.cur.frozen = false →
      ∃ v, exec (.preemption s.cur.id) s = .next v ∧ v.cur.saving = true ∧ v.cur.ct.sregs = s.cur.ct.sregs ∧ v.cur.ct.pc = s.cur.ct.pc ∧
        v.cur.ct.wdone = s.cur.ct.wdone ∧ v.mem = s.mem ∧ v.rest = s.rest ∧ (∀ st, v.streamRuns st = false) ∧ v.ctRuns = false) ∧
    (s.cur.frozen = true ∨ s.groupQuiet (s.groupOf s.cur) = false → exec (.contextSave s.cur.id) s = .next s) ∧
    (∀ w, s.cur.frozen = false → s.groupOf s.cur = [s.cur.id] → s.groupQuiet [s.cur.id] = true → readAll [s.cur.id] s = .ok w →
      let x := finishHeld ((w.addUp w.cur.part w.cur.rcb 0x0C 2 (· - w.cur.n)).addUp w.cur.part w.cur.rcb 0x0E 2 (· - 1)).writeResumes
      ∃ v, exec (.contextSave s.cur.id) s = .next v ∧ v.cur.id = s.cur.id ∧ v.cur.st = .saved ∧ v.cur.pre = .none ∧ v.cur.ct = x.cur.ct ∧
        v.cur.vc = s.cur.vc ∧ v.cur.savedVecs = toLanes x.cur 256 x.vfile ∧ v.cur.savedAcc = toLanes x.cur 512 x.accs ∧
        (v.part s.cur.part).ctxCount = (s.part s.cur.part).ctxCount + (if s.cur.pre = .draining true then 0 else 1) ∧
        ∀ q ∈ s.cur.plots, ∀ x < 256, sget zeroLanes ((s.cur.die * 16 + q) * 256 + x) v.vfile = zeroLanes) ∧
    (s.cur.st ≠ .saved ∨ s.cur.drained = true ∨ (s.part s.cur.part).pstate ≠ 0 → exec (.imageDrain s.cur.id) s = .next s) ∧
    (s.cur.st = .saved → s.cur.drained = false → (s.part s.cur.part).pstate = 0 →
      let g := s.groupOf s.cur
      let room := s.poolRoom s.cur.part ((s.cur.imgKib + 1023) / 1024)
      let bad := (g.filterMap s.lease?).findSome? s.badShadow
      (bad.isSome = true → exec (.imageDrain s.cur.id) s = .next (s.haltLine s.cur.part .uncorrectable
        { cause := .uncorrectable, engine := 5, die := s.cur.die, loc := s.cur.loc, kernelId := s.cur.kernelId })) ∧
      (bad = none → room = none → exec (.imageDrain s.cur.id) s = .next (s.onPart s.cur.part fun q => { q with ctxResult := 4 })) ∧
      (∀ a, bad = none → room = some a → s.cur.id ∈ g →
        let base := (s.part s.cur.part).imgBase.toNat + a * 2 ^ 20
        let r := (g.foldl (fun z i => asLease i z drainWindow) s).freeBytes (s.cur.imgKib * 1024 - 256)
        let x := r.2.unitWrite s.cur.part base (r.2.imageHeader g false ++ r.1)
        let y := (sectOffsets 1 (g.filterMap x.lease?)).foldl (fun z e => z.writeSections (base + 1024 * e.1) e.2) x
        ∃ v, exec (.imageDrain s.cur.id) s = .next v ∧ v.cur = { y.cur with drained := true, imgAt := some a } ∧ v.mem = y.mem))) ∧
  (∀ (l : Nat) (s : State), s.candidate = none → exec (.imageRestore l) s = .next s) ∧
  (∀ (s : State) (x : Launch) (sh die row col : Nat) (ps : List Nat), s.cur.st ≠ .free → s.candidate = some (x, (sh, die, row, col)) →
    (x.image ≠ some s.cur.id → exec (.imageRestore s.cur.id) s = .next s) ∧
    (x.image = some s.cur.id → s.groupOf s.cur = [s.cur.id] → groupPlots row col (s.imageOffsets s.cur.id) = some ps →
      s.shadowBusy die ps = false →
      let w := s.takeLaunch x
      let y := if s.cur.drained = true then w.staged s.cur [s.cur] s.cur else s.cur
      ∃ v, exec (.imageRestore s.cur.id) s = .next v ∧ v.cur.id = s.cur.id ∧
        (s.hasFaults s.cur.id = true → v.cur.st = .parked) ∧ (s.hasFaults s.cur.id = false → v.cur.st = .running) ∧ v.cur.die = die ∧ v.cur.row = row ∧ v.cur.col = col ∧
        v.cur.pre = .none ∧ v.cur.vc = s.cur.vc ∧
        (y.ct.wait = .sent → v.cur.ct = { y.ct with nextMc := s.datum }) ∧
        (y.ct.wait ≠ .sent → v.cur.ct = { (y.resumeAt y.ct.resume).ct with nextMc := s.datum }) ∧
        v.vfile = (toPlots v.cur 256 y.savedVecs).foldl (fun m e => sset zeroLanes e.1 e.2 m) (s.clearPlots v.cur).vfile)) ∧
  (∀ (p : Nat) (x : BitVec 64) (s : State), s.vfOff p = false →
    let drop := s.onPart p fun q => { q with ctxResult := 6 }
    ((s.part p).ctxBusy = true ∨ s.attached p x.toNat = none →
      exec (.preemptWrite p x) s = .next drop ∧ exec (.restoreWrite p x) s = .next drop) ∧
    ((s.part p).pstate ≠ 0 → exec (.restoreWrite p x) s = .next drop) ∧
    ((s.part p).ctxBusy = false → (s.attached p x.toNat).isSome = true →
      (∃ v, exec (.preemptWrite p x) s = .next v ∧ (v.part p).ctxBusy = true ∧ (v.part p).ctxCount = 0 ∧ (v.part p).ctxResult = 1 ∧
        v.mem = s.mem ∧ v.cur.ct = s.cur.ct ∧
        (s.cur.part = p → s.cur.st = .running ∨ s.cur.st = .parked → s.cur.prologue = false → s.cur.chin = none → s.cur.pre = .none →
          (s.part p).below x.toNat s.cur.rcb = true → v.cur.pre = .byWrite)) ∧
      (s.savedBelow p x.toNat = [] → (s.part p).pstate = 0 → ∃ v, exec (.restoreWrite p x) s = .next v ∧ (v.part p).ctxResult = 1 ∧ (v.part p).ctxCount = 0 ∧
        v.queues = s.queues ∧ v.cur = s.cur ∧ v.mem = s.mem) ∧
      (∀ f, s.savedBelow p x.toNat = [f] → (s.part p).pstate = 0 →
        let w := s.onPart p fun q => { q with ctxCount := 0 }
        let y : Launch := { part := f.part, task := f.task, rcb := f.rcb, kernel := f.kernel, args := 0, image := some f.id }
        w.imageOk f = true → w.mapFits (w.imageOffsets f.id) = true → ∃ v, exec (.restoreWrite p x) s = .next v ∧
          ((w.fit y).isSome = true → (v.part p).ctxResult = 1) ∧ ((w.fit y).isSome = false → (v.part p).ctxResult = 2) ∧
          (v.part p).ctxCount = 1 ∧
          v.queues = (w.enqueue ((w.part f.part).prioOf f.rcb) y).queues ∧ v.mem = s.mem))) ∧
  (∀ (p : Nat) (x : BitVec 64) (s : State), s.vfOff p = false →
    let bad : Prop := (s.part p).pstate ≠ 0 ∨ (s.part p).rcbkBusy = true ∨ s.attached p x.toNat = none
    (bad → exec (.rcbkill p x) s = .next (s.onPart p fun q => { q with rcbkErr := true })) ∧
    (¬ bad → exec (.rcbkill p x) s = .next ((killTree p x.toNat 4 0xFFC none s).onPart p fun q => { q with rcbkBusy := true, rcbkErr := false })) ∧
    (∃ v, exec (.rcbkstatRead p) s = .next v ∧ (v.part p).rcbkErr = false ∧ v.cur = s.cur ∧ v.mem = s.mem ∧
      v.out = s.out ++ [.barRead p (BitVec.ofNat 64 ((if (s.part p).rcbkErr = true then 2 else 0) +
        if (s.part p).rcbkBusy = true then 1 else 0))]))

/-- A core that takes up packets and accepts the one of its expected index: a LAUNCH packet with a bad header gives STATUS 3,
one with a prologue starts it, one without is launched at once, or held while the queues are full; a NOP packet is consumed; one
whose host page is not translated waits (R389), and one at which the core meets an error that halts the partition goes no
further (R208); any other packet is consumed with STATUS 3 and ILLEGAL_OPERAND; of each kind, an event without its packet
changes nothing. A prologue of 2^20 words fails with WATCHDOG, one of fewer goes on; a prologue to run again starts when its
core is free. A doorbell makes the core look again. HRCTL with EN starts a ring with LOGN from 4 to 16 at its published READ,
once that has a translation, and changes nothing of one enabled; without EN it stops a ring at once, or behind its packet. EQCTL
with EN enables a queue with LOGN from 6 to 20. A grant of the launch served next makes a running lease at its place whose CT
stands at ENTRY with ARGS in s1, every other register 0 and its counter 0. A mark of a plot waits until the plot is free. Writes
of a frozen virtual function are dropped, and its reads give all ones. (R278, R279, R281, R282, R283, R284, R285, R299, R300,
R374, R315) -/
def Obligations.LaunchesAndRings : Prop :=
  (∀ (p r : Nat) (s : State),
    let ready : Prop := s.ringFree p r = true ∧ s.accepts p r = true
    let type := s.packetType p r
    let clean := s.packetClean p r
    (¬ (ready ∧ type = 1 ∧ clean = true) → exec (.launchPacket p r) s = .next s) ∧
    (∀ z, ready → type = 1 → clean = true → s.readPacket p r 128 = (false, z) → exec (.launchPacket p r) s = .next z) ∧
    (∀ z, ready → type = 1 → clean = true → s.readPacket p r 128 = (true, z) →
      let z := z.setRing p r { z.ring p r with waiting := false }
      let o := z.packetOrigin p r
      let pub := z.packetPub p r
      let w := z.unitTouch (coreUnit r) p o.kernel 128
      ((w.part p).pstate ≠ 0 → exec (.launchPacket p r) s = .next w) ∧
      ((w.part p).pstate = 0 → w.header p o.kernel = none → exec (.launchPacket p r) s = .next ((w.writeDone p o 3 0).packetDone p r pub)) ∧
      (∀ h, (w.part p).pstate = 0 → w.header p o.kernel = some h →
        (h.prolog ≠ 0 →
          let y := w.unitTouch (coreUnit r) p (o.kernel + 128 + h.prolog) h.prologsz
          let l := prologueLease y.nextLease p o h (y.codeWords p o.kernel h.prolog (h.prolog + h.prologsz)) pub y.datum
          ((y.part p).pstate ≠ 0 → exec (.launchPacket p r) s = .next y) ∧
          ((y.part p).pstate = 0 → ∃ v, exec (.launchPacket p r) s = .next v ∧ v.rest = y.rest ++ [l] ∧ v.cur = y.cur ∧
            v.nextLease = y.nextLease + 1 ∧ (v.ring p r).active = true ∧ v.mem = y.mem ∧ l.prologue = true ∧ l.st = .running ∧
            l.ct.pc = h.prolog)) ∧
        (h.prolog = 0 → w.queueRoom p = true → exec (.launchPacket p r) s = .next ((launchTask p o o.args false w).packetDone p r pub)) ∧
        (h.prolog = 0 → w.queueRoom p = false →
          exec (.launchPacket p r) s = .next (w.setRing p r { w.ring p r with active := true, launchWait := some o })))) ∧
    (¬ (ready ∧ type = 0 ∧ clean = true) → exec (.nopPacket p r) s = .next s) ∧
    (∀ z, ready → type = 0 → clean = true → s.readPacket p r 8 = (false, z) → exec (.nopPacket p r) s = .next z) ∧
    (∀ z, ready → type = 0 → clean = true → s.readPacket p r 8 = (true, z) →
      let w := z.setRing p r { z.ring p r with waiting := false }
      exec (.nopPacket p r) s = .next (w.packetDone p r (w.packetPub p r))) ∧
    (¬ ready ∨ (type ≤ 1 ∧ clean = true) → exec (.invalidPacket p r) s = .next s) ∧
    (∀ z, ready → ¬ (type ≤ 1 ∧ clean = true) → s.readPacket p r 40 = (false, z) → exec (.invalidPacket p r) s = .next z) ∧
    (∀ z, ready → ¬ (type ≤ 1 ∧ clean = true) → s.readPacket p r 40 = (true, z) → exec (.invalidPacket p r) s =
      .next (((z.setRing p r { z.ring p r with waiting := false }).writeDone p { ring := r, done := z.packet p r 0x20 8 } 3
        Cause.illegalOperand.code).packetDone p r (z.packetPub p r)))) ∧
  (∀ s : State, s.cur.st = .running → s.cur.prologue = true →
    (2 ^ 20 ≤ s.cur.words → exec (.prologueWatchdog s.cur.id) s = .next (s.prologueFail .watchdog)) ∧
    (s.cur.words < 2 ^ 20 → exec (.prologueWatchdog s.cur.id) s = .next s)) ∧
  (∀ (p r : Nat) (s : State), ((s.ring p r).again = [] → exec (.prologueRepeat p r) s = .next s) ∧
    (∀ o rest, (s.ring p r).again = o :: rest →
      let w := (s.setRing p r { s.ring p r with again := rest }).unitTouch (coreUnit r) p o.kernel 128
      ((s.ring p r).active = true ∨ (s.part p).pstate ≠ 0 → exec (.prologueRepeat p r) s = .next s) ∧
      ((s.ring p r).active = false → (s.part p).pstate = 0 → (w.part p).pstate ≠ 0 → exec (.prologueRepeat p r) s = .next w) ∧
      ((s.ring p r).active = false → (s.part p).pstate = 0 → (w.part p).pstate = 0 →
        (w.header p o.kernel = none → exec (.prologueRepeat p r) s = .next (w.writeDone p o 3 0)) ∧
        ∀ h, w.header p o.kernel = some h → exec (.prologueRepeat p r) s = .next (startPrologue p o h false w)))) ∧
  (∀ (p r : Nat) (x : BitVec 64) (s : State), s.vfOff p = false →
    let h := s.ring p r
    let n := x.toNat % 32
    exec (.hrdb p r) s = .next (s.setRing p r { h with waiting := false }) ∧
    (h.en = true → exec (.hrctlEnable p r x) s = .next s ∧
      (h.arming = true → exec (.hrctlDisable p r x) s =
        .next (s.setRing p r { h with ctl := h.ctl &&& 0xFFFFFFFF7FFFFFFF, arming := false })) ∧
      (h.arming = false → h.active = true → exec (.hrctlDisable p r x) s = .next (s.setRing p r { h with stopping := true })) ∧
      (h.arming = false → h.active = false → exec (.hrctlDisable p r x) s = .next ((s.setRing p r { h with stopping := true }).ringRest p r))) ∧
    (h.en = false →
      exec (.hrctlDisable p r x) s = .next (s.setRing p r { h with ctl := x &&& 0x00FF001F }) ∧
      (n < 4 ∨ 16 < n → exec (.hrctlEnable p r x) s = .next (s.setRing p r { h with ctl := x &&& 0x00FF001F })) ∧
      (4 ≤ n → n ≤ 16 →
        let a := nbits h.idxBlk.toNat 56 7 * 128 + 0x40
        let on : HostRing :=
          { h with ctl := (x &&& 0x00FF001F) ||| 0x80000000, waiting := false, unpub := 0, stopping := false, arming := true }
        (∀ z, (s.setRing p r on).busReady p (eBit h.idxBlk 63) a 8 = (false, z) → exec (.hrctlEnable p r x) s = .next z) ∧
        (∀ z, (s.setRing p r on).busReady p (eBit h.idxBlk 63) a 8 = (true, z) → exec (.hrctlEnable p r x) s =
          .next (z.setRing p r { on with expect := leNat (z.busRead p (eBit h.idxBlk 63) a 8), arming := false }))))) ∧
  (∀ (p q : Nat) (x : BitVec 64) (s : State), s.vfOff p = false →
    let e := s.eq p q
    let n := x.toNat % 32
    let ends (c : W64) : Out := .next (s.setEq p q { e with ctl := c })
    (e.en = true → exec (.eqctlEnable p q x) s = ends ((e.ctl &&& 0x1F) ||| (x &&& 0x40000000) ||| 0x80000000)) ∧
    (e.en = false → 6 ≤ n ∧ n ≤ 20 → exec (.eqctlEnable p q x) s = ends ((x &&& 0x1F) ||| (x &&& 0x40000000) ||| 0x80000000)) ∧
    (e.en = false → ¬ (6 ≤ n ∧ n ≤ 20) → exec (.eqctlEnable p q x) s = ends ((x &&& 0x1F) ||| (x &&& 0x40000000)))) ∧
  (∀ s : State, s.candidate = none → exec .leaseGrant s = .next s) ∧
  (∀ (s : State) (x : Launch) (h : Header) (sh die row col g : Nat), s.candidate = some (x, (sh, die, row, col)) → x.image = none →
    s.header x.part x.kernel = some h → (s.part x.part).freeGroup = some g → (∀ l ∈ s.cur :: s.rest, l.id ≠ s.nextLease) →
    ∃ v l, exec .leaseGrant s = .next v ∧ v.lease? s.nextLease = some l ∧ (s.badGran = [] → l.st = .running) ∧ l.part = x.part ∧ l.aid = 4 * g ∧
      l.die = die ∧ l.row = row ∧ l.col = col ∧ l.shape = sh ∧ l.ct.pc = h.entry ∧ l.vc = 0 ∧ l.ct.trapCtl = 1 ∧
      l.ct.reg 1 = BitVec.ofNat 64 x.args ∧ (∀ k, k ≠ 1 → l.ct.reg k = 0) ∧ v.nextLease = s.nextLease + 1) ∧
  (∀ (d k : Nat) (s : State), exec (.plotAbsentMark d k) s = .next (markAbsent d k s) ∧
    (markAbsent d k s).cur = s.cur ∧ (markAbsent d k s).mem = s.mem) ∧
  (∀ (p r : Nat) (x : BitVec 64) (s : State), s.vfOff p = true →
    (∀ i ∈ [Instr.fqres p x, .phalt p, .hrdb p r, .hrctlEnable p r x, .hrctlDisable p r x, .eqctlEnable p r x, .tlbinvPage p x, .tlbinvAll p,
      .preemptWrite p x, .restoreWrite p x, .rcbkill p x, .bcdb p r, .bcctlEnable p r, .bcctlDisable p r, .dbgcmdStop p, .dbgcmdResume p,
      .dbgcmdBitmapSync p, .dbgreplay p x], exec i s = .next s) ∧
    ∀ i ∈ [Instr.tlbinvstatRead p, .rcbkstatRead p, .dbgstatRead p],
      exec i s = .next { s with out := s.out ++ [.barRead p 0xFFFFFFFFFFFFFFFF] })

/-- TLBINV of a page drops every entry of the partition that holds it, TLBINV of all every entry of the partition, and no other;
BUSY is set until the requests they translated have been performed; a write while BUSY changes only ERR. BUSY clears when no
such request is left; a read of the status answers ERR and BUSY and clears ERR. An ATS answer for a page not asked for changes
nothing; present, the page is held, another going where the cache is full; else a PRI request goes out. A page response that
succeeds lets the access ask again; one that fails marks the page as failed. An ATS invalidation forgets the page. A migration
does one step at a time and none while BUSY or for a page without a leaf: it blocks writes and drops the page's entries, copies
onto settled granules, switches the entry with WB = 0 and drops the page's entries again, and in the end clears the page's
access counters and what is kept of the old place. (R203, R207, R389) -/
def Obligations.TranslationServices : Prop :=
  (∀ (p : Nat) (x : BitVec 64) (s : State), s.vfOff p = false →
    let err := s.setPart p { s.part p with tlbErr := true }
    let va := nbits x.toNat 56 16 * 65536
    ((s.part p).tlbBusy = true → exec (.tlbinvPage p x) s = .next err ∧ exec (.tlbinvAll p) s = .next err) ∧
    ((s.part p).tlbBusy = false →
      (∃ v, exec (.tlbinvPage p x) s = .next v ∧ v.tlb = s.tlb.filter (fun e => !(e.part = p && e.base ≤ va && va < e.base + e.size)) ∧
        (v.part p).tlbBusy = true ∧ (v.part p).tlbErr = (s.part p).tlbErr ∧ v.mem = s.mem ∧ v.cur = s.cur ∧ v.rest = s.rest ∧ v.reqs = s.reqs) ∧
      (∃ v, exec (.tlbinvAll p) s = .next v ∧ v.tlb = s.tlb.filter (fun e => e.part ≠ p) ∧
        (v.part p).tlbBusy = true ∧ (v.part p).tlbErr = (s.part p).tlbErr ∧ v.mem = s.mem ∧ v.cur = s.cur ∧ v.rest = s.rest ∧ v.reqs = s.reqs)) ∧
    (∃ v, exec (.tlbinvstatRead p) s = .next v ∧ (v.part p).tlbErr = false ∧ (v.part p).tlbBusy = (s.part p).tlbBusy ∧ v.mem = s.mem ∧
      v.cur = s.cur ∧ v.out = s.out ++ [.barRead p (BitVec.ofNat 64 ((if (s.part p).tlbErr = true then 2 else 0) +
        if (s.part p).tlbBusy = true then 1 else 0))])) ∧
  (∀ (p : Nat) (s : State),
    let done : Prop := (∀ r ∈ s.reqs, r.num ∈ (s.part p).tlbBarrier → r.back = true) ∧
      ∀ r ∈ s.ratoms, 2 ^ 64 + r.num ∈ (s.part p).tlbBarrier → r.haveResult = true
    ((s.part p).tlbBusy = true → done →
      exec (.tlbinvDone p) s = .next (s.setPart p { s.part p with tlbBusy := false, tlbBarrier := [] })) ∧
    ((s.part p).tlbBusy = false ∨ ¬ done → exec (.tlbinvDone p) s = .next s)) ∧
  (∀ (p k : Nat) (x : BitVec 64) (s : State),
    let q := s.part p
    let left := q.ats.filter fun y => y.1 ≠ k
    (∀ b, (k, 0) ∉ q.ats → exec (.atsResponse p k b x) s = .next s) ∧
    ((k, 0) ∈ q.ats → exec (.atsResponse p k true x) s =
      .next (s.atcRoom.onPart p fun y => { y with ats := y.ats.filter (fun z => z.1 ≠ k), atc := y.atc ++ [k] })) ∧
    ((k, 0) ∈ q.ats → exec (.atsResponse p k false x) s =
      .next { s.setPart p { q with ats := q.ats.map fun y => if y.1 = k then (k, 1) else y } with out := s.out ++ [.pri p k] }) ∧
    (∀ b, (k, 1) ∉ q.ats → exec (.priResponse p k b) s = .next s) ∧
    ((k, 1) ∈ q.ats → exec (.priResponse p k true) s = .next (s.setPart p { q with ats := left })) ∧
    ((k, 1) ∈ q.ats → exec (.priResponse p k false) s = .next (s.setPart p { q with ats := left, atsFail := q.atsFail ++ [k] })) ∧
    (∃ v, exec (.atsInvalidation p x) s = .next v ∧ (v.part p).atc = q.atc.filter (fun y => y ≠ x.toNat / 4096) ∧
      (∃ rs, (v.part p).atsBarrier = q.atsBarrier ++ [(x.toNat / 4096, rs)]) ∧ v.mem = s.mem ∧ v.cur = s.cur)) ∧
  (∀ (p : Nat) (x new : BitVec 64) (s : State), (s.leafAddr p x.toNat = none ∨ (s.part p).tlbBusy = true →
      exec (.pageMigration p x new) s = .next s) ∧
    (∀ a, s.leafAddr p x.toNat = some a → (s.part p).tlbBusy = false →
      let at_ := sget 0 (x.toNat / 65536) (s.part p).migr
      let size := match s.walk p x.toNat with
        | .ok (_, k) => 2 ^ k
        | .error _ => 65536
      let w := s.fwWrote
      (at_ = 0 → exec (.pageMigration p x new) s = .next (migrateBlock p x.toNat a w)) ∧
      (at_ = 1 → exec (.pageMigration p x new) s = .next ((copyPage p (w.entryAt a) new (size / 64)
        (w.dropRange (leafTr p new 0).key size)).onPart p fun q => { q with migr := sput (x.toNat / 65536) 2 q.migr })) ∧
      (at_ = 2 → ∃ v, exec (.pageMigration p x new) s = .next v ∧
        v.mem = writeLe (s.rekey 127 (hbmKey a)).mem (hbmKey a) (new &&& ~~~0x1000000000000000#64).toNat 8 ∧
        sget 0 (x.toNat / 65536) (v.part p).migr = 3 + 4 * (leafTr p (s.entryAt a) 0).key ∧
        ∀ e ∈ v.tlb, ¬ (e.part = p ∧ e.base ≤ nbits x.toNat 56 16 * 65536 ∧ nbits x.toNat 56 16 * 65536 < e.base + e.size)) ∧
      (3 ≤ at_ → (s.part p).faultOpen = [] → ∃ v, exec (.pageMigration p x new) s = .next v ∧ v.mem = s.mem ∧
        v.gmeta = s.gmeta.filter (fun m => !((at_ / 4) / 64 ≤ m.1 && m.1 < (at_ / 4 + size) / 64)) ∧
        v.counters = s.counters.filter (fun c => !(c.1 / 2 ^ 41 = p && x.toNat / size = c.1 % 2 ^ 41 * 65536 / size)) ∧
        v.counterB1 = s.counterB1.filter (fun c => !(c.1 / 2 ^ 41 = p && x.toNat / size = c.1 % 2 ^ 41 * 65536 / size)))))

/-- Every flit leaves its wire, and at a module that is down does nothing more. A flit whose CRC does not hold counts a failure
and is not read; one sent as DATA takes its credit and asks for a NAK still. One that holds is read by its KIND: DATA out of
sequence asks for a NAK, the one expected moves the expected number on by 1 and delivers its messages; NAK starts a replay from
the oldest unacknowledged flit, IDLE and RETRAIN only acknowledge, another KIND counts a failure. The timer of an end that has
run out starts a replay. A retrain that falls due ends, failure counts restart and both ends replay; a request to retrain an
idle module to x64 is told by RETRAIN flits and ends within 24,000 mc. A hot reset forgets the translation requests in flight;
reads of CT whose line is on the link complete with all ones, and so do the rows of a weight load on it. A detour is taken only
where it is a shortest path over edges that are up. A remote atomic's request to another package leaves at its bridge die;
within this one it is performed once at its slice: the window answers a copy with the value it holds, a refusal is sent back,
and a request without a free window comes again after 256 mc (messages and windows as log entries 19 and 91 have them). Results
are counted, and the last one forgets the request; the first marks its element done, with FETCH after its old value is written.
A refusal, or the last of eight sends that has had no result for 16,384 mc, stops the command at its element, once its stream
has not stopped; after fewer sends the request is sent again. (R397, R398, R399, R400, R403, R420, R414, R415, R416, R417, R219,
R228) -/
def Obligations.LinksAndRemoteAtomics : Prop :=
  (∀ (m : Nat) (toB : Bool) (h crc : BitVec 32) (p : List Byte) (s : State),
    let w := s.offWire m toB h p
    let x := w.moduleOf m
    let e := (x.receiver toB).readAck s.datum h
    let f := e.countCredit
    (x.up = false → exec (.dataFlitReceive m toB h p crc) s = .next w) ∧
    (x.up = true →
      (crc ≠ flitCrc h p → exec (.dataFlitReceive m toB h p crc) s =
        .next ((w.setModule m (x.setReceiver toB (x.receiver toB).countCredit.drop)).countFail m toB)) ∧
      (crc = flitCrc h p → hdrKind h = 1 → hdrSeq h ≠ e.expect →
        exec (.dataFlitReceive m toB h p crc) s = .next (w.setModule m (x.setReceiver toB f.drop))) ∧
      (crc = flitCrc h p → hdrKind h = 1 → hdrSeq h = e.expect → exec (.dataFlitReceive m toB h p crc) s =
        .next ((splitMsgs 4 p).foldl (fun z y => z.takeMsg (dieOfEnd m toB) y)
          (w.setModule m (x.setReceiver toB { f with expect := (e.expect + 1) % 4096, nakSent := false })))) ∧
      (crc = flitCrc h p → hdrKind h = 2 ∨ hdrKind h = 4 →
        exec (.dataFlitReceive m toB h p crc) s = .next (w.setModule m (x.setReceiver toB e))) ∧
      (crc = flitCrc h p → hdrKind h = 3 → exec (.dataFlitReceive m toB h p crc) s = .next (w.setModule m (x.setReceiver toB e.startReplay))) ∧
      (crc = flitCrc h p → hdrKind h = 0 ∨ 4 < hdrKind h → exec (.dataFlitReceive m toB h p crc) s = .next (w.countFail m toB)))) ∧
  (∀ (m : Nat) (toB : Bool) (h crc : BitVec 32) (s : State), ∀ i ∈ [Instr.nakReceive m toB (h, crc), .idleFlit m toB (h, crc)],
    let w := s.offWire m toB h []
    let x := w.moduleOf m
    let e := (x.receiver toB).readAck s.datum h
    (x.up = false → exec i s = .next w) ∧
    (x.up = true →
      (crc ≠ flitCrc h [] → exec i s = .next (w.countFail m toB)) ∧
      (crc = flitCrc h [] → hdrKind h = 3 → exec i s = .next (w.setModule m (x.setReceiver toB e.startReplay))) ∧
      (crc = flitCrc h [] → hdrKind h = 2 ∨ hdrKind h = 4 → exec i s = .next (w.setModule m (x.setReceiver toB e))))) ∧
  (∀ e : LinkEnd, (e.replay = [] → e.startReplay = { e with sendFrom := none }) ∧
    (e.replay ≠ [] → e.startReplay = { e with sendFrom := some 0, fresh := true })) ∧
  (∀ (m : Nat) (atB : Bool) (s : State),
    let x := s.moduleOf m
    let e := x.sender (!atB)
    let due : Prop := x.up = true ∧ x.retraining = none ∧ e.replay ≠ [] ∧ e.fresh = false ∧ e.timer + 4096 ≤ s.datum
    (due → exec (.replayTimerExpiry m atB) s = .next (s.setModule m (x.setSender (!atB) { e with sendFrom := some 0, fresh := true }))) ∧
    (¬ due → exec (.replayTimerExpiry m atB) s = .next s)) ∧
  (∀ (m : Nat) (s : State),
    let x := s.moduleOf m
    (x.retraining = none → exec (.retrainComplete m) s = .next s) ∧
    (∀ t, x.retraining = some t → (s.datum < t → exec (.retrainComplete m) s = .next s) ∧
      (t ≤ s.datum → exec (.retrainComplete m) s = .next (s.setModule m
        { x with retraining := none, a := { x.a.startReplay with fails := [] }, b := { x.b.startReplay with fails := [] } }))) ∧
    (let idle (e : LinkEnd) : Prop := e.queue = [] ∧ e.replay = [] ∧ e.wire = []
     let tell (e : LinkEnd) : LinkEnd := e.put (s.datum + if x.wide = true then 24 else 28) (e.hdr 0 4) []
     (x.up = false ∨ x.retraining.isSome = true ∨ ¬ idle x.a ∨ ¬ idle x.b → exec (.healthPolicyRetrain m) s = .next s) ∧
     (x.up = true → x.retraining = none → idle x.a → idle x.b → ∃ t, s.datum < t ∧ t ≤ s.datum + 24000 ∧ exec (.healthPolicyRetrain m) s =
       .next (s.setModule m
         { x with a := tell x.a, b := tell x.b, wide := true, retraining := some t, retrains := x.retrains + 1 })))) ∧
  (∀ s : State, s.cur.st ≠ .free →
    ∃ v, exec .linkHotReset s = .next v ∧ v.mem = s.mem ∧ (∀ p, v.part p = { s.part p with ats := [] }) ∧
      (∀ x, s.cur.load = some x → ∃ y, v.cur.load = some y ∧ (∀ j ∈ x.lost, j ∈ y.lost) ∧
        ∀ o ∈ x.out, o.1 ∈ x.onLink → s.datum < o.2 → o.1 ∈ y.lost) ∧
      let lost (r : Req) : Prop := r.back = true ∧ r.onLink = true ∧ s.datum < r.due ∧ r.dreg ≠ 0
      ((∀ r ∈ s.reqs, ¬ lost r) → v.cur.ct = s.cur.ct) ∧
      (∀ r, s.reqs = [r] → lost r → r.lease = s.cur.id → v.cur.ct = s.cur.ct.setReg r.dreg (extendTo r.size r.sx (256 ^ r.size - 1)))) ∧
  (∀ (a b : Nat) (path : List Nat) (s : State),
    let legal : Prop := pathUp s (dieRoute a b) = false ∧ path.head? = some a ∧ path.getLast? = some b ∧ pathUp s path = true ∧
      s.upHops a b = some (path.length - 1)
    (¬ legal → exec (.detourFixed a b path) s = .next s) ∧
    (legal → exec (.detourFixed a b path) s = .next
      ({ s with detours := (s.detours.filter fun d => !(d.1 = a && d.2.1 = b)) ++ [(a, b, path)] } : State).requeue)) ∧
  (∀ (k : Nat) (s : State),
    let found := s.ratoms.find? fun r => r.num % 2 ^ 32 = k % 2 ^ 32
    let foreign := s.foreign.find? fun r => r.num % 2 ^ 32 = k % 2 ^ 32
    (found = none → exec (.ratomResendTimer k) s = .next s ∧
      (foreign = none → exec (.ratomRequestArrival k) s = .next s ∧ exec (.ratomResultArrival k) s = .next s) ∧
      (∀ r, foreign = some r → exec (.ratomRequestArrival k) s = .next (r.foreignAtHome s) ∧
        exec (.ratomResultArrival k) s = .next (r.answers s))) ∧
    (∀ r, found = some r →
      let num := r.num % 2 ^ 32
      let count (z : State) : State := if r.sends ≤ r.answered + 1 then z.forgetRatom r z.cur.die
        else z.onRatom r.num fun x => { x with results := r.results.drop 1, answered := x.answered + 1, haveResult := true }
      (r.pkg ≠ 0 → exec (.ratomRequestArrival k) s = .next
        { s with out := s.out ++ [.fabric (r.pkg - 1) r.farPart r.part r.aid r.farKind r.req r.farAddr r.data r.cmp (leBytes r.data r.size)] }) ∧
      (r.pkg = 0 → r.guarded = false → (r.toHome = 0 → exec (.ratomRequestArrival k) s = .next s) ∧
        (r.toHome ≠ 0 → exec (.ratomRequestArrival k) s = .next ((r.perform s).2.onRatom r.num fun x =>
          { x with toHome := 0, results := (r.perform s).1.toList, refused := (r.perform s).1.isNone, resultAt := x.lastSend + 48 }))) ∧
      (r.pkg = 0 → r.guarded = true →
        let w := windowed r.home r.part 0 r.aid r.req r.perform s
        let back (m : List Byte) : Out := .next (w.2.takeMsg (r.home / 32) m)
        (w.1 = .full → exec (.ratomRequestArrival k) s =
          .next (w.2.onRatom r.num fun x => { x with retryAt := x.retryAt ++ [w.2.datum + 256] })) ∧
        (w.1 = .refused → exec (.ratomRequestArrival k) s = back (refusalMsg (r.home / 32) (w.2.sourceDie r) (r.home % 32) num)) ∧
        (∀ old, w.1 = .result old → exec (.ratomRequestArrival k) s = back (resultMsg (r.home / 32) (w.2.sourceDie r) (r.home % 32) num old))) ∧
      (s.cur.id = r.lease → s.cur.st ≠ .free →
        let due : Prop := r.guarded = true ∧ r.haveResult = false ∧ r.refused = false ∧ r.results = [] ∧ r.lastSend + 16384 ≤ s.datum
        let stops (i : Instr) : Prop :=
          (s.cur.cmd? r.cmd = none → exec i s = .next (s.forgetRatom r s.cur.die)) ∧
          (∀ c, s.cur.cmd? r.cmd = some c →
            let x := s.cur.stream c.stream
            let z := (s.forgetRatom r s.cur.die).onCmd c.seq fun c => { c with offset := Nat.min c.offset r.elem }
            (x.stop.isSome = true ∨ x.retry.isSome = true → exec i s = .next s) ∧
            (x.stop = none → x.retry = none →
              (∀ j y, r.refusal = some (j, y) → exec i s = .next (z.lateStop c.seq j y)) ∧
              (r.refusal = none → exec i s = .next (z.lateStop c.seq .remoteUnreachable
                ({ c with offset := r.elem }.lateInfo (c.target r.elem))))))
        (r.results = [] → r.refused = false → exec (.ratomResultArrival k) s = .next s) ∧
        (r.results = [] → r.refused = true → r.haveResult = true → exec (.ratomResultArrival k) s = .next (s.forgetRatom r s.cur.die)) ∧
        (r.results = [] → r.refused = true → r.haveResult = false → stops (.ratomResultArrival k)) ∧
        (r.results ≠ [] → s.cur.cmd? r.cmd = none → exec (.ratomResultArrival k) s = .next (count s)) ∧
        (∀ c, r.results ≠ [] → s.cur.cmd? r.cmd = some c →
          let took (v : State) : Prop :=
            let z := count (v.onCmd c.seq fun c => { c with idxs := c.idxs ++ [(r.elem : Int)] })
            (c.total ≤ c.idxs.length + 1 → exec (.ratomResultArrival k) s = .next (z.finishCmd c.seq none)) ∧
            (c.idxs.length + 1 < c.total → exec (.ratomResultArrival k) s = .next z)
          (r.haveResult = true ∨ c.idxs.contains (r.elem : Int) = true → exec (.ratomResultArrival k) s = .next (count s)) ∧
          (r.haveResult = false → c.idxs.contains (r.elem : Int) = false → (s.cur.stream c.stream).stop = none →
            (c.imm / 4 % 2 = 0 → took (s.unretry c)) ∧
            (∀ v, c.imm / 4 % 2 = 1 → NoLog s →
              let a := (elemAt c.dst r.elem r.size).toNat
              c.scratchCheck .write (granulesOf a r.size) (s.unretry c) = .ok v → took (v.winWrite a (leBytes (r.results.headD 0) r.size))))) ∧
        (¬ due → exec (.ratomResendTimer k) s = .next s) ∧
        (due → r.sends < 8 → exec (.ratomResendTimer k) s = .next
          ((s.onRatom r.num fun x => { x with sends := x.sends + 1, lastSend := s.datum }).launchReq s.cur.die r)) ∧
        (due → 8 ≤ r.sends → stops (.ratomResendTimer k)))) ∧
    exec (.windowRetry k) s = .next (requestArrives k ((s.onRatom k fun r => { r with retryAt := r.retryAt.drop 1 }).onForeign k
      fun r => { r with retryAt := r.retryAt.drop 1 })) ∧
    exec (.windowClose k) s = .next { s with windows := s.windows.eraseIdx k }) ∧
  (∀ (slice part pkg aid req : Nat) (f : State → Option Nat × State) (s : State) (w : Window),
    s.windows.find? (fun w => w.isOf slice part pkg aid) = some w →
    let held := w.results.find? (fun e => e.1 = req % 64 && e.2.1 = req)
    (∀ e, held = some e → windowed slice part pkg aid req f s = (.result e.2.2, s)) ∧
    (held = none → (f s).1 = none → windowed slice part pkg aid req f s = (.refused, (f s).2)) ∧
    (∀ old, held = none → (f s).1 = some old → (windowed slice part pkg aid req f s).1 = .result old ∧
      (windowed slice part pkg aid req f s).2.mem = (f s).2.mem)) ∧
  (∀ (slice part pkg aid req : Nat) (f : State → Option Nat × State) (s : State), (∀ w ∈ s.windows, w.isOf slice part pkg aid = false) →
    256 ≤ (s.windows.filter fun w => w.slice = slice).length → windowed slice part pkg aid req f s = (.full, s))

/-- A compaction unit takes the first item, seal or take of its ingress, which leaves it; without one nothing happens. The unit
then reads the descriptor, where it is 64-byte aligned in HBM; of one that is not, or is malformed already, or whose partition
has halted, by an error in it or before, nothing more is done; an item of the wrong MODE sets FLAGS bit 5, and one for a
quiescent set bit 2. A set that is quiescent, or not sealed by every producer, stays; a MODE 0 set whose lists are all taken
becomes quiescent; the topology table of a MODE 1 set grows by four entries at a time, the first four in the mc of quiescence
(log entry 84). A batch step without EN, in error, or idle with no good STEPDONE, does nothing; one that waits to publish
publishes; after STEPDONE a step advances the entries of the last record by ascending slot and grows the slots, and one that
starts at rule 3 grows none, a decoding slot without its page counting as stalled (log entry 20); both then take offers and
publish the next record, or go idle. A step enters no more than MAXTOK tokens and decodes no stalled slot. STEPDONE with another
STATUS sets FLAGS bit 1 and STATE 2. A doorbell starts a step of an idle batcher in STATE 0. EN set twice changes nothing; set,
it checks the control block and starts a step, after a packet of before that still has its slot, or sets FLAGS bit 0; cleared,
it stops at once or behind its publication. (R208, R271, R272, R274, R275, R276, R331, R332, R334, R335, R336, R413) -/
def Obligations.ListsAndBatching : Prop :=
  (∀ (d : Nat) (s : State) (rank : Nat) (i : Instr), (i, rank) ∈ [(Instr.worklistItem d, 0), (.worklistSealApply d, 1), (.worklistTakeApply d, 2)] →
    (∀ m ∈ sget [] d s.wl, m.rank ≠ rank) → exec i s = .next s) ∧
  (∀ (d p desc aid e pay sq : Nat) (top : Bool) (pre post : List WlMsg) (s : State), (∀ m ∈ pre, m.rank ≠ 0) →
    sget [] d s.wl = pre ++ .item p desc aid e pay sq top :: post →
    exec (.worklistItem d) s = .next (wlItem p desc aid e pay sq top { s with wl := sset [] d (pre ++ post) s.wl })) ∧
  (∀ (d p desc aid : Nat) (pre post : List WlMsg) (s : State), (∀ m ∈ pre, m.rank ≠ 1) →
    sget [] d s.wl = pre ++ .seal p desc aid :: post →
    exec (.worklistSealApply d) s = .next (wlSeal p desc aid { s with wl := sset [] d (pre ++ post) s.wl })) ∧
  (∀ (d p desc l c list max : Nat) (pre post : List WlMsg) (s : State), (∀ m ∈ pre, m.rank ≠ 2) →
    sget [] d s.wl = pre ++ .take p desc l c list max :: post →
    exec (.worklistTakeApply d) s = .next (wlTake p desc l c list max { s with wl := sset [] d (pre ++ post) s.wl })) ∧
  (∀ (p desc aid e pay sq l c list max : Nat) (top : Bool) (s : State),
    let there : Prop := desc % 64 = 0 ∧ s.inHbm p desc 64 = true
    let z := s.dscTouch p desc
    let ended : Prop := (z.part p).pstate ≠ 0 ∨ z.dsc p desc 0x0C 4 % 2 = 1
    (¬ there → wlItem p desc aid e pay sq top s = s ∧ wlSeal p desc aid s = s ∧ (wlTake p desc l c list max s).mem = s.mem) ∧
    (there → ended → wlItem p desc aid e pay sq top s = z ∧ wlSeal p desc aid s = z ∧ (wlTake p desc l c list max s).mem = z.mem) ∧
    (there → ¬ ended → wlBad z p desc = false →
      (¬ (z.dsc p desc 0 1 = 1 ↔ top = true) → wlItem p desc aid e pay sq top s = z.wlFlag p desc 5) ∧
      ((z.dsc p desc 0 1 = 1 ↔ top = true) → z.dsc p desc 1 1 = 1 → wlItem p desc aid e pay sq top s = z.wlFlag p desc 2))) ∧
  (∀ (p : Nat) (x : BitVec 64) (s : State),
    let desc := x.toNat
    let there : Prop := desc % 64 = 0 ∧ s.inHbm p desc 64 = true
    let z := s.dscTouch p desc
    let ended : Prop := (z.part p).pstate ≠ 0 ∨ z.dsc p desc 0x0C 4 % 2 = 1
    let c := z.dsc p desc 0x18 8
    let whole := (List.range (z.dsc p desc 2 2)).all fun e => z.unitLe p (c + 8 * e) 4 = z.unitLe p (c + 8 * e + 4) 4
    let table := (List.range (z.dsc p desc 2 2)).flatMap fun e => (topoOf z p desc e).map fun y => (e, y.1, y.2)
    let build := z.wlBuilds.find? fun b => b.part = p && b.desc = desc
    (¬ there → exec (.worklistQuiescence p x) s = .next s) ∧ (there → ended → exec (.worklistQuiescence p x) s = .next z) ∧
    (there → ¬ ended → wlBad z p desc = false →
      (∀ b, build = some b → exec (.worklistQuiescence p x) s = .next (topoStep b z)) ∧
      (build = none → z.dsc p desc 1 1 = 1 ∨ z.dsc p desc 0x38 2 ≠ z.dsc p desc 4 2 → exec (.worklistQuiescence p x) s = .next z) ∧
      (build = none → z.dsc p desc 1 1 ≠ 1 → z.dsc p desc 0x38 2 = z.dsc p desc 4 2 →
        (z.dsc p desc 0 1 = 0 → whole = true → exec (.worklistQuiescence p x) s = .next (z.dscSet p desc 1 1 1)) ∧
        (z.dsc p desc 0 1 = 0 → whole = false → exec (.worklistQuiescence p x) s = .next z) ∧
        (z.dsc p desc 0 1 = 1 → exec (.worklistQuiescence p x) s = .next (topoStep { part := p, desc := desc, left := table } z))))) ∧
  (∀ (b : TopoBuild) (s : State), s.wlBuilds.find? (fun x => x.part = b.part && x.desc = b.desc) = some b →
    (topoStep b s).wlBuilds.length ≤ s.wlBuilds.length ∧
    (4 < b.left.length → ∃ y ∈ (topoStep b s).wlBuilds, y.part = b.part ∧ y.desc = b.desc ∧ y.left = b.left.drop 4)) ∧
  (∀ (p b : Nat) (s : State),
    let q := s.batcher p b
    let x : Bat := ⟨p, b, q.addr.toNat⟩
    (2 ≤ q.stage → exec (.batchStep p b) s = .next (batchPublish x s)) ∧
    (q.stage < 2 → q.en = false ∨ q.state = 2 ∨ (q.stage = 0 ∧ q.done ≠ 1) → exec (.batchStep p b) s = .next s) ∧
    (q.stage = 1 ∨ (q.stage = 0 ∧ q.done = 1) → q.en = true → q.state ≠ 2 →
      let z := s.unitTouch (batchUnit b) p x.a 256
      let z := z.unitTouch (batchUnit b) p (x.f z 8 8) (64 * x.f z 0 2)
      let s1 := (z.setBatcher p b { q with stage := 0, done := 0 }).batchState p b 1
      let lacks (i : Nat) : Bool := x.sf s1 i 0 1 = 2 && x.sf s1 i 0x20 4 * x.f s1 0x4A 2 < x.sf s1 i 0x10 4 + 1
      let g : List Nat × State := if q.stage = 1 then ((List.range (x.f s1 0 2)).filter lacks, s1)
        else x.grow ((x.lastEntries s1).foldl (fun z e => x.advance z e) s1)
      let s3 := x.takeOffers (x.f g.2 0x38 4) 65537 g.2
      let es := x.entries g.1 s3
      let s4 := if x.f s3 0x20 8 = 0 then s3
        else es.foldl (fun z e => if e.1 < z.unitLe p (x.f s3 0x20 8) 2 then affPrefetch p (x.f s3 0x20 8) e.1 z else z) s3
      ((z.part p).pstate ≠ 0 → exec (.batchStep p b) s = .next z) ∧
      ((z.part p).pstate = 0 → es = [] →
        exec (.batchStep p b) s = .next ((s4.batchState p b 0).onBatcher p b fun q => { q with idle := true })) ∧
      ((z.part p).pstate = 0 → es ≠ [] → exec (.batchStep p b) s = .next (batchPublish x (x.shape es s4)))) ∧
    (q.en = true → q.state ≠ 2 → q.done ≠ 0 → q.done ≠ 1 →
      exec (.batchStepFail p b) s = .next ((s.setBatcher p b { q with done := 0 }).batchError p b 2)) ∧
    (q.en = false ∨ q.state = 2 ∨ q.done = 0 ∨ q.done = 1 → exec (.batchStepFail p b) s = .next s)) ∧
  (∀ (x : Bat) (stalled : List Nat) (s : State),
    ((x.entries stalled s).map fun e => e.2.2.2.1).sum ≤ x.f s 0x40 4 ∧
    ∀ e ∈ x.entries stalled s, (e.2.1 = 1 ∨ e.2.1 = 2) ∧ 1 ≤ e.2.2.2.1 ∧ e.1 < x.f s 0 2 ∧ (e.2.1 = 2 → e.1 ∉ stalled)) ∧
  (∀ (p b : Nat) (s : State), s.vfOff p = false →
    let q := s.batcher p b
    let w := s.setBatcher p b { q with en := true, done := 0, stage := 0, idle := true, step := s.unitLe p (q.addr.toNat + 4) 4 }
    let idle : Prop := q.en = true ∧ q.idle = true ∧ q.state = 0
    (idle → exec (.bcdb p b) s = .next (s.setBatcher p b { q with stage := 1 })) ∧ (¬ idle → exec (.bcdb p b) s = .next s) ∧
    (q.en = true → exec (.bcctlEnable p b) s = .next s) ∧
    (q.en = false → batchBad w p q.addr.toNat = true → exec (.bcctlEnable p b) s = .next (w.batchError p b 1)) ∧
    (q.en = false → batchBad w p q.addr.toNat = false →
      exec (.bcctlEnable p b) s = .next ((w.batchState p b 1).onBatcher p b fun y => { y with stage := if q.claim = none then 1 else 3 })) ∧
    (q.en = false → exec (.bcctlDisable p b) s = .next s) ∧
    (q.en = true → 2 ≤ q.stage → exec (.bcctlDisable p b) s = .next (s.setBatcher p b { q with en := false, stage := 2 })) ∧
    (q.en = true → q.stage < 2 →
      exec (.bcctlDisable p b) s = .next ((s.setBatcher p b { q with en := false, stage := 0 }).batchState p b 3)))

/-- A command of DBGCMD without a target or while BUSY sets ERR; a resume also where nothing is stopped or the dump has been
changed beyond what it may be. STOP asks for a stop of a target that runs; the bitmap command drops the group's instruction-
cache lines. A read of DBGSTAT answers STOPPED, BUSY, ERR and the reasons and clears ERR. At an edge with nothing asked nothing
happens, a request for a group that is gone, halted, retired or stopped before ends, and a placed group freezes: its CT and its
counter stay as they are. A frozen group whose moving commands have not ended their segments waits, and one without commands has
STOPPED and its reasons at once. A resume of a group of one parcel lets it run on with the context, the pending results and the
window that the dump now holds, and with its sums as they were where the array plane stands unchanged (where the sections and
the plane lie, and what they hold, is the model's choice: log entry 24). A counter that has reached DBGAT asks for a stop once.
A sample of a target that runs is one TYPE 5 record of its CT. A replay of an unknown dump sets ERR; of a known one, its
parcels, with what the dump now holds, are saved leases again, queued as an image. A replay whose log has no further input asks
for a stop. (R354, R355, R356, R357, R359, R360, R362, R363, R364) -/
def Obligations.DebugStops : Prop :=
  (∀ (p : Nat) (s : State), s.vfOff p = false →
    let err := s.onDbg p fun d => { d with err := true }
    (s.targetOf p = none ∨ (s.dbg p).busy = true →
      exec (.dbgcmdStop p) s = .next err ∧ exec (.dbgcmdBitmapSync p) s = .next err ∧ exec (.dbgcmdResume p) s = .next err) ∧
    ((s.dbg p).stopped = false → exec (.dbgcmdResume p) s = .next err) ∧
    (∀ t, s.targetOf p = some t → (s.dbg p).busy = false →
      (t.frozen = true → exec (.dbgcmdStop p) s = .next s) ∧
      (t.frozen = false → exec (.dbgcmdStop p) s = .next (s.onDbg p fun d => { d with pend := d.pend ||| 1, who := t.id })) ∧
      exec (.dbgcmdBitmapSync p) s = .next ((s.groupOf t).foldl (fun z i => asLease i z State.dropLines) s) ∧
      (t.frozen = false ∨ s.dumpKept p (s.groupOf t) = false → exec (.dbgcmdResume p) s = .next err) ∧
      (t = s.cur → s.cur.st ≠ .free → (s.dbg p).stopped = true → s.groupOf s.cur = [s.cur.id] → s.cur.frozen = true →
        s.dumpKept p [s.cur.id] = true → 
          let x := s.fromDump (s.dbg p).base (s.withPlots, 0)
          ∃ v, exec (.dbgcmdResume p) s = .next v ∧ v.cur.frozen = false ∧ v.cur.ct = x.ct ∧ v.cur.pend = x.pend ∧
          v.cur.vc = s.cur.vc ∧ v.cur.st = s.cur.st ∧ (v.dbg p).stopped = false ∧ (v.dbg p).reason = 0 ∧
          (let o := (s.cur.dumpOffsets 0).2
           s.unitRead s.cur.part ((s.dbg p).base + o.1) (o.2 - o.1) = sget [] s.cur.id (s.dbg s.cur.part).planes → v.cur.rowW = s.cur.rowW) ∧
          v.mem = (putPlots false ((s.onCur fun _ => { x with frozen := false }).clearPlots x)).mem)) ∧
    (∃ v, exec (.dbgstatRead p) s = .next v ∧ (v.dbg p).err = false ∧ v.cur = s.cur ∧ v.mem = s.mem ∧
      v.out = s.out ++ [.barRead p (BitVec.ofNat 64 ((if (s.dbg p).stopped = true then 1 else 0) + (if (s.dbg p).busy = true then 2 else 0) +
        (if (s.dbg p).err = true then 4 else 0) + (s.dbg p).reason % 256 * 256))])) ∧
  (∀ (p : Nat) (s : State),
    let ended := s.onDbg p fun d => { d with pend := 0, edge := none }
    ((s.dbg p).pend = 0 → exec (.stopEdge p) s = .next s) ∧
    ((s.dbg p).pend ≠ 0 → s.lease? (s.dbg p).who = none → exec (.stopEdge p) s = .next ended) ∧
    (∀ t, (s.dbg p).pend ≠ 0 → s.lease? (s.dbg p).who = some t →
      (t.st = .halted ∨ t.st = .retired ∨ (t.frozen = true ∧ (s.dbg p).edge = none) → exec (.stopEdge p) s = .next ended) ∧
      (∀ m, t.frozen = true → t.st ≠ .halted → t.st ≠ .retired → (s.dbg p).edge = some m → nbits (s.dbg p).pend 6 4 = 0 →
        s.movesHeld (s.groupOf t) = false → exec (.stopEdge p) s = .next s) ∧
      (t.frozen = false → t.st ≠ .halted → t.st ≠ .retired →
        ((∃ i ∈ s.groupOf t, ∃ x, s.lease? i = some x ∧ x.st ≠ .running ∧ x.st ≠ .parked) → exec (.stopEdge p) s = .next s) ∧
        (t = s.cur → s.groupOf s.cur = [s.cur.id] → s.cur.st = .running ∨ s.cur.st = .parked →
          ∃ v, exec (.stopEdge p) s = .next v ∧ (s.badGran = [] → v.cur = { s.cur with frozen := true }) ∧ v.vfile = s.vfile ∧
            v.accs = s.accs ∧ (s.cur.cmds = [] → (v.dbg p).stopped = true ∧ (v.dbg p).reason = (s.dbg p).pend ∧ (v.dbg p).pend = 0))))) ∧
  (∀ (p : Nat) (s : State), (s.targetOf p = none → exec (.stopVcReached p) s = .next s ∧ exec (.sampleRecord p) s = .next s) ∧
    (∀ t, s.targetOf p = some t →
      let d := s.dbg p
      let due : Prop := d.armed = true ∧ d.ctl.getLsbD 2 = true ∧ t.frozen = false ∧ d.at_.toNat ≤ t.vc
      (due → exec (.stopVcReached p) s = .next (s.onDbg p fun d => { d with pend := d.pend ||| 8, who := t.id, armed := false })) ∧
      (¬ due → exec (.stopVcReached p) s = .next s) ∧
      (d.ctl.getLsbD 4 = false ∨ t.frozen = true ∨ (t.st ≠ .running ∧ t.st ≠ .parked) → exec (.sampleRecord p) s = .next s) ∧
      (t = s.cur → d.ctl.getLsbD 4 = true → t.frozen = false → t.st = .running ∨ t.st = .parked →
        exec (.sampleRecord p) s = .next (s.trace 5 .ct (s.cur.ct.pc / 8) s.cur.vc 0 s.cur.classWord)))) ∧
  (∀ (p : Nat) (x : BitVec 64) (s : State), s.vfOff p = false →
    let found := (s.dbg p).dumps.find? fun e => e.1 = x.toNat / 64 * 64
    let err := s.onDbg p fun d => { d with err := true }
    (found = none → exec (.dbgreplay p x) s = .next err) ∧
    (∀ a l0 f ls reqs, found = some (a, (l0, reqs)) → (dumpStarts l0 0).map (s.fromDump a) = f :: ls →
      let groups := (s.part p).replayGroups ((f :: ls).map fun l => l.aid / 4)
      (groups = none ∨ s.attached p f.rcb = none → exec (.dbgreplay p x) s = .next err) ∧
      (∀ gs, groups = some gs → (s.attached p f.rcb).isSome = true →
        let task := (s.part p).nextTask
        let y : Launch := { part := p, task := task, rcb := f.rcb, kernel := f.kernel, args := 0, image := some s.nextLease }
        ∃ v, exec (.dbgreplay p x) s = .next v ∧ v.cur = s.cur ∧ v.mem = s.mem ∧ v.nextLease = s.nextLease + (ls.length + 1) ∧
          v.rest = s.rest ++ (f :: ls).mapIdx (fun k l => replayLease s.nextLease task ((f :: ls).map (·.id)) gs
            (((f :: ls).map Lease.sections).foldl (· + ·) 1) k l) ∧
          v.queues = (s.enqueue ((s.part p).prioOf f.rcb) y).queues))) ∧
  (∀ (p : Nat) (s : State),
    let found := s.leases.find? fun l => l.part = p && l.replay.isSome && !l.frozen && (l.st = .running || l.st = .parked)
    (found = none → exec (.replayEnd p) s = .next s) ∧
    (∀ l, found = some l →
      let ended := (List.range 5).all fun k => ((s.focus l.id).replayNext k).isNone
      (ended = true → exec (.replayEnd p) s = .next (s.onDbg p fun d => { d with pend := d.pend ||| 32, who := l.id })) ∧
      (ended = false → exec (.replayEnd p) s = .next s)))

/-- A package reset leaves every lease, register and byte of the package at its reset value (which is the model's for a byte:
log entry 2) and host memory as it was; the package then boots, what verifies being open: a complex runs if its images verified,
and a package whose records did not verify exposes physical function 0 alone, A active (log entry 109). A partition reset ends
the partition's leases and requests, keeps what firmware wrote for it (log entry 58), and changes no other partition. A
heartbeat restarts the count; an active complex that has failed misses one in every ms; after three missed ones a standby that
runs takes over with every entry written applied (log entry 110); a signed update of a newer version takes over at once where
all is quiet, else it waits; entries of the state table apply once, in order. Throttling lowers the main clock by 100 MHz, to
600 at least; at 115 degrees every partition halts. An ageing indicator is kept, WARN below 180 days; at 30 days or fewer its
plot is marked absent. A scrub that finds nothing counts; an uncorrectable granule that it finds halts its owner, but a host
line that is not dirty is fetched again; errors that arise, corrected ones, errors of registers, of an instruction cache's line
and of L2, and a retired pseudo-channel are kept or repaired (their numbering is the model's: log entry 66). A health record
holds its die's indicators and counts of corrected errors first, and is refreshed every hour. (R208, R352, R401, R402, R403,
R404, R405, R187, R339) -/
def Obligations.FirmwareAndHealth : Prop :=
  (∀ s : State, ∃ v, exec .packageReset s = .next v ∧ v.cur = {} ∧ v.rest = [] ∧ v.vfile = [] ∧ v.accs = [] ∧ v.parts = [] ∧ v.reqs = [] ∧
    v.datum = 0 ∧ v.pfstat = (!Config.verified s.free 2) ∧ v.fw.failedA = (!Config.verified s.free 0) ∧
    v.fw.failedB = (!Config.verified s.free 1) ∧ (v.pfstat = true → v.fw.activeB = false) ∧ (∀ k < 1024 * 2 ^ 57, readByte v.mem k = 0) ∧
    ∀ k, 1024 * 2 ^ 57 ≤ k → k < 2048 * 2 ^ 57 → readByte v.mem k = readByte s.mem k) ∧
  (∀ (p : Nat) (s : State), ∃ v, exec (.partitionReset p) s = .next v ∧ v.part p = (s.part p).afterReset ∧ (∀ q, q ≠ p → v.part q = s.part q) ∧
    v.mem = s.mem ∧ (s.cur.part = p → s.cur.st ≠ .free → v.cur = {}) ∧ ∀ r ∈ v.reqs, r.part ≠ p) ∧
  (∀ s : State, exec .heartbeat s = .next { s with fw := { s.fw with missed := 0 } } ∧
    (s.fw.missed < 3 ∨ s.fw.standbyFailed = true → exec .standbyTakeover s = .next s) ∧
    (3 ≤ s.fw.missed → s.fw.standbyFailed = false → ∃ v, exec .standbyTakeover s = .next v ∧ v.fw.activeB = !s.fw.activeB ∧
      v.fw.missed = 0 ∧ v.fw.image = s.fw.standbyImage ∧ v.fw.standbyImage = s.fw.image ∧ v.fw.applied = s.fw.written ∧
      v.fw.written = s.fw.written ∧ v.mem = s.mem ∧ v.cur = s.cur) ∧
    (s.datum % (1000 * s.mhz) = 0 → s.fw.booted = false → s.fw.missed < 2 →
      (firmwareMc s).fw.missed = if s.fw.activeFailed = true then s.fw.missed + 1 else 0) ∧
    ∀ (a b : Bool) (x : BitVec 64),
      (a = false ∨ b = false → exec (.liveUpdate a b x) s = .next s) ∧
      (a = true → b = true → ∃ v, exec (.liveUpdate a b x) s = .next v ∧ v.mem = s.mem ∧ v.cur = s.cur ∧
        (s.quiescent = true → v.fw.image = x ∧ v.fw.standbyImage = s.fw.image) ∧
        (s.quiescent = false → v.fw.image = s.fw.image ∧ v.fw.standbyImage = x) ∧
        v.fw.booted = !s.quiescent ∧ v.fw.applied = s.fw.written)) ∧
  (∀ (n : Nat) (s : State),
    (n = s.fw.applied + 1 → n ≤ s.fw.written → exec (.stateTableApply n) s = .next { s with fw := { s.fw with applied := n } }) ∧
    (n ≠ s.fw.applied + 1 ∨ s.fw.written < n → exec (.stateTableApply n) s = .next s)) ∧
  (∀ (o : Bool) (tj : Nat) (s : State),
    (o = false → tj ≤ 100 → exec (.thermalThrottle o tj) s = .next s) ∧
    (o = true ∨ 100 < tj → ∃ v, exec (.thermalThrottle o tj) s = .next v ∧ v.mhz = Nat.max 600 (s.mhz - 100) ∧ v.cur = s.cur ∧ v.mem = s.mem) ∧
    (tj < 115 → exec (.thermalHalt tj) s = .next s) ∧
    (115 ≤ tj → ∃ v, exec (.thermalHalt tj) s = .next v ∧ v.mem = s.mem ∧ ∀ p < 64, (v.part p).pstate ≠ 0)) ∧
  (∀ (d k : Nat) (x : BitVec 64) (s : State),
    let w : State := { s with ageing := sset ageReset (d * 32 + k) (ageWord x) s.ageing }
    (30 < x.toNat / 2 ^ 48 → exec (.ageingUpdate d k x) s = .next w) ∧
    (∀ y, x.toNat / 2 ^ 48 ≤ 30 → w.logicalPlot d k = some y → exec (.ageingUpdate d k x) s = .next (markAbsent d y w)) ∧
    (ageWord x).getLsbD 0 = decide (x.toNat / 2 ^ 48 < 180)) ∧
  (∀ (k : Nat) (s : State), k < 2 ^ 80 →
    let w : State := { s with scrubs := s.scrubs + 1 }
    let x : State := { w with retiredPages := s.retiredPages ++ [k / 65536] }
    let clean : Prop := isHostKey k = true ∧ w.lineOf k ≠ 2
    exec (.scrubPass []) s = .next w ∧
    (clean → exec (.scrubPass [k]) s = .next w) ∧
    (¬ clean → x.ownerOf k = none → exec (.scrubPass [k]) s = .next x) ∧
    (∀ p, ¬ clean → x.ownerOf k = some p → ∃ y, y.cause = .uncorrectable ∧ y.paddr = k % 2 ^ 48 ∧
      exec (.scrubPass [k]) s = .next (x.haltLine p .uncorrectable y)) ∧
    exec (.scrubPass [2 ^ 80 + k]) s = .next { w with badGran := s.badGran ++ [k / 64] } ∧
    exec (.scrubPass [2 * 2 ^ 80 + k]) s = .next
      { w with corrected := sset 0 (w.correctedAt k) (sget 0 (w.correctedAt k) s.corrected + 1) s.corrected } ∧
    exec (.scrubPass [3 * 2 ^ 80 + k]) s = .next (registerError k w) ∧
    exec (.scrubPass [4 * 2 ^ 80 + k]) s = .next (w.mapLeases fun l =>
      if l.id = k / 2 ^ 40 then { l with icache := l.icache.filter fun n => n ≠ k % 2 ^ 40 } else l) ∧
    (w.lineOf k = 0 → exec (.scrubPass [5 * 2 ^ 80 + k]) s = .next w) ∧
    (w.lineOf k = 1 → exec (.scrubPass [5 * 2 ^ 80 + k]) s = .next (w.dropLine k)) ∧
    (1 < w.lineOf k → exec (.scrubPass [5 * 2 ^ 80 + k]) s = .next { w with badGran := s.badGran ++ [k / 64] }) ∧
    exec (.scrubPass [6 * 2 ^ 80 + k]) s = .next { w with retiredChans := s.retiredChans ++ [(k / 256 % 8, k % 256)] }) ∧
  (∀ (d : Nat) (s : State), ∃ v, exec (.healthRefresh d) s = .next v ∧ v.cur = s.cur ∧ v.mem = s.mem ∧
    (∀ e, e ≠ d → sget {} e v.health = sget {} e s.health) ∧
    (∀ k < 20, ∀ j < 8, (sget {} d v.health).byte d (8 * k + j) = (leBytes (sget ageReset (d * 32 + k) s.ageing).toNat 8).getD j 0) ∧
    ∀ k < 5, ∀ j < 8, (sget {} d v.health).byte d (160 + 8 * k + j) = (leBytes (sget 0 (8 * d + k) s.corrected) 8).getD j 0) ∧
  (∀ s : State, s.datum % (3600 * 1000000 * s.mhz) = 0 → ∀ d < 10, sget {} d (healthMc s).health = s.healthOf d)

/-- A register write that no block defines is dropped (how an input names a register is the model's: log entry 46). A host
access to a present granule it owns reads or writes it; one to a page of another key freezes the function and halts its
partition. A DOE object that holds an SPDM request is answered, its transcript growing by request and response, with
measurements where it asks for them, and signed by both keys where SPDM signs; IDE_KM programs the key of a stream; encodings
and digests are open (log entry 9). Requests of another package from a frozen source, without a peer entry, or to a halted
partition are refused, those without an entry freezing the source; one that is performed is answered; a message that closes a
window has no answer. Answers of other packages reach the requests they answer. Lost stations, ports and channels are gone
(station 16 for the host link: log entry 86). (R374, R388, R390, R391, R392, R394, R395, R396, R400, R415) -/
def Obligations.HostAndFabric : Prop :=
  (∀ (p off : Nat) (x : BitVec 64) (s : State), p < 64 → s.vfOff p = false →
    (off % 8 ≠ 0 ∨ 0x7000 ≤ off → exec (.registerWrite p off x) s = .next s) ∧
    exec (.registerWrite p 0x1000 x) s = .next (s.onPart p fun q => { q with pxbase := x &&& 0x0000FFFFFFFFFF1F }) ∧
    exec (.registerWrite p 0x6008 x) s = exec (.phalt p) s ∧ exec (.registerWrite p 0x3080 x) s = exec (.fqres p x) s ∧
    exec (.registerWrite (65 + p) 0x100 x) s = .next (s.fwWrote.onPart p fun q => { q with rootRcb := x }) ∧
    exec (.registerWrite 64 0x50 1) s = exec .packageReset s ∧
    exec (.registerWrite 64 0x58 (BitVec.ofNat 64 p)) s = exec (.partitionReset p) s) ∧
  (∀ (p : Nat) (x data cmp : BitVec 64) (s w : State) (t : Tr), s.vfOff p = false → x.toNat % 8 = 0 →
    (s.translate p 8 x.toNat .read false = (.ok t, w) → t.tier ≠ 3 → w.badAt t = false →
      let y := (w.countHome w.hostBridge p x.toNat t .read).readTr t 8 false
      exec (.hostBarAccess p x 0 8 data cmp) s = .next { y.2 with out := y.2.out ++ [.barRead p (BitVec.ofNat 64 (leNat y.1))] }) ∧
    (s.translate p 8 x.toNat .write false = (.ok t, w) → t.tier ≠ 3 → w.badAt t = false →
      let y := (w.countHome w.hostBridge p x.toNat t .write).readTr t 8 false
      exec (.hostBarAccess p x 1 8 data cmp) s = .next ((y.2.writeTr t (leBytes data.toNat 8) false).settle t.key)) ∧
    (∀ m k, s.translate p 8 x.toNat .write false = (.fault .isolation m k, w) →
      ∃ v, exec (.hostBarAccess p x 1 8 data cmp) s = .next v ∧ (v.part p).vfFrozen = true ∧ (v.part p).pstate ≠ 0 ∧ v.mem = w.mem)) ∧
  (∀ (r : List (BitVec 8)) (s : State),
    let body := Config.doeResponse s.free r
    let ends (x : DoeResponse) (z : State) : Out := .next { z with free := s.free + 1, out := s.out ++ [.doe x] }
    (Config.doeObject r = .other → exec (.doeRequest r) s = ends { body := body } s) ∧
    (∀ x key, Config.doeObject r = .ideKey x key →
      (x ≤ 8 → exec (.doeRequest r) s = ends { body := body } { s with ide := sset 0 x key s.ide }) ∧
      (8 < x → exec (.doeRequest r) s = ends { body := body } s)) ∧
    (∀ q i, Config.doeObject r = .spdm q i →
      let t := (if q = .getVersion then [] else s.transcript) ++ r ++ body
      let signed : Prop := q = .challenge ∨ q = .getMeasurements ∨ q = .keyExchange
      ∃ x, exec (.doeRequest r) s = ends x { s with transcript := t } ∧ x.body = body ∧
        (q = .getMeasurements → 1 ≤ i → i ≤ 6 → x.blocks = [s.measurement i]) ∧
        (q = .getMeasurements → i = 255 → x.blocks = [1, 2, 3, 4, 5, 6].map s.measurement) ∧ (q ≠ .getMeasurements → x.blocks = []) ∧
        (signed → x.sign = some (Config.rsaSign (Config.sha384 t), 0x7958, Config.slhSign (Config.sha384 t))) ∧
        (¬ signed → x.sign = none))) ∧
  (∀ (pkg rp p aid kind req page : Nat) (x data cmp : BitVec 64) (bs : List (BitVec 8)) (s : State),
    let frozen : Prop := (pkg, aid) ∈ s.srcFrozen
    let halted : Prop := (s.part p).pstate ≠ 0
    let base := kind % 32
    let no : Nat := if 2 ≤ base ∧ base ≤ 11 ∧ kind < 64 then 23 else if base = 13 ∨ base = 14 then 24 else 19
    let fabric : Instr := .fabricRequestReceive pkg rp p aid kind req x data cmp bs
    let does := farPerform pkg rp p aid kind req x.toNat data.toNat cmp.toNat bs s
    let ue (k : Nat) : Instr := .ueMessageReceive pkg rp p aid k req page bs
    (base = 22 ∨ base = 23 → exec fabric s = .next (ratomAnswer pkg p aid req base data.toNat cmp.toNat s)) ∧
    (base = 20 ∨ base = 21 ∨ base = 24 → exec fabric s = .next (pageAnswer p aid req base bs s)) ∧
    (base = 16 ∨ base = 17 ∨ base = 18 ∨ base = 19 → exec fabric s = .next (farAnswer req base data.toNat bs s)) ∧
    (base < 15 →
      let refused (z : State) : State := { z with out := z.out ++ [.fabric pkg rp p aid no req x.toNat Cause.remoteUnreachable.code 0 []] }
      (frozen → exec fabric s = .next (refused s)) ∧
      (¬ frozen → (s.part p).accepts pkg rp 0 = false → exec fabric s = .next (refused (s.freezeSource pkg aid))) ∧
      (¬ frozen → (s.part p).accepts pkg rp 0 = true → halted → exec fabric s = .next (refused s)) ∧
      (¬ frozen → (s.part p).accepts pkg rp 0 = true → ¬ halted →
        (does.1 = none → exec fabric s = .next does.2) ∧
        ∀ k v r, does.1 = some (k, v, r) →
          exec fabric s = .next { does.2 with out := does.2.out ++ [.fabric pkg rp p aid k req x.toNat v 0 r] })) ∧
    (base = 15 →
      (frozen → exec fabric s = .next s) ∧
      (¬ frozen → (s.part p).accepts pkg rp 0 = false → exec fabric s = .next (s.freezeSource pkg aid)) ∧
      (¬ frozen → (s.part p).accepts pkg rp 0 = true → halted → exec fabric s = .next s) ∧
      (¬ frozen → (s.part p).accepts pkg rp 0 = true → ¬ halted →
        let d := x.toNat / 32 % 8
        let b := s.entryBridge d
        exec fabric s = .next (s.sendMsg b (closeMsg b d (x.toNat % 32) rp aid (pkg + 1) 0)))) ∧
    exec (ue 2) s = .next (pageAnswer p aid req 20 bs s) ∧ exec (ue 3) s = .next (pageAnswer p aid req 21 [] s) ∧
    exec (ue 4) s = .next (pageAnswer p aid req 24 [] s) ∧
    (let reply (k : Nat) (r : List Byte) (z : State) : State :=
       { z with out := z.out ++ [.ue ((z.uePort p (z.poolPage p page)).getD 0) pkg rp p aid k req page r] }
     (∀ k < 2, (frozen → exec (ue k) s = .next (reply 4 [] s)) ∧
        (¬ frozen → (s.part p).accepts pkg rp 1 = false → exec (ue k) s = .next (reply 4 [] (s.freezeSource pkg aid))) ∧
        (¬ frozen → (s.part p).accepts pkg rp 1 = true → halted ∨ s.poolPages p ≤ page → exec (ue k) s = .next (reply 4 [] s))) ∧
      (¬ frozen → ¬ halted → page < s.poolPages p → (s.part p).accepts pkg rp 1 = true →
        exec (ue 0) s = .next (reply 3 [] (s.unitWrite p (s.poolPage p page) (bs.take 65536))) ∧
        exec (ue 1) s = .next (reply 2 (s.pageBytes p page) s)))) ∧
  (∀ (k : Nat) (s : State), k < 16 →
    (∃ v, exec (.ualinkStationLoss k false) s = .next v ∧ v.ualink.getLsbD k = false ∧ ∀ j, j ≠ k → v.ualink.getLsbD j = s.ualink.getLsbD j) ∧
    (∃ v, exec (.ualinkStationLoss k true) s = .next v ∧ v.ualink.getLsbD k = true ∧ ∀ j, j ≠ k → v.ualink.getLsbD j = s.ualink.getLsbD j) ∧
    (∃ v, exec (.ddrChannelRemoval k) s = .next v ∧ v.ddrUp.getLsbD k = false ∧ ∀ j, j ≠ k → v.ddrUp.getLsbD j = s.ddrUp.getLsbD j) ∧
    (∀ up, exec (.ualinkStationLoss 16 up) s = .next { s with hostLink := up }) ∧
    (k < 2 → ∀ up, ∃ v, exec (.uePortLoss k up) s = .next v ∧ v.uePorts.getLsbD k = up ∧ ∀ j, j ≠ k → v.uePorts.getLsbD j = s.uePorts.getLsbD j))

/-- A main clock tick moves the datum by 1 modulo 2^64, in every state. Every lease there is after it was there before, and its
counter is as before, or 1 more modulo 2^64, as it is exactly for a lease that runs or is parked, is no prologue, stands in no
stop and was not paused in the mc that ends; but one that a partition's halt stops, on an uncorrectable error that its trace
record meets, keeps its counter. In the mc that ends each such lease, paused or not, counts one mc, and in it each of its
streams stands in one class of R350; another lease counts nothing. (R339, R340, R350) -/
def Obligations.ClockTick : Prop :=
  (∀ s : State,
    let runs (l : Lease) : Prop := (l.st = .running ∨ l.st = .parked) ∧ l.prologue = false ∧ l.frozen = false
    let n (l : Lease) : Nat := (l.vc + 1) % 2 ^ 64
    exec .mainClockTick s = .next (tickDo s) ∧ (tickDo s).datum = (s.datum + 1) % 2 ^ 64 ∧
    (∀ x ∈ (tickDo s).cur :: (tickDo s).rest, x.st ≠ .free → ∃ l ∈ s.cur :: s.rest, l.id = x.id ∧
      ((runs l ∧ l.pause = false ∧ x.vc = n l) ∨ (¬ (runs l ∧ l.pause = false) ∧ x.vc = l.vc) ∨ (s.badGran ≠ [] ∧ x.vc = l.vc))) ∧
    (s.cur.active = true → (countMc s).cur.counted = (s.cur.counted + 1) % 2 ^ 48 ∧
      ∀ st : Stream, (s.classOf st).1 ≤ 4 ∧ sget 0 st.index (countMc s).cur.cls = (s.classOf st).1) ∧
    (s.cur.active = false → countMc s = s))

/-- When the oldest item of the mc under way is a stream of a lease that exists, the step puts that lease in focus. For CT that
may act with its pc inside the code, the line of the word in its instruction cache (a prologue's code stands beside its core),
no trap due and no break on the word: the word at the pc is decoded with the value checks for the lease's registers (in a
prologue by the prologue's subset), and when it decodes to i the step is exec of i, with IR the word, and with the word begun
unless a boundary's work comes first. For a ring stream that runs and holds a word without a break, likewise with the head word
and the stream in focus. An event of the mc, an input from outside when the mc has no item left, and the turn of the clock when
there is neither, run as their own instructions. After each, a partition whose input the log could not take is stopped as its
ask says, and nothing else is added (the order of items, inputs and the clock is the model's: log entry 1). (R98, R51, R52, R53,
R89, R209, R132) -/
def Obligations.StepRunsDecodedWord : Prop :=
  (∀ (s : State) (l : Nat) (r : List Turn) (i : Instr) (x : State), s.turn = .word l .ct :: r → (s.lease? l).isSome = true →
    let f := ({ s with turn := r } : State).focus l
    let w := f.cur.ctWordAt
    let u := f.onCt fun c => { c with ir := w, begun := true }
    let v := f.onCt fun c => { c with ir := w }
    f.ctMay = true → f.cur.ct.trapDue = none → f.cur.codeFrom ≤ f.cur.ct.pc →
    (f.cur.prologue = true → f.cur.ct.pc < f.cur.codeTo) →
    (f.cur.prologue = false → f.cur.ct.pc < f.cur.codesize ∧ f.cur.codeLine ∈ f.cur.icache) →
    (if f.cur.prologue then decodePrologue w else decodeChecked f.cur.vregs .ct w) = .ok i →
    (f.boundaryStop = false → u.ctBroken = false → exec i u = .next x → step s = .next (x.settleAsk (some u))) ∧
    (f.boundaryStop = true → v.ctBroken = false → exec i v = .next x → step s = .next (x.settleAsk (some v)))) ∧
  (∀ (s : State) (l : Nat) (st : Stream) (r : List Turn) (i : Instr) (x : State), s.turn = .word l st :: r → st ≠ .ct →
    (s.lease? l).isSome = true →
    let f := ({ s with turn := r } : State).focus l
    let u : State := { f with curStream := st }
    f.streamRuns st = true → (f.cur.stream st).ring.has = true → u.ringBroken st = false →
    decodeChecked f.cur.vregs st (f.curWord st) = .ok i →
    exec i u = .next x → step s = .next (x.settleAsk (some u))) ∧
  (∀ (s : State) (i : Instr) (r : List Turn) (x : State), s.turn = .event i :: r →
    exec i { s with turn := r } = .next x → step s = .next (x.settleAsk (some { s with turn := r }))) ∧
  (∀ (s : State) (i : Instr) (r : List Instr) (x : State), s.turn = [] → s.inbox = i :: r →
    exec i { s with inbox := r } = .next x → step s = .next (x.settleAsk none)) ∧
  (∀ (s x : State), s.turn = [] → s.inbox = [] → exec .mainClockTick s = .next x → step s = .next (x.settleAsk none)) ∧
  (∀ (s : State) (back : Option State), (∀ q ∈ s.parts, q.2.dbg.ask = 0) → s.settleAsk back = s)

/-- Eleven words, written from the encoding tables and the worked encodings of the spec, decode to the instructions they stand
for: LI, MUL, BRQ, AMO, ACQ, LOOP and SPAWN of CT, COPY of LD and SD, and REP, VCVT and VFMA of CP. A word with opcode 0x60 is
ILLEGAL_OPCODE in CT, GATH in SD and SCAT in LD are ILLEGAL_OPCODE, LGO outside a prologue is PRIVILEGED, and NOP with a nonzero
operand bit is RESERVED_FIELD. (R42, R44, R46, R47, R48, R49) -/
def Obligations.DecodedWords : Prop :=
  let t : Tok := ⟨0, 0⟩
  decode .ct 0x00002028000003E8 = .ok (.li t 5 1000) ∧
  decode .ct 0x000003314A000000 = .ok (.mul t 6 5 5) ∧
  decode .ct 0x00002BA03FFFFFFD = .ok (.brq t 2 1 (-3)) ∧
  decode .ct 0x00003020C5900008 = .ok (.amo t 4 3 2 25 0 8) ∧
  decode .ct 0x00003B0140200000 = .ok (.acq t 5 2 0) ∧
  decode .ct 0x00002C29BFF40006 = .ok (.loop t 5 6 (-3) 6) ∧
  decode .ct 0x0000461084000003 = .ok (.spawn t 2 2 2 3) ∧
  decode .ld 0x0000011200000000 = .ok (.copy t 1 2 0) ∧
  decode .sd 0x8101011200000000 = .ok (.copy ⟨0x81, 0x01⟩ 1 2 0) ∧
  decode .cp 0x00000C0064030000 = .ok (.cpRep t 100 3) ∧
  decode .cp 0x0000320605000420 = .ok (.vcvt t 6 5 1 2 0) ∧
  decode .cp 0x0000130102030400 = .ok (.vfma t 1 2 3 4) ∧
  decode .ct 0x0000600000000000 = .error .illegalOpcode ∧
  decode .sd 0x0000030008000000 = .error .illegalOpcode ∧
  decode .ld 0x0000040008000000 = .error .illegalOpcode ∧
  decode .ct 0x00005D0000000000 = .error .privileged ∧
  decode .ct 0x0000000000000001 = .error .reservedField

/-- For every instruction of each opcode map, with every operand at every value its entry admits: its word decodes, by the
stream that has it, to the instruction, and when its values pass the checks of R52 the decoder with the checks gives it too.
LGO, LCANCEL and LREPEAT, and every word whose opcode a prologue may execute, decode so in a prologue, with WAIT and SIGNAL
bytes of zero, when their values pass the same checks. (R35, R39, R42, R44, R46, R47, R48, R49, R51, R52, R53) -/
def Obligations.EncodeDecodeRoundTrip : Prop :=
  (∀ (st : Stream) (i : Instr) (w : W64), encode i = some (spaceOf st, w) → encodable st i = true →
    decode st w = .ok i ∧ (i.WF → decodeChecked 64 st w = .ok i)) ∧
  (∀ (i : Instr) (w : W64), encode i = some (.ct, w) → prologueOpcode (opcodeOf w) = true → tokOf w = ⟨0, 0⟩ →
    encodable .ct i = true ∨ i = .lgo ⟨0, 0⟩ ∨ i = .lcancel ⟨0, 0⟩ ∨ i = .lrepeat ⟨0, 0⟩ → WellFormed.check 0 i = none →
    decodePrologue w = .ok i)

/-- A word that a stream's decoder accepts is exactly the word of the instruction it gives, in that stream's opcode map, and the
fields that the entry requires to be zero are zero: so no two words decode to one instruction, and no bit of a word is dropped.
(R35, R39, R44, R47, R49, R51) -/
def Obligations.DecodedWordIsTheWord : Prop :=
  ∀ (st : Stream) (w : W64) (i : Instr), decode st w = .ok i → encode i = some (spaceOf st, w) ∧ encodable st i = true

/-- From every state whose memory and whose bytes of the compressed view are in canonical form (addresses strictly rising, no
entry equal to what an unlisted address reads as), one step of the machine, whichever instruction, event or input it runs,
leaves them so. (R68, R189, R192) -/
def Obligations.StepKeepsMemory : Prop :=
  ∀ s t : State, s.memOk = true → step s = .next t → t.memOk = true

/-- After package reset the datum is 0, no lease, request, message or queued launch exists, no partition has state and the
memory is in canonical form; every register of the lease in focus and every byte of memory reads 0 (the model's choice: log
entries 2 and 6). In any canonical memory a little-endian value of n bytes that was written reads back, and every byte outside
it reads as before. (R403, R68) -/
def Obligations.ResetAndMemory : Prop :=
  (State.reset.datum = 0 ∧ State.reset.leases = [] ∧ State.reset.reqs = [] ∧ State.reset.queues = [] ∧ State.reset.ratoms = [] ∧
    State.reset.wl = [] ∧ State.reset.parts = [] ∧ State.reset.memOk = true ∧ (∀ r, State.reset.reg r = 0) ∧
    ∀ k, readByte State.reset.mem k = 0) ∧
  (∀ (m : Memory) (k v n : Nat), Memory.wf m = true → v < 256 ^ n →
    readLe (writeLe m k v n) k n = v ∧ ∀ a, a < k ∨ k + n ≤ a → readByte (writeLe m k v n) a = readByte m a)
end

