-- ==== Sys2Proof/Laws/Memory.lean ====
section
/-! SUPPORT. Laws/Memory.lean: the laws of the sparse maps and of memory: a read after a write, what a write leaves alone, and that
every memory operation keeps the canonical form. -/

namespace Sys2Proof.Laws

set_option Elab.async false

open Machine

variable {α : Type}

/-- Every key of a map is above k. -/
def above (k : Nat) (m : SMap α) : Prop := ∀ x ∈ m, k < x.1

/-- The canonical form, read off the entries. -/
theorem keysRise_cons (a : Nat) (v : α) (m : SMap α) : keysRise ((a, v) :: m) = true ↔ above a m ∧ keysRise m = true := by
  induction m generalizing a v with
  | nil => simp [keysRise, above]
  | cons x r ih =>
    obtain ⟨b, w⟩ := x
    constructor
    · intro h
      simp only [keysRise, Bool.and_eq_true, decide_eq_true_eq] at h
      refine ⟨?_, h.2⟩
      have hb := ((ih b w).1 h.2).1
      intro y hy
      rcases List.mem_cons.1 hy with rfl | hy
      · exact h.1
      · exact Nat.lt_trans h.1 (hb y hy)
    · rintro ⟨h1, h2⟩
      simp only [keysRise, Bool.and_eq_true, decide_eq_true_eq]
      exact ⟨h1 (b, w) (by simp), h2⟩

/-- An address below every key reads the default. -/
theorem sget_below {d : α} {k a : Nat} {m : SMap α} (h : above k m) (ha : a ≤ k) : sget d a m = d := by
  induction m with
  | nil => rfl
  | cons x r ih =>
    obtain ⟨b, w⟩ := x
    have hb : k < b := h (b, w) (by simp)
    simp only [sget]
    rw [if_neg (by omega)]
    exact ih fun y hy => h y (by simp [hy])

variable [DecidableEq α]

theorem swf_cons (d : α) (a : Nat) (v : α) (m : SMap α) :
    swf d ((a, v) :: m) = true ↔ above a m ∧ v ≠ d ∧ swf d m = true := by
  simp only [swf, Bool.and_eq_true, keysRise_cons, List.all_cons, decide_eq_true_eq]
  tauto

/-- The keys of a map after a write are its keys and the one written. -/
theorem mem_sset {d v : α} {k : Nat} {m : SMap α} {x : Nat × α} (h : x ∈ sset d k v m) : x = (k, v) ∨ x ∈ m := by
  induction m with
  | nil =>
    simp only [sset] at h
    split at h <;> simp_all
  | cons y r ih =>
    obtain ⟨b, w⟩ := y
    simp only [sset] at h
    split at h
    · split at h
      · exact .inr h
      · rcases List.mem_cons.1 h with h | h
        · exact .inl h
        · exact .inr h
    · split at h
      · split at h
        · exact .inr (List.mem_cons_of_mem _ h)
        · rcases List.mem_cons.1 h with h | h
          · exact .inl h
          · exact .inr (List.mem_cons_of_mem _ h)
      · rcases List.mem_cons.1 h with h | h
        · exact .inr (by simp [h])
        · exact (ih h).imp id fun h => List.mem_cons_of_mem _ h

/-- A write keeps the canonical form. -/
theorem swf_sset {d : α} (k : Nat) (v : α) {m : SMap α} (h : swf d m = true) : swf d (sset d k v m) = true := by
  induction m with
  | nil =>
    simp only [sset]
    split
    · rfl
    · rename_i hv
      simp [swf, keysRise, hv]
  | cons y r ih =>
    obtain ⟨b, w⟩ := y
    obtain ⟨hb, hw, hr⟩ := (swf_cons d b w r).1 h
    simp only [sset]
    split
    · rename_i hk
      split
      · exact h
      · rename_i hv
        refine (swf_cons ..).2 ⟨fun x hx => ?_, hv, h⟩
        rcases List.mem_cons.1 hx with rfl | hx
        · exact hk
        · exact Nat.lt_trans hk (hb x hx)
    · split
      · rename_i hk
        split
        · exact hr
        · rename_i hv
          exact (swf_cons ..).2 ⟨hk ▸ hb, hv, hr⟩
      · rename_i hk1 hk2
        refine (swf_cons ..).2 ⟨fun x hx => ?_, hw, ih hr⟩
        rcases mem_sset hx with rfl | hx
        · simp only
          omega
        · exact hb x hx

/-- A read after a write. -/
theorem sget_sset {d : α} (k a : Nat) (v : α) {m : SMap α} (h : swf d m = true) :
    sget d a (sset d k v m) = if a = k then v else sget d a m := by
  induction m with
  | nil =>
    simp only [sset]
    split
    · rename_i hv
      simp [sget, hv]
    · simp only [sget, eq_comm]
  | cons y r ih =>
    obtain ⟨b, w⟩ := y
    obtain ⟨hb, hw, hr⟩ := (swf_cons d b w r).1 h
    simp only [sset]
    split
    · rename_i hk
      split
      · rename_i hv
        simp only [sget]
        split
        · rename_i e
          rw [if_neg (by omega)]
        · rename_i e
          split
          · rename_i e2
            rw [sget_below hb (by omega), hv]
          · rfl
      · simp only [sget, eq_comm]
    · split
      · rename_i hk
        subst hk
        split
        · rename_i hv
          split
          · rename_i e
            rw [sget_below hb (by omega), hv]
          · rename_i e
            simp only [sget]
            rw [if_neg (by omega)]
        · simp only [sget]
          by_cases e : k = a
          · simp [e]
          · simp [e, Ne.symm e]
      · rename_i hk1 hk2
        simp only [sget, ih hr]
        by_cases e : b = a
        · subst e
          simp [Ne.symm hk2]
        · simp [e]

/-- Removing entries keeps the canonical form. -/
theorem swf_filter {d : α} (p : Nat × α → Bool) {m : SMap α} (h : swf d m = true) : swf d (m.filter p) = true := by
  induction m with
  | nil => rfl
  | cons y r ih =>
    obtain ⟨b, w⟩ := y
    obtain ⟨hb, hw, hr⟩ := (swf_cons d b w r).1 h
    simp only [List.filter_cons]
    split
    · exact (swf_cons ..).2 ⟨fun x hx => hb x (List.mem_filter.1 hx).1, hw, ih hr⟩
    · exact ih hr

/-! ## Memory -/

/-- A byte write keeps the canonical form. -/
theorem wf_writeByte {m : Memory} (k : Nat) (v : Byte) (h : Memory.wf m = true) : Memory.wf (writeByte m k v) = true :=
  swf_sset k v h

/-- A read of one byte after a byte write. -/
theorem readByte_writeByte {m : Memory} (k a : Nat) (v : Byte) (h : Memory.wf m = true) :
    readByte (writeByte m k v) a = if a = k then v else readByte m a := sget_sset k a v h

/-- Writing bytes keeps the canonical form. -/
theorem wf_writeBytes {m : Memory} (k : Nat) (bs : List Byte) (h : Memory.wf m = true) : Memory.wf (writeBytes m k bs) = true := by
  induction bs generalizing m k with
  | nil => exact h
  | cons b r ih => exact ih _ (wf_writeByte k b h)

/-- Writing a little-endian value keeps the canonical form. -/
theorem wf_writeLe {m : Memory} (k v n : Nat) (h : Memory.wf m = true) : Memory.wf (writeLe m k v n) = true :=
  wf_writeBytes k _ h

/-- Removing entries keeps the canonical form. -/
theorem wf_filter {m : Memory} (p : Host.Cell → Bool) (h : Memory.wf m = true) : Memory.wf (m.filter p) = true := swf_filter p h

/-- A write of bytes leaves the bytes outside them alone. -/
theorem readByte_writeBytes_outside {m : Memory} (k a : Nat) (bs : List Byte) (h : Memory.wf m = true)
    (ha : a < k ∨ k + bs.length ≤ a) : readByte (writeBytes m k bs) a = readByte m a := by
  induction bs generalizing m k with
  | nil => rfl
  | cons b r ih =>
    simp only [List.length_cons] at ha
    simp only [writeBytes]
    rw [ih (k + 1) (wf_writeByte k b h) (by omega), readByte_writeByte k a b h, if_neg (by omega)]

/-- The bytes that were written read back. -/
theorem readBytes_writeBytes {m : Memory} (k : Nat) (bs : List Byte) (h : Memory.wf m = true) :
    readBytes (writeBytes m k bs) k bs.length = bs := by
  induction bs generalizing m k with
  | nil => rfl
  | cons b r ih =>
    simp only [writeBytes, List.length_cons, readBytes]
    rw [ih (k + 1) (wf_writeByte k b h),
      readByte_writeBytes_outside (k + 1) k r (wf_writeByte k b h) (by omega), readByte_writeByte k k b h, if_pos rfl]

/-! ## The operations of the machine on memory -/

/-- The canonical form of both byte stores, as two facts. -/
theorem memOk_iff (s : State) : s.memOk = true ↔ Memory.wf s.mem = true ∧ Memory.wf s.viewOld = true := by
  simp [State.memOk]

/-- Putting a granule under another key keeps the canonical form (08 R204). -/
theorem rekey_memOk {s : State} (slot key : Nat) (h : s.memOk = true) : (s.rekey slot key).memOk = true := by
  rw [memOk_iff] at *
  simp only [State.rekey]
  split
  · exact h
  · generalize List.map _ (List.range _) = bs
    exact ⟨wf_writeBytes _ bs h.1, h.2⟩

/-- Removing a read copy leaves the byte stores (08 R194). -/
theorem dropCopy_memOk (s : State) (key : Nat) : (s.dropCopy key).memOk = s.memOk := by
  simp only [State.dropCopy]
  split <;> rfl

/-- A write at a line's home leaves the byte stores as far as copies go (08 R194). -/
theorem breakRun_memOk (s : State) (key : Nat) : (s.breakRun key).memOk = s.memOk := dropCopy_memOk s key

/-- A line that leaves its slice keeps the canonical form (08 R187). -/
theorem dropLine_memOk {s : State} (key : Nat) (h : s.memOk = true) : (s.dropLine key).memOk = true := by
  rw [← dropCopy_memOk s key, memOk_iff] at h
  rw [memOk_iff]
  simp only [State.dropLine]
  split
  · exact ⟨wf_writeBytes _ _ h.1, h.2⟩
  · exact h

/-- Writing a line back keeps the canonical form (09 R225). -/
theorem flushLine_memOk {s : State} (slot key : Nat) (drop : Bool) (h : s.memOk = true) : (s.flushLine slot key drop).memOk = true := by
  have last : ∀ w : State, w.memOk = true → (if drop then w.dropLine key else w).memOk = true := by
    intro w hw
    split
    · exact dropLine_memOk _ hw
    · exact hw
  simp only [State.flushLine]
  apply last
  split
  · split
    · have f := (memOk_iff _).1 (rekey_memOk slot (key / 128 * 128 + 64) (rekey_memOk slot (key / 128 * 128)
        (s := { s with hostLines := sset 0 (key / 128) 1 s.hostLines }) h))
      generalize readBytes _ _ 128 = bs
      exact (memOk_iff _).2 ⟨wf_writeBytes _ bs f.1, f.2⟩
    · exact h
  · exact h

/-- Choosing what makes room keeps the byte stores. -/
theorem victim_mem {β : Type} (s : State) (n : Nat) (xs : List β) : (s.victim n xs).2.memOk = s.memOk := by
  simp only [State.victim, State.nextFree]
  split <;> rfl

/-- Making room in a slice keeps the canonical form (08 R187). -/
theorem sliceRoom_memOk {s : State} (c : Nat) (h : s.memOk = true) : (s.sliceRoom c).memOk = true := by
  simp only [State.sliceRoom]
  generalize hv : s.victim sliceLines (sget [] c s.l2) = r
  have h2 : r.2.memOk = true := by rw [← hv, victim_mem]; exact h
  obtain ⟨v, w⟩ := r
  cases v with
  | none => exact h2
  | some x =>
    dsimp only
    split
    · exact flushLine_memOk _ _ true h2
    · rw [dropCopy_memOk]; exact h2

/-- Filling a line keeps the canonical form (08 R187). -/
theorem fillLine_memOk {s : State} (slot key : Nat) (h : s.memOk = true) : (s.fillLine slot key).memOk = true := by
  simp only [State.fillLine]
  split
  · exact h
  · have f := (memOk_iff _).1 (sliceRoom_memOk (sliceOf key) h)
    refine (memOk_iff _).2 ⟨?_, f.2⟩
    simp only
    split
    · exact wf_writeBytes _ _ f.1
    · exact f.1

/-- Storing a granule's compressed view keeps the canonical form (10 R241). -/
theorem putView_memOk {s : State} (t : Tr) (bs : List Byte) (h : s.memOk = true) : (s.putView t bs).memOk = true := by
  have f := (memOk_iff _).1 h
  exact (memOk_iff _).2 ⟨f.1, wf_writeBytes _ bs f.2⟩

/-- Parting the two views of a granule keeps the canonical form (10 R241). -/
theorem splitViews_memOk {s : State} (t : Tr) (n : Nat) (h : s.memOk = true) : (s.splitViews t n).memOk = true := by
  simp only [State.splitViews]
  split
  · exact h
  · have last : ∀ (w : State) (d : SMap Nat), w.memOk = true → State.memOk { w with viewDirty := d } = true := fun _ _ h => h
    apply last
    split
    · exact putView_memOk _ _ h
    · exact h

/-- A write through the plain view keeps the canonical form. -/
theorem writePlain_memOk {s : State} (t : Tr) (bs : List Byte) (h : s.memOk = true) : (s.writePlain t bs).memOk = true := by
  simp only [State.writePlain]
  split
  · have f := (memOk_iff _).1 (fillLine_memOk t.slot t.key h)
    exact (memOk_iff _).2 ⟨wf_writeBytes _ bs f.1, f.2⟩
  · have f := (memOk_iff _).1 (rekey_memOk t.slot t.key h)
    exact (memOk_iff _).2 ⟨wf_writeBytes _ bs f.1, f.2⟩

/-- A write to a translated location keeps the canonical form. -/
theorem writeTr_memOk {s : State} (t : Tr) (bs : List Byte) (view : Bool) (h : s.memOk = true) :
    (s.writeTr t bs view).memOk = true := by
  simp only [State.writeTr]
  split
  · exact h
  · have g : (if t.tier = 2 then s.fillLine t.slot t.key else s).memOk = true := by
      split
      · exact fillLine_memOk _ _ h
      · exact h
    revert g
    generalize (if t.tier = 2 then s.fillLine t.slot t.key else s) = w
    intro g
    rw [← breakRun_memOk w t.key] at g
    revert g
    generalize w.breakRun t.key = w
    intro g
    cases view
    · exact writePlain_memOk _ _ (splitViews_memOk t 1 g)
    · have last : ∀ (w : State) (k : Nat), w.memOk = true → State.memOk { w with viewOld := writeBytes w.viewOld k bs } = true := by
        intro w k hw
        have f := (memOk_iff _).1 hw
        exact (memOk_iff _).2 ⟨f.1, wf_writeBytes _ _ f.2⟩
      apply last
      exact putView_memOk _ _ (splitViews_memOk t 2 g)

/-- Two views made one keep the canonical form (09 R226). -/
theorem reconcile_memOk {s : State} (t : Tr) (h : s.memOk = true) : (s.reconcile t).memOk = true := by
  have last : ∀ (w : State) (g d : Nat), w.memOk = true →
      State.memOk { w with viewOld := writeBytes w.viewOld (g * 64) (List.replicate 64 0), viewTag := sset 0 g 0 w.viewTag,
                           viewDirty := sset 0 g d w.viewDirty } = true := by
    intro w g d hw
    have f := (memOk_iff _).1 hw
    generalize List.replicate 64 (0 : Byte) = bs
    exact (memOk_iff _).2 ⟨f.1, wf_writeBytes _ bs f.2⟩
  simp only [State.reconcile]
  split
  · exact h
  · apply last
    split
    · exact writePlain_memOk _ _ h
    · exact h

/-- A fold of steps that each keep the canonical form keeps it. -/
theorem foldl_memOk {β : Type} {f : State → β → State} (hf : ∀ s x, s.memOk = true → (f s x).memOk = true) (xs : List β) {s : State}
    (h : s.memOk = true) : (xs.foldl f s).memOk = true := by
  induction xs generalizing s with
  | nil => exact h
  | cons x r ih => exact ih (hf s x h)

/-- Asking for a host page leaves the byte stores (17 R389). -/
theorem atsAsk_memOk (s : State) (p pa : Nat) : (s.atsAsk p pa).memOk = s.memOk := by
  simp only [State.atsAsk]
  split <;> rfl

/-- A unit's write inside a granule keeps the canonical form (10 R254). -/
theorem unitPut_memOk {s : State} (p va : Nat) (bs : List Byte) (h : s.memOk = true) : (s.unitPut p va bs).memOk = true := by
  simp only [State.unitPut]
  split
  · exact h
  · split
    · split
      · exact (atsAsk_memOk s p _).trans h
      · exact h
    · exact writeTr_memOk _ _ _ h

/-- A write of a unit that counts no access keeps the canonical form. -/
theorem unitStore_memOk {s : State} (p va : Nat) (bs : List Byte) (h : s.memOk = true) : (s.unitStore p va bs).memOk = true :=
  foldl_memOk (fun _ x h => unitPut_memOk p x.1 x.2 h) _ h

/-- A write of host memory keeps the canonical form (17 R389). -/
theorem hostPut_memOk {s : State} (p a : Nat) (bs : List Byte) (h : s.memOk = true) : (s.hostPut p a bs).memOk = true := by
  simp only [State.hostPut]
  split
  · have f := (memOk_iff _).1 (rekey_memOk 127 (hostKey p a) h)
    exact (memOk_iff _).2 ⟨wf_writeBytes _ bs f.1, f.2⟩
  · exact (atsAsk_memOk s p a).trans h

/-- A write at a register's address, uncounted, keeps the canonical form. -/
theorem busStore_memOk {s : State} (p : Nat) (host : Bool) (a : Nat) (bs : List Byte) (h : s.memOk = true) :
    (s.busStore p host a bs).memOk = true := by
  simp only [State.busStore]
  split
  · exact foldl_memOk (fun _ x h => hostPut_memOk p x.1 x.2 h) _ h
  · exact unitStore_memOk p a bs h

/-- An entry of an event queue keeps the canonical form (11 R285). -/
theorem eqPutBy_memOk {put : State → Nat → Bool → Nat → List Byte → State}
    (hp : ∀ s p b a bs, s.memOk = true → (put s p b a bs).memOk = true) {s t : State} {p q : Nat} {entry : Nat → List Byte}
    (h : s.memOk = true) (ht : s.eqPutBy put p q entry = some t) : t.memOk = true := by
  simp only [State.eqPutBy] at ht
  split at ht
  · cases ht
  · cases ht
    split <;> exact hp _ _ _ _ _ h

/-- A counted access keeps the canonical form (08 R206). -/
theorem countAccess_memOk {s : State} (p va : Nat) (t : Tr) (h : s.memOk = true) : (s.countAccess p va t).memOk = true := by
  have room : ∀ (b : Bool) (k : Nat), (s.counterRoom b k).memOk = true := fun b k => (victim_mem s 4 _).trans h
  have put : ∀ (w u : State) (q : Nat) (e : Nat → List Byte), w.memOk = true → u.memOk = true →
      ((w.eqPutBy State.busStore p q e).getD u).memOk = true := by
    intro w u q e hw hu
    cases hx : w.eqPutBy State.busStore p q e with
    | none => exact hu
    | some v => exact eqPutBy_memOk (fun _ _ _ _ _ h => busStore_memOk _ _ _ _ h) hw hx
  have got : (if sget 0 (p * 2 ^ 41 + va / 65536) s.counters = 0 then
      s.counterRoom (s.bridgeOf t.tier t.pa = 9) (p * 2 ^ 41 + va / 65536) else s).memOk = true := by
    split
    · exact room _ _
    · exact h
  simp only [State.countAccess]
  split
  · exact h
  · split
    · exact h
    · revert got
      generalize (if sget 0 (p * 2 ^ 41 + va / 65536) s.counters = 0 then
        s.counterRoom (s.bridgeOf t.tier t.pa = 9) (p * 2 ^ 41 + va / 65536) else s) = w
      intro got
      split
      · exact put _ _ _ _ got got
      · exact got

/-- The line that an access reaches keeps the canonical form. -/
theorem touchLine_memOk {s : State} (p va : Nat) (t : Tr) (h : s.memOk = true) : (s.touchLine p va t).memOk = true := by
  simp only [State.touchLine]
  split
  · exact h
  · exact fillLine_memOk _ _ (countAccess_memOk p va t h)

/-- A read that may place a copy keeps the canonical form (08 R194). -/
theorem noteRead_memOk {s : State} (p die : Nat) (t : Tr) (h : s.memOk = true) : (s.noteRead p die t).memOk = true := by
  have place : (s.placeCopy die t.slot t.key).memOk = true := by
    have last : ∀ (w : State), w.memOk = true → (w.sliceRoom (copySlice die t.key)).memOk = true := fun w hw => sliceRoom_memOk _ hw
    refine last _ ?_
    split
    · split
      · exact h
      · rw [dropCopy_memOk]; exact h
    · exact h
  simp only [State.noteRead]
  split
  · exact h
  · repeat' split
    all_goals first | exact h | exact place

/-- An access at its home keeps the canonical form. -/
theorem countHome_memOk {s : State} (die p va : Nat) (t : Tr) (k : AccKind) (h : s.memOk = true) :
    (s.countHome die p va t k).memOk = true := by
  simp only [State.countHome]
  split
  · exact noteRead_memOk _ _ _ (touchLine_memOk _ _ _ h)
  · exact countAccess_memOk _ _ _ ((breakRun_memOk _ _).trans (touchLine_memOk _ _ _ h))

/-- The halt line leaves the byte stores (16 R375). -/
theorem haltLine_memOk (s : State) (p : Nat) (c : Cause) (x : StopInfo) : (s.haltLine p c x).memOk = s.memOk := by
  simp only [State.haltLine]
  split <;> rfl

/-- A unit's access at its home keeps the canonical form. -/
theorem unitArrive_memOk {s : State} (u : UnitId) (p va : Nat) (k : AccKind) (h : s.memOk = true) : (s.unitArrive u p va k).memOk = true := by
  simp only [State.unitArrive]
  split
  · exact h
  · split
    · exact h
    · split
      · rw [haltLine_memOk]; exact h
      · exact countHome_memOk _ _ _ _ _ h

/-- What a unit reads keeps the canonical form. -/
theorem unitTouch_memOk {s : State} (u : UnitId) (p va n : Nat) (h : s.memOk = true) : (s.unitTouch u p va n).memOk = true :=
  foldl_memOk (fun _ _ h => unitArrive_memOk u p _ .read h) _ h

/-- A write of a unit keeps the canonical form (10 R254). -/
theorem unitWriteBy_memOk {s : State} (u : UnitId) (p va : Nat) (bs : List Byte) (h : s.memOk = true) :
    (s.unitWriteBy u p va bs).memOk = true :=
  foldl_memOk (fun _ x h => unitPut_memOk p x.1 x.2 (unitArrive_memOk u p x.1 .write h)) _ h

theorem unitWrite_memOk (p : Nat) (bs : List Byte) {s : State} (va : Nat) (h : s.memOk = true) : (s.unitWrite p va bs).memOk = true :=
  unitWriteBy_memOk {} p va bs h

/-- A write at a register's address keeps the canonical form (11 R278). -/
theorem busWrite_memOk {s : State} (p : Nat) (host : Bool) (a : Nat) (bs : List Byte) (h : s.memOk = true) :
    (s.busWrite p host a bs).memOk = true := by
  simp only [State.busWrite]
  split
  · exact busStore_memOk p true a bs h
  · exact unitWrite_memOk p bs a h

/-- The writes that waited keep the canonical form (08 R207). -/
theorem retryHeld_memOk {s : State} (h : s.memOk = true) : s.retryHeld.memOk = true := by
  simp only [State.retryHeld]
  split
  · exact h
  · exact foldl_memOk (fun _ _ h => busWrite_memOk _ _ _ _ h) _ h

/-- A write of the window keeps the canonical form (08 R189). -/
theorem winWrite_memOk (bs : List Byte) {s : State} (a : Nat) (h : s.memOk = true) : (s.winWrite a bs).memOk = true := by
  induction bs generalizing s a with
  | nil => exact h
  | cons b r ih =>
    simp only [State.winWrite]
    apply ih
    have f := (memOk_iff _).1 h
    exact (memOk_iff _).2 ⟨wf_writeByte _ _ f.1, f.2⟩

/-- A write of the window touches nothing but memory. -/
theorem winWrite_frame (bs : List Byte) (s : State) (a : Nat) :
    (s.winWrite a bs).cur = s.cur ∧ (s.winWrite a bs).vfile = s.vfile ∧ (s.winWrite a bs).accs = s.accs ∧
      (s.winWrite a bs).datum = s.datum ∧ (s.winWrite a bs).parts = s.parts := by
  induction bs generalizing s a with
  | nil => exact ⟨rfl, rfl, rfl, rfl, rfl⟩
  | cons b r ih => exact ih _ _

/-- Writing bytes one by one at places that their entries give keeps the canonical form. -/
theorem wf_placed (f : Host.Cell → Nat × Byte) (cs : List Host.Cell) {m : Memory} (h : Memory.wf m = true) :
    Memory.wf (cs.foldl (fun m c => writeByte m (f c).1 (f c).2) m) = true := by
  induction cs generalizing m with
  | nil => exact h
  | cons c r ih => exact ih (wf_writeByte _ _ h)

/-- Zeroing a lease's plots keeps the canonical form (08 R189). -/
theorem clearPlots_memOk {s : State} (l : Lease) (h : s.memOk = true) : (s.clearPlots l).memOk = true := by
  have f := (memOk_iff _).1 h
  exact (memOk_iff _).2 ⟨wf_filter _ f.1, f.2⟩

/-- Emptying the shadow planes of a lease's plots keeps the canonical form (08 R191). -/
theorem clearShadow_memOk {s : State} (l : Lease) (h : s.memOk = true) : (s.clearShadow l).memOk = true := by
  have f := (memOk_iff _).1 h
  exact (memOk_iff _).2 ⟨wf_filter _ f.1, f.2⟩

/-- The flip of live and shadow planes keeps the canonical form (16 R382). -/
theorem flipPlanes_memOk {s : State} (l : Lease) (h : s.memOk = true) : (s.flipPlanes l).memOk = true := by
  have f := (memOk_iff _).1 h
  exact (memOk_iff _).2 ⟨wf_placed (fun c => (c.1, c.2)) _ (wf_filter _ f.1), f.2⟩

/-- Saved contents put onto a lease's plots keep the canonical form (16 R382, R385). -/
theorem putPlots_memOk {s : State} (shadow : Bool) (h : s.memOk = true) : (putPlots shadow s).memOk = true := by
  have f := (memOk_iff _).1 h
  refine (memOk_iff _).2 ⟨?_, f.2⟩
  have g (w : Nat → Nat) (up : Nat) := wf_placed (fun c => (w c.1 + up, c.2)) s.cur.savedWin f.1
  exact g s.cur.winKey (if shadow then 2 ^ 48 else 0)

/-- The sections of an image are written by writes of a unit (16 R385). -/
theorem writeSections_memOk {s : State} (a : Nat) (l : Lease) (h : s.memOk = true) : (s.writeSections a l).memOk = true :=
  unitWrite_memOk _ _ _ (unitWrite_memOk _ _ _ (unitWrite_memOk _ _ _ h))

/-- What a parcel takes from an image: its counter, state, number and pending results stay as they are. -/
theorem takes_frame (l : Lease) (vecs accs : SMap Lanes) (win : Memory) (metas sregs shadow : SMap W64) (handles : SMap Handle) :
    (l.takes vecs accs win metas sregs shadow handles).vc = l.vc ∧ (l.takes vecs accs win metas sregs shadow handles).st = l.st ∧
      (l.takes vecs accs win metas sregs shadow handles).id = l.id ∧ (l.takes vecs accs win metas sregs shadow handles).pend = l.pend :=
  ⟨rfl, rfl, rfl, rfl⟩

/-- The frame of what a parcel reads back from an image (16 R385, R387). -/
theorem readSections_frame (s : State) (a : Nat) (l : Lease) :
    (s.readSections a l).vc = l.vc ∧ (s.readSections a l).st = l.st ∧ (s.readSections a l).id = l.id ∧
      (s.readSections a l).pend = l.pend := by
  have g (r : W64) (P : Prop) [Decidable P] : (if P then l else l.resumeAt r).vc = l.vc ∧ (if P then l else l.resumeAt r).st = l.st ∧
      (if P then l else l.resumeAt r).id = l.id ∧ (if P then l else l.resumeAt r).pend = l.pend := by
    split <;> exact ⟨rfl, rfl, rfl, rfl⟩
  unfold State.readSections
  extract_lets b at8 row rows w metas
  rw [(takes_frame _ _ _ _ _ _ _ _).1, (takes_frame _ _ _ _ _ _ _ _).2.1, (takes_frame _ _ _ _ _ _ _ _).2.2.1,
    (takes_frame _ _ _ _ _ _ _ _).2.2.2]
  exact g _ _

/-- The memory of the package after reset has the canonical form. -/
theorem reset_memOk : State.reset.memOk = true := by decide

end Sys2Proof.Laws
end

