-- ==== Sys2Proof/Laws/PerInstr.lean ====
section
/-! SUPPORT. PerInstr.lean: statements made for every constructor of Instr. `Tokens`: the word of an instruction carries the
instruction's own WAIT and SIGNAL bytes in bits 63 to 48 (02 R35), and an event of the table has no word. -/

namespace Sys2Proof.Laws

set_option Elab.async false

/-- The WAIT and SIGNAL bytes an instruction holds; none for an event of the table. -/
def instrTok : Instr → Option Tok
  | .ctNop t => some t
  | .add t _ _ _ => some t
  | .sub t _ _ _ => some t
  | .mul t _ _ _ => some t
  | .mulh t _ _ _ => some t
  | .mulhu t _ _ _ => some t
  | .div t _ _ _ => some t
  | .divu t _ _ _ => some t
  | .rem t _ _ _ => some t
  | .remu t _ _ _ => some t
  | .and t _ _ _ => some t
  | .or t _ _ _ => some t
  | .xor t _ _ _ => some t
  | .shl t _ _ _ => some t
  | .shr t _ _ _ => some t
  | .sra t _ _ _ => some t
  | .min t _ _ _ => some t
  | .max t _ _ _ => some t
  | .slt t _ _ _ => some t
  | .sltu t _ _ _ => some t
  | .clz t _ _ => some t
  | .popc t _ _ => some t
  | .sext t _ _ _ => some t
  | .zext t _ _ _ => some t
  | .addi t _ _ _ => some t
  | .andi t _ _ _ => some t
  | .ori t _ _ _ => some t
  | .xori t _ _ _ => some t
  | .shli t _ _ _ => some t
  | .shri t _ _ _ => some t
  | .srai t _ _ _ => some t
  | .slti t _ _ _ => some t
  | .li t _ _ => some t
  | .liwLo t _ _ => some t
  | .liwHi t _ _ => some t
  | .beq t _ _ _ => some t
  | .bne t _ _ _ => some t
  | .blt t _ _ _ => some t
  | .bge t _ _ _ => some t
  | .bltu t _ _ _ => some t
  | .bgeu t _ _ _ => some t
  | .jmp t _ => some t
  | .jal t _ _ => some t
  | .jr t _ _ _ => some t
  | .brq t _ _ _ => some t
  | .loop t _ _ _ _ => some t
  | .endl t => some t
  | .lds t _ _ _ _ => some t
  | .sts t _ _ _ _ => some t
  | .amo t _ _ _ _ _ _ => some t
  | .cas t _ _ _ _ _ => some t
  | .hset t _ _ _ => some t
  | .hget t _ _ _ => some t
  | .hmov t _ _ => some t
  | .hadv t _ _ _ => some t
  | .hview t _ _ _ _ => some t
  | .hclr t _ => some t
  | .issue t _ _ => some t
  | .issuer t _ _ => some t
  | .ringset t _ _ _ => some t
  | .acq t _ _ _ => some t
  | .acqGrant _ _ => none
  | .rel t _ _ _ => some t
  | .fence t _ _ => some t
  | .barg t _ _ _ => some t
  | .bargArrival _ _ => none
  | .bargComplete _ _ => none
  | .bind t _ _ _ _ _ => some t
  | .unbind t _ _ => some t
  | .split t _ _ _ => some t
  | .splitChange _ => none
  | .fuse t _ _ _ _ _ => some t
  | .fuseChange _ => none
  | .chain t _ _ _ _ => some t
  | .chainChange _ => none
  | .unchain t _ _ _ _ => some t
  | .unchainChange _ => none
  | .orient t _ _ => some t
  | .orientChange _ => none
  | .spawn t _ _ _ _ => some t
  | .join t _ _ => some t
  | .joinComplete _ => none
  | .kill t _ => some t
  | .killSelf t => some t
  | .killComplete _ => none
  | .quies t _ _ => some t
  | .quiesComplete _ => none
  | .cbld t _ _ => some t
  | .xload t _ _ => some t
  | .xunld t _ => some t
  | .bupd t _ _ => some t
  | .affp t _ _ _ => some t
  | .rdcyc t _ => some t
  | .rdvc t _ => some t
  | .pcsel t _ => some t
  | .pcrd t _ _ => some t
  | .clkrd t _ _ _ => some t
  | .trap t _ => some t
  | .eret t => some t
  | .tren t => some t
  | .uiret t => some t
  | .csrr t _ _ => some t
  | .csrw t _ _ => some t
  | .yield t => some t
  | .endTask t => some t
  | .taskRetire _ => none
  | .tmark t _ => some t
  | .lgo t => some t
  | .lcancel t => some t
  | .lrepeat t => some t
  | .lsNop t => some t
  | .copy t _ _ _ => some t
  | .copyDq t _ _ _ => some t
  | .copyp t _ _ _ _ _ => some t
  | .gath t _ _ _ _ _ _ => some t
  | .scat t _ _ _ _ _ => some t
  | .pref t _ _ => some t
  | .flush t _ _ => some t
  | .inval t _ _ => some t
  | .dcmpf t _ _ => some t
  | .atomv t _ _ _ _ _ => some t
  | .rread t _ _ _ _ => some t
  | .rwrite t _ _ _ _ => some t
  | .rwriteWin t _ _ _ _ => some t
  | .ratom t _ _ _ _ _ _ _ _ => some t
  | .kvget t _ _ _ _ => some t
  | .kvput t _ _ _ _ => some t
  | .job t _ _ _ => some t
  | .lsRep t _ _ => some t
  | .outq t _ _ _ _ => some t
  | .wlapp t _ _ _ _ => some t
  | .wltake t _ _ _ _ _ _ => some t
  | .wlseal t _ _ _ => some t
  | .lsTmark t _ => some t
  | .cpNop t => some t
  | .mxld t _ _ _ => some t
  | .mxldRowArrival _ _ => none
  | .mxswap t => some t
  | .mxmul t _ _ _ _ _ => some t
  | .mxlut t _ _ _ _ _ => some t
  | .mxcfg t _ _ => some t
  | .mxbs t _ _ _ _ _ => some t
  | .mxdrain t _ _ _ _ => some t
  | .mxzero t _ => some t
  | .mxrd t _ _ _ => some t
  | .mxwr t _ _ _ => some t
  | .chainRowEnter _ => none
  | .atPin t _ _ => some t
  | .scheduleMiss _ => none
  | .cpRep t _ _ => some t
  | .selk t _ _ _ _ => some t
  | .cpTmark t _ => some t
  | .vadd t _ _ _ => some t
  | .vsub t _ _ _ => some t
  | .vmul t _ _ _ => some t
  | .vfma t _ _ _ _ => some t
  | .vfms t _ _ _ _ => some t
  | .vfnma t _ _ _ _ => some t
  | .vmin t _ _ _ => some t
  | .vmax t _ _ _ => some t
  | .vabs t _ _ => some t
  | .vneg t _ _ => some t
  | .vdiv t _ _ _ _ => some t
  | .vsqrt t _ _ => some t
  | .vrcp t _ _ => some t
  | .vrsq t _ _ => some t
  | .vexp2 t _ _ => some t
  | .vlog2 t _ _ => some t
  | .vtab t _ _ _ => some t
  | .vscale t _ _ _ => some t
  | .viadd t _ _ _ _ => some t
  | .visub t _ _ _ _ => some t
  | .vimul t _ _ _ _ => some t
  | .vimad t _ _ _ _ => some t
  | .vand t _ _ _ => some t
  | .vor t _ _ _ => some t
  | .vxor t _ _ _ => some t
  | .vnot t _ _ => some t
  | .vshl t _ _ _ => some t
  | .vshr t _ _ _ => some t
  | .vsra t _ _ _ => some t
  | .vimin t _ _ _ _ => some t
  | .vimax t _ _ _ _ => some t
  | .vcmp t _ _ _ _ => some t
  | .vsel t _ _ _ _ => some t
  | .vclass t _ _ => some t
  | .vcvt t _ _ _ _ _ => some t
  | .vpack t _ _ _ _ _ _ => some t
  | .vunpk t _ _ _ _ _ _ => some t
  | .vqnt t _ _ _ _ _ => some t
  | .vdeq t _ _ _ _ _ => some t
  | .vred t _ _ _ => some t
  | .vscan t _ _ _ => some t
  | .vperm t _ _ _ _ => some t
  | .vrot t _ _ _ _ => some t
  | .vbcast t _ _ _ _ => some t
  | .vslide t _ _ _ _ => some t
  | .vidx t _ _ _ _ => some t
  | .vpart t _ _ _ _ _ => some t
  | .vmov t _ _ => some t
  | .vli t _ _ => some t
  | .vliHi t _ _ => some t
  | .vtos t _ _ _ => some t
  | .vfrs t _ _ _ => some t
  | .vpop t _ => some t
  | .vpush t _ => some t
  | .vout t _ _ _ => some t
  | .vld t _ _ _ _ => some t
  | .vst t _ _ _ _ => some t
  | .cpWlapp t _ _ _ _ => some t
  | .xop t _ _ _ _ _ _ => some t
  | .vectorWriteback _ => none
  | .completion _ => none
  | .slotTableCycle _ _ => none
  | .copySegment _ _ => none
  | .homeAccess _ => none
  | .trapEntry _ => none
  | .uirqDelivery _ => none
  | .faultEntryWrite _ => none
  | .watchdogExpiry _ => none
  | .engineHaltStop _ _ => none
  | .preemption _ => none
  | .contextSave _ => none
  | .imageDrain _ => none
  | .imageRestore _ => none
  | .launchPacket _ _ => none
  | .nopPacket _ _ => none
  | .invalidPacket _ _ => none
  | .prologueWatchdog _ => none
  | .prologueRepeat _ _ => none
  | .dataFlitReceive _ _ _ _ _ => none
  | .nakReceive _ _ _ => none
  | .idleFlit _ _ _ => none
  | .replayTimerExpiry _ _ => none
  | .retrainComplete _ => none
  | .ratomRequestArrival _ => none
  | .ratomResultArrival _ => none
  | .ratomResendTimer _ => none
  | .windowClose _ => none
  | .windowRetry _ => none
  | .worklistItem _ => none
  | .worklistSealApply _ => none
  | .worklistTakeApply _ => none
  | .worklistQuiescence _ _ => none
  | .leaseGrant => none
  | .packageReset => none
  | .linkHotReset => none
  | .heartbeat => none
  | .standbyTakeover => none
  | .mainClockTick => none
  | .ringPlacement _ => none
  | .genSweep _ => none
  | .pageMigration _ _ _ => none
  | .fqres _ _ => none
  | .haltLineRise _ _ => none
  | .hrdb _ _ => none
  | .hrctlEnable _ _ _ => none
  | .hrctlDisable _ _ _ => none
  | .eqctlEnable _ _ _ => none
  | .tlbinvPage _ _ => none
  | .tlbinvAll _ => none
  | .tlbinvDone _ => none
  | .tlbinvstatRead _ => none
  | .atsResponse _ _ _ _ => none
  | .priResponse _ _ _ => none
  | .detourFixed _ _ _ => none
  | .batchStep _ _ => none
  | .batchStepFail _ _ => none
  | .bcdb _ _ => none
  | .bcctlEnable _ _ => none
  | .bcctlDisable _ _ => none
  | .dbgcmdStop _ => none
  | .dbgcmdResume _ => none
  | .dbgcmdBitmapSync _ => none
  | .dbgstatRead _ => none
  | .dbgreplay _ _ => none
  | .stopEdge _ => none
  | .stopVcReached _ => none
  | .sampleRecord _ => none
  | .replayEnd _ => none
  | .phalt _ => none
  | .preemptWrite _ _ => none
  | .restoreWrite _ _ => none
  | .rcbkill _ _ => none
  | .rcbkstatRead _ => none
  | .partitionReset _ => none
  | .liveUpdate _ _ _ => none
  | .stateTableApply _ => none
  | .thermalThrottle _ _ => none
  | .thermalHalt _ => none
  | .ageingUpdate _ _ _ => none
  | .plotAbsentMark _ _ => none
  | .scrubPass _ => none
  | .healthRefresh _ => none
  | .registerWrite _ _ _ => none
  | .hostBarAccess _ _ _ _ _ _ => none
  | .atsInvalidation _ _ => none
  | .doeRequest _ => none
  | .fabricRequestReceive _ _ _ _ _ _ _ _ _ _ => none
  | .ueMessageReceive _ _ _ _ _ _ _ _ => none
  | .ualinkStationLoss _ _ => none
  | .uePortLoss _ _ => none
  | .ddrChannelRemoval _ => none
  | .healthPolicyRetrain _ => none

/-- The word of i carries i's WAIT and SIGNAL bytes; i has a word exactly when it holds such bytes. -/
def Tokens.Statement (i : Instr) : Prop := (encode i).map (fun x => tokOf x.2) = instrTok i

theorem tokOf_enc (t : Tok) (op : BitVec 8) (x : BitVec 40) : tokOf (enc t op x) = t := by
  have h1 : fld (enc t op x) 56 8 = t.wait := by
    apply BitVec.eq_of_getLsbD_eq
    intro k hk
    simp only [fld, enc, BitVec.getLsbD_extractLsb', BitVec.getLsbD_append, hk]
    rw [if_neg (by omega), if_neg (by omega), if_neg (by omega)]
    simp; congr 1; omega
  have h2 : fld (enc t op x) 48 8 = t.sig := by
    apply BitVec.eq_of_getLsbD_eq
    intro k hk
    simp only [fld, enc, BitVec.getLsbD_extractLsb', BitVec.getLsbD_append, hk]
    rw [if_neg (by omega), if_neg (by omega), if_pos (by omega)]
    simp; congr 1; omega
  simp only [tokOf, h1, h2]

theorem Tokens.ctNop (t : _) : Tokens.Statement (.ctNop t) := congrArg some (tokOf_enc ..)
theorem Tokens.add (t : _) (d : _) (a : _) (b : _) : Tokens.Statement (.add t d a b) := congrArg some (tokOf_enc ..)
theorem Tokens.sub (t : _) (d : _) (a : _) (b : _) : Tokens.Statement (.sub t d a b) := congrArg some (tokOf_enc ..)
theorem Tokens.mul (t : _) (d : _) (a : _) (b : _) : Tokens.Statement (.mul t d a b) := congrArg some (tokOf_enc ..)
theorem Tokens.mulh (t : _) (d : _) (a : _) (b : _) : Tokens.Statement (.mulh t d a b) := congrArg some (tokOf_enc ..)
theorem Tokens.mulhu (t : _) (d : _) (a : _) (b : _) : Tokens.Statement (.mulhu t d a b) := congrArg some (tokOf_enc ..)
theorem Tokens.div (t : _) (d : _) (a : _) (b : _) : Tokens.Statement (.div t d a b) := congrArg some (tokOf_enc ..)
theorem Tokens.divu (t : _) (d : _) (a : _) (b : _) : Tokens.Statement (.divu t d a b) := congrArg some (tokOf_enc ..)
theorem Tokens.rem (t : _) (d : _) (a : _) (b : _) : Tokens.Statement (.rem t d a b) := congrArg some (tokOf_enc ..)
theorem Tokens.remu (t : _) (d : _) (a : _) (b : _) : Tokens.Statement (.remu t d a b) := congrArg some (tokOf_enc ..)
theorem Tokens.and (t : _) (d : _) (a : _) (b : _) : Tokens.Statement (.and t d a b) := congrArg some (tokOf_enc ..)
theorem Tokens.or (t : _) (d : _) (a : _) (b : _) : Tokens.Statement (.or t d a b) := congrArg some (tokOf_enc ..)
theorem Tokens.xor (t : _) (d : _) (a : _) (b : _) : Tokens.Statement (.xor t d a b) := congrArg some (tokOf_enc ..)
theorem Tokens.shl (t : _) (d : _) (a : _) (b : _) : Tokens.Statement (.shl t d a b) := congrArg some (tokOf_enc ..)
theorem Tokens.shr (t : _) (d : _) (a : _) (b : _) : Tokens.Statement (.shr t d a b) := congrArg some (tokOf_enc ..)
theorem Tokens.sra (t : _) (d : _) (a : _) (b : _) : Tokens.Statement (.sra t d a b) := congrArg some (tokOf_enc ..)
theorem Tokens.min (t : _) (d : _) (a : _) (b : _) : Tokens.Statement (.min t d a b) := congrArg some (tokOf_enc ..)
theorem Tokens.max (t : _) (d : _) (a : _) (b : _) : Tokens.Statement (.max t d a b) := congrArg some (tokOf_enc ..)
theorem Tokens.slt (t : _) (d : _) (a : _) (b : _) : Tokens.Statement (.slt t d a b) := congrArg some (tokOf_enc ..)
theorem Tokens.sltu (t : _) (d : _) (a : _) (b : _) : Tokens.Statement (.sltu t d a b) := congrArg some (tokOf_enc ..)
theorem Tokens.clz (t : _) (d : _) (a : _) : Tokens.Statement (.clz t d a) := congrArg some (tokOf_enc ..)
theorem Tokens.popc (t : _) (d : _) (a : _) : Tokens.Statement (.popc t d a) := congrArg some (tokOf_enc ..)
theorem Tokens.sext (t : _) (d : _) (a : _) (w : _) : Tokens.Statement (.sext t d a w) := congrArg some (tokOf_enc ..)
theorem Tokens.zext (t : _) (d : _) (a : _) (w : _) : Tokens.Statement (.zext t d a w) := congrArg some (tokOf_enc ..)
theorem Tokens.addi (t : _) (d : _) (a : _) (imm : _) : Tokens.Statement (.addi t d a imm) := congrArg some (tokOf_enc ..)
theorem Tokens.andi (t : _) (d : _) (a : _) (imm : _) : Tokens.Statement (.andi t d a imm) := congrArg some (tokOf_enc ..)
theorem Tokens.ori (t : _) (d : _) (a : _) (imm : _) : Tokens.Statement (.ori t d a imm) := congrArg some (tokOf_enc ..)
theorem Tokens.xori (t : _) (d : _) (a : _) (imm : _) : Tokens.Statement (.xori t d a imm) := congrArg some (tokOf_enc ..)
theorem Tokens.shli (t : _) (d : _) (a : _) (imm : _) : Tokens.Statement (.shli t d a imm) := congrArg some (tokOf_enc ..)
theorem Tokens.shri (t : _) (d : _) (a : _) (imm : _) : Tokens.Statement (.shri t d a imm) := congrArg some (tokOf_enc ..)
theorem Tokens.srai (t : _) (d : _) (a : _) (imm : _) : Tokens.Statement (.srai t d a imm) := congrArg some (tokOf_enc ..)
theorem Tokens.slti (t : _) (d : _) (a : _) (imm : _) : Tokens.Statement (.slti t d a imm) := congrArg some (tokOf_enc ..)
theorem Tokens.li (t : _) (d : _) (imm : _) : Tokens.Statement (.li t d imm) := congrArg some (tokOf_enc ..)
theorem Tokens.liwLo (t : _) (d : _) (imm : _) : Tokens.Statement (.liwLo t d imm) := congrArg some (tokOf_enc ..)
theorem Tokens.liwHi (t : _) (d : _) (imm : _) : Tokens.Statement (.liwHi t d imm) := congrArg some (tokOf_enc ..)
theorem Tokens.beq (t : _) (a : _) (b : _) (off : _) : Tokens.Statement (.beq t a b off) := congrArg some (tokOf_enc ..)
theorem Tokens.bne (t : _) (a : _) (b : _) (off : _) : Tokens.Statement (.bne t a b off) := congrArg some (tokOf_enc ..)
theorem Tokens.blt (t : _) (a : _) (b : _) (off : _) : Tokens.Statement (.blt t a b off) := congrArg some (tokOf_enc ..)
theorem Tokens.bge (t : _) (a : _) (b : _) (off : _) : Tokens.Statement (.bge t a b off) := congrArg some (tokOf_enc ..)
theorem Tokens.bltu (t : _) (a : _) (b : _) (off : _) : Tokens.Statement (.bltu t a b off) := congrArg some (tokOf_enc ..)
theorem Tokens.bgeu (t : _) (a : _) (b : _) (off : _) : Tokens.Statement (.bgeu t a b off) := congrArg some (tokOf_enc ..)
theorem Tokens.jmp (t : _) (off : _) : Tokens.Statement (.jmp t off) := congrArg some (tokOf_enc ..)
theorem Tokens.jal (t : _) (d : _) (off : _) : Tokens.Statement (.jal t d off) := congrArg some (tokOf_enc ..)
theorem Tokens.jr (t : _) (d : _) (a : _) (imm : _) : Tokens.Statement (.jr t d a imm) := congrArg some (tokOf_enc ..)
theorem Tokens.brq (t : _) (q : _) (sense : _) (off : _) : Tokens.Statement (.brq t q sense off) := congrArg some (tokOf_enc ..)
theorem Tokens.loop (t : _) (i : _) (a : _) (step : _) (body : _) : Tokens.Statement (.loop t i a step body) := congrArg some (tokOf_enc ..)
theorem Tokens.endl (t : _) : Tokens.Statement (.endl t) := congrArg some (tokOf_enc ..)
theorem Tokens.lds (t : _) (d : _) (a : _) (c : _) (imm : _) : Tokens.Statement (.lds t d a c imm) := congrArg some (tokOf_enc ..)
theorem Tokens.sts (t : _) (a : _) (b : _) (c : _) (imm : _) : Tokens.Statement (.sts t a b c imm) := congrArg some (tokOf_enc ..)
theorem Tokens.amo (t : _) (d : _) (a : _) (b : _) (c : _) (m : _) (imm : _) : Tokens.Statement (.amo t d a b c m imm) := congrArg some (tokOf_enc ..)
theorem Tokens.cas (t : _) (d : _) (a : _) (b : _) (c : _) (imm : _) : Tokens.Statement (.cas t d a b c imm) := congrArg some (tokOf_enc ..)
theorem Tokens.hset (t : _) (d : _) (a : _) (q : _) : Tokens.Statement (.hset t d a q) := congrArg some (tokOf_enc ..)
theorem Tokens.hget (t : _) (d : _) (a : _) (q : _) : Tokens.Statement (.hget t d a q) := congrArg some (tokOf_enc ..)
theorem Tokens.hmov (t : _) (d : _) (a : _) : Tokens.Statement (.hmov t d a) := congrArg some (tokOf_enc ..)
theorem Tokens.hadv (t : _) (d : _) (a : _) (axis : _) : Tokens.Statement (.hadv t d a axis) := congrArg some (tokOf_enc ..)
theorem Tokens.hview (t : _) (d : _) (a : _) (b : _) (sel : _) : Tokens.Statement (.hview t d a b sel) := congrArg some (tokOf_enc ..)
theorem Tokens.hclr (t : _) (d : _) : Tokens.Statement (.hclr t d) := congrArg some (tokOf_enc ..)
theorem Tokens.issue (t : _) (tgt : _) (n : _) : Tokens.Statement (.issue t tgt n) := congrArg some (tokOf_enc ..)
theorem Tokens.issuer (t : _) (tgt : _) (a : _) : Tokens.Statement (.issuer t tgt a) := congrArg some (tokOf_enc ..)
theorem Tokens.ringset (t : _) (tgt : _) (a : _) (b : _) : Tokens.Statement (.ringset t tgt a b) := congrArg some (tokOf_enc ..)
theorem Tokens.acq (t : _) (a : _) (scope : _) (m : _) : Tokens.Statement (.acq t a scope m) := congrArg some (tokOf_enc ..)
theorem Tokens.acqGrant (p : _) (k : _) : Tokens.Statement (.acqGrant p k) := rfl
theorem Tokens.rel (t : _) (a : _) (scope : _) (m : _) : Tokens.Statement (.rel t a scope m) := congrArg some (tokOf_enc ..)
theorem Tokens.fence (t : _) (scope : _) (m : _) : Tokens.Statement (.fence t scope m) := congrArg some (tokOf_enc ..)
theorem Tokens.barg (t : _) (a : _) (scope : _) (m : _) : Tokens.Statement (.barg t a scope m) := congrArg some (tokOf_enc ..)
theorem Tokens.bargArrival (p : _) (k : _) : Tokens.Statement (.bargArrival p k) := rfl
theorem Tokens.bargComplete (p : _) (k : _) : Tokens.Statement (.bargComplete p k) := rfl
theorem Tokens.bind (t : _) (a : _) (b : _) (c : _) (m : _) (idx : _) : Tokens.Statement (.bind t a b c m idx) := congrArg some (tokOf_enc ..)
theorem Tokens.unbind (t : _) (m : _) (idx : _) : Tokens.Statement (.unbind t m idx) := congrArg some (tokOf_enc ..)
theorem Tokens.split (t : _) (shape : _) (ori : _) (acc : _) : Tokens.Statement (.split t shape ori acc) := congrArg some (tokOf_enc ..)
theorem Tokens.splitChange (l : _) : Tokens.Statement (.splitChange l) := rfl
theorem Tokens.fuse (t : _) (dy : _) (dx : _) (shape : _) (ori : _) (acc : _) : Tokens.Statement (.fuse t dy dx shape ori acc) := congrArg some (tokOf_enc ..)
theorem Tokens.fuseChange (l : _) : Tokens.Statement (.fuseChange l) := rfl
theorem Tokens.chain (t : _) (dy : _) (dx : _) (shape : _) (ori : _) : Tokens.Statement (.chain t dy dx shape ori) := congrArg some (tokOf_enc ..)
theorem Tokens.chainChange (l : _) : Tokens.Statement (.chainChange l) := rfl
theorem Tokens.unchain (t : _) (dy : _) (dx : _) (shape : _) (ori : _) : Tokens.Statement (.unchain t dy dx shape ori) := congrArg some (tokOf_enc ..)
theorem Tokens.unchainChange (l : _) : Tokens.Statement (.unchainChange l) := rfl
theorem Tokens.orient (t : _) (ori : _) (acc : _) : Tokens.Statement (.orient t ori acc) := congrArg some (tokOf_enc ..)
theorem Tokens.orientChange (l : _) : Tokens.Statement (.orientChange l) := rfl
theorem Tokens.spawn (t : _) (d : _) (a : _) (b : _) (n : _) : Tokens.Statement (.spawn t d a b n) := congrArg some (tokOf_enc ..)
theorem Tokens.join (t : _) (d : _) (a : _) : Tokens.Statement (.join t d a) := congrArg some (tokOf_enc ..)
theorem Tokens.joinComplete (l : _) : Tokens.Statement (.joinComplete l) := rfl
theorem Tokens.kill (t : _) (a : _) : Tokens.Statement (.kill t a) := congrArg some (tokOf_enc ..)
theorem Tokens.killSelf (t : _) : Tokens.Statement (.killSelf t) := congrArg some (tokOf_enc ..)
theorem Tokens.killComplete (l : _) : Tokens.Statement (.killComplete l) := rfl
theorem Tokens.quies (t : _) (d : _) (a : _) : Tokens.Statement (.quies t d a) := congrArg some (tokOf_enc ..)
theorem Tokens.quiesComplete (l : _) : Tokens.Statement (.quiesComplete l) := rfl
theorem Tokens.cbld (t : _) (a : _) (slot : _) : Tokens.Statement (.cbld t a slot) := congrArg some (tokOf_enc ..)
theorem Tokens.xload (t : _) (a : _) (slot : _) : Tokens.Statement (.xload t a slot) := congrArg some (tokOf_enc ..)
theorem Tokens.xunld (t : _) (slot : _) : Tokens.Statement (.xunld t slot) := congrArg some (tokOf_enc ..)
theorem Tokens.bupd (t : _) (a : _) (b : _) : Tokens.Statement (.bupd t a b) := congrArg some (tokOf_enc ..)
theorem Tokens.affp (t : _) (a : _) (b : _) (pf : _) : Tokens.Statement (.affp t a b pf) := congrArg some (tokOf_enc ..)
theorem Tokens.rdcyc (t : _) (d : _) : Tokens.Statement (.rdcyc t d) := congrArg some (tokOf_enc ..)
theorem Tokens.rdvc (t : _) (d : _) : Tokens.Statement (.rdvc t d) := congrArg some (tokOf_enc ..)
theorem Tokens.pcsel (t : _) (m : _) : Tokens.Statement (.pcsel t m) := congrArg some (tokOf_enc ..)
theorem Tokens.pcrd (t : _) (d : _) (idx : _) : Tokens.Statement (.pcrd t d idx) := congrArg some (tokOf_enc ..)
theorem Tokens.clkrd (t : _) (d : _) (a : _) (sel : _) : Tokens.Statement (.clkrd t d a sel) := congrArg some (tokOf_enc ..)
theorem Tokens.trap (t : _) (imm : _) : Tokens.Statement (.trap t imm) := congrArg some (tokOf_enc ..)
theorem Tokens.eret (t : _) : Tokens.Statement (.eret t) := congrArg some (tokOf_enc ..)
theorem Tokens.tren (t : _) : Tokens.Statement (.tren t) := congrArg some (tokOf_enc ..)
theorem Tokens.uiret (t : _) : Tokens.Statement (.uiret t) := congrArg some (tokOf_enc ..)
theorem Tokens.csrr (t : _) (d : _) (num : _) : Tokens.Statement (.csrr t d num) := congrArg some (tokOf_enc ..)
theorem Tokens.csrw (t : _) (a : _) (num : _) : Tokens.Statement (.csrw t a num) := congrArg some (tokOf_enc ..)
theorem Tokens.yield (t : _) : Tokens.Statement (.yield t) := congrArg some (tokOf_enc ..)
theorem Tokens.endTask (t : _) : Tokens.Statement (.endTask t) := congrArg some (tokOf_enc ..)
theorem Tokens.taskRetire (l : _) : Tokens.Statement (.taskRetire l) := rfl
theorem Tokens.tmark (t : _) (tag : _) : Tokens.Statement (.tmark t tag) := congrArg some (tokOf_enc ..)
theorem Tokens.lgo (t : _) : Tokens.Statement (.lgo t) := congrArg some (tokOf_enc ..)
theorem Tokens.lcancel (t : _) : Tokens.Statement (.lcancel t) := congrArg some (tokOf_enc ..)
theorem Tokens.lrepeat (t : _) : Tokens.Statement (.lrepeat t) := congrArg some (tokOf_enc ..)
theorem Tokens.lsNop (t : _) : Tokens.Statement (.lsNop t) := congrArg some (tokOf_enc ..)
theorem Tokens.copy (t : _) (dh : _) (sh : _) (scope : _) : Tokens.Statement (.copy t dh sh scope) := congrArg some (tokOf_enc ..)
theorem Tokens.copyDq (t : _) (dh : _) (sh : _) (scope : _) : Tokens.Statement (.copyDq t dh sh scope) := congrArg some (tokOf_enc ..)
theorem Tokens.copyp (t : _) (dh : _) (sh : _) (xh : _) (dq : _) (scope : _) : Tokens.Statement (.copyp t dh sh xh dq scope) := congrArg some (tokOf_enc ..)
theorem Tokens.gath (t : _) (dh : _) (sh : _) (xh : _) (dq : _) (scope : _) (m : _) : Tokens.Statement (.gath t dh sh xh dq scope m) := congrArg some (tokOf_enc ..)
theorem Tokens.scat (t : _) (dh : _) (sh : _) (xh : _) (dq : _) (scope : _) : Tokens.Statement (.scat t dh sh xh dq scope) := congrArg some (tokOf_enc ..)
theorem Tokens.pref (t : _) (sh : _) (scope : _) : Tokens.Statement (.pref t sh scope) := congrArg some (tokOf_enc ..)
theorem Tokens.flush (t : _) (sh : _) (scope : _) : Tokens.Statement (.flush t sh scope) := congrArg some (tokOf_enc ..)
theorem Tokens.inval (t : _) (sh : _) (scope : _) : Tokens.Statement (.inval t sh scope) := congrArg some (tokOf_enc ..)
theorem Tokens.dcmpf (t : _) (sh : _) (scope : _) : Tokens.Statement (.dcmpf t sh scope) := congrArg some (tokOf_enc ..)
theorem Tokens.atomv (t : _) (dh : _) (sh : _) (dq : _) (scope : _) (m : _) : Tokens.Statement (.atomv t dh sh dq scope m) := congrArg some (tokOf_enc ..)
theorem Tokens.rread (t : _) (dh : _) (sh : _) (dq : _) (scope : _) : Tokens.Statement (.rread t dh sh dq scope) := congrArg some (tokOf_enc ..)
theorem Tokens.rwrite (t : _) (dh : _) (sh : _) (dq : _) (scope : _) : Tokens.Statement (.rwrite t dh sh dq scope) := congrArg some (tokOf_enc ..)
theorem Tokens.rwriteWin (t : _) (dh : _) (sh : _) (dq : _) (scope : _) : Tokens.Statement (.rwriteWin t dh sh dq scope) := congrArg some (tokOf_enc ..)
theorem Tokens.ratom (t : _) (dh : _) (sh : _) (xh : _) (scope : _) (m : _) (same : _) (w64 : _) (fetch : _) : Tokens.Statement (.ratom t dh sh xh scope m same w64 fetch) := congrArg some (tokOf_enc ..)
theorem Tokens.kvget (t : _) (xh : _) (scope : _) (m : _) (peer : _) : Tokens.Statement (.kvget t xh scope m peer) := congrArg some (tokOf_enc ..)
theorem Tokens.kvput (t : _) (xh : _) (scope : _) (m : _) (peer : _) : Tokens.Statement (.kvput t xh scope m peer) := congrArg some (tokOf_enc ..)
theorem Tokens.job (t : _) (sh : _) (scope : _) (n : _) : Tokens.Statement (.job t sh scope n) := congrArg some (tokOf_enc ..)
theorem Tokens.lsRep (t : _) (cnt : _) (len : _) : Tokens.Statement (.lsRep t cnt len) := congrArg some (tokOf_enc ..)
theorem Tokens.outq (t : _) (sh : _) (scope : _) (m : _) (imm : _) : Tokens.Statement (.outq t sh scope m imm) := congrArg some (tokOf_enc ..)
theorem Tokens.wlapp (t : _) (dh : _) (sh : _) (scope : _) (m : _) : Tokens.Statement (.wlapp t dh sh scope m) := congrArg some (tokOf_enc ..)
theorem Tokens.wltake (t : _) (dh : _) (sh : _) (scope : _) (m : _) (max : _) (list : _) : Tokens.Statement (.wltake t dh sh scope m max list) := congrArg some (tokOf_enc ..)
theorem Tokens.wlseal (t : _) (sh : _) (scope : _) (stream : _) : Tokens.Statement (.wlseal t sh scope stream) := congrArg some (tokOf_enc ..)
theorem Tokens.lsTmark (t : _) (tag : _) : Tokens.Statement (.lsTmark t tag) := congrArg some (tokOf_enc ..)
theorem Tokens.cpNop (t : _) : Tokens.Statement (.cpNop t) := congrArg some (tokOf_enc ..)
theorem Tokens.mxld (t : _) (g : _) (pro : _) (sgn : _) : Tokens.Statement (.mxld t g pro sgn) := congrArg some (tokOf_enc ..)
theorem Tokens.mxldRowArrival (l : _) (j : _) : Tokens.Statement (.mxldRowArrival l j) := rfl
theorem Tokens.mxswap (t : _) : Tokens.Statement (.mxswap t) := congrArg some (tokOf_enc ..)
theorem Tokens.mxmul (t : _) (h : _) (g : _) (acc : _) (f : _) (imm : _) : Tokens.Statement (.mxmul t h g acc f imm) := congrArg some (tokOf_enc ..)
theorem Tokens.mxlut (t : _) (h : _) (g : _) (acc : _) (f : _) (imm : _) : Tokens.Statement (.mxlut t h g acc f imm) := congrArg some (tokOf_enc ..)
theorem Tokens.mxcfg (t : _) (h : _) (imm : _) : Tokens.Statement (.mxcfg t h imm) := congrArg some (tokOf_enc ..)
theorem Tokens.mxbs (t : _) (h : _) (g : _) (acc : _) (f : _) (imm : _) : Tokens.Statement (.mxbs t h g acc f imm) := congrArg some (tokOf_enc ..)
theorem Tokens.mxdrain (t : _) (g : _) (acc : _) (f : _) (imm : _) : Tokens.Statement (.mxdrain t g acc f imm) := congrArg some (tokOf_enc ..)
theorem Tokens.mxzero (t : _) (acc : _) : Tokens.Statement (.mxzero t acc) := congrArg some (tokOf_enc ..)
theorem Tokens.mxrd (t : _) (acc : _) (v : _) (r : _) : Tokens.Statement (.mxrd t acc v r) := congrArg some (tokOf_enc ..)
theorem Tokens.mxwr (t : _) (acc : _) (v : _) (r : _) : Tokens.Statement (.mxwr t acc v r) := congrArg some (tokOf_enc ..)
theorem Tokens.chainRowEnter (l : _) : Tokens.Statement (.chainRowEnter l) := rfl
theorem Tokens.atPin (t : _) (rel : _) (target : _) : Tokens.Statement (.atPin t rel target) := congrArg some (tokOf_enc ..)
theorem Tokens.scheduleMiss (l : _) : Tokens.Statement (.scheduleMiss l) := rfl
theorem Tokens.cpRep (t : _) (cnt : _) (len : _) : Tokens.Statement (.cpRep t cnt len) := congrArg some (tokOf_enc ..)
theorem Tokens.selk (t : _) (h : _) (g : _) (k : _) (cnt : _) : Tokens.Statement (.selk t h g k cnt) := congrArg some (tokOf_enc ..)
theorem Tokens.cpTmark (t : _) (tag : _) : Tokens.Statement (.cpTmark t tag) := congrArg some (tokOf_enc ..)
theorem Tokens.vadd (t : _) (d : _) (a : _) (b : _) : Tokens.Statement (.vadd t d a b) := congrArg some (tokOf_enc ..)
theorem Tokens.vsub (t : _) (d : _) (a : _) (b : _) : Tokens.Statement (.vsub t d a b) := congrArg some (tokOf_enc ..)
theorem Tokens.vmul (t : _) (d : _) (a : _) (b : _) : Tokens.Statement (.vmul t d a b) := congrArg some (tokOf_enc ..)
theorem Tokens.vfma (t : _) (d : _) (a : _) (b : _) (c : _) : Tokens.Statement (.vfma t d a b c) := congrArg some (tokOf_enc ..)
theorem Tokens.vfms (t : _) (d : _) (a : _) (b : _) (c : _) : Tokens.Statement (.vfms t d a b c) := congrArg some (tokOf_enc ..)
theorem Tokens.vfnma (t : _) (d : _) (a : _) (b : _) (c : _) : Tokens.Statement (.vfnma t d a b c) := congrArg some (tokOf_enc ..)
theorem Tokens.vmin (t : _) (d : _) (a : _) (b : _) : Tokens.Statement (.vmin t d a b) := congrArg some (tokOf_enc ..)
theorem Tokens.vmax (t : _) (d : _) (a : _) (b : _) : Tokens.Statement (.vmax t d a b) := congrArg some (tokOf_enc ..)
theorem Tokens.vabs (t : _) (d : _) (a : _) : Tokens.Statement (.vabs t d a) := congrArg some (tokOf_enc ..)
theorem Tokens.vneg (t : _) (d : _) (a : _) : Tokens.Statement (.vneg t d a) := congrArg some (tokOf_enc ..)
theorem Tokens.vdiv (t : _) (d : _) (a : _) (b : _) (m : _) : Tokens.Statement (.vdiv t d a b m) := congrArg some (tokOf_enc ..)
theorem Tokens.vsqrt (t : _) (d : _) (a : _) : Tokens.Statement (.vsqrt t d a) := congrArg some (tokOf_enc ..)
theorem Tokens.vrcp (t : _) (d : _) (a : _) : Tokens.Statement (.vrcp t d a) := congrArg some (tokOf_enc ..)
theorem Tokens.vrsq (t : _) (d : _) (a : _) : Tokens.Statement (.vrsq t d a) := congrArg some (tokOf_enc ..)
theorem Tokens.vexp2 (t : _) (d : _) (a : _) : Tokens.Statement (.vexp2 t d a) := congrArg some (tokOf_enc ..)
theorem Tokens.vlog2 (t : _) (d : _) (a : _) : Tokens.Statement (.vlog2 t d a) := congrArg some (tokOf_enc ..)
theorem Tokens.vtab (t : _) (d : _) (a : _) (tab : _) : Tokens.Statement (.vtab t d a tab) := congrArg some (tokOf_enc ..)
theorem Tokens.vscale (t : _) (d : _) (a : _) (k : _) : Tokens.Statement (.vscale t d a k) := congrArg some (tokOf_enc ..)
theorem Tokens.viadd (t : _) (d : _) (a : _) (b : _) (m : _) : Tokens.Statement (.viadd t d a b m) := congrArg some (tokOf_enc ..)
theorem Tokens.visub (t : _) (d : _) (a : _) (b : _) (m : _) : Tokens.Statement (.visub t d a b m) := congrArg some (tokOf_enc ..)
theorem Tokens.vimul (t : _) (d : _) (a : _) (b : _) (m : _) : Tokens.Statement (.vimul t d a b m) := congrArg some (tokOf_enc ..)
theorem Tokens.vimad (t : _) (d : _) (a : _) (b : _) (c : _) : Tokens.Statement (.vimad t d a b c) := congrArg some (tokOf_enc ..)
theorem Tokens.vand (t : _) (d : _) (a : _) (b : _) : Tokens.Statement (.vand t d a b) := congrArg some (tokOf_enc ..)
theorem Tokens.vor (t : _) (d : _) (a : _) (b : _) : Tokens.Statement (.vor t d a b) := congrArg some (tokOf_enc ..)
theorem Tokens.vxor (t : _) (d : _) (a : _) (b : _) : Tokens.Statement (.vxor t d a b) := congrArg some (tokOf_enc ..)
theorem Tokens.vnot (t : _) (d : _) (a : _) : Tokens.Statement (.vnot t d a) := congrArg some (tokOf_enc ..)
theorem Tokens.vshl (t : _) (d : _) (a : _) (b : _) : Tokens.Statement (.vshl t d a b) := congrArg some (tokOf_enc ..)
theorem Tokens.vshr (t : _) (d : _) (a : _) (b : _) : Tokens.Statement (.vshr t d a b) := congrArg some (tokOf_enc ..)
theorem Tokens.vsra (t : _) (d : _) (a : _) (b : _) : Tokens.Statement (.vsra t d a b) := congrArg some (tokOf_enc ..)
theorem Tokens.vimin (t : _) (d : _) (a : _) (b : _) (m : _) : Tokens.Statement (.vimin t d a b m) := congrArg some (tokOf_enc ..)
theorem Tokens.vimax (t : _) (d : _) (a : _) (b : _) (m : _) : Tokens.Statement (.vimax t d a b m) := congrArg some (tokOf_enc ..)
theorem Tokens.vcmp (t : _) (d : _) (a : _) (b : _) (m : _) : Tokens.Statement (.vcmp t d a b m) := congrArg some (tokOf_enc ..)
theorem Tokens.vsel (t : _) (d : _) (a : _) (b : _) (c : _) : Tokens.Statement (.vsel t d a b c) := congrArg some (tokOf_enc ..)
theorem Tokens.vclass (t : _) (d : _) (a : _) : Tokens.Statement (.vclass t d a) := congrArg some (tokOf_enc ..)
theorem Tokens.vcvt (t : _) (d : _) (a : _) (fa : _) (fb : _) (sat : _) : Tokens.Statement (.vcvt t d a fa fb sat) := congrArg some (tokOf_enc ..)
theorem Tokens.vpack (t : _) (d : _) (a : _) (b : _) (fa : _) (fb : _) (sat : _) : Tokens.Statement (.vpack t d a b fa fb sat) := congrArg some (tokOf_enc ..)
theorem Tokens.vunpk (t : _) (d : _) (a : _) (b : _) (fa : _) (fb : _) (sat : _) : Tokens.Statement (.vunpk t d a b fa fb sat) := congrArg some (tokOf_enc ..)
theorem Tokens.vqnt (t : _) (d : _) (a : _) (fa : _) (fb : _) (sat : _) : Tokens.Statement (.vqnt t d a fa fb sat) := congrArg some (tokOf_enc ..)
theorem Tokens.vdeq (t : _) (d : _) (a : _) (fa : _) (fb : _) (sat : _) : Tokens.Statement (.vdeq t d a fa fb sat) := congrArg some (tokOf_enc ..)
theorem Tokens.vred (t : _) (d : _) (a : _) (m : _) : Tokens.Statement (.vred t d a m) := congrArg some (tokOf_enc ..)
theorem Tokens.vscan (t : _) (d : _) (a : _) (m : _) : Tokens.Statement (.vscan t d a m) := congrArg some (tokOf_enc ..)
theorem Tokens.vperm (t : _) (d : _) (a : _) (b : _) (g : _) : Tokens.Statement (.vperm t d a b g) := congrArg some (tokOf_enc ..)
theorem Tokens.vrot (t : _) (d : _) (a : _) (g : _) (k : _) : Tokens.Statement (.vrot t d a g k) := congrArg some (tokOf_enc ..)
theorem Tokens.vbcast (t : _) (d : _) (a : _) (g : _) (n : _) : Tokens.Statement (.vbcast t d a g n) := congrArg some (tokOf_enc ..)
theorem Tokens.vslide (t : _) (d : _) (a : _) (g : _) (k : _) : Tokens.Statement (.vslide t d a g k) := congrArg some (tokOf_enc ..)
theorem Tokens.vidx (t : _) (d : _) (a : _) (g : _) (step : _) : Tokens.Statement (.vidx t d a g step) := congrArg some (tokOf_enc ..)
theorem Tokens.vpart (t : _) (d : _) (a : _) (b : _) (g : _) (kind : _) : Tokens.Statement (.vpart t d a b g kind) := congrArg some (tokOf_enc ..)
theorem Tokens.vmov (t : _) (d : _) (a : _) : Tokens.Statement (.vmov t d a) := congrArg some (tokOf_enc ..)
theorem Tokens.vli (t : _) (d : _) (imm : _) : Tokens.Statement (.vli t d imm) := congrArg some (tokOf_enc ..)
theorem Tokens.vliHi (t : _) (d : _) (imm : _) : Tokens.Statement (.vliHi t d imm) := congrArg some (tokOf_enc ..)
theorem Tokens.vtos (t : _) (d : _) (m : _) (lane : _) : Tokens.Statement (.vtos t d m lane) := congrArg some (tokOf_enc ..)
theorem Tokens.vfrs (t : _) (d : _) (h : _) (imm : _) : Tokens.Statement (.vfrs t d h imm) := congrArg some (tokOf_enc ..)
theorem Tokens.vpop (t : _) (d : _) : Tokens.Statement (.vpop t d) := congrArg some (tokOf_enc ..)
theorem Tokens.vpush (t : _) (d : _) : Tokens.Statement (.vpush t d) := congrArg some (tokOf_enc ..)
theorem Tokens.vout (t : _) (d : _) (m : _) (imm : _) : Tokens.Statement (.vout t d m imm) := congrArg some (tokOf_enc ..)
theorem Tokens.vld (t : _) (d : _) (h : _) (m : _) (imm : _) : Tokens.Statement (.vld t d h m imm) := congrArg some (tokOf_enc ..)
theorem Tokens.vst (t : _) (d : _) (h : _) (m : _) (imm : _) : Tokens.Statement (.vst t d h m imm) := congrArg some (tokOf_enc ..)
theorem Tokens.cpWlapp (t : _) (d : _) (h : _) (m : _) (base : _) : Tokens.Statement (.cpWlapp t d h m base) := congrArg some (tokOf_enc ..)
theorem Tokens.xop (t : _) (slot : _) (d : _) (a : _) (b : _) (c : _) (e : _) : Tokens.Statement (.xop t slot d a b c e) := congrArg some (tokOf_enc ..)
theorem Tokens.vectorWriteback (l : _) : Tokens.Statement (.vectorWriteback l) := rfl
theorem Tokens.completion (l : _) : Tokens.Statement (.completion l) := rfl
theorem Tokens.slotTableCycle (kind : _) (unit : _) : Tokens.Statement (.slotTableCycle kind unit) := rfl
theorem Tokens.copySegment (l : _) (k : _) : Tokens.Statement (.copySegment l k) := rfl
theorem Tokens.homeAccess (k : _) : Tokens.Statement (.homeAccess k) := rfl
theorem Tokens.trapEntry (l : _) : Tokens.Statement (.trapEntry l) := rfl
theorem Tokens.uirqDelivery (l : _) : Tokens.Statement (.uirqDelivery l) := rfl
theorem Tokens.faultEntryWrite (p : _) : Tokens.Statement (.faultEntryWrite p) := rfl
theorem Tokens.watchdogExpiry (l : _) : Tokens.Statement (.watchdogExpiry l) := rfl
theorem Tokens.engineHaltStop (p : _) (k : _) : Tokens.Statement (.engineHaltStop p k) := rfl
theorem Tokens.preemption (l : _) : Tokens.Statement (.preemption l) := rfl
theorem Tokens.contextSave (l : _) : Tokens.Statement (.contextSave l) := rfl
theorem Tokens.imageDrain (l : _) : Tokens.Statement (.imageDrain l) := rfl
theorem Tokens.imageRestore (l : _) : Tokens.Statement (.imageRestore l) := rfl
theorem Tokens.launchPacket (p : _) (r : _) : Tokens.Statement (.launchPacket p r) := rfl
theorem Tokens.nopPacket (p : _) (r : _) : Tokens.Statement (.nopPacket p r) := rfl
theorem Tokens.invalidPacket (p : _) (r : _) : Tokens.Statement (.invalidPacket p r) := rfl
theorem Tokens.prologueWatchdog (l : _) : Tokens.Statement (.prologueWatchdog l) := rfl
theorem Tokens.prologueRepeat (p : _) (r : _) : Tokens.Statement (.prologueRepeat p r) := rfl
theorem Tokens.dataFlitReceive (m : _) (toB : _) (hdr : _) (payload : _) (crc : _) : Tokens.Statement (.dataFlitReceive m toB hdr payload crc) := rfl
theorem Tokens.nakReceive (m : _) (toB : _) (hdr : _) : Tokens.Statement (.nakReceive m toB hdr) := rfl
theorem Tokens.idleFlit (m : _) (toB : _) (hdr : _) : Tokens.Statement (.idleFlit m toB hdr) := rfl
theorem Tokens.replayTimerExpiry (m : _) (atB : _) : Tokens.Statement (.replayTimerExpiry m atB) := rfl
theorem Tokens.retrainComplete (m : _) : Tokens.Statement (.retrainComplete m) := rfl
theorem Tokens.ratomRequestArrival (k : _) : Tokens.Statement (.ratomRequestArrival k) := rfl
theorem Tokens.ratomResultArrival (k : _) : Tokens.Statement (.ratomResultArrival k) := rfl
theorem Tokens.ratomResendTimer (k : _) : Tokens.Statement (.ratomResendTimer k) := rfl
theorem Tokens.windowClose (k : _) : Tokens.Statement (.windowClose k) := rfl
theorem Tokens.windowRetry (k : _) : Tokens.Statement (.windowRetry k) := rfl
theorem Tokens.worklistItem (d : _) : Tokens.Statement (.worklistItem d) := rfl
theorem Tokens.worklistSealApply (d : _) : Tokens.Statement (.worklistSealApply d) := rfl
theorem Tokens.worklistTakeApply (d : _) : Tokens.Statement (.worklistTakeApply d) := rfl
theorem Tokens.worklistQuiescence (p : _) (desc : _) : Tokens.Statement (.worklistQuiescence p desc) := rfl
theorem Tokens.leaseGrant : Tokens.Statement (.leaseGrant) := rfl
theorem Tokens.packageReset : Tokens.Statement (.packageReset) := rfl
theorem Tokens.linkHotReset : Tokens.Statement (.linkHotReset) := rfl
theorem Tokens.heartbeat : Tokens.Statement (.heartbeat) := rfl
theorem Tokens.standbyTakeover : Tokens.Statement (.standbyTakeover) := rfl
theorem Tokens.mainClockTick : Tokens.Statement (.mainClockTick) := rfl
theorem Tokens.ringPlacement (l : _) : Tokens.Statement (.ringPlacement l) := rfl
theorem Tokens.genSweep (p : _) : Tokens.Statement (.genSweep p) := rfl
theorem Tokens.pageMigration (p : _) (va : _) (newEntry : _) : Tokens.Statement (.pageMigration p va newEntry) := rfl
theorem Tokens.fqres (p : _) (v : _) : Tokens.Statement (.fqres p v) := rfl
theorem Tokens.haltLineRise (p : _) (cause : _) : Tokens.Statement (.haltLineRise p cause) := rfl
theorem Tokens.hrdb (p : _) (r : _) : Tokens.Statement (.hrdb p r) := rfl
theorem Tokens.hrctlEnable (p : _) (r : _) (v : _) : Tokens.Statement (.hrctlEnable p r v) := rfl
theorem Tokens.hrctlDisable (p : _) (r : _) (v : _) : Tokens.Statement (.hrctlDisable p r v) := rfl
theorem Tokens.eqctlEnable (p : _) (q : _) (v : _) : Tokens.Statement (.eqctlEnable p q v) := rfl
theorem Tokens.tlbinvPage (p : _) (v : _) : Tokens.Statement (.tlbinvPage p v) := rfl
theorem Tokens.tlbinvAll (p : _) : Tokens.Statement (.tlbinvAll p) := rfl
theorem Tokens.tlbinvDone (p : _) : Tokens.Statement (.tlbinvDone p) := rfl
theorem Tokens.tlbinvstatRead (p : _) : Tokens.Statement (.tlbinvstatRead p) := rfl
theorem Tokens.atsResponse (p : _) (k : _) (present : _) (pa : _) : Tokens.Statement (.atsResponse p k present pa) := rfl
theorem Tokens.priResponse (p : _) (k : _) (success : _) : Tokens.Statement (.priResponse p k success) := rfl
theorem Tokens.detourFixed (a : _) (b : _) (path : _) : Tokens.Statement (.detourFixed a b path) := rfl
theorem Tokens.batchStep (p : _) (b : _) : Tokens.Statement (.batchStep p b) := rfl
theorem Tokens.batchStepFail (p : _) (b : _) : Tokens.Statement (.batchStepFail p b) := rfl
theorem Tokens.bcdb (p : _) (b : _) : Tokens.Statement (.bcdb p b) := rfl
theorem Tokens.bcctlEnable (p : _) (b : _) : Tokens.Statement (.bcctlEnable p b) := rfl
theorem Tokens.bcctlDisable (p : _) (b : _) : Tokens.Statement (.bcctlDisable p b) := rfl
theorem Tokens.dbgcmdStop (p : _) : Tokens.Statement (.dbgcmdStop p) := rfl
theorem Tokens.dbgcmdResume (p : _) : Tokens.Statement (.dbgcmdResume p) := rfl
theorem Tokens.dbgcmdBitmapSync (p : _) : Tokens.Statement (.dbgcmdBitmapSync p) := rfl
theorem Tokens.dbgstatRead (p : _) : Tokens.Statement (.dbgstatRead p) := rfl
theorem Tokens.dbgreplay (p : _) (addr : _) : Tokens.Statement (.dbgreplay p addr) := rfl
theorem Tokens.stopEdge (p : _) : Tokens.Statement (.stopEdge p) := rfl
theorem Tokens.stopVcReached (p : _) : Tokens.Statement (.stopVcReached p) := rfl
theorem Tokens.sampleRecord (p : _) : Tokens.Statement (.sampleRecord p) := rfl
theorem Tokens.replayEnd (p : _) : Tokens.Statement (.replayEnd p) := rfl
theorem Tokens.phalt (p : _) : Tokens.Statement (.phalt p) := rfl
theorem Tokens.preemptWrite (p : _) (rcb : _) : Tokens.Statement (.preemptWrite p rcb) := rfl
theorem Tokens.restoreWrite (p : _) (rcb : _) : Tokens.Statement (.restoreWrite p rcb) := rfl
theorem Tokens.rcbkill (p : _) (rcb : _) : Tokens.Statement (.rcbkill p rcb) := rfl
theorem Tokens.rcbkstatRead (p : _) : Tokens.Statement (.rcbkstatRead p) := rfl
theorem Tokens.partitionReset (p : _) : Tokens.Statement (.partitionReset p) := rfl
theorem Tokens.liveUpdate (sigOk : _) (versionOk : _) (image : _) : Tokens.Statement (.liveUpdate sigOk versionOk image) := rfl
theorem Tokens.stateTableApply (n : _) : Tokens.Statement (.stateTableApply n) := rfl
theorem Tokens.thermalThrottle (powerOver : _) (tj : _) : Tokens.Statement (.thermalThrottle powerOver tj) := rfl
theorem Tokens.thermalHalt (tj : _) : Tokens.Statement (.thermalHalt tj) := rfl
theorem Tokens.ageingUpdate (d : _) (plot : _) (v : _) : Tokens.Statement (.ageingUpdate d plot v) := rfl
theorem Tokens.plotAbsentMark (d : _) (plot : _) : Tokens.Statement (.plotAbsentMark d plot) := rfl
theorem Tokens.scrubPass (errors : _) : Tokens.Statement (.scrubPass errors) := rfl
theorem Tokens.healthRefresh (d : _) : Tokens.Statement (.healthRefresh d) := rfl
theorem Tokens.registerWrite (p : _) (off : _) (v : _) : Tokens.Statement (.registerWrite p off v) := rfl
theorem Tokens.hostBarAccess (p : _) (va : _) (kind : _) (size : _) (data : _) (cmp : _) : Tokens.Statement (.hostBarAccess p va kind size data cmp) := rfl
theorem Tokens.atsInvalidation (p : _) (va : _) : Tokens.Statement (.atsInvalidation p va) := rfl
theorem Tokens.doeRequest (req : _) : Tokens.Statement (.doeRequest req) := rfl
theorem Tokens.fabricRequestReceive (pkg : _) (rpart : _) (p : _) (aid : _) (kind : _) (req : _) (va : _) (data : _) (cmp : _) (bytes : _) : Tokens.Statement (.fabricRequestReceive pkg rpart p aid kind req va data cmp bytes) := rfl
theorem Tokens.ueMessageReceive (pkg : _) (rpart : _) (p : _) (aid : _) (kind : _) (req : _) (page : _) (bytes : _) : Tokens.Statement (.ueMessageReceive pkg rpart p aid kind req page bytes) := rfl
theorem Tokens.ualinkStationLoss (station : _) (up : _) : Tokens.Statement (.ualinkStationLoss station up) := rfl
theorem Tokens.uePortLoss (port : _) (up : _) : Tokens.Statement (.uePortLoss port up) := rfl
theorem Tokens.ddrChannelRemoval (channel : _) : Tokens.Statement (.ddrChannelRemoval channel) := rfl
theorem Tokens.healthPolicyRetrain (m : _) : Tokens.Statement (.healthPolicyRetrain m) := rfl

end Sys2Proof.Laws
end

