-- ==== Sys2Proof/Laws/State.lean ====
section
/-! SUPPORT. Laws/State.lean: one lemma for each field under each update of the state record and of the lease and partition in it,
so that no later proof unfolds a record update. -/

namespace Sys2Proof.Laws

set_option Elab.async false

open Machine

/-! ## The state under its updates -/

@[simp] theorem onCur_datum (s : State) (f : Lease → Lease) : (s.onCur f).datum = s.datum := rfl
@[simp] theorem onCur_cur (s : State) (f : Lease → Lease) : (s.onCur f).cur = f s.cur := rfl
@[simp] theorem onCur_curStream (s : State) (f : Lease → Lease) : (s.onCur f).curStream = s.curStream := rfl
@[simp] theorem onCur_rest (s : State) (f : Lease → Lease) : (s.onCur f).rest = s.rest := rfl
@[simp] theorem onCur_nextLease (s : State) (f : Lease → Lease) : (s.onCur f).nextLease = s.nextLease := rfl
@[simp] theorem onCur_inbox (s : State) (f : Lease → Lease) : (s.onCur f).inbox = s.inbox := rfl
@[simp] theorem onCur_turn (s : State) (f : Lease → Lease) : (s.onCur f).turn = s.turn := rfl
@[simp] theorem onCur_mem (s : State) (f : Lease → Lease) : (s.onCur f).mem = s.mem := rfl
@[simp] theorem onCur_gmeta (s : State) (f : Lease → Lease) : (s.onCur f).gmeta = s.gmeta := rfl
@[simp] theorem onCur_keyTag (s : State) (f : Lease → Lease) : (s.onCur f).keyTag = s.keyTag := rfl
@[simp] theorem onCur_keyLoad (s : State) (f : Lease → Lease) : (s.onCur f).keyLoad = s.keyLoad := rfl
@[simp] theorem onCur_marks (s : State) (f : Lease → Lease) : (s.onCur f).marks = s.marks := rfl
@[simp] theorem onCur_vecs (s : State) (f : Lease → Lease) : (s.onCur f).vecs = s.vecs := rfl
@[simp] theorem onCur_nextVec (s : State) (f : Lease → Lease) : (s.onCur f).nextVec = s.nextVec := rfl
@[simp] theorem onCur_viewOld (s : State) (f : Lease → Lease) : (s.onCur f).viewOld = s.viewOld := rfl
@[simp] theorem onCur_viewTag (s : State) (f : Lease → Lease) : (s.onCur f).viewTag = s.viewTag := rfl
@[simp] theorem onCur_viewDirty (s : State) (f : Lease → Lease) : (s.onCur f).viewDirty = s.viewDirty := rfl
@[simp] theorem onCur_hostLines (s : State) (f : Lease → Lease) : (s.onCur f).hostLines = s.hostLines := rfl
@[simp] theorem onCur_l2 (s : State) (f : Lease → Lease) : (s.onCur f).l2 = s.l2 := rfl
@[simp] theorem onCur_copies (s : State) (f : Lease → Lease) : (s.onCur f).copies = s.copies := rfl
@[simp] theorem onCur_readRuns (s : State) (f : Lease → Lease) : (s.onCur f).readRuns = s.readRuns := rfl
@[simp] theorem onCur_tlb (s : State) (f : Lease → Lease) : (s.onCur f).tlb = s.tlb := rfl
@[simp] theorem onCur_walks (s : State) (f : Lease → Lease) : (s.onCur f).walks = s.walks := rfl
@[simp] theorem onCur_counters (s : State) (f : Lease → Lease) : (s.onCur f).counters = s.counters := rfl
@[simp] theorem onCur_counterB1 (s : State) (f : Lease → Lease) : (s.onCur f).counterB1 = s.counterB1 := rfl
@[simp] theorem onCur_hostLink (s : State) (f : Lease → Lease) : (s.onCur f).hostLink = s.hostLink := rfl
@[simp] theorem onCur_heldW (s : State) (f : Lease → Lease) : (s.onCur f).heldW = s.heldW := rfl
@[simp] theorem onCur_queues (s : State) (f : Lease → Lease) : (s.onCur f).queues = s.queues := rfl
@[simp] theorem onCur_shapeTab (s : State) (f : Lease → Lease) : (s.onCur f).shapeTab = s.shapeTab := rfl
@[simp] theorem onCur_skipcol (s : State) (f : Lease → Lease) : (s.onCur f).skipcol = s.skipcol := rfl
@[simp] theorem onCur_absent (s : State) (f : Lease → Lease) : (s.onCur f).absent = s.absent := rfl
@[simp] theorem onCur_absentPend (s : State) (f : Lease → Lease) : (s.onCur f).absentPend = s.absentPend := rfl
@[simp] theorem onCur_slotTabs (s : State) (f : Lease → Lease) : (s.onCur f).slotTabs = s.slotTabs := rfl
@[simp] theorem onCur_clockStore (s : State) (f : Lease → Lease) : (s.onCur f).clockStore = s.clockStore := rfl
@[simp] theorem onCur_vfile (s : State) (f : Lease → Lease) : (s.onCur f).vfile = s.vfile := rfl
@[simp] theorem onCur_accs (s : State) (f : Lease → Lease) : (s.onCur f).accs = s.accs := rfl
@[simp] theorem onCur_accInt (s : State) (f : Lease → Lease) : (s.onCur f).accInt = s.accInt := rfl
@[simp] theorem onCur_reqs (s : State) (f : Lease → Lease) : (s.onCur f).reqs = s.reqs := rfl
@[simp] theorem onCur_nextReq (s : State) (f : Lease → Lease) : (s.onCur f).nextReq = s.nextReq := rfl
@[simp] theorem onCur_parts (s : State) (f : Lease → Lease) : (s.onCur f).parts = s.parts := rfl
@[simp] theorem onCur_links (s : State) (f : Lease → Lease) : (s.onCur f).links = s.links := rfl
@[simp] theorem onCur_detours (s : State) (f : Lease → Lease) : (s.onCur f).detours = s.detours := rfl
@[simp] theorem onCur_ratoms (s : State) (f : Lease → Lease) : (s.onCur f).ratoms = s.ratoms := rfl
@[simp] theorem onCur_counterHeld (s : State) (f : Lease → Lease) : (s.onCur f).counterHeld = s.counterHeld := rfl
@[simp] theorem onCur_heldIn (s : State) (f : Lease → Lease) : (s.onCur f).heldIn = s.heldIn := rfl
@[simp] theorem onCur_foreign (s : State) (f : Lease → Lease) : (s.onCur f).foreign = s.foreign := rfl
@[simp] theorem onCur_farOpen (s : State) (f : Lease → Lease) : (s.onCur f).farOpen = s.farOpen := rfl
@[simp] theorem onCur_retiredChans (s : State) (f : Lease → Lease) : (s.onCur f).retiredChans = s.retiredChans := rfl
@[simp] theorem onCur_ide (s : State) (f : Lease → Lease) : (s.onCur f).ide = s.ide := rfl
@[simp] theorem onCur_transcript (s : State) (f : Lease → Lease) : (s.onCur f).transcript = s.transcript := rfl
@[simp] theorem onCur_barWait (s : State) (f : Lease → Lease) : (s.onCur f).barWait = s.barWait := rfl
@[simp] theorem onCur_nextRatom (s : State) (f : Lease → Lease) : (s.onCur f).nextRatom = s.nextRatom := rfl
@[simp] theorem onCur_windows (s : State) (f : Lease → Lease) : (s.onCur f).windows = s.windows := rfl
@[simp] theorem onCur_wl (s : State) (f : Lease → Lease) : (s.onCur f).wl = s.wl := rfl
@[simp] theorem onCur_wlBuilds (s : State) (f : Lease → Lease) : (s.onCur f).wlBuilds = s.wlBuilds := rfl
@[simp] theorem onCur_ualink (s : State) (f : Lease → Lease) : (s.onCur f).ualink = s.ualink := rfl
@[simp] theorem onCur_uePorts (s : State) (f : Lease → Lease) : (s.onCur f).uePorts = s.uePorts := rfl
@[simp] theorem onCur_ddrUp (s : State) (f : Lease → Lease) : (s.onCur f).ddrUp = s.ddrUp := rfl
@[simp] theorem onCur_pod (s : State) (f : Lease → Lease) : (s.onCur f).pod = s.pod := rfl
@[simp] theorem onCur_pfstat (s : State) (f : Lease → Lease) : (s.onCur f).pfstat = s.pfstat := rfl
@[simp] theorem onCur_fw (s : State) (f : Lease → Lease) : (s.onCur f).fw = s.fw := rfl
@[simp] theorem onCur_health (s : State) (f : Lease → Lease) : (s.onCur f).health = s.health := rfl
@[simp] theorem onCur_ageing (s : State) (f : Lease → Lease) : (s.onCur f).ageing = s.ageing := rfl
@[simp] theorem onCur_mhz (s : State) (f : Lease → Lease) : (s.onCur f).mhz = s.mhz := rfl
@[simp] theorem onCur_thermal (s : State) (f : Lease → Lease) : (s.onCur f).thermal = s.thermal := rfl
@[simp] theorem onCur_srcEvents (s : State) (f : Lease → Lease) : (s.onCur f).srcEvents = s.srcEvents := rfl
@[simp] theorem onCur_srcFrozen (s : State) (f : Lease → Lease) : (s.onCur f).srcFrozen = s.srcFrozen := rfl
@[simp] theorem onCur_scrubs (s : State) (f : Lease → Lease) : (s.onCur f).scrubs = s.scrubs := rfl
@[simp] theorem onCur_badGran (s : State) (f : Lease → Lease) : (s.onCur f).badGran = s.badGran := rfl
@[simp] theorem onCur_retiredPages (s : State) (f : Lease → Lease) : (s.onCur f).retiredPages = s.retiredPages := rfl
@[simp] theorem onCur_corrected (s : State) (f : Lease → Lease) : (s.onCur f).corrected = s.corrected := rfl
@[simp] theorem onCur_copyOrder (s : State) (f : Lease → Lease) : (s.onCur f).copyOrder = s.copyOrder := rfl
@[simp] theorem onCur_jobLast (s : State) (f : Lease → Lease) : (s.onCur f).jobLast = s.jobLast := rfl
@[simp] theorem onCur_farBuf (s : State) (f : Lease → Lease) : (s.onCur f).farBuf = s.farBuf := rfl
@[simp] theorem onCur_traces (s : State) (f : Lease → Lease) : (s.onCur f).traces = s.traces := rfl
@[simp] theorem onCur_out (s : State) (f : Lease → Lease) : (s.onCur f).out = s.out := rfl
@[simp] theorem onCur_free (s : State) (f : Lease → Lease) : (s.onCur f).free = s.free := rfl
@[simp] theorem onCt_datum (s : State) (f : Ct → Ct) : (s.onCt f).datum = s.datum := rfl
@[simp] theorem onCt_cur (s : State) (f : Ct → Ct) : (s.onCt f).cur = { s.cur with ct := f s.cur.ct } := rfl
@[simp] theorem onCt_curStream (s : State) (f : Ct → Ct) : (s.onCt f).curStream = s.curStream := rfl
@[simp] theorem onCt_rest (s : State) (f : Ct → Ct) : (s.onCt f).rest = s.rest := rfl
@[simp] theorem onCt_nextLease (s : State) (f : Ct → Ct) : (s.onCt f).nextLease = s.nextLease := rfl
@[simp] theorem onCt_inbox (s : State) (f : Ct → Ct) : (s.onCt f).inbox = s.inbox := rfl
@[simp] theorem onCt_turn (s : State) (f : Ct → Ct) : (s.onCt f).turn = s.turn := rfl
@[simp] theorem onCt_mem (s : State) (f : Ct → Ct) : (s.onCt f).mem = s.mem := rfl
@[simp] theorem onCt_gmeta (s : State) (f : Ct → Ct) : (s.onCt f).gmeta = s.gmeta := rfl
@[simp] theorem onCt_keyTag (s : State) (f : Ct → Ct) : (s.onCt f).keyTag = s.keyTag := rfl
@[simp] theorem onCt_keyLoad (s : State) (f : Ct → Ct) : (s.onCt f).keyLoad = s.keyLoad := rfl
@[simp] theorem onCt_marks (s : State) (f : Ct → Ct) : (s.onCt f).marks = s.marks := rfl
@[simp] theorem onCt_vecs (s : State) (f : Ct → Ct) : (s.onCt f).vecs = s.vecs := rfl
@[simp] theorem onCt_nextVec (s : State) (f : Ct → Ct) : (s.onCt f).nextVec = s.nextVec := rfl
@[simp] theorem onCt_viewOld (s : State) (f : Ct → Ct) : (s.onCt f).viewOld = s.viewOld := rfl
@[simp] theorem onCt_viewTag (s : State) (f : Ct → Ct) : (s.onCt f).viewTag = s.viewTag := rfl
@[simp] theorem onCt_viewDirty (s : State) (f : Ct → Ct) : (s.onCt f).viewDirty = s.viewDirty := rfl
@[simp] theorem onCt_hostLines (s : State) (f : Ct → Ct) : (s.onCt f).hostLines = s.hostLines := rfl
@[simp] theorem onCt_l2 (s : State) (f : Ct → Ct) : (s.onCt f).l2 = s.l2 := rfl
@[simp] theorem onCt_copies (s : State) (f : Ct → Ct) : (s.onCt f).copies = s.copies := rfl
@[simp] theorem onCt_readRuns (s : State) (f : Ct → Ct) : (s.onCt f).readRuns = s.readRuns := rfl
@[simp] theorem onCt_tlb (s : State) (f : Ct → Ct) : (s.onCt f).tlb = s.tlb := rfl
@[simp] theorem onCt_walks (s : State) (f : Ct → Ct) : (s.onCt f).walks = s.walks := rfl
@[simp] theorem onCt_counters (s : State) (f : Ct → Ct) : (s.onCt f).counters = s.counters := rfl
@[simp] theorem onCt_counterB1 (s : State) (f : Ct → Ct) : (s.onCt f).counterB1 = s.counterB1 := rfl
@[simp] theorem onCt_hostLink (s : State) (f : Ct → Ct) : (s.onCt f).hostLink = s.hostLink := rfl
@[simp] theorem onCt_heldW (s : State) (f : Ct → Ct) : (s.onCt f).heldW = s.heldW := rfl
@[simp] theorem onCt_queues (s : State) (f : Ct → Ct) : (s.onCt f).queues = s.queues := rfl
@[simp] theorem onCt_shapeTab (s : State) (f : Ct → Ct) : (s.onCt f).shapeTab = s.shapeTab := rfl
@[simp] theorem onCt_skipcol (s : State) (f : Ct → Ct) : (s.onCt f).skipcol = s.skipcol := rfl
@[simp] theorem onCt_absent (s : State) (f : Ct → Ct) : (s.onCt f).absent = s.absent := rfl
@[simp] theorem onCt_absentPend (s : State) (f : Ct → Ct) : (s.onCt f).absentPend = s.absentPend := rfl
@[simp] theorem onCt_slotTabs (s : State) (f : Ct → Ct) : (s.onCt f).slotTabs = s.slotTabs := rfl
@[simp] theorem onCt_clockStore (s : State) (f : Ct → Ct) : (s.onCt f).clockStore = s.clockStore := rfl
@[simp] theorem onCt_vfile (s : State) (f : Ct → Ct) : (s.onCt f).vfile = s.vfile := rfl
@[simp] theorem onCt_accs (s : State) (f : Ct → Ct) : (s.onCt f).accs = s.accs := rfl
@[simp] theorem onCt_accInt (s : State) (f : Ct → Ct) : (s.onCt f).accInt = s.accInt := rfl
@[simp] theorem onCt_reqs (s : State) (f : Ct → Ct) : (s.onCt f).reqs = s.reqs := rfl
@[simp] theorem onCt_nextReq (s : State) (f : Ct → Ct) : (s.onCt f).nextReq = s.nextReq := rfl
@[simp] theorem onCt_parts (s : State) (f : Ct → Ct) : (s.onCt f).parts = s.parts := rfl
@[simp] theorem onCt_links (s : State) (f : Ct → Ct) : (s.onCt f).links = s.links := rfl
@[simp] theorem onCt_detours (s : State) (f : Ct → Ct) : (s.onCt f).detours = s.detours := rfl
@[simp] theorem onCt_ratoms (s : State) (f : Ct → Ct) : (s.onCt f).ratoms = s.ratoms := rfl
@[simp] theorem onCt_counterHeld (s : State) (f : Ct → Ct) : (s.onCt f).counterHeld = s.counterHeld := rfl
@[simp] theorem onCt_heldIn (s : State) (f : Ct → Ct) : (s.onCt f).heldIn = s.heldIn := rfl
@[simp] theorem onCt_foreign (s : State) (f : Ct → Ct) : (s.onCt f).foreign = s.foreign := rfl
@[simp] theorem onCt_farOpen (s : State) (f : Ct → Ct) : (s.onCt f).farOpen = s.farOpen := rfl
@[simp] theorem onCt_retiredChans (s : State) (f : Ct → Ct) : (s.onCt f).retiredChans = s.retiredChans := rfl
@[simp] theorem onCt_ide (s : State) (f : Ct → Ct) : (s.onCt f).ide = s.ide := rfl
@[simp] theorem onCt_transcript (s : State) (f : Ct → Ct) : (s.onCt f).transcript = s.transcript := rfl
@[simp] theorem onCt_barWait (s : State) (f : Ct → Ct) : (s.onCt f).barWait = s.barWait := rfl
@[simp] theorem onCt_nextRatom (s : State) (f : Ct → Ct) : (s.onCt f).nextRatom = s.nextRatom := rfl
@[simp] theorem onCt_windows (s : State) (f : Ct → Ct) : (s.onCt f).windows = s.windows := rfl
@[simp] theorem onCt_wl (s : State) (f : Ct → Ct) : (s.onCt f).wl = s.wl := rfl
@[simp] theorem onCt_wlBuilds (s : State) (f : Ct → Ct) : (s.onCt f).wlBuilds = s.wlBuilds := rfl
@[simp] theorem onCt_ualink (s : State) (f : Ct → Ct) : (s.onCt f).ualink = s.ualink := rfl
@[simp] theorem onCt_uePorts (s : State) (f : Ct → Ct) : (s.onCt f).uePorts = s.uePorts := rfl
@[simp] theorem onCt_ddrUp (s : State) (f : Ct → Ct) : (s.onCt f).ddrUp = s.ddrUp := rfl
@[simp] theorem onCt_pod (s : State) (f : Ct → Ct) : (s.onCt f).pod = s.pod := rfl
@[simp] theorem onCt_pfstat (s : State) (f : Ct → Ct) : (s.onCt f).pfstat = s.pfstat := rfl
@[simp] theorem onCt_fw (s : State) (f : Ct → Ct) : (s.onCt f).fw = s.fw := rfl
@[simp] theorem onCt_health (s : State) (f : Ct → Ct) : (s.onCt f).health = s.health := rfl
@[simp] theorem onCt_ageing (s : State) (f : Ct → Ct) : (s.onCt f).ageing = s.ageing := rfl
@[simp] theorem onCt_mhz (s : State) (f : Ct → Ct) : (s.onCt f).mhz = s.mhz := rfl
@[simp] theorem onCt_thermal (s : State) (f : Ct → Ct) : (s.onCt f).thermal = s.thermal := rfl
@[simp] theorem onCt_srcEvents (s : State) (f : Ct → Ct) : (s.onCt f).srcEvents = s.srcEvents := rfl
@[simp] theorem onCt_srcFrozen (s : State) (f : Ct → Ct) : (s.onCt f).srcFrozen = s.srcFrozen := rfl
@[simp] theorem onCt_scrubs (s : State) (f : Ct → Ct) : (s.onCt f).scrubs = s.scrubs := rfl
@[simp] theorem onCt_badGran (s : State) (f : Ct → Ct) : (s.onCt f).badGran = s.badGran := rfl
@[simp] theorem onCt_retiredPages (s : State) (f : Ct → Ct) : (s.onCt f).retiredPages = s.retiredPages := rfl
@[simp] theorem onCt_corrected (s : State) (f : Ct → Ct) : (s.onCt f).corrected = s.corrected := rfl
@[simp] theorem onCt_copyOrder (s : State) (f : Ct → Ct) : (s.onCt f).copyOrder = s.copyOrder := rfl
@[simp] theorem onCt_jobLast (s : State) (f : Ct → Ct) : (s.onCt f).jobLast = s.jobLast := rfl
@[simp] theorem onCt_farBuf (s : State) (f : Ct → Ct) : (s.onCt f).farBuf = s.farBuf := rfl
@[simp] theorem onCt_traces (s : State) (f : Ct → Ct) : (s.onCt f).traces = s.traces := rfl
@[simp] theorem onCt_out (s : State) (f : Ct → Ct) : (s.onCt f).out = s.out := rfl
@[simp] theorem onCt_free (s : State) (f : Ct → Ct) : (s.onCt f).free = s.free := rfl
@[simp] theorem setPart_datum (s : State) (p : Nat) (q : Partition) : (s.setPart p q).datum = s.datum := rfl
@[simp] theorem setPart_cur (s : State) (p : Nat) (q : Partition) : (s.setPart p q).cur = s.cur := rfl
@[simp] theorem setPart_curStream (s : State) (p : Nat) (q : Partition) : (s.setPart p q).curStream = s.curStream := rfl
@[simp] theorem setPart_rest (s : State) (p : Nat) (q : Partition) : (s.setPart p q).rest = s.rest := rfl
@[simp] theorem setPart_nextLease (s : State) (p : Nat) (q : Partition) : (s.setPart p q).nextLease = s.nextLease := rfl
@[simp] theorem setPart_inbox (s : State) (p : Nat) (q : Partition) : (s.setPart p q).inbox = s.inbox := rfl
@[simp] theorem setPart_turn (s : State) (p : Nat) (q : Partition) : (s.setPart p q).turn = s.turn := rfl
@[simp] theorem setPart_mem (s : State) (p : Nat) (q : Partition) : (s.setPart p q).mem = s.mem := rfl
@[simp] theorem setPart_gmeta (s : State) (p : Nat) (q : Partition) : (s.setPart p q).gmeta = s.gmeta := rfl
@[simp] theorem setPart_keyTag (s : State) (p : Nat) (q : Partition) : (s.setPart p q).keyTag = s.keyTag := rfl
@[simp] theorem setPart_keyLoad (s : State) (p : Nat) (q : Partition) : (s.setPart p q).keyLoad = s.keyLoad := rfl
@[simp] theorem setPart_marks (s : State) (p : Nat) (q : Partition) : (s.setPart p q).marks = s.marks := rfl
@[simp] theorem setPart_vecs (s : State) (p : Nat) (q : Partition) : (s.setPart p q).vecs = s.vecs := rfl
@[simp] theorem setPart_nextVec (s : State) (p : Nat) (q : Partition) : (s.setPart p q).nextVec = s.nextVec := rfl
@[simp] theorem setPart_viewOld (s : State) (p : Nat) (q : Partition) : (s.setPart p q).viewOld = s.viewOld := rfl
@[simp] theorem setPart_viewTag (s : State) (p : Nat) (q : Partition) : (s.setPart p q).viewTag = s.viewTag := rfl
@[simp] theorem setPart_viewDirty (s : State) (p : Nat) (q : Partition) : (s.setPart p q).viewDirty = s.viewDirty := rfl
@[simp] theorem setPart_hostLines (s : State) (p : Nat) (q : Partition) : (s.setPart p q).hostLines = s.hostLines := rfl
@[simp] theorem setPart_l2 (s : State) (p : Nat) (q : Partition) : (s.setPart p q).l2 = s.l2 := rfl
@[simp] theorem setPart_copies (s : State) (p : Nat) (q : Partition) : (s.setPart p q).copies = s.copies := rfl
@[simp] theorem setPart_readRuns (s : State) (p : Nat) (q : Partition) : (s.setPart p q).readRuns = s.readRuns := rfl
@[simp] theorem setPart_tlb (s : State) (p : Nat) (q : Partition) : (s.setPart p q).tlb = s.tlb := rfl
@[simp] theorem setPart_walks (s : State) (p : Nat) (q : Partition) : (s.setPart p q).walks = s.walks := rfl
@[simp] theorem setPart_counters (s : State) (p : Nat) (q : Partition) : (s.setPart p q).counters = s.counters := rfl
@[simp] theorem setPart_counterB1 (s : State) (p : Nat) (q : Partition) : (s.setPart p q).counterB1 = s.counterB1 := rfl
@[simp] theorem setPart_hostLink (s : State) (p : Nat) (q : Partition) : (s.setPart p q).hostLink = s.hostLink := rfl
@[simp] theorem setPart_heldW (s : State) (p : Nat) (q : Partition) : (s.setPart p q).heldW = s.heldW := rfl
@[simp] theorem setPart_queues (s : State) (p : Nat) (q : Partition) : (s.setPart p q).queues = s.queues := rfl
@[simp] theorem setPart_shapeTab (s : State) (p : Nat) (q : Partition) : (s.setPart p q).shapeTab = s.shapeTab := rfl
@[simp] theorem setPart_skipcol (s : State) (p : Nat) (q : Partition) : (s.setPart p q).skipcol = s.skipcol := rfl
@[simp] theorem setPart_absent (s : State) (p : Nat) (q : Partition) : (s.setPart p q).absent = s.absent := rfl
@[simp] theorem setPart_absentPend (s : State) (p : Nat) (q : Partition) : (s.setPart p q).absentPend = s.absentPend := rfl
@[simp] theorem setPart_slotTabs (s : State) (p : Nat) (q : Partition) : (s.setPart p q).slotTabs = s.slotTabs := rfl
@[simp] theorem setPart_clockStore (s : State) (p : Nat) (q : Partition) : (s.setPart p q).clockStore = s.clockStore := rfl
@[simp] theorem setPart_vfile (s : State) (p : Nat) (q : Partition) : (s.setPart p q).vfile = s.vfile := rfl
@[simp] theorem setPart_accs (s : State) (p : Nat) (q : Partition) : (s.setPart p q).accs = s.accs := rfl
@[simp] theorem setPart_accInt (s : State) (p : Nat) (q : Partition) : (s.setPart p q).accInt = s.accInt := rfl
@[simp] theorem setPart_reqs (s : State) (p : Nat) (q : Partition) : (s.setPart p q).reqs = s.reqs := rfl
@[simp] theorem setPart_nextReq (s : State) (p : Nat) (q : Partition) : (s.setPart p q).nextReq = s.nextReq := rfl
@[simp] theorem setPart_parts (s : State) (p : Nat) (q : Partition) : (s.setPart p q).parts = sput p q s.parts := rfl
@[simp] theorem setPart_links (s : State) (p : Nat) (q : Partition) : (s.setPart p q).links = s.links := rfl
@[simp] theorem setPart_detours (s : State) (p : Nat) (q : Partition) : (s.setPart p q).detours = s.detours := rfl
@[simp] theorem setPart_ratoms (s : State) (p : Nat) (q : Partition) : (s.setPart p q).ratoms = s.ratoms := rfl
@[simp] theorem setPart_counterHeld (s : State) (p : Nat) (q : Partition) : (s.setPart p q).counterHeld = s.counterHeld := rfl
@[simp] theorem setPart_heldIn (s : State) (p : Nat) (q : Partition) : (s.setPart p q).heldIn = s.heldIn := rfl
@[simp] theorem setPart_foreign (s : State) (p : Nat) (q : Partition) : (s.setPart p q).foreign = s.foreign := rfl
@[simp] theorem setPart_farOpen (s : State) (p : Nat) (q : Partition) : (s.setPart p q).farOpen = s.farOpen := rfl
@[simp] theorem setPart_retiredChans (s : State) (p : Nat) (q : Partition) : (s.setPart p q).retiredChans = s.retiredChans := rfl
@[simp] theorem setPart_ide (s : State) (p : Nat) (q : Partition) : (s.setPart p q).ide = s.ide := rfl
@[simp] theorem setPart_transcript (s : State) (p : Nat) (q : Partition) : (s.setPart p q).transcript = s.transcript := rfl
@[simp] theorem setPart_barWait (s : State) (p : Nat) (q : Partition) : (s.setPart p q).barWait = s.barWait := rfl
@[simp] theorem setPart_nextRatom (s : State) (p : Nat) (q : Partition) : (s.setPart p q).nextRatom = s.nextRatom := rfl
@[simp] theorem setPart_windows (s : State) (p : Nat) (q : Partition) : (s.setPart p q).windows = s.windows := rfl
@[simp] theorem setPart_wl (s : State) (p : Nat) (q : Partition) : (s.setPart p q).wl = s.wl := rfl
@[simp] theorem setPart_wlBuilds (s : State) (p : Nat) (q : Partition) : (s.setPart p q).wlBuilds = s.wlBuilds := rfl
@[simp] theorem setPart_ualink (s : State) (p : Nat) (q : Partition) : (s.setPart p q).ualink = s.ualink := rfl
@[simp] theorem setPart_uePorts (s : State) (p : Nat) (q : Partition) : (s.setPart p q).uePorts = s.uePorts := rfl
@[simp] theorem setPart_ddrUp (s : State) (p : Nat) (q : Partition) : (s.setPart p q).ddrUp = s.ddrUp := rfl
@[simp] theorem setPart_pod (s : State) (p : Nat) (q : Partition) : (s.setPart p q).pod = s.pod := rfl
@[simp] theorem setPart_pfstat (s : State) (p : Nat) (q : Partition) : (s.setPart p q).pfstat = s.pfstat := rfl
@[simp] theorem setPart_fw (s : State) (p : Nat) (q : Partition) : (s.setPart p q).fw = s.fw := rfl
@[simp] theorem setPart_health (s : State) (p : Nat) (q : Partition) : (s.setPart p q).health = s.health := rfl
@[simp] theorem setPart_ageing (s : State) (p : Nat) (q : Partition) : (s.setPart p q).ageing = s.ageing := rfl
@[simp] theorem setPart_mhz (s : State) (p : Nat) (q : Partition) : (s.setPart p q).mhz = s.mhz := rfl
@[simp] theorem setPart_thermal (s : State) (p : Nat) (q : Partition) : (s.setPart p q).thermal = s.thermal := rfl
@[simp] theorem setPart_srcEvents (s : State) (p : Nat) (q : Partition) : (s.setPart p q).srcEvents = s.srcEvents := rfl
@[simp] theorem setPart_srcFrozen (s : State) (p : Nat) (q : Partition) : (s.setPart p q).srcFrozen = s.srcFrozen := rfl
@[simp] theorem setPart_scrubs (s : State) (p : Nat) (q : Partition) : (s.setPart p q).scrubs = s.scrubs := rfl
@[simp] theorem setPart_badGran (s : State) (p : Nat) (q : Partition) : (s.setPart p q).badGran = s.badGran := rfl
@[simp] theorem setPart_retiredPages (s : State) (p : Nat) (q : Partition) : (s.setPart p q).retiredPages = s.retiredPages := rfl
@[simp] theorem setPart_corrected (s : State) (p : Nat) (q : Partition) : (s.setPart p q).corrected = s.corrected := rfl
@[simp] theorem setPart_copyOrder (s : State) (p : Nat) (q : Partition) : (s.setPart p q).copyOrder = s.copyOrder := rfl
@[simp] theorem setPart_jobLast (s : State) (p : Nat) (q : Partition) : (s.setPart p q).jobLast = s.jobLast := rfl
@[simp] theorem setPart_farBuf (s : State) (p : Nat) (q : Partition) : (s.setPart p q).farBuf = s.farBuf := rfl
@[simp] theorem setPart_traces (s : State) (p : Nat) (q : Partition) : (s.setPart p q).traces = s.traces := rfl
@[simp] theorem setPart_out (s : State) (p : Nat) (q : Partition) : (s.setPart p q).out = s.out := rfl
@[simp] theorem setPart_free (s : State) (p : Nat) (q : Partition) : (s.setPart p q).free = s.free := rfl
@[simp] theorem onPart_datum (s : State) (p : Nat) (f : Partition → Partition) : (s.onPart p f).datum = s.datum := rfl
@[simp] theorem onPart_cur (s : State) (p : Nat) (f : Partition → Partition) : (s.onPart p f).cur = s.cur := rfl
@[simp] theorem onPart_curStream (s : State) (p : Nat) (f : Partition → Partition) : (s.onPart p f).curStream = s.curStream := rfl
@[simp] theorem onPart_rest (s : State) (p : Nat) (f : Partition → Partition) : (s.onPart p f).rest = s.rest := rfl
@[simp] theorem onPart_nextLease (s : State) (p : Nat) (f : Partition → Partition) : (s.onPart p f).nextLease = s.nextLease := rfl
@[simp] theorem onPart_inbox (s : State) (p : Nat) (f : Partition → Partition) : (s.onPart p f).inbox = s.inbox := rfl
@[simp] theorem onPart_turn (s : State) (p : Nat) (f : Partition → Partition) : (s.onPart p f).turn = s.turn := rfl
@[simp] theorem onPart_mem (s : State) (p : Nat) (f : Partition → Partition) : (s.onPart p f).mem = s.mem := rfl
@[simp] theorem onPart_gmeta (s : State) (p : Nat) (f : Partition → Partition) : (s.onPart p f).gmeta = s.gmeta := rfl
@[simp] theorem onPart_keyTag (s : State) (p : Nat) (f : Partition → Partition) : (s.onPart p f).keyTag = s.keyTag := rfl
@[simp] theorem onPart_keyLoad (s : State) (p : Nat) (f : Partition → Partition) : (s.onPart p f).keyLoad = s.keyLoad := rfl
@[simp] theorem onPart_marks (s : State) (p : Nat) (f : Partition → Partition) : (s.onPart p f).marks = s.marks := rfl
@[simp] theorem onPart_vecs (s : State) (p : Nat) (f : Partition → Partition) : (s.onPart p f).vecs = s.vecs := rfl
@[simp] theorem onPart_nextVec (s : State) (p : Nat) (f : Partition → Partition) : (s.onPart p f).nextVec = s.nextVec := rfl
@[simp] theorem onPart_viewOld (s : State) (p : Nat) (f : Partition → Partition) : (s.onPart p f).viewOld = s.viewOld := rfl
@[simp] theorem onPart_viewTag (s : State) (p : Nat) (f : Partition → Partition) : (s.onPart p f).viewTag = s.viewTag := rfl
@[simp] theorem onPart_viewDirty (s : State) (p : Nat) (f : Partition → Partition) : (s.onPart p f).viewDirty = s.viewDirty := rfl
@[simp] theorem onPart_hostLines (s : State) (p : Nat) (f : Partition → Partition) : (s.onPart p f).hostLines = s.hostLines := rfl
@[simp] theorem onPart_l2 (s : State) (p : Nat) (f : Partition → Partition) : (s.onPart p f).l2 = s.l2 := rfl
@[simp] theorem onPart_copies (s : State) (p : Nat) (f : Partition → Partition) : (s.onPart p f).copies = s.copies := rfl
@[simp] theorem onPart_readRuns (s : State) (p : Nat) (f : Partition → Partition) : (s.onPart p f).readRuns = s.readRuns := rfl
@[simp] theorem onPart_tlb (s : State) (p : Nat) (f : Partition → Partition) : (s.onPart p f).tlb = s.tlb := rfl
@[simp] theorem onPart_walks (s : State) (p : Nat) (f : Partition → Partition) : (s.onPart p f).walks = s.walks := rfl
@[simp] theorem onPart_counters (s : State) (p : Nat) (f : Partition → Partition) : (s.onPart p f).counters = s.counters := rfl
@[simp] theorem onPart_counterB1 (s : State) (p : Nat) (f : Partition → Partition) : (s.onPart p f).counterB1 = s.counterB1 := rfl
@[simp] theorem onPart_hostLink (s : State) (p : Nat) (f : Partition → Partition) : (s.onPart p f).hostLink = s.hostLink := rfl
@[simp] theorem onPart_heldW (s : State) (p : Nat) (f : Partition → Partition) : (s.onPart p f).heldW = s.heldW := rfl
@[simp] theorem onPart_queues (s : State) (p : Nat) (f : Partition → Partition) : (s.onPart p f).queues = s.queues := rfl
@[simp] theorem onPart_shapeTab (s : State) (p : Nat) (f : Partition → Partition) : (s.onPart p f).shapeTab = s.shapeTab := rfl
@[simp] theorem onPart_skipcol (s : State) (p : Nat) (f : Partition → Partition) : (s.onPart p f).skipcol = s.skipcol := rfl
@[simp] theorem onPart_absent (s : State) (p : Nat) (f : Partition → Partition) : (s.onPart p f).absent = s.absent := rfl
@[simp] theorem onPart_absentPend (s : State) (p : Nat) (f : Partition → Partition) : (s.onPart p f).absentPend = s.absentPend := rfl
@[simp] theorem onPart_slotTabs (s : State) (p : Nat) (f : Partition → Partition) : (s.onPart p f).slotTabs = s.slotTabs := rfl
@[simp] theorem onPart_clockStore (s : State) (p : Nat) (f : Partition → Partition) : (s.onPart p f).clockStore = s.clockStore := rfl
@[simp] theorem onPart_vfile (s : State) (p : Nat) (f : Partition → Partition) : (s.onPart p f).vfile = s.vfile := rfl
@[simp] theorem onPart_accs (s : State) (p : Nat) (f : Partition → Partition) : (s.onPart p f).accs = s.accs := rfl
@[simp] theorem onPart_accInt (s : State) (p : Nat) (f : Partition → Partition) : (s.onPart p f).accInt = s.accInt := rfl
@[simp] theorem onPart_reqs (s : State) (p : Nat) (f : Partition → Partition) : (s.onPart p f).reqs = s.reqs := rfl
@[simp] theorem onPart_nextReq (s : State) (p : Nat) (f : Partition → Partition) : (s.onPart p f).nextReq = s.nextReq := rfl
@[simp] theorem onPart_parts (s : State) (p : Nat) (f : Partition → Partition) : (s.onPart p f).parts = sput p (f (s.part p)) s.parts := rfl
@[simp] theorem onPart_links (s : State) (p : Nat) (f : Partition → Partition) : (s.onPart p f).links = s.links := rfl
@[simp] theorem onPart_detours (s : State) (p : Nat) (f : Partition → Partition) : (s.onPart p f).detours = s.detours := rfl
@[simp] theorem onPart_ratoms (s : State) (p : Nat) (f : Partition → Partition) : (s.onPart p f).ratoms = s.ratoms := rfl
@[simp] theorem onPart_counterHeld (s : State) (p : Nat) (f : Partition → Partition) : (s.onPart p f).counterHeld = s.counterHeld := rfl
@[simp] theorem onPart_heldIn (s : State) (p : Nat) (f : Partition → Partition) : (s.onPart p f).heldIn = s.heldIn := rfl
@[simp] theorem onPart_foreign (s : State) (p : Nat) (f : Partition → Partition) : (s.onPart p f).foreign = s.foreign := rfl
@[simp] theorem onPart_farOpen (s : State) (p : Nat) (f : Partition → Partition) : (s.onPart p f).farOpen = s.farOpen := rfl
@[simp] theorem onPart_retiredChans (s : State) (p : Nat) (f : Partition → Partition) : (s.onPart p f).retiredChans = s.retiredChans := rfl
@[simp] theorem onPart_ide (s : State) (p : Nat) (f : Partition → Partition) : (s.onPart p f).ide = s.ide := rfl
@[simp] theorem onPart_transcript (s : State) (p : Nat) (f : Partition → Partition) : (s.onPart p f).transcript = s.transcript := rfl
@[simp] theorem onPart_barWait (s : State) (p : Nat) (f : Partition → Partition) : (s.onPart p f).barWait = s.barWait := rfl
@[simp] theorem onPart_nextRatom (s : State) (p : Nat) (f : Partition → Partition) : (s.onPart p f).nextRatom = s.nextRatom := rfl
@[simp] theorem onPart_windows (s : State) (p : Nat) (f : Partition → Partition) : (s.onPart p f).windows = s.windows := rfl
@[simp] theorem onPart_wl (s : State) (p : Nat) (f : Partition → Partition) : (s.onPart p f).wl = s.wl := rfl
@[simp] theorem onPart_wlBuilds (s : State) (p : Nat) (f : Partition → Partition) : (s.onPart p f).wlBuilds = s.wlBuilds := rfl
@[simp] theorem onPart_ualink (s : State) (p : Nat) (f : Partition → Partition) : (s.onPart p f).ualink = s.ualink := rfl
@[simp] theorem onPart_uePorts (s : State) (p : Nat) (f : Partition → Partition) : (s.onPart p f).uePorts = s.uePorts := rfl
@[simp] theorem onPart_ddrUp (s : State) (p : Nat) (f : Partition → Partition) : (s.onPart p f).ddrUp = s.ddrUp := rfl
@[simp] theorem onPart_pod (s : State) (p : Nat) (f : Partition → Partition) : (s.onPart p f).pod = s.pod := rfl
@[simp] theorem onPart_pfstat (s : State) (p : Nat) (f : Partition → Partition) : (s.onPart p f).pfstat = s.pfstat := rfl
@[simp] theorem onPart_fw (s : State) (p : Nat) (f : Partition → Partition) : (s.onPart p f).fw = s.fw := rfl
@[simp] theorem onPart_health (s : State) (p : Nat) (f : Partition → Partition) : (s.onPart p f).health = s.health := rfl
@[simp] theorem onPart_ageing (s : State) (p : Nat) (f : Partition → Partition) : (s.onPart p f).ageing = s.ageing := rfl
@[simp] theorem onPart_mhz (s : State) (p : Nat) (f : Partition → Partition) : (s.onPart p f).mhz = s.mhz := rfl
@[simp] theorem onPart_thermal (s : State) (p : Nat) (f : Partition → Partition) : (s.onPart p f).thermal = s.thermal := rfl
@[simp] theorem onPart_srcEvents (s : State) (p : Nat) (f : Partition → Partition) : (s.onPart p f).srcEvents = s.srcEvents := rfl
@[simp] theorem onPart_srcFrozen (s : State) (p : Nat) (f : Partition → Partition) : (s.onPart p f).srcFrozen = s.srcFrozen := rfl
@[simp] theorem onPart_scrubs (s : State) (p : Nat) (f : Partition → Partition) : (s.onPart p f).scrubs = s.scrubs := rfl
@[simp] theorem onPart_badGran (s : State) (p : Nat) (f : Partition → Partition) : (s.onPart p f).badGran = s.badGran := rfl
@[simp] theorem onPart_retiredPages (s : State) (p : Nat) (f : Partition → Partition) : (s.onPart p f).retiredPages = s.retiredPages := rfl
@[simp] theorem onPart_corrected (s : State) (p : Nat) (f : Partition → Partition) : (s.onPart p f).corrected = s.corrected := rfl
@[simp] theorem onPart_copyOrder (s : State) (p : Nat) (f : Partition → Partition) : (s.onPart p f).copyOrder = s.copyOrder := rfl
@[simp] theorem onPart_jobLast (s : State) (p : Nat) (f : Partition → Partition) : (s.onPart p f).jobLast = s.jobLast := rfl
@[simp] theorem onPart_farBuf (s : State) (p : Nat) (f : Partition → Partition) : (s.onPart p f).farBuf = s.farBuf := rfl
@[simp] theorem onPart_traces (s : State) (p : Nat) (f : Partition → Partition) : (s.onPart p f).traces = s.traces := rfl
@[simp] theorem onPart_out (s : State) (p : Nat) (f : Partition → Partition) : (s.onPart p f).out = s.out := rfl
@[simp] theorem onPart_free (s : State) (p : Nat) (f : Partition → Partition) : (s.onPart p f).free = s.free := rfl
@[simp] theorem setMeta_datum (s : State) (k : Nat) (m : W64) : (s.setMeta k m).datum = s.datum := rfl
@[simp] theorem setMeta_cur (s : State) (k : Nat) (m : W64) : (s.setMeta k m).cur = s.cur := rfl
@[simp] theorem setMeta_curStream (s : State) (k : Nat) (m : W64) : (s.setMeta k m).curStream = s.curStream := rfl
@[simp] theorem setMeta_rest (s : State) (k : Nat) (m : W64) : (s.setMeta k m).rest = s.rest := rfl
@[simp] theorem setMeta_nextLease (s : State) (k : Nat) (m : W64) : (s.setMeta k m).nextLease = s.nextLease := rfl
@[simp] theorem setMeta_inbox (s : State) (k : Nat) (m : W64) : (s.setMeta k m).inbox = s.inbox := rfl
@[simp] theorem setMeta_turn (s : State) (k : Nat) (m : W64) : (s.setMeta k m).turn = s.turn := rfl
@[simp] theorem setMeta_mem (s : State) (k : Nat) (m : W64) : (s.setMeta k m).mem = s.mem := rfl
@[simp] theorem setMeta_gmeta (s : State) (k : Nat) (m : W64) : (s.setMeta k m).gmeta = sset 0 (k / 64) m s.gmeta := rfl
@[simp] theorem setMeta_keyTag (s : State) (k : Nat) (m : W64) : (s.setMeta k m).keyTag = s.keyTag := rfl
@[simp] theorem setMeta_keyLoad (s : State) (k : Nat) (m : W64) : (s.setMeta k m).keyLoad = s.keyLoad := rfl
@[simp] theorem setMeta_marks (s : State) (k : Nat) (m : W64) : (s.setMeta k m).marks = s.marks := rfl
@[simp] theorem setMeta_vecs (s : State) (k : Nat) (m : W64) : (s.setMeta k m).vecs = s.vecs := rfl
@[simp] theorem setMeta_nextVec (s : State) (k : Nat) (m : W64) : (s.setMeta k m).nextVec = s.nextVec := rfl
@[simp] theorem setMeta_viewOld (s : State) (k : Nat) (m : W64) : (s.setMeta k m).viewOld = s.viewOld := rfl
@[simp] theorem setMeta_viewTag (s : State) (k : Nat) (m : W64) : (s.setMeta k m).viewTag = s.viewTag := rfl
@[simp] theorem setMeta_viewDirty (s : State) (k : Nat) (m : W64) : (s.setMeta k m).viewDirty = s.viewDirty := rfl
@[simp] theorem setMeta_hostLines (s : State) (k : Nat) (m : W64) : (s.setMeta k m).hostLines = s.hostLines := rfl
@[simp] theorem setMeta_l2 (s : State) (k : Nat) (m : W64) : (s.setMeta k m).l2 = s.l2 := rfl
@[simp] theorem setMeta_copies (s : State) (k : Nat) (m : W64) : (s.setMeta k m).copies = s.copies := rfl
@[simp] theorem setMeta_readRuns (s : State) (k : Nat) (m : W64) : (s.setMeta k m).readRuns = s.readRuns := rfl
@[simp] theorem setMeta_tlb (s : State) (k : Nat) (m : W64) : (s.setMeta k m).tlb = s.tlb := rfl
@[simp] theorem setMeta_walks (s : State) (k : Nat) (m : W64) : (s.setMeta k m).walks = s.walks := rfl
@[simp] theorem setMeta_counters (s : State) (k : Nat) (m : W64) : (s.setMeta k m).counters = s.counters := rfl
@[simp] theorem setMeta_counterB1 (s : State) (k : Nat) (m : W64) : (s.setMeta k m).counterB1 = s.counterB1 := rfl
@[simp] theorem setMeta_hostLink (s : State) (k : Nat) (m : W64) : (s.setMeta k m).hostLink = s.hostLink := rfl
@[simp] theorem setMeta_heldW (s : State) (k : Nat) (m : W64) : (s.setMeta k m).heldW = s.heldW := rfl
@[simp] theorem setMeta_queues (s : State) (k : Nat) (m : W64) : (s.setMeta k m).queues = s.queues := rfl
@[simp] theorem setMeta_shapeTab (s : State) (k : Nat) (m : W64) : (s.setMeta k m).shapeTab = s.shapeTab := rfl
@[simp] theorem setMeta_skipcol (s : State) (k : Nat) (m : W64) : (s.setMeta k m).skipcol = s.skipcol := rfl
@[simp] theorem setMeta_absent (s : State) (k : Nat) (m : W64) : (s.setMeta k m).absent = s.absent := rfl
@[simp] theorem setMeta_absentPend (s : State) (k : Nat) (m : W64) : (s.setMeta k m).absentPend = s.absentPend := rfl
@[simp] theorem setMeta_slotTabs (s : State) (k : Nat) (m : W64) : (s.setMeta k m).slotTabs = s.slotTabs := rfl
@[simp] theorem setMeta_clockStore (s : State) (k : Nat) (m : W64) : (s.setMeta k m).clockStore = s.clockStore := rfl
@[simp] theorem setMeta_vfile (s : State) (k : Nat) (m : W64) : (s.setMeta k m).vfile = s.vfile := rfl
@[simp] theorem setMeta_accs (s : State) (k : Nat) (m : W64) : (s.setMeta k m).accs = s.accs := rfl
@[simp] theorem setMeta_accInt (s : State) (k : Nat) (m : W64) : (s.setMeta k m).accInt = s.accInt := rfl
@[simp] theorem setMeta_reqs (s : State) (k : Nat) (m : W64) : (s.setMeta k m).reqs = s.reqs := rfl
@[simp] theorem setMeta_nextReq (s : State) (k : Nat) (m : W64) : (s.setMeta k m).nextReq = s.nextReq := rfl
@[simp] theorem setMeta_parts (s : State) (k : Nat) (m : W64) : (s.setMeta k m).parts = s.parts := rfl
@[simp] theorem setMeta_links (s : State) (k : Nat) (m : W64) : (s.setMeta k m).links = s.links := rfl
@[simp] theorem setMeta_detours (s : State) (k : Nat) (m : W64) : (s.setMeta k m).detours = s.detours := rfl
@[simp] theorem setMeta_ratoms (s : State) (k : Nat) (m : W64) : (s.setMeta k m).ratoms = s.ratoms := rfl
@[simp] theorem setMeta_counterHeld (s : State) (k : Nat) (m : W64) : (s.setMeta k m).counterHeld = s.counterHeld := rfl
@[simp] theorem setMeta_heldIn (s : State) (k : Nat) (m : W64) : (s.setMeta k m).heldIn = s.heldIn := rfl
@[simp] theorem setMeta_foreign (s : State) (k : Nat) (m : W64) : (s.setMeta k m).foreign = s.foreign := rfl
@[simp] theorem setMeta_farOpen (s : State) (k : Nat) (m : W64) : (s.setMeta k m).farOpen = s.farOpen := rfl
@[simp] theorem setMeta_retiredChans (s : State) (k : Nat) (m : W64) : (s.setMeta k m).retiredChans = s.retiredChans := rfl
@[simp] theorem setMeta_ide (s : State) (k : Nat) (m : W64) : (s.setMeta k m).ide = s.ide := rfl
@[simp] theorem setMeta_transcript (s : State) (k : Nat) (m : W64) : (s.setMeta k m).transcript = s.transcript := rfl
@[simp] theorem setMeta_barWait (s : State) (k : Nat) (m : W64) : (s.setMeta k m).barWait = s.barWait := rfl
@[simp] theorem setMeta_nextRatom (s : State) (k : Nat) (m : W64) : (s.setMeta k m).nextRatom = s.nextRatom := rfl
@[simp] theorem setMeta_windows (s : State) (k : Nat) (m : W64) : (s.setMeta k m).windows = s.windows := rfl
@[simp] theorem setMeta_wl (s : State) (k : Nat) (m : W64) : (s.setMeta k m).wl = s.wl := rfl
@[simp] theorem setMeta_wlBuilds (s : State) (k : Nat) (m : W64) : (s.setMeta k m).wlBuilds = s.wlBuilds := rfl
@[simp] theorem setMeta_ualink (s : State) (k : Nat) (m : W64) : (s.setMeta k m).ualink = s.ualink := rfl
@[simp] theorem setMeta_uePorts (s : State) (k : Nat) (m : W64) : (s.setMeta k m).uePorts = s.uePorts := rfl
@[simp] theorem setMeta_ddrUp (s : State) (k : Nat) (m : W64) : (s.setMeta k m).ddrUp = s.ddrUp := rfl
@[simp] theorem setMeta_pod (s : State) (k : Nat) (m : W64) : (s.setMeta k m).pod = s.pod := rfl
@[simp] theorem setMeta_pfstat (s : State) (k : Nat) (m : W64) : (s.setMeta k m).pfstat = s.pfstat := rfl
@[simp] theorem setMeta_fw (s : State) (k : Nat) (m : W64) : (s.setMeta k m).fw = s.fw := rfl
@[simp] theorem setMeta_health (s : State) (k : Nat) (m : W64) : (s.setMeta k m).health = s.health := rfl
@[simp] theorem setMeta_ageing (s : State) (k : Nat) (m : W64) : (s.setMeta k m).ageing = s.ageing := rfl
@[simp] theorem setMeta_mhz (s : State) (k : Nat) (m : W64) : (s.setMeta k m).mhz = s.mhz := rfl
@[simp] theorem setMeta_thermal (s : State) (k : Nat) (m : W64) : (s.setMeta k m).thermal = s.thermal := rfl
@[simp] theorem setMeta_srcEvents (s : State) (k : Nat) (m : W64) : (s.setMeta k m).srcEvents = s.srcEvents := rfl
@[simp] theorem setMeta_srcFrozen (s : State) (k : Nat) (m : W64) : (s.setMeta k m).srcFrozen = s.srcFrozen := rfl
@[simp] theorem setMeta_scrubs (s : State) (k : Nat) (m : W64) : (s.setMeta k m).scrubs = s.scrubs := rfl
@[simp] theorem setMeta_badGran (s : State) (k : Nat) (m : W64) : (s.setMeta k m).badGran = s.badGran := rfl
@[simp] theorem setMeta_retiredPages (s : State) (k : Nat) (m : W64) : (s.setMeta k m).retiredPages = s.retiredPages := rfl
@[simp] theorem setMeta_corrected (s : State) (k : Nat) (m : W64) : (s.setMeta k m).corrected = s.corrected := rfl
@[simp] theorem setMeta_copyOrder (s : State) (k : Nat) (m : W64) : (s.setMeta k m).copyOrder = s.copyOrder := rfl
@[simp] theorem setMeta_jobLast (s : State) (k : Nat) (m : W64) : (s.setMeta k m).jobLast = s.jobLast := rfl
@[simp] theorem setMeta_farBuf (s : State) (k : Nat) (m : W64) : (s.setMeta k m).farBuf = s.farBuf := rfl
@[simp] theorem setMeta_traces (s : State) (k : Nat) (m : W64) : (s.setMeta k m).traces = s.traces := rfl
@[simp] theorem setMeta_out (s : State) (k : Nat) (m : W64) : (s.setMeta k m).out = s.out := rfl
@[simp] theorem setMeta_free (s : State) (k : Nat) (m : W64) : (s.setMeta k m).free = s.free := rfl
@[simp] theorem onStream_datum (s : State) (st : Stream) (f : StreamState → StreamState) : (s.onStream st f).datum = s.datum := rfl
@[simp] theorem onStream_cur (s : State) (st : Stream) (f : StreamState → StreamState) : (s.onStream st f).cur = s.cur.setStream st (f (s.cur.stream st)) := rfl
@[simp] theorem onStream_curStream (s : State) (st : Stream) (f : StreamState → StreamState) : (s.onStream st f).curStream = s.curStream := rfl
@[simp] theorem onStream_rest (s : State) (st : Stream) (f : StreamState → StreamState) : (s.onStream st f).rest = s.rest := rfl
@[simp] theorem onStream_nextLease (s : State) (st : Stream) (f : StreamState → StreamState) : (s.onStream st f).nextLease = s.nextLease := rfl
@[simp] theorem onStream_inbox (s : State) (st : Stream) (f : StreamState → StreamState) : (s.onStream st f).inbox = s.inbox := rfl
@[simp] theorem onStream_turn (s : State) (st : Stream) (f : StreamState → StreamState) : (s.onStream st f).turn = s.turn := rfl
@[simp] theorem onStream_mem (s : State) (st : Stream) (f : StreamState → StreamState) : (s.onStream st f).mem = s.mem := rfl
@[simp] theorem onStream_gmeta (s : State) (st : Stream) (f : StreamState → StreamState) : (s.onStream st f).gmeta = s.gmeta := rfl
@[simp] theorem onStream_keyTag (s : State) (st : Stream) (f : StreamState → StreamState) : (s.onStream st f).keyTag = s.keyTag := rfl
@[simp] theorem onStream_keyLoad (s : State) (st : Stream) (f : StreamState → StreamState) : (s.onStream st f).keyLoad = s.keyLoad := rfl
@[simp] theorem onStream_marks (s : State) (st : Stream) (f : StreamState → StreamState) : (s.onStream st f).marks = s.marks := rfl
@[simp] theorem onStream_vecs (s : State) (st : Stream) (f : StreamState → StreamState) : (s.onStream st f).vecs = s.vecs := rfl
@[simp] theorem onStream_nextVec (s : State) (st : Stream) (f : StreamState → StreamState) : (s.onStream st f).nextVec = s.nextVec := rfl
@[simp] theorem onStream_viewOld (s : State) (st : Stream) (f : StreamState → StreamState) : (s.onStream st f).viewOld = s.viewOld := rfl
@[simp] theorem onStream_viewTag (s : State) (st : Stream) (f : StreamState → StreamState) : (s.onStream st f).viewTag = s.viewTag := rfl
@[simp] theorem onStream_viewDirty (s : State) (st : Stream) (f : StreamState → StreamState) : (s.onStream st f).viewDirty = s.viewDirty := rfl
@[simp] theorem onStream_hostLines (s : State) (st : Stream) (f : StreamState → StreamState) : (s.onStream st f).hostLines = s.hostLines := rfl
@[simp] theorem onStream_l2 (s : State) (st : Stream) (f : StreamState → StreamState) : (s.onStream st f).l2 = s.l2 := rfl
@[simp] theorem onStream_copies (s : State) (st : Stream) (f : StreamState → StreamState) : (s.onStream st f).copies = s.copies := rfl
@[simp] theorem onStream_readRuns (s : State) (st : Stream) (f : StreamState → StreamState) : (s.onStream st f).readRuns = s.readRuns := rfl
@[simp] theorem onStream_tlb (s : State) (st : Stream) (f : StreamState → StreamState) : (s.onStream st f).tlb = s.tlb := rfl
@[simp] theorem onStream_walks (s : State) (st : Stream) (f : StreamState → StreamState) : (s.onStream st f).walks = s.walks := rfl
@[simp] theorem onStream_counters (s : State) (st : Stream) (f : StreamState → StreamState) : (s.onStream st f).counters = s.counters := rfl
@[simp] theorem onStream_counterB1 (s : State) (st : Stream) (f : StreamState → StreamState) : (s.onStream st f).counterB1 = s.counterB1 := rfl
@[simp] theorem onStream_hostLink (s : State) (st : Stream) (f : StreamState → StreamState) : (s.onStream st f).hostLink = s.hostLink := rfl
@[simp] theorem onStream_heldW (s : State) (st : Stream) (f : StreamState → StreamState) : (s.onStream st f).heldW = s.heldW := rfl
@[simp] theorem onStream_queues (s : State) (st : Stream) (f : StreamState → StreamState) : (s.onStream st f).queues = s.queues := rfl
@[simp] theorem onStream_shapeTab (s : State) (st : Stream) (f : StreamState → StreamState) : (s.onStream st f).shapeTab = s.shapeTab := rfl
@[simp] theorem onStream_skipcol (s : State) (st : Stream) (f : StreamState → StreamState) : (s.onStream st f).skipcol = s.skipcol := rfl
@[simp] theorem onStream_absent (s : State) (st : Stream) (f : StreamState → StreamState) : (s.onStream st f).absent = s.absent := rfl
@[simp] theorem onStream_absentPend (s : State) (st : Stream) (f : StreamState → StreamState) : (s.onStream st f).absentPend = s.absentPend := rfl
@[simp] theorem onStream_slotTabs (s : State) (st : Stream) (f : StreamState → StreamState) : (s.onStream st f).slotTabs = s.slotTabs := rfl
@[simp] theorem onStream_clockStore (s : State) (st : Stream) (f : StreamState → StreamState) : (s.onStream st f).clockStore = s.clockStore := rfl
@[simp] theorem onStream_vfile (s : State) (st : Stream) (f : StreamState → StreamState) : (s.onStream st f).vfile = s.vfile := rfl
@[simp] theorem onStream_accs (s : State) (st : Stream) (f : StreamState → StreamState) : (s.onStream st f).accs = s.accs := rfl
@[simp] theorem onStream_accInt (s : State) (st : Stream) (f : StreamState → StreamState) : (s.onStream st f).accInt = s.accInt := rfl
@[simp] theorem onStream_reqs (s : State) (st : Stream) (f : StreamState → StreamState) : (s.onStream st f).reqs = s.reqs := rfl
@[simp] theorem onStream_nextReq (s : State) (st : Stream) (f : StreamState → StreamState) : (s.onStream st f).nextReq = s.nextReq := rfl
@[simp] theorem onStream_parts (s : State) (st : Stream) (f : StreamState → StreamState) : (s.onStream st f).parts = s.parts := rfl
@[simp] theorem onStream_links (s : State) (st : Stream) (f : StreamState → StreamState) : (s.onStream st f).links = s.links := rfl
@[simp] theorem onStream_detours (s : State) (st : Stream) (f : StreamState → StreamState) : (s.onStream st f).detours = s.detours := rfl
@[simp] theorem onStream_ratoms (s : State) (st : Stream) (f : StreamState → StreamState) : (s.onStream st f).ratoms = s.ratoms := rfl
@[simp] theorem onStream_counterHeld (s : State) (st : Stream) (f : StreamState → StreamState) : (s.onStream st f).counterHeld = s.counterHeld := rfl
@[simp] theorem onStream_heldIn (s : State) (st : Stream) (f : StreamState → StreamState) : (s.onStream st f).heldIn = s.heldIn := rfl
@[simp] theorem onStream_foreign (s : State) (st : Stream) (f : StreamState → StreamState) : (s.onStream st f).foreign = s.foreign := rfl
@[simp] theorem onStream_farOpen (s : State) (st : Stream) (f : StreamState → StreamState) : (s.onStream st f).farOpen = s.farOpen := rfl
@[simp] theorem onStream_retiredChans (s : State) (st : Stream) (f : StreamState → StreamState) : (s.onStream st f).retiredChans = s.retiredChans := rfl
@[simp] theorem onStream_ide (s : State) (st : Stream) (f : StreamState → StreamState) : (s.onStream st f).ide = s.ide := rfl
@[simp] theorem onStream_transcript (s : State) (st : Stream) (f : StreamState → StreamState) : (s.onStream st f).transcript = s.transcript := rfl
@[simp] theorem onStream_barWait (s : State) (st : Stream) (f : StreamState → StreamState) : (s.onStream st f).barWait = s.barWait := rfl
@[simp] theorem onStream_nextRatom (s : State) (st : Stream) (f : StreamState → StreamState) : (s.onStream st f).nextRatom = s.nextRatom := rfl
@[simp] theorem onStream_windows (s : State) (st : Stream) (f : StreamState → StreamState) : (s.onStream st f).windows = s.windows := rfl
@[simp] theorem onStream_wl (s : State) (st : Stream) (f : StreamState → StreamState) : (s.onStream st f).wl = s.wl := rfl
@[simp] theorem onStream_wlBuilds (s : State) (st : Stream) (f : StreamState → StreamState) : (s.onStream st f).wlBuilds = s.wlBuilds := rfl
@[simp] theorem onStream_ualink (s : State) (st : Stream) (f : StreamState → StreamState) : (s.onStream st f).ualink = s.ualink := rfl
@[simp] theorem onStream_uePorts (s : State) (st : Stream) (f : StreamState → StreamState) : (s.onStream st f).uePorts = s.uePorts := rfl
@[simp] theorem onStream_ddrUp (s : State) (st : Stream) (f : StreamState → StreamState) : (s.onStream st f).ddrUp = s.ddrUp := rfl
@[simp] theorem onStream_pod (s : State) (st : Stream) (f : StreamState → StreamState) : (s.onStream st f).pod = s.pod := rfl
@[simp] theorem onStream_pfstat (s : State) (st : Stream) (f : StreamState → StreamState) : (s.onStream st f).pfstat = s.pfstat := rfl
@[simp] theorem onStream_fw (s : State) (st : Stream) (f : StreamState → StreamState) : (s.onStream st f).fw = s.fw := rfl
@[simp] theorem onStream_health (s : State) (st : Stream) (f : StreamState → StreamState) : (s.onStream st f).health = s.health := rfl
@[simp] theorem onStream_ageing (s : State) (st : Stream) (f : StreamState → StreamState) : (s.onStream st f).ageing = s.ageing := rfl
@[simp] theorem onStream_mhz (s : State) (st : Stream) (f : StreamState → StreamState) : (s.onStream st f).mhz = s.mhz := rfl
@[simp] theorem onStream_thermal (s : State) (st : Stream) (f : StreamState → StreamState) : (s.onStream st f).thermal = s.thermal := rfl
@[simp] theorem onStream_srcEvents (s : State) (st : Stream) (f : StreamState → StreamState) : (s.onStream st f).srcEvents = s.srcEvents := rfl
@[simp] theorem onStream_srcFrozen (s : State) (st : Stream) (f : StreamState → StreamState) : (s.onStream st f).srcFrozen = s.srcFrozen := rfl
@[simp] theorem onStream_scrubs (s : State) (st : Stream) (f : StreamState → StreamState) : (s.onStream st f).scrubs = s.scrubs := rfl
@[simp] theorem onStream_badGran (s : State) (st : Stream) (f : StreamState → StreamState) : (s.onStream st f).badGran = s.badGran := rfl
@[simp] theorem onStream_retiredPages (s : State) (st : Stream) (f : StreamState → StreamState) : (s.onStream st f).retiredPages = s.retiredPages := rfl
@[simp] theorem onStream_corrected (s : State) (st : Stream) (f : StreamState → StreamState) : (s.onStream st f).corrected = s.corrected := rfl
@[simp] theorem onStream_copyOrder (s : State) (st : Stream) (f : StreamState → StreamState) : (s.onStream st f).copyOrder = s.copyOrder := rfl
@[simp] theorem onStream_jobLast (s : State) (st : Stream) (f : StreamState → StreamState) : (s.onStream st f).jobLast = s.jobLast := rfl
@[simp] theorem onStream_farBuf (s : State) (st : Stream) (f : StreamState → StreamState) : (s.onStream st f).farBuf = s.farBuf := rfl
@[simp] theorem onStream_traces (s : State) (st : Stream) (f : StreamState → StreamState) : (s.onStream st f).traces = s.traces := rfl
@[simp] theorem onStream_out (s : State) (st : Stream) (f : StreamState → StreamState) : (s.onStream st f).out = s.out := rfl
@[simp] theorem onStream_free (s : State) (st : Stream) (f : StreamState → StreamState) : (s.onStream st f).free = s.free := rfl
@[simp] theorem onRing_datum (s : State) (st : Stream) (f : Ring → Ring) : (s.onRing st f).datum = s.datum := rfl
@[simp] theorem onRing_cur (s : State) (st : Stream) (f : Ring → Ring) : (s.onRing st f).cur = s.cur.setStream st { s.cur.stream st with ring := f (s.cur.stream st).ring } := rfl
@[simp] theorem onRing_curStream (s : State) (st : Stream) (f : Ring → Ring) : (s.onRing st f).curStream = s.curStream := rfl
@[simp] theorem onRing_rest (s : State) (st : Stream) (f : Ring → Ring) : (s.onRing st f).rest = s.rest := rfl
@[simp] theorem onRing_nextLease (s : State) (st : Stream) (f : Ring → Ring) : (s.onRing st f).nextLease = s.nextLease := rfl
@[simp] theorem onRing_inbox (s : State) (st : Stream) (f : Ring → Ring) : (s.onRing st f).inbox = s.inbox := rfl
@[simp] theorem onRing_turn (s : State) (st : Stream) (f : Ring → Ring) : (s.onRing st f).turn = s.turn := rfl
@[simp] theorem onRing_mem (s : State) (st : Stream) (f : Ring → Ring) : (s.onRing st f).mem = s.mem := rfl
@[simp] theorem onRing_gmeta (s : State) (st : Stream) (f : Ring → Ring) : (s.onRing st f).gmeta = s.gmeta := rfl
@[simp] theorem onRing_keyTag (s : State) (st : Stream) (f : Ring → Ring) : (s.onRing st f).keyTag = s.keyTag := rfl
@[simp] theorem onRing_keyLoad (s : State) (st : Stream) (f : Ring → Ring) : (s.onRing st f).keyLoad = s.keyLoad := rfl
@[simp] theorem onRing_marks (s : State) (st : Stream) (f : Ring → Ring) : (s.onRing st f).marks = s.marks := rfl
@[simp] theorem onRing_vecs (s : State) (st : Stream) (f : Ring → Ring) : (s.onRing st f).vecs = s.vecs := rfl
@[simp] theorem onRing_nextVec (s : State) (st : Stream) (f : Ring → Ring) : (s.onRing st f).nextVec = s.nextVec := rfl
@[simp] theorem onRing_viewOld (s : State) (st : Stream) (f : Ring → Ring) : (s.onRing st f).viewOld = s.viewOld := rfl
@[simp] theorem onRing_viewTag (s : State) (st : Stream) (f : Ring → Ring) : (s.onRing st f).viewTag = s.viewTag := rfl
@[simp] theorem onRing_viewDirty (s : State) (st : Stream) (f : Ring → Ring) : (s.onRing st f).viewDirty = s.viewDirty := rfl
@[simp] theorem onRing_hostLines (s : State) (st : Stream) (f : Ring → Ring) : (s.onRing st f).hostLines = s.hostLines := rfl
@[simp] theorem onRing_l2 (s : State) (st : Stream) (f : Ring → Ring) : (s.onRing st f).l2 = s.l2 := rfl
@[simp] theorem onRing_copies (s : State) (st : Stream) (f : Ring → Ring) : (s.onRing st f).copies = s.copies := rfl
@[simp] theorem onRing_readRuns (s : State) (st : Stream) (f : Ring → Ring) : (s.onRing st f).readRuns = s.readRuns := rfl
@[simp] theorem onRing_tlb (s : State) (st : Stream) (f : Ring → Ring) : (s.onRing st f).tlb = s.tlb := rfl
@[simp] theorem onRing_walks (s : State) (st : Stream) (f : Ring → Ring) : (s.onRing st f).walks = s.walks := rfl
@[simp] theorem onRing_counters (s : State) (st : Stream) (f : Ring → Ring) : (s.onRing st f).counters = s.counters := rfl
@[simp] theorem onRing_counterB1 (s : State) (st : Stream) (f : Ring → Ring) : (s.onRing st f).counterB1 = s.counterB1 := rfl
@[simp] theorem onRing_hostLink (s : State) (st : Stream) (f : Ring → Ring) : (s.onRing st f).hostLink = s.hostLink := rfl
@[simp] theorem onRing_heldW (s : State) (st : Stream) (f : Ring → Ring) : (s.onRing st f).heldW = s.heldW := rfl
@[simp] theorem onRing_queues (s : State) (st : Stream) (f : Ring → Ring) : (s.onRing st f).queues = s.queues := rfl
@[simp] theorem onRing_shapeTab (s : State) (st : Stream) (f : Ring → Ring) : (s.onRing st f).shapeTab = s.shapeTab := rfl
@[simp] theorem onRing_skipcol (s : State) (st : Stream) (f : Ring → Ring) : (s.onRing st f).skipcol = s.skipcol := rfl
@[simp] theorem onRing_absent (s : State) (st : Stream) (f : Ring → Ring) : (s.onRing st f).absent = s.absent := rfl
@[simp] theorem onRing_absentPend (s : State) (st : Stream) (f : Ring → Ring) : (s.onRing st f).absentPend = s.absentPend := rfl
@[simp] theorem onRing_slotTabs (s : State) (st : Stream) (f : Ring → Ring) : (s.onRing st f).slotTabs = s.slotTabs := rfl
@[simp] theorem onRing_clockStore (s : State) (st : Stream) (f : Ring → Ring) : (s.onRing st f).clockStore = s.clockStore := rfl
@[simp] theorem onRing_vfile (s : State) (st : Stream) (f : Ring → Ring) : (s.onRing st f).vfile = s.vfile := rfl
@[simp] theorem onRing_accs (s : State) (st : Stream) (f : Ring → Ring) : (s.onRing st f).accs = s.accs := rfl
@[simp] theorem onRing_accInt (s : State) (st : Stream) (f : Ring → Ring) : (s.onRing st f).accInt = s.accInt := rfl
@[simp] theorem onRing_reqs (s : State) (st : Stream) (f : Ring → Ring) : (s.onRing st f).reqs = s.reqs := rfl
@[simp] theorem onRing_nextReq (s : State) (st : Stream) (f : Ring → Ring) : (s.onRing st f).nextReq = s.nextReq := rfl
@[simp] theorem onRing_parts (s : State) (st : Stream) (f : Ring → Ring) : (s.onRing st f).parts = s.parts := rfl
@[simp] theorem onRing_links (s : State) (st : Stream) (f : Ring → Ring) : (s.onRing st f).links = s.links := rfl
@[simp] theorem onRing_detours (s : State) (st : Stream) (f : Ring → Ring) : (s.onRing st f).detours = s.detours := rfl
@[simp] theorem onRing_ratoms (s : State) (st : Stream) (f : Ring → Ring) : (s.onRing st f).ratoms = s.ratoms := rfl
@[simp] theorem onRing_counterHeld (s : State) (st : Stream) (f : Ring → Ring) : (s.onRing st f).counterHeld = s.counterHeld := rfl
@[simp] theorem onRing_heldIn (s : State) (st : Stream) (f : Ring → Ring) : (s.onRing st f).heldIn = s.heldIn := rfl
@[simp] theorem onRing_foreign (s : State) (st : Stream) (f : Ring → Ring) : (s.onRing st f).foreign = s.foreign := rfl
@[simp] theorem onRing_farOpen (s : State) (st : Stream) (f : Ring → Ring) : (s.onRing st f).farOpen = s.farOpen := rfl
@[simp] theorem onRing_retiredChans (s : State) (st : Stream) (f : Ring → Ring) : (s.onRing st f).retiredChans = s.retiredChans := rfl
@[simp] theorem onRing_ide (s : State) (st : Stream) (f : Ring → Ring) : (s.onRing st f).ide = s.ide := rfl
@[simp] theorem onRing_transcript (s : State) (st : Stream) (f : Ring → Ring) : (s.onRing st f).transcript = s.transcript := rfl
@[simp] theorem onRing_barWait (s : State) (st : Stream) (f : Ring → Ring) : (s.onRing st f).barWait = s.barWait := rfl
@[simp] theorem onRing_nextRatom (s : State) (st : Stream) (f : Ring → Ring) : (s.onRing st f).nextRatom = s.nextRatom := rfl
@[simp] theorem onRing_windows (s : State) (st : Stream) (f : Ring → Ring) : (s.onRing st f).windows = s.windows := rfl
@[simp] theorem onRing_wl (s : State) (st : Stream) (f : Ring → Ring) : (s.onRing st f).wl = s.wl := rfl
@[simp] theorem onRing_wlBuilds (s : State) (st : Stream) (f : Ring → Ring) : (s.onRing st f).wlBuilds = s.wlBuilds := rfl
@[simp] theorem onRing_ualink (s : State) (st : Stream) (f : Ring → Ring) : (s.onRing st f).ualink = s.ualink := rfl
@[simp] theorem onRing_uePorts (s : State) (st : Stream) (f : Ring → Ring) : (s.onRing st f).uePorts = s.uePorts := rfl
@[simp] theorem onRing_ddrUp (s : State) (st : Stream) (f : Ring → Ring) : (s.onRing st f).ddrUp = s.ddrUp := rfl
@[simp] theorem onRing_pod (s : State) (st : Stream) (f : Ring → Ring) : (s.onRing st f).pod = s.pod := rfl
@[simp] theorem onRing_pfstat (s : State) (st : Stream) (f : Ring → Ring) : (s.onRing st f).pfstat = s.pfstat := rfl
@[simp] theorem onRing_fw (s : State) (st : Stream) (f : Ring → Ring) : (s.onRing st f).fw = s.fw := rfl
@[simp] theorem onRing_health (s : State) (st : Stream) (f : Ring → Ring) : (s.onRing st f).health = s.health := rfl
@[simp] theorem onRing_ageing (s : State) (st : Stream) (f : Ring → Ring) : (s.onRing st f).ageing = s.ageing := rfl
@[simp] theorem onRing_mhz (s : State) (st : Stream) (f : Ring → Ring) : (s.onRing st f).mhz = s.mhz := rfl
@[simp] theorem onRing_thermal (s : State) (st : Stream) (f : Ring → Ring) : (s.onRing st f).thermal = s.thermal := rfl
@[simp] theorem onRing_srcEvents (s : State) (st : Stream) (f : Ring → Ring) : (s.onRing st f).srcEvents = s.srcEvents := rfl
@[simp] theorem onRing_srcFrozen (s : State) (st : Stream) (f : Ring → Ring) : (s.onRing st f).srcFrozen = s.srcFrozen := rfl
@[simp] theorem onRing_scrubs (s : State) (st : Stream) (f : Ring → Ring) : (s.onRing st f).scrubs = s.scrubs := rfl
@[simp] theorem onRing_badGran (s : State) (st : Stream) (f : Ring → Ring) : (s.onRing st f).badGran = s.badGran := rfl
@[simp] theorem onRing_retiredPages (s : State) (st : Stream) (f : Ring → Ring) : (s.onRing st f).retiredPages = s.retiredPages := rfl
@[simp] theorem onRing_corrected (s : State) (st : Stream) (f : Ring → Ring) : (s.onRing st f).corrected = s.corrected := rfl
@[simp] theorem onRing_copyOrder (s : State) (st : Stream) (f : Ring → Ring) : (s.onRing st f).copyOrder = s.copyOrder := rfl
@[simp] theorem onRing_jobLast (s : State) (st : Stream) (f : Ring → Ring) : (s.onRing st f).jobLast = s.jobLast := rfl
@[simp] theorem onRing_farBuf (s : State) (st : Stream) (f : Ring → Ring) : (s.onRing st f).farBuf = s.farBuf := rfl
@[simp] theorem onRing_traces (s : State) (st : Stream) (f : Ring → Ring) : (s.onRing st f).traces = s.traces := rfl
@[simp] theorem onRing_out (s : State) (st : Stream) (f : Ring → Ring) : (s.onRing st f).out = s.out := rfl
@[simp] theorem onRing_free (s : State) (st : Stream) (f : Ring → Ring) : (s.onRing st f).free = s.free := rfl
@[simp] theorem addReq_datum (s : State) (r : Req) : (s.addReq r).datum = s.datum := rfl
@[simp] theorem addReq_cur (s : State) (r : Req) : (s.addReq r).cur = s.cur := rfl
@[simp] theorem addReq_curStream (s : State) (r : Req) : (s.addReq r).curStream = s.curStream := rfl
@[simp] theorem addReq_rest (s : State) (r : Req) : (s.addReq r).rest = s.rest := rfl
@[simp] theorem addReq_nextLease (s : State) (r : Req) : (s.addReq r).nextLease = s.nextLease := rfl
@[simp] theorem addReq_inbox (s : State) (r : Req) : (s.addReq r).inbox = s.inbox := rfl
@[simp] theorem addReq_turn (s : State) (r : Req) : (s.addReq r).turn = s.turn := rfl
@[simp] theorem addReq_mem (s : State) (r : Req) : (s.addReq r).mem = s.mem := rfl
@[simp] theorem addReq_gmeta (s : State) (r : Req) : (s.addReq r).gmeta = s.gmeta := rfl
@[simp] theorem addReq_keyTag (s : State) (r : Req) : (s.addReq r).keyTag = s.keyTag := rfl
@[simp] theorem addReq_keyLoad (s : State) (r : Req) : (s.addReq r).keyLoad = s.keyLoad := rfl
@[simp] theorem addReq_marks (s : State) (r : Req) : (s.addReq r).marks = s.marks := rfl
@[simp] theorem addReq_vecs (s : State) (r : Req) : (s.addReq r).vecs = s.vecs := rfl
@[simp] theorem addReq_nextVec (s : State) (r : Req) : (s.addReq r).nextVec = s.nextVec := rfl
@[simp] theorem addReq_viewOld (s : State) (r : Req) : (s.addReq r).viewOld = s.viewOld := rfl
@[simp] theorem addReq_viewTag (s : State) (r : Req) : (s.addReq r).viewTag = s.viewTag := rfl
@[simp] theorem addReq_viewDirty (s : State) (r : Req) : (s.addReq r).viewDirty = s.viewDirty := rfl
@[simp] theorem addReq_hostLines (s : State) (r : Req) : (s.addReq r).hostLines = s.hostLines := rfl
@[simp] theorem addReq_l2 (s : State) (r : Req) : (s.addReq r).l2 = s.l2 := rfl
@[simp] theorem addReq_copies (s : State) (r : Req) : (s.addReq r).copies = s.copies := rfl
@[simp] theorem addReq_readRuns (s : State) (r : Req) : (s.addReq r).readRuns = s.readRuns := rfl
@[simp] theorem addReq_tlb (s : State) (r : Req) : (s.addReq r).tlb = s.tlb := rfl
@[simp] theorem addReq_walks (s : State) (r : Req) : (s.addReq r).walks = s.walks := rfl
@[simp] theorem addReq_counters (s : State) (r : Req) : (s.addReq r).counters = s.counters := rfl
@[simp] theorem addReq_counterB1 (s : State) (r : Req) : (s.addReq r).counterB1 = s.counterB1 := rfl
@[simp] theorem addReq_hostLink (s : State) (r : Req) : (s.addReq r).hostLink = s.hostLink := rfl
@[simp] theorem addReq_heldW (s : State) (r : Req) : (s.addReq r).heldW = s.heldW := rfl
@[simp] theorem addReq_queues (s : State) (r : Req) : (s.addReq r).queues = s.queues := rfl
@[simp] theorem addReq_shapeTab (s : State) (r : Req) : (s.addReq r).shapeTab = s.shapeTab := rfl
@[simp] theorem addReq_skipcol (s : State) (r : Req) : (s.addReq r).skipcol = s.skipcol := rfl
@[simp] theorem addReq_absent (s : State) (r : Req) : (s.addReq r).absent = s.absent := rfl
@[simp] theorem addReq_absentPend (s : State) (r : Req) : (s.addReq r).absentPend = s.absentPend := rfl
@[simp] theorem addReq_slotTabs (s : State) (r : Req) : (s.addReq r).slotTabs = s.slotTabs := rfl
@[simp] theorem addReq_clockStore (s : State) (r : Req) : (s.addReq r).clockStore = s.clockStore := rfl
@[simp] theorem addReq_vfile (s : State) (r : Req) : (s.addReq r).vfile = s.vfile := rfl
@[simp] theorem addReq_accs (s : State) (r : Req) : (s.addReq r).accs = s.accs := rfl
@[simp] theorem addReq_accInt (s : State) (r : Req) : (s.addReq r).accInt = s.accInt := rfl
@[simp] theorem addReq_reqs (s : State) (r : Req) : (s.addReq r).reqs = s.reqs ++ [{ r with num := s.nextReq }] := rfl
@[simp] theorem addReq_nextReq (s : State) (r : Req) : (s.addReq r).nextReq = s.nextReq + 1 := rfl
@[simp] theorem addReq_parts (s : State) (r : Req) : (s.addReq r).parts = s.parts := rfl
@[simp] theorem addReq_links (s : State) (r : Req) : (s.addReq r).links = s.links := rfl
@[simp] theorem addReq_detours (s : State) (r : Req) : (s.addReq r).detours = s.detours := rfl
@[simp] theorem addReq_ratoms (s : State) (r : Req) : (s.addReq r).ratoms = s.ratoms := rfl
@[simp] theorem addReq_counterHeld (s : State) (r : Req) : (s.addReq r).counterHeld = s.counterHeld := rfl
@[simp] theorem addReq_heldIn (s : State) (r : Req) : (s.addReq r).heldIn = s.heldIn := rfl
@[simp] theorem addReq_foreign (s : State) (r : Req) : (s.addReq r).foreign = s.foreign := rfl
@[simp] theorem addReq_farOpen (s : State) (r : Req) : (s.addReq r).farOpen = s.farOpen := rfl
@[simp] theorem addReq_retiredChans (s : State) (r : Req) : (s.addReq r).retiredChans = s.retiredChans := rfl
@[simp] theorem addReq_ide (s : State) (r : Req) : (s.addReq r).ide = s.ide := rfl
@[simp] theorem addReq_transcript (s : State) (r : Req) : (s.addReq r).transcript = s.transcript := rfl
@[simp] theorem addReq_barWait (s : State) (r : Req) : (s.addReq r).barWait = s.barWait := rfl
@[simp] theorem addReq_nextRatom (s : State) (r : Req) : (s.addReq r).nextRatom = s.nextRatom := rfl
@[simp] theorem addReq_windows (s : State) (r : Req) : (s.addReq r).windows = s.windows := rfl
@[simp] theorem addReq_wl (s : State) (r : Req) : (s.addReq r).wl = s.wl := rfl
@[simp] theorem addReq_wlBuilds (s : State) (r : Req) : (s.addReq r).wlBuilds = s.wlBuilds := rfl
@[simp] theorem addReq_ualink (s : State) (r : Req) : (s.addReq r).ualink = s.ualink := rfl
@[simp] theorem addReq_uePorts (s : State) (r : Req) : (s.addReq r).uePorts = s.uePorts := rfl
@[simp] theorem addReq_ddrUp (s : State) (r : Req) : (s.addReq r).ddrUp = s.ddrUp := rfl
@[simp] theorem addReq_pod (s : State) (r : Req) : (s.addReq r).pod = s.pod := rfl
@[simp] theorem addReq_pfstat (s : State) (r : Req) : (s.addReq r).pfstat = s.pfstat := rfl
@[simp] theorem addReq_fw (s : State) (r : Req) : (s.addReq r).fw = s.fw := rfl
@[simp] theorem addReq_health (s : State) (r : Req) : (s.addReq r).health = s.health := rfl
@[simp] theorem addReq_ageing (s : State) (r : Req) : (s.addReq r).ageing = s.ageing := rfl
@[simp] theorem addReq_mhz (s : State) (r : Req) : (s.addReq r).mhz = s.mhz := rfl
@[simp] theorem addReq_thermal (s : State) (r : Req) : (s.addReq r).thermal = s.thermal := rfl
@[simp] theorem addReq_srcEvents (s : State) (r : Req) : (s.addReq r).srcEvents = s.srcEvents := rfl
@[simp] theorem addReq_srcFrozen (s : State) (r : Req) : (s.addReq r).srcFrozen = s.srcFrozen := rfl
@[simp] theorem addReq_scrubs (s : State) (r : Req) : (s.addReq r).scrubs = s.scrubs := rfl
@[simp] theorem addReq_badGran (s : State) (r : Req) : (s.addReq r).badGran = s.badGran := rfl
@[simp] theorem addReq_retiredPages (s : State) (r : Req) : (s.addReq r).retiredPages = s.retiredPages := rfl
@[simp] theorem addReq_corrected (s : State) (r : Req) : (s.addReq r).corrected = s.corrected := rfl
@[simp] theorem addReq_copyOrder (s : State) (r : Req) : (s.addReq r).copyOrder = s.copyOrder := rfl
@[simp] theorem addReq_jobLast (s : State) (r : Req) : (s.addReq r).jobLast = s.jobLast := rfl
@[simp] theorem addReq_farBuf (s : State) (r : Req) : (s.addReq r).farBuf = s.farBuf := rfl
@[simp] theorem addReq_traces (s : State) (r : Req) : (s.addReq r).traces = s.traces := rfl
@[simp] theorem addReq_out (s : State) (r : Req) : (s.addReq r).out = s.out := rfl
@[simp] theorem addReq_free (s : State) (r : Req) : (s.addReq r).free = s.free := rfl

/-! ## CT under its updates -/

@[simp] theorem goOn_sregs (c : Ct) (pc mc : Nat) : (c.goOn pc mc).sregs = c.sregs := rfl
@[simp] theorem goOn_shadow (c : Ct) (pc mc : Nat) : (c.goOn pc mc).shadow = c.shadow := rfl
@[simp] theorem goOn_handles (c : Ct) (pc mc : Nat) : (c.goOn pc mc).handles = c.handles := rfl
@[simp] theorem goOn_pc (c : Ct) (pc mc : Nat) : (c.goOn pc mc).pc = pc := rfl
@[simp] theorem goOn_accd (c : Ct) (pc mc : Nat) : (c.goOn pc mc).accd = false := rfl
@[simp] theorem goOn_wdone (c : Ct) (pc mc : Nat) : (c.goOn pc mc).wdone = false := rfl
@[simp] theorem goOn_idx (c : Ct) (pc mc : Nat) : (c.goOn pc mc).idx = 0 := rfl
@[simp] theorem goOn_wait (c : Ct) (pc mc : Nat) : (c.goOn pc mc).wait = .none := rfl
@[simp] theorem goOn_begun (c : Ct) (pc mc : Nat) : (c.goOn pc mc).begun = false := rfl
@[simp] theorem goOn_trapDue (c : Ct) (pc mc : Nat) : (c.goOn pc mc).trapDue = c.trapDue := rfl
@[simp] theorem goOn_ir (c : Ct) (pc mc : Nat) : (c.goOn pc mc).ir = c.ir := rfl
@[simp] theorem goOn_loops (c : Ct) (pc mc : Nat) : (c.goOn pc mc).loops = c.loops := rfl
@[simp] theorem goOn_trapCause (c : Ct) (pc mc : Nat) : (c.goOn pc mc).trapCause = c.trapCause := rfl
@[simp] theorem goOn_trapPc (c : Ct) (pc mc : Nat) : (c.goOn pc mc).trapPc = c.trapPc := rfl
@[simp] theorem goOn_trapCtl (c : Ct) (pc mc : Nat) : (c.goOn pc mc).trapCtl = c.trapCtl := rfl
@[simp] theorem goOn_info0 (c : Ct) (pc mc : Nat) : (c.goOn pc mc).info0 = c.info0 := rfl
@[simp] theorem goOn_info1 (c : Ct) (pc mc : Nat) : (c.goOn pc mc).info1 = c.info1 := rfl
@[simp] theorem goOn_info2 (c : Ct) (pc mc : Nat) : (c.goOn pc mc).info2 = c.info2 := rfl
@[simp] theorem goOn_info3 (c : Ct) (pc mc : Nat) : (c.goOn pc mc).info3 = c.info3 := rfl
@[simp] theorem goOn_uivec (c : Ct) (pc mc : Nat) : (c.goOn pc mc).uivec = c.uivec := rfl
@[simp] theorem goOn_uipc (c : Ct) (pc mc : Nat) : (c.goOn pc mc).uipc = c.uipc := rfl
@[simp] theorem goOn_vcmode (c : Ct) (pc mc : Nat) : (c.goOn pc mc).vcmode = c.vcmode := rfl
@[simp] theorem goOn_nstat (c : Ct) (pc mc : Nat) : (c.goOn pc mc).nstat = c.nstat := rfl
@[simp] theorem goOn_nstatNow (c : Ct) (pc mc : Nat) : (c.goOn pc mc).nstatNow = c.nstatNow := rfl
@[simp] theorem goOn_cerr (c : Ct) (pc mc : Nat) : (c.goOn pc mc).cerr = c.cerr := rfl
@[simp] theorem goOn_bad (c : Ct) (pc mc : Nat) : (c.goOn pc mc).bad = c.bad := rfl
@[simp] theorem goOn_accwin (c : Ct) (pc mc : Nat) : (c.goOn pc mc).accwin = c.accwin := rfl
@[simp] theorem goOn_ready (c : Ct) (pc mc : Nat) : (c.goOn pc mc).ready = c.ready := rfl
@[simp] theorem goOn_divFree (c : Ct) (pc mc : Nat) : (c.goOn pc mc).divFree = c.divFree := rfl
@[simp] theorem goOn_nextMc (c : Ct) (pc mc : Nat) : (c.goOn pc mc).nextMc = mc := rfl
@[simp] theorem goOn_did (c : Ct) (pc mc : Nat) : (c.goOn pc mc).did = c.did := rfl
@[simp] theorem goOn_missTo (c : Ct) (pc mc : Nat) : (c.goOn pc mc).missTo = c.missTo := rfl

/-! ## The lease under a change of one stream -/

@[simp] theorem setStream_id (l : Lease) (st : Stream) (x : StreamState) : (l.setStream st x).id = l.id := by cases st <;> rfl
@[simp] theorem setStream_part (l : Lease) (st : Stream) (x : StreamState) : (l.setStream st x).part = l.part := by cases st <;> rfl
@[simp] theorem setStream_aid (l : Lease) (st : Stream) (x : StreamState) : (l.setStream st x).aid = l.aid := by cases st <;> rfl
@[simp] theorem setStream_task (l : Lease) (st : Stream) (x : StreamState) : (l.setStream st x).task = l.task := by cases st <;> rfl
@[simp] theorem setStream_rcb (l : Lease) (st : Stream) (x : StreamState) : (l.setStream st x).rcb = l.rcb := by cases st <;> rfl
@[simp] theorem setStream_kernel (l : Lease) (st : Stream) (x : StreamState) : (l.setStream st x).kernel = l.kernel := by cases st <;> rfl
@[simp] theorem setStream_kernelId (l : Lease) (st : Stream) (x : StreamState) : (l.setStream st x).kernelId = l.kernelId := by cases st <;> rfl
@[simp] theorem setStream_st (l : Lease) (st : Stream) (x : StreamState) : (l.setStream st x).st = l.st := by cases st <;> rfl
@[simp] theorem setStream_prologue (l : Lease) (st : Stream) (x : StreamState) : (l.setStream st x).prologue = l.prologue := by cases st <;> rfl
@[simp] theorem setStream_words (l : Lease) (st : Stream) (x : StreamState) : (l.setStream st x).words = l.words := by cases st <;> rfl
@[simp] theorem setStream_origin (l : Lease) (st : Stream) (x : StreamState) : (l.setStream st x).origin = l.origin := by cases st <;> rfl
@[simp] theorem setStream_die (l : Lease) (st : Stream) (x : StreamState) : (l.setStream st x).die = l.die := by cases st <;> rfl
@[simp] theorem setStream_row (l : Lease) (st : Stream) (x : StreamState) : (l.setStream st x).row = l.row := by cases st <;> rfl
@[simp] theorem setStream_col (l : Lease) (st : Stream) (x : StreamState) : (l.setStream st x).col = l.col := by cases st <;> rfl
@[simp] theorem setStream_shape (l : Lease) (st : Stream) (x : StreamState) : (l.setStream st x).shape = l.shape := by cases st <;> rfl
@[simp] theorem setStream_ori (l : Lease) (st : Stream) (x : StreamState) : (l.setStream st x).ori = l.ori := by cases st <;> rfl
@[simp] theorem setStream_vregs (l : Lease) (st : Stream) (x : StreamState) : (l.setStream st x).vregs = l.vregs := by cases st <;> rfl
@[simp] theorem setStream_accrows (l : Lease) (st : Stream) (x : StreamState) : (l.setStream st x).accrows = l.accrows := by cases st <;> rfl
@[simp] theorem setStream_scratch (l : Lease) (st : Stream) (x : StreamState) : (l.setStream st x).scratch = l.scratch := by cases st <;> rfl
@[simp] theorem setStream_xoptab (l : Lease) (st : Stream) (x : StreamState) : (l.setStream st x).xoptab = l.xoptab := by cases st <;> rfl
@[simp] theorem setStream_loader (l : Lease) (st : Stream) (x : StreamState) : (l.setStream st x).loader = l.loader := by cases st <;> rfl
@[simp] theorem setStream_traph (l : Lease) (st : Stream) (x : StreamState) : (l.setStream st x).traph = l.traph := by cases st <;> rfl
@[simp] theorem setStream_codesize (l : Lease) (st : Stream) (x : StreamState) : (l.setStream st x).codesize = l.codesize := by cases st <;> rfl
@[simp] theorem setStream_codeFrom (l : Lease) (st : Stream) (x : StreamState) : (l.setStream st x).codeFrom = l.codeFrom := by cases st <;> rfl
@[simp] theorem setStream_codeTo (l : Lease) (st : Stream) (x : StreamState) : (l.setStream st x).codeTo = l.codeTo := by cases st <;> rfl
@[simp] theorem setStream_icache (l : Lease) (st : Stream) (x : StreamState) : (l.setStream st x).icache = l.icache := by cases st <;> rfl
@[simp] theorem setStream_code (l : Lease) (st : Stream) (x : StreamState) : (l.setStream st x).code = l.code := by cases st <;> rfl
@[simp] theorem setStream_brkCode (l : Lease) (st : Stream) (x : StreamState) : (l.setStream st x).brkCode = l.brkCode := by cases st <;> rfl
@[simp] theorem setStream_brkPc (l : Lease) (st : Stream) (x : StreamState) : (l.setStream st x).brkPc = l.brkPc := by cases st <;> rfl
@[simp] theorem setStream_race (l : Lease) (st : Stream) (x : StreamState) : (l.setStream st x).race = l.race := by cases st <;> rfl
@[simp] theorem setStream_chin (l : Lease) (st : Stream) (x : StreamState) : (l.setStream st x).chin = l.chin := by cases st <;> rfl
@[simp] theorem setStream_chout (l : Lease) (st : Stream) (x : StreamState) : (l.setStream st x).chout = l.chout := by cases st <;> rfl
@[simp] theorem setStream_ct (l : Lease) (st : Stream) (x : StreamState) : (l.setStream st x).ct = l.ct := by cases st <;> rfl
@[simp] theorem setStream_ctGrp (l : Lease) (st : Stream) (x : StreamState) : (l.setStream st x).ctGrp = l.ctGrp := by cases st <;> rfl
@[simp] theorem setStream_tq (l : Lease) (st : Stream) (x : StreamState) : (l.setStream st x).tq = l.tq := by cases st <;> rfl
@[simp] theorem setStream_credit (l : Lease) (st : Stream) (x : StreamState) : (l.setStream st x).credit = l.credit := by cases st <;> rfl
@[simp] theorem setStream_dqIn (l : Lease) (st : Stream) (x : StreamState) : (l.setStream st x).dqIn = l.dqIn := by cases st <;> rfl
@[simp] theorem setStream_dqOut (l : Lease) (st : Stream) (x : StreamState) : (l.setStream st x).dqOut = l.dqOut := by cases st <;> rfl
@[simp] theorem setStream_sret (l : Lease) (st : Stream) (x : StreamState) : (l.setStream st x).sret = l.sret := by cases st <;> rfl
@[simp] theorem setStream_oq (l : Lease) (st : Stream) (x : StreamState) : (l.setStream st x).oq = l.oq := by cases st <;> rfl
@[simp] theorem setStream_inUse (l : Lease) (st : Stream) (x : StreamState) : (l.setStream st x).inUse = l.inUse := by cases st <;> rfl
@[simp] theorem setStream_nextSeq (l : Lease) (st : Stream) (x : StreamState) : (l.setStream st x).nextSeq = l.nextSeq := by cases st <;> rfl
@[simp] theorem setStream_memSeq (l : Lease) (st : Stream) (x : StreamState) : (l.setStream st x).memSeq = l.memSeq := by cases st <;> rfl
@[simp] theorem setStream_cmds (l : Lease) (st : Stream) (x : StreamState) : (l.setStream st x).cmds = l.cmds := by cases st <;> rfl
@[simp] theorem setStream_pend (l : Lease) (st : Stream) (x : StreamState) : (l.setStream st x).pend = l.pend := by cases st <;> rfl
@[simp] theorem setStream_arr (l : Lease) (st : Stream) (x : StreamState) : (l.setStream st x).arr = l.arr := by cases st <;> rfl
@[simp] theorem setStream_rowW (l : Lease) (st : Stream) (x : StreamState) : (l.setStream st x).rowW = l.rowW := by cases st <;> rfl
@[simp] theorem setStream_rowE (l : Lease) (st : Stream) (x : StreamState) : (l.setStream st x).rowE = l.rowE := by cases st <;> rfl
@[simp] theorem setStream_load (l : Lease) (st : Stream) (x : StreamState) : (l.setStream st x).load = l.load := by cases st <;> rfl
@[simp] theorem setStream_cfgQ (l : Lease) (st : Stream) (x : StreamState) : (l.setStream st x).cfgQ = l.cfgQ := by cases st <;> rfl
@[simp] theorem setStream_wact (l : Lease) (st : Stream) (x : StreamState) : (l.setStream st x).wact = l.wact := by cases st <;> rfl
@[simp] theorem setStream_wshd (l : Lease) (st : Stream) (x : StreamState) : (l.setStream st x).wshd = l.wshd := by cases st <;> rfl
@[simp] theorem setStream_cfg (l : Lease) (st : Stream) (x : StreamState) : (l.setStream st x).cfg = l.cfg := by cases st <;> rfl
@[simp] theorem setStream_fifo (l : Lease) (st : Stream) (x : StreamState) : (l.setStream st x).fifo = l.fifo := by cases st <;> rfl
@[simp] theorem setStream_fifoAt (l : Lease) (st : Stream) (x : StreamState) : (l.setStream st x).fifoAt = l.fifoAt := by cases st <;> rfl
@[simp] theorem setStream_arrShift (l : Lease) (st : Stream) (x : StreamState) : (l.setStream st x).arrShift = l.arrShift := by cases st <;> rfl
@[simp] theorem setStream_arrHeld (l : Lease) (st : Stream) (x : StreamState) : (l.setStream st x).arrHeld = l.arrHeld := by cases st <;> rfl
@[simp] theorem setStream_rowprog (l : Lease) (st : Stream) (x : StreamState) : (l.setStream st x).rowprog = l.rowprog := by cases st <;> rfl
@[simp] theorem setStream_vc (l : Lease) (st : Stream) (x : StreamState) : (l.setStream st x).vc = l.vc := by cases st <;> rfl
@[simp] theorem setStream_pause (l : Lease) (st : Stream) (x : StreamState) : (l.setStream st x).pause = l.pause := by cases st <;> rfl
@[simp] theorem setStream_stores (l : Lease) (st : Stream) (x : StreamState) : (l.setStream st x).stores = l.stores := by cases st <;> rfl
@[simp] theorem setStream_banks (l : Lease) (st : Stream) (x : StreamState) : (l.setStream st x).banks = l.banks := by cases st <;> rfl
@[simp] theorem setStream_bankWait (l : Lease) (st : Stream) (x : StreamState) : (l.setStream st x).bankWait = l.bankWait := by cases st <;> rfl
@[simp] theorem setStream_kcache (l : Lease) (st : Stream) (x : StreamState) : (l.setStream st x).kcache = l.kcache := by cases st <;> rfl
@[simp] theorem setStream_kfetch (l : Lease) (st : Stream) (x : StreamState) : (l.setStream st x).kfetch = l.kfetch := by cases st <;> rfl
@[simp] theorem setStream_splitAids (l : Lease) (st : Stream) (x : StreamState) : (l.setStream st x).splitAids = l.splitAids := by cases st <;> rfl
@[simp] theorem setStream_retries (l : Lease) (st : Stream) (x : StreamState) : (l.setStream st x).retries = l.retries := by cases st <;> rfl
@[simp] theorem setStream_pin (l : Lease) (st : Stream) (x : StreamState) : (l.setStream st x).pin = l.pin := by cases st <;> rfl
@[simp] theorem setStream_lastIssue (l : Lease) (st : Stream) (x : StreamState) : (l.setStream st x).lastIssue = l.lastIssue := by cases st <;> rfl
@[simp] theorem setStream_portFree (l : Lease) (st : Stream) (x : StreamState) : (l.setStream st x).portFree = l.portFree := by cases st <;> rfl
@[simp] theorem setStream_cpStart (l : Lease) (st : Stream) (x : StreamState) : (l.setStream st x).cpStart = l.cpStart := by cases st <;> rfl
@[simp] theorem setStream_cpHold (l : Lease) (st : Stream) (x : StreamState) : (l.setStream st x).cpHold = l.cpHold := by cases st <;> rfl
@[simp] theorem setStream_reps (l : Lease) (st : Stream) (x : StreamState) : (l.setStream st x).reps = l.reps := by cases st <;> rfl
@[simp] theorem setStream_cls (l : Lease) (st : Stream) (x : StreamState) : (l.setStream st x).cls = l.cls := by cases st <;> rfl
@[simp] theorem setStream_ctrs (l : Lease) (st : Stream) (x : StreamState) : (l.setStream st x).ctrs = l.ctrs := by cases st <;> rfl
@[simp] theorem setStream_counted (l : Lease) (st : Stream) (x : StreamState) : (l.setStream st x).counted = l.counted := by cases st <;> rfl
@[simp] theorem setStream_snap (l : Lease) (st : Stream) (x : StreamState) : (l.setStream st x).snap = l.snap := by cases st <;> rfl
@[simp] theorem setStream_held (l : Lease) (st : Stream) (x : StreamState) : (l.setStream st x).held = l.held := by cases st <;> rfl
@[simp] theorem setStream_cb (l : Lease) (st : Stream) (x : StreamState) : (l.setStream st x).cb = l.cb := by cases st <;> rfl
@[simp] theorem setStream_xop (l : Lease) (st : Stream) (x : StreamState) : (l.setStream st x).xop = l.xop := by cases st <;> rfl
@[simp] theorem setStream_doneQ (l : Lease) (st : Stream) (x : StreamState) : (l.setStream st x).doneQ = l.doneQ := by cases st <;> rfl
@[simp] theorem setStream_ratomCtr (l : Lease) (st : Stream) (x : StreamState) : (l.setStream st x).ratomCtr = l.ratomCtr := by cases st <;> rfl
@[simp] theorem setStream_pre (l : Lease) (st : Stream) (x : StreamState) : (l.setStream st x).pre = l.pre := by cases st <;> rfl
@[simp] theorem setStream_frozen (l : Lease) (st : Stream) (x : StreamState) : (l.setStream st x).frozen = l.frozen := by cases st <;> rfl
@[simp] theorem setStream_replay (l : Lease) (st : Stream) (x : StreamState) : (l.setStream st x).replay = l.replay := by cases st <;> rfl
@[simp] theorem setStream_savedVecs (l : Lease) (st : Stream) (x : StreamState) : (l.setStream st x).savedVecs = l.savedVecs := by cases st <;> rfl
@[simp] theorem setStream_savedAcc (l : Lease) (st : Stream) (x : StreamState) : (l.setStream st x).savedAcc = l.savedAcc := by cases st <;> rfl
@[simp] theorem setStream_savedInt (l : Lease) (st : Stream) (x : StreamState) : (l.setStream st x).savedInt = l.savedInt := by cases st <;> rfl
@[simp] theorem setStream_savedWin (l : Lease) (st : Stream) (x : StreamState) : (l.setStream st x).savedWin = l.savedWin := by cases st <;> rfl
@[simp] theorem setStream_savedMeta (l : Lease) (st : Stream) (x : StreamState) : (l.setStream st x).savedMeta = l.savedMeta := by cases st <;> rfl
@[simp] theorem setStream_imgAt (l : Lease) (st : Stream) (x : StreamState) : (l.setStream st x).imgAt = l.imgAt := by cases st <;> rfl
@[simp] theorem setStream_imgKib (l : Lease) (st : Stream) (x : StreamState) : (l.setStream st x).imgKib = l.imgKib := by cases st <;> rfl
@[simp] theorem setStream_drained (l : Lease) (st : Stream) (x : StreamState) : (l.setStream st x).drained = l.drained := by cases st <;> rfl
@[simp] theorem setStream_yielded (l : Lease) (st : Stream) (x : StreamState) : (l.setStream st x).yielded = l.yielded := by cases st <;> rfl
@[simp] theorem setStream_queued (l : Lease) (st : Stream) (x : StreamState) : (l.setStream st x).queued = l.queued := by cases st <;> rfl
@[simp] theorem setStream_heldDone (l : Lease) (st : Stream) (x : StreamState) : (l.setStream st x).heldDone = l.heldDone := by cases st <;> rfl
@[simp] theorem setStream_retiring (l : Lease) (st : Stream) (x : StreamState) : (l.setStream st x).retiring = l.retiring := by cases st <;> rfl
@[simp] theorem setStream_rsupAcc (l : Lease) (st : Stream) (x : StreamState) : (l.setStream st x).rsupAcc = l.rsupAcc := by cases st <;> rfl
@[simp] theorem setStream_rsupOn (l : Lease) (st : Stream) (x : StreamState) : (l.setStream st x).rsupOn = l.rsupOn := by cases st <;> rfl
@[simp] theorem setStream_races (l : Lease) (st : Stream) (x : StreamState) : (l.setStream st x).races = l.races := by cases st <;> rfl
@[simp] theorem setStream_folds (l : Lease) (st : Stream) (x : StreamState) : (l.setStream st x).folds = l.folds := by cases st <;> rfl
@[simp] theorem setStream_grpReady (l : Lease) (st : Stream) (x : StreamState) : (l.setStream st x).grpReady = l.grpReady := by cases st <;> rfl
@[simp] theorem setStream_pinSeq (l : Lease) (st : Stream) (x : StreamState) : (l.setStream st x).pinSeq = l.pinSeq := by cases st <;> rfl
@[simp] theorem setStream_heads (l : Lease) (st : Stream) (x : StreamState) : (l.setStream st x).heads = l.heads := by cases st <;> rfl
@[simp] theorem setStream_idle (l : Lease) (st : Stream) (x : StreamState) : (l.setStream st x).idle = l.idle := by cases st <;> rfl
@[simp] theorem setStream_sweptGens (l : Lease) (st : Stream) (x : StreamState) : (l.setStream st x).sweptGens = l.sweptGens := by cases st <;> rfl

@[simp] theorem setStream_stream (l : Lease) (st : Stream) (x : StreamState) (h : st ≠ .ct) : (l.setStream st x).stream st = x := by
  cases st <;> first | rfl | exact absurd rfl h

/-! ## Sparse maps -/

@[simp] theorem sput_get {α : Type} (d : α) (k : Nat) (v : α) (m : SMap α) : sget d k (sput k v m) = v := by
  induction m with
  | nil => simp [sput, sget]
  | cons x r ih =>
    obtain ⟨a, w⟩ := x
    simp only [sput]
    split
    · simp [sget]
    · split
      · next h => simp [sget]
      · next h1 h2 => simp only [sget]; rw [if_neg (fun e => h2 e.symm)]; exact ih

theorem sput_get_ne {α : Type} (d : α) (k j : Nat) (v : α) (m : SMap α) (h : j ≠ k) : sget d j (sput k v m) = sget d j m := by
  induction m with
  | nil => simp [sput, sget, Ne.symm h]
  | cons x r ih =>
    obtain ⟨a, w⟩ := x
    simp only [sput]
    split
    · simp [sget, Ne.symm h]
    · split
      · next h2 => subst h2; simp [sget, Ne.symm h]
      · simp only [sget]; split <;> simp [ih]

@[simp] theorem part_setPart (s : State) (p : Nat) (q : Partition) : (s.setPart p q).part p = q := sput_get ..
@[simp] theorem part_onPart (s : State) (p : Nat) (f : Partition → Partition) : (s.onPart p f).part p = f (s.part p) := sput_get ..
theorem part_setPart_ne (s : State) (p r : Nat) (q : Partition) (h : r ≠ p) : (s.setPart p q).part r = s.part r := sput_get_ne _ _ _ _ _ h
theorem part_onPart_ne (s : State) (p r : Nat) (f : Partition → Partition) (h : r ≠ p) : (s.onPart p f).part r = s.part r :=
  sput_get_ne _ _ _ _ _ h
@[simp] theorem part_onCur (s : State) (f : Lease → Lease) (p : Nat) : (s.onCur f).part p = s.part p := rfl
@[simp] theorem part_onCt (s : State) (f : Ct → Ct) (p : Nat) : (s.onCt f).part p = s.part p := rfl

end Sys2Proof.Laws
end

