-- ==== Sys2Proof/Laws/Words.lean ====
section
/-! SUPPORT. Laws/Words.lean: the paths that every word shares, said once: what a CT word, a word of LD or SD and a word of CP do
once they start, and that a word which does not start changes nothing but what its waits take. -/

namespace Sys2Proof.Laws

set_option Elab.async false

open Machine Claims

/-- A CT word that starts does its work f and ends by its answer. -/
theorem ctWord_of_starts {t : Tok} {srcs : List (BitVec 5)} {d : BitVec 5} {s u : State} (f : State → CtRes)
    (h : CtStarts t srcs d s u) : ctWord t srcs d f s = .next (ctFinish t (f u)) := by
  obtain ⟨h1, v, w, h2, h3, h4, h5⟩ := h
  simp only [ctWord, ctRun, h1, h2, h3, h4, ctStep5, h5]
  simp

/-- A CT word that starts and whose work f takes one mc goes on with the next word. -/
theorem ctWord_plain {t : Tok} {srcs : List (BitVec 5)} {d : BitVec 5} {s u : State} (f : State → State)
    (h : CtStarts t srcs d s u) (p : (f u).cur.ct.pc = u.cur.ct.pc) :
    ctWord t srcs d (fun s => .plain (f s)) s = .next (ctEnd t (nextPc u) 1 1 (f u)) := by
  refine (ctWord_of_starts _ h).trans ?_
  simp only [CtRes.plain, State.pcNext, ctEnd, nextPc, p]

/-- What a rewritten register's error leaves. -/
@[simp] theorem rewritten_pc (c : Ct) (f r : Nat) : (c.rewritten f r).pc = c.pc := by
  simp only [Ct.rewritten]
  split <;> rfl

/-- A register write moves neither the pc nor the other fields of CT that steer it. -/
theorem setReg_pc (c : Ct) (r : Nat) (v : W64) : (c.setReg r v).pc = c.pc := by
  simp only [Ct.setReg]
  split
  · rfl
  · split <;> simp

@[simp] theorem wreg_pc (u : State) (d : BitVec 5) (v : W64) (lat : Nat) : (u.wreg d v lat).cur.ct.pc = u.cur.ct.pc := by
  simp only [State.wreg, onCt_cur]
  split <;> exact setReg_pc ..

/-- CT that may not act leaves the state as it is. -/
theorem ctWord_of_stopped {t : Tok} {srcs : List (BitVec 5)} {d : BitVec 5} {s : State} (f : State → CtRes)
    (h : s.ctMay = false) : ctWord t srcs d f s = .next s := by
  have h' : s.ctRuns = false := by simp [State.ctRuns, h]
  simp only [ctWord, ctRun, h, h']
  simp

/-- A word of LD or SD that starts and issues leaves its slot. -/
theorem lsWord_of_starts {t : Tok} {s u v : State} (f : Stream → State → LsRes) (h : LsStarts t s u)
    (e : f s.curStream u = .ok v) : lsWord t f s = .next (lsIssued s v) := by
  obtain ⟨h1, w, h2, h3⟩ := h
  subst h2
  simp only [lsWord, lsRun, h1, lsIssue, h3, e]
  simp [lsIssued]

/-- A word of CP that starts and issues. -/
theorem cpWord_of_starts {i : Instr} {t : Tok} {s u v : State} (f : State → CpRes) (h : CpStarts i t s u)
    (e : f u = .ok v) : cpWord i t f s = .next v.cpIssued := by
  obtain ⟨h1, h2, w, h3, h4⟩ := h
  subst h3
  simp only [cpWord, cpRun, h1, h2]
  cases hs : s.cur.cpStart.isSome <;> simp only [hs] at h4 ⊢ <;> simp_all [cpPerform]

end Sys2Proof.Laws
end

