-- ==== Sys2Proof/Tests/States.lean ====
section
/-! SUPPORT. Tests/States.lean: the small states that the tests and the witnesses of the statements stand on. -/

namespace Sys2Proof.Tests

set_option Elab.async false

open Machine Claims

def t0 : Tok := ⟨0, 0⟩

/-- A running lease of one plot: s1 = 7, s2 = 0x40, s3 = -8, s4 = 0x30000. -/
def lease1 : Lease :=
  { id := 1, st := .running, vregs := 64, accrows := 512, codesize := 4096, traph := 0x400, aid := 4, icache := [2],
    ct := { sregs := [(1, 7), (2, 0x40), (3, -8), (4, 0x30000)], pc := 0x100 },
    ld := { ring := { base := 0, slots := 256 } }, cp := { ring := { base := 2048, slots := 256 } },
    sd := { ring := { base := 4096, slots := 256 } } }

/-- One 1 GiB page in a table at HBM 0x10000: virtual addresses are HBM addresses, readable and writable, under the null key. -/
def pageMem : Memory := writeLe [] 0x10000 0xE07F000000000000 8

def part0 : Partition := { pxbase := 0x10000 }

/-- The machine with this lease in focus. -/
def stateOf (l : Lease) : State := { State.reset with cur := l, nextLease := 2, mem := pageMem, parts := [(0, part0)] }

def s1 : State := stateOf lease1

/-- A change of the lease in focus. -/
def withLease (f : Lease → Lease) : State := stateOf (f lease1)

def withCt (f : Ct → Ct) : State := stateOf { lease1 with ct := f lease1.ct }

/-- The state in which a CT word with tokens t does its work. -/
def begun (t : Tok) (s : State) : State :=
  match s.ctAccept t with
  | .ok v => (v.ctWaits t fun _ => true).2
  | .error _ => s

def startsB (t : Tok) (srcs : List (BitVec 5)) (d : BitVec 5) (s : State) : Bool :=
  s.ctRuns && (match s.ctAccept t with | .ok v => (v.ctWaits t fun _ => true).1 | .error _ => false) &&
  !(begun t s).interlocked srcs d && (begun t s).cur.ct.bad.isEmpty

theorem starts_of {t : Tok} {srcs : List (BitVec 5)} {d : BitVec 5} {s : State} (h : startsB t srcs d s = true) :
    CtStarts t srcs d s (begun t s) := by
  simp only [startsB, Bool.and_eq_true, Bool.not_eq_true'] at h
  obtain ⟨⟨⟨h1, h2⟩, h3⟩, h4⟩ := h
  cases e : s.ctAccept t with
  | error c => simp [e] at h2
  | ok v =>
    simp only [e] at h2
    have b : begun t s = (v.ctWaits t fun _ => true).2 := by simp only [begun, e]
    exact ⟨h1, v, begun t s, e, Prod.ext h2 b.symm, h3, by simp only [State.readRegs, h4, if_true]⟩

/-- The state in which a word of LD or SD with tokens t does its work. -/
def lsBegun (t : Tok) (s : State) : State :=
  ((s.grpNext s.curStream t).takePops s.curStream t.wait).onCur fun l => (l.noRaces s.curStream.index).headTried s.curStream

def lsStartsB (t : Tok) (s : State) : Bool := s.lsGoes s.curStream t && (lsBegun t s).cur.ct.bad.isEmpty

theorem lsStarts_of {t : Tok} {s : State} (h : lsStartsB t s = true) : LsStarts t s (lsBegun t s) := by
  simp only [lsStartsB, Bool.and_eq_true] at h
  exact ⟨h.1, lsBegun t s, rfl, by simp only [State.readRegs, h.2, if_true]⟩

/-- The state in which a CP word with tokens t does its work. -/
def cpBegun (t : Tok) (s : State) : State :=
  ((if s.cur.cpStart.isSome then s else s.grpNext .cp t).takePops .cp t.wait).onCur fun l => l.noRaces 2

def cpStartsB (i : Instr) (t : Tok) (s : State) : Bool :=
  s.cpRuns && decide (s.cpGo i t = .issue) && (cpBegun t s).cur.ct.bad.isEmpty

theorem cpStarts_of {i : Instr} {t : Tok} {s : State} (h : cpStartsB i t s = true) : CpStarts i t s (cpBegun t s) := by
  simp only [cpStartsB, Bool.and_eq_true, decide_eq_true_eq] at h
  obtain ⟨⟨h1, h2⟩, h3⟩ := h
  refine ⟨h1, h2, _, rfl, ?_⟩
  show State.readRegs (cpBegun t s) _ _ = _
  simp only [State.readRegs, h3, if_true]

/-- An access that passes, by evaluation. -/
theorem acc_of {r : AccRes} {P : Tr → State → Bool} (h : (match r with | .ok t w => P t w | _ => false) = true) :
    ∃ t w, r = .ok t w ∧ P t w = true := by
  cases r with
  | ok t w => exact ⟨t, w, rfl, h⟩
  | _ => simp at h

/-- A translation that succeeds, by evaluation. -/
theorem tr_of {r : XRes × State} {P : Tr → State → Bool} (h : (match r with | (.ok t, w) => P t w | _ => false) = true) :
    ∃ t w, r = (.ok t, w) ∧ P t w = true := by
  obtain ⟨x, w⟩ := r
  cases x with
  | ok t => exact ⟨t, w, rfl, h⟩
  | _ => simp at h

/-- A translation that succeeds, by evaluation, with the state it leaves. -/
theorem tr_at {r : XRes × State} (h : (match r.1 with | .ok _ => true | _ => false) = true) : ∃ t, r = (.ok t, r.2) := by
  obtain ⟨x, w⟩ := r
  cases x with
  | ok t => exact ⟨t, rfl⟩
  | _ => simp at h

/-- The state that a translation for the lease in focus leaves. -/
def reached (va : Nat) (k : AccKind) (s : State) : State := (s.translate s.cur.part s.cur.die va k false).2

def reachB (va : Nat) (k : AccKind) (s : State) : Bool :=
  decide (va < 2 ^ 57) && (match (s.translate s.cur.part s.cur.die va k false).1 with
    | .ok t => decide (sget 0 (t.key / 64) (reached va k s).marks = 0) && !(reached va k s).badAt t
    | _ => false)

theorem reaches_of {va : Nat} {k : AccKind} {s : State} (h : reachB va k s = true) : CtReaches va k s (reached va k s) := by
  simp only [reachB, Bool.and_eq_true, decide_eq_true_eq] at h
  refine ⟨h.1, ?_⟩
  have h2 := h.2
  unfold reached at h2 ⊢
  revert h2
  cases s.translate s.cur.part s.cur.die va k false with
  | mk x w =>
    cases x with
    | ok t => simp only [Bool.and_eq_true, decide_eq_true_eq, Bool.not_eq_true']; exact fun h => ⟨t, rfl, h.1, h.2⟩
    | _ => simp

def readAfter (va n : Nat) (s : State) : State := reached (va + n - 1) .read (reached va .read s)

theorem reads_of {va n : Nat} {s : State} (h : (reachB va .read s && reachB (va + n - 1) .read (reached va .read s)) = true) :
    CtReads va n s (readAfter va n s) := by
  simp only [Bool.and_eq_true] at h
  exact ⟨_, reaches_of h.1, reaches_of h.2⟩

/-- What CT's reads of granules give, while all of them pass in this package. -/
def granulesGot (scope : Nat) : List (Nat × Nat) → State → List Byte → Option (List Byte × State)
  | [], s, acc => some (acc, s)
  | g :: r, s, acc =>
    match s.accessGlobal { st := .ct, kind := .read, scope := scope, va := g.1, scr := false, slot := s.cur.ct.pc / 8 } false with
    | .ok t v => if t.tier = 3 then none else granulesGot scope r (v.readTr t g.2 false).2 (acc ++ (v.readTr t g.2 false).1)
    | _ => none

theorem ctGranules_got {scope : Nat} {bs : List Byte} {w : State} {k : List Byte → State → CtRes} :
    ∀ {gs : List (Nat × Nat)} {s : State} {acc : List Byte}, granulesGot scope gs s acc = some (bs, w) →
      ctGranules scope gs s acc k = k bs w
  | [], s, acc, h => by cases h; rfl
  | g :: r, s, acc, h => by
    simp only [granulesGot] at h
    split at h
    · rename_i t v e
      split at h
      · cases h
      · rename_i n
        rw [ctGranules]
        simp only [e, CtRes.ofAcc, if_neg n]
        exact ctGranules_got h
    · cases h

/-- What a read of CT gives, while it passes. -/
def ctGot (scope : Nat) (x : W64) (al n : Nat) (u : State) : Option (List Byte × State) :=
  if nbits x.toNat 63 57 ≠ 0 ∨ x.toNat % al ≠ 0 then none
  else (granulesGot scope (granuleParts x.toNat n) u []).bind fun y =>
    (y.2.input 0 (y.2.cur.ct.pc / 8) y.1 fun sl => y.2.reqs.any fun r => r.lease = y.2.cur.id && r.slot = sl && r.cmd.isNone).map
      fun z => (z.1, z.2.forgetRow x.toNat n)

theorem ctGets_of {scope : Nat} {x : W64} {al n : Nat} {u : State} {P : List Byte → State → Bool}
    (h : (match ctGot scope x al n u with | some y => P y.1 y.2 | none => false) = true) :
    ∃ bs v, CtGets scope x al n u bs v ∧ P bs v = true := by
  cases e : ctGot scope x al n u with
  | none => simp [e] at h
  | some y =>
    simp only [e] at h
    refine ⟨y.1, y.2, fun k => ?_, h⟩
    simp only [ctGot] at e
    split at e
    · cases e
    · rename_i c
      simp only [not_or, ne_eq, not_not] at c
      obtain ⟨g, e1, e2⟩ := Option.bind_eq_some_iff.1 e
      obtain ⟨z, e3, e4⟩ := Option.map_eq_some_iff.1 e2
      subst e4
      simp only [ctRead, c.1, c.2, ne_eq, not_true_eq_false, if_false]
      rw [ctGranules_got (w := g.2) (bs := g.1) e1]
      simp only [e3]

/-- A read of LD or SD at issue that passes. -/
theorem lsGets_of {sc : BitVec 2} {a n : Nat} {u : State} {P : List Byte → State → Bool}
    (h : (u.cur.winOk a (a + n) && (match scratchCheck u.curStream (u.cur.curSlot u.curStream) sc.toNat (asKind .read (granulesOf a n)) u with
      | .ok v => P (v.winBytes a n) v
      | .error _ => false)) = true) : ∃ bs v, LsGets sc a n u bs v ∧ P bs v = true := by
  simp only [Bool.and_eq_true] at h
  obtain ⟨h1, h2⟩ := h
  split at h2
  · rename_i v e
    refine ⟨_, v, fun k => ?_, h2⟩
    simp only [issueRead, h1, e, Bool.not_true, Bool.false_eq_true, if_false]
  · simp at h2

/-- A value that is there, by evaluation. -/
theorem some_of {α : Type} {r : Option α} {P : α → Bool} (h : (match r with | some w => P w | none => false) = true) :
    ∃ w, r = some w ∧ P w = true := by
  cases r with
  | some w => exact ⟨w, rfl, h⟩
  | none => simp at h

/-- A check that passes, by evaluation. -/
theorem ok_of {ε α : Type} {r : Except ε α} {P : α → Bool} (h : (match r with | .ok w => P w | _ => false) = true) :
    ∃ w, r = .ok w ∧ P w = true := by
  cases r with
  | ok w => exact ⟨w, rfl, h⟩
  | error e => simp at h

/-- A ring of stream st that holds the word w in its only slot, the stream in focus. -/
def ringState (st : Stream) (w : W64) (s : State) : State :=
  let l := s.cur
  let l := l.setStream st { (l.stream st) with ring := { (l.stream st).ring with count := 1, tail := 1 } }
  let s := { s with cur := l, curStream := st }
  { s with mem := writeLe s.mem (l.winKey (l.stream st).ring.base) w.toNat 8 }

end Sys2Proof.Tests
end

