-- ==== Sys2Proof/Tests/Witnesses.lean ====
section
/-! SUPPORT. Tests/Witnesses.lean: for every statement of Obligations that has hypotheses, states and operands that meet them, so
that none is empty; a witness for each clause whose hypotheses differ. -/

namespace Sys2Proof.Tests

set_option Elab.async false

open Machine Claims

theorem witness_CtBeginFrame : (∃ v w rs, s1.ctAccept t0 = .ok v ∧ v.ctWaits t0 (fun _ => true) = (true, w) ∧
    w.readRegs .ct rs = .ok (begun t0 s1)) ∧ s1.cur.ct.bad = [] := by
  obtain ⟨-, v, w, h1, h2, -, h3⟩ := starts_of (srcs := []) (d := 0) (t := t0) (s := s1) (by decide +kernel)
  exact ⟨⟨v, w, _, h1, h2, h3⟩, by decide +kernel⟩

theorem witness_CtEndFrame : t0.sig.toNat % 64 = 0 ∧ ¬ ctFoldReported s1 ∧ (4 : Nat) ≠ 3 := by
  refine ⟨by decide, ?_, by decide⟩
  rintro ⟨-, h⟩
  exact absurd h (by decide)

theorem witness_CtRegisterWrite : keysRise s1.cur.ct.sregs = true ∧ keysRise s1.cur.ct.shadow = true ∧
    keysRise s1.cur.ct.ready = true ∧ (3 : BitVec 5) ≠ 0 ∧ (withCt fun c => { c with trapCtl := 5 }).cur.ct.trapCtl.getLsbD 2 = true ∧
    24 ≤ (25 : BitVec 5).toNat ∧ s1.cur.ct.trapCtl.getLsbD 2 = false := by decide +kernel

theorem witness_CtTwoRegisterResults : CtStarts t0 [1, 3] 5 s1 (begun t0 s1) := starts_of (by decide +kernel)

theorem witness_CtDivision : CtStarts t0 [1, 3] 5 s1 (begun t0 s1) ∧ CtStarts t0 [1, 9] 5 s1 (begun t0 s1) ∧
    (begun t0 s1).cur.ct.divFree ≤ (begun t0 s1).datum ∧ (begun t0 s1).reg 3 ≠ 0 ∧ (begun t0 s1).reg 9 = 0 :=
  ⟨starts_of (by decide +kernel), starts_of (by decide +kernel), by decide +kernel⟩

theorem witness_CtOneRegisterResults : CtStarts t0 [1] 5 s1 (begun t0 s1) ∧ CtStarts t0 [] 5 s1 (begun t0 s1) ∧
    CtStarts t0 [5] 5 s1 (begun t0 s1) ∧ 0 < (63 : BitVec 30).toNat ∧ (63 : BitVec 30).toNat < 64 :=
  ⟨starts_of (by decide +kernel), starts_of (by decide +kernel), starts_of (by decide +kernel), by decide⟩

theorem witness_CtBranches : CtStarts t0 [1, 3] 0 s1 (begun t0 s1) ∧ CtStarts t0 [] 0 s1 (begun t0 s1) ∧
    CtStarts t0 [] 5 s1 (begun t0 s1) ∧ CtStarts t0 [2] 5 s1 (begun t0 s1) ∧
    targetOk (begun t0 s1) (relTo (begun t0 s1) (-32)) ∧ targetOk (begun t0 s1) (relTo (begun t0 s1) 479) ∧
    ¬ targetOk (begun t0 s1) (relTo (begun t0 s1) (-33)) ∧ ¬ targetOk (begun t0 s1) (relTo (begun t0 s1) 480) ∧
    targetOk (begun t0 s1) (((begun t0 s1).reg 2 + (8 : BitVec 30).signExtend 64).toNat : Int) ∧
    ¬ targetOk (begun t0 s1) (((begun t0 s1).reg 2 + (4 : BitVec 30).signExtend 64).toNat : Int) := by
  refine ⟨starts_of (by decide +kernel), starts_of (by decide +kernel), starts_of (by decide +kernel), starts_of (by decide +kernel), ?_⟩
  unfold targetOk
  decide +kernel

def loopEntry : LoopEntry := ⟨6, 1, 0, 3, 0, 0xF0, 0x100⟩

theorem witness_CtLoopsAndOutcomeBranch :
    (CtStarts t0 [6, 1] 0 s1 (begun t0 s1) ∧ (1 : BitVec 12) ≠ 0 ∧ s1.cur.codesize ≤ 0x100 + 8 * (480 : BitVec 18).toNat ∧
      0x100 + 8 * (479 : BitVec 18).toNat < s1.cur.codesize ∧ (((s1.reg 1).toInt - 0 + 1 - 1) / 1).toNat ≠ 0 ∧
      (((s1.reg 3).toInt - 0 + 1 - 1) / 1).toNat = 0 ∧ s1.cur.ct.loops.length < 4 ∧
      4 ≤ (withCt fun c => { c with loops := List.replicate 4 loopEntry }).cur.ct.loops.length) ∧
    (let s := withCt fun c => { c with loops := [loopEntry] }
     CtStarts t0 [] 6 s (begun t0 s) ∧ (begun t0 s).cur.ct.loops = [loopEntry] ∧ s.cur.ct.loops = [loopEntry] ∧
      loopEntry.endOff = (begun t0 s).cur.ct.pc ∧ loopEntry.done + 1 < loopEntry.trips) ∧
    (let e := { loopEntry with done := 2, endOff := 0x108 }
     let s := withCt fun c => { c with loops := [e] }
     CtStarts t0 [] 6 s (begun t0 s) ∧ e.endOff ≠ (begun t0 s).cur.ct.pc ∧ e.trips ≤ e.done + 1) ∧
    (CtStarts t0 [] 0 s1 (begun t0 s1) ∧ s1.cur.ct.loops = []) ∧
    (let s := withLease fun l => { l with oq := [(1, [true])] }
     CtStarts t0 [] 0 s (begun t0 s) ∧ sget [] 1 s.cur.oq = [true]) ∧
    (∃ v, s1.ctRuns = true ∧ s1.ctAccept t0 = .ok v ∧ v.cur.ct.wdone = false ∧ sget [] 1 v.cur.oq = []) := by
  refine ⟨⟨starts_of (by decide +kernel), by decide +kernel⟩, ⟨starts_of (by decide +kernel), by decide +kernel⟩,
    ⟨starts_of (by decide +kernel), by decide +kernel⟩, ⟨starts_of (by decide +kernel), by decide +kernel⟩,
    ⟨starts_of (by decide +kernel), by decide +kernel⟩, ?_⟩
  obtain ⟨v, h, p⟩ := ok_of (r := s1.ctAccept t0) (P := fun v => !v.cur.ct.wdone && decide (sget [] 1 v.cur.oq = [])) (by decide +kernel)
  simp only [Bool.and_eq_true, Bool.not_eq_true', decide_eq_true_eq] at p
  exact ⟨v, by decide +kernel, h, p.1, p.2⟩

theorem witness_CtNop : CtStarts t0 [] 0 s1 (begun t0 s1) := starts_of (by decide +kernel)

theorem witness_CtStatusWords : CtStarts t0 [] 0 s1 (begun t0 s1) ∧ (0 : BitVec 4) = 0 ∧ (1 : BitVec 4) = 1 :=
  ⟨starts_of (by decide +kernel), rfl, rfl⟩

theorem witness_CtCounterAndClockReads : CtStarts t0 [] 5 s1 (begun t0 s1) ∧ CtStarts t0 [1] 5 s1 (begun t0 s1) ∧
    CtStarts t0 [4] 5 s1 (begun t0 s1) ∧ (begun t0 s1).cur.replay = none ∧
    ((begun t0 s1).part (begun t0 s1).cur.part).dbg.ctl.getLsbD 3 = false ∧ ((begun t0 s1).reg 1).toNat ≤ 4095 ∧
    (begun t0 s1).cur.knows .ct ((begun t0 s1).reg 1).toNat = false ∧ 4095 < ((begun t0 s1).reg 4).toNat :=
  ⟨starts_of (by decide +kernel), starts_of (by decide +kernel), starts_of (by decide +kernel), by decide +kernel⟩

theorem witness_CtControlRegisters : CtStarts t0 [] 5 s1 (begun t0 s1) ∧ CtStarts t0 [1] 0 s1 (begun t0 s1) ∧
    (begun t0 s1).cur.chin.isSome = false ∧ (begun t0 s1).cur.cp.ring.count = 0 ∧
    (withLease fun l => { l with chin := some 2 }).cur.chin.isSome = true ∧
    (let u := withLease fun l => { l with cp := { l.cp with ring := { l.cp.ring with count := 1 } } }
     u.cur.cp.ring.count ≠ 0 ∧ u.cur.cp.stop = none) ∧
    (let x : StopRec := { cause := .illegalOperand, late := true }
     let u := withLease fun l => { l with cp := { l.cp with ring := { l.cp.ring with count := 1 }, stop := some x } }
     u.cur.cp.ring.count ≠ 0 ∧ u.cur.cp.stop = some x ∧ x.late = true) ∧
    (let x : StopRec := { cause := .illegalOperand }
     let u := withLease fun l => { l with cp := { l.cp with ring := { l.cp.ring with count := 1 }, stop := some x } }
     u.cur.cp.stop = some x ∧ x.late = false) ∧
    (let v := (begun t0 s1).reg 1
     v.toNat % 512 + v.toNat / 512 % 1024 ≤ (begun t0 s1).cur.accrows) ∧
    (withLease fun l => { l with accrows := 6 }).cur.accrows < ((begun t0 s1).reg 1).toNat % 512 + 0 ∧
    (3 : BitVec 16).toNat ∉ [0, 1, 2, 4, 5, 6, 7, 8, 9, 0x10, 0x11, 0x12, 0x13, 0x14, 0x15, 0x18, 0x19, 0x1A, 0x1B] ∧
    ¬ (0x20 ≤ (0x30 : BitVec 16).toNat ∧ (0x30 : BitVec 16).toNat < 0x30) :=
  ⟨starts_of (by decide +kernel), starts_of (by decide +kernel), by decide +kernel⟩

/-! ## Memory, handles and rings of CT -/

def req1 : Req :=
  { num := 3, lease := 1, aid := 4, part := 0, die := 0, kind := .amo, va := 0x30000, key := 0x30000, size := 8, data := 5, dreg := 6 }

def accOf (k : AccKind) : Access := { st := .ct, kind := k, scope := 0, va := 0x30008, scr := false, slot := 0x20 }

/-- The walk of the word's page has ended, or goes on until mc 9. -/
def sWalk (k : Nat) : State := withCt fun c => { c with wait := .walk k }

theorem witness_CtMemoryWords_walk : (∀ k ∈ [0, 9], CtStarts t0 [4] 5 (sWalk k) (begun t0 (sWalk k)) ∧
      CtStarts t0 [4, 1] 5 (sWalk k) (begun t0 (sWalk k)) ∧ CtStarts t0 [4, 1, 5] 5 (sWalk k) (begun t0 (sWalk k)) ∧
      (begun t0 (sWalk k)).cur.ct.wait = .walk k ∧ (begun t0 (sWalk k)).datum = 0 ∧ (begun t0 (sWalk k)).cur.replay = none) ∧
    CtStarts t0 [4, 1] 0 (sWalk 0) (begun t0 (sWalk 0)) ∧
    ((begun t0 s1).cur.ct.wait = .none ∧ (begun t0 s1).transMc 0 0 0x30008 ≠ 0 ∧ ((begun t0 s1).lookup 0 0 0x30008).1.isSome = true) ∧
    (begun t0 { (s1.lookup 0 0 0x30008).2 with walks := [] }).transMc 0 0 0x30008 = 0 := by
  refine ⟨?_, starts_of (by decide +kernel), by decide +kernel, by decide +kernel⟩
  intro k h
  simp only [List.mem_cons, List.not_mem_nil, or_false] at h
  rcases h with rfl | rfl <;>
    exact ⟨starts_of (by decide +kernel), starts_of (by decide +kernel), starts_of (by decide +kernel), by decide +kernel⟩

theorem witness_CtMemoryWords : CtStarts t0 [4] 5 s1 (begun t0 s1) ∧ CtStarts t0 [4, 1] 0 s1 (begun t0 s1) ∧
    CtStarts t0 [4, 1] 5 s1 (begun t0 s1) ∧ CtStarts t0 [4, 1, 5] 5 s1 (begun t0 s1) ∧
    (let ea := (begun t0 s1).reg 4 + (8 : BitVec 16).signExtend 64
     ea.toNat = 0x30008 ∧ ea.toNat < 2 ^ 57 ∧ ea.toNat % 8 = 0) ∧ ((begun t0 s1).reg 4 + (9 : BitVec 16).signExtend 64).toNat % 8 ≠ 0 ∧
    2 ^ 57 ≤ ((begun t0 s1).reg 3 + (0 : BitVec 16).signExtend 64).toNat ∧ (begun t0 s1).storesOut < 8 ∧
    (∀ k ∈ [AccKind.read, .write, .atomic], ∃ tr w, (begun t0 s1).accessAt true (accOf k) false = .ok tr w ∧
      (decide (tr.tier ≠ 3) && w.cur.replay.isNone) = true) ∧
    8 ≤ ({ s1 with reqs := List.replicate 8 { req1 with kind := .store } } : State).storesOut := by
  refine ⟨starts_of (by decide +kernel), starts_of (by decide +kernel), starts_of (by decide +kernel), starts_of (by decide +kernel),
    by decide +kernel, by decide +kernel, by decide +kernel, by decide +kernel, ?_, by decide +kernel⟩
  intro k hk
  refine acc_of ?_
  revert k
  decide +kernel

/-- The location of a request, of a page that is tracked and has another writer, in a lease that refuses races. -/
def reqRace : Req := { req1 with leaf := 1 <<< 58, asks := true }
def sRace : State :=
  let s : State := { withLease fun l => { l with race := 2 } with reqs := [reqRace] }
  s.setMeta 0x30000 (⟨9, 5, 0xFFF, 0, false, 0, 0, true⟩ : Meta).word
def reqAffp : Req := { req1 with kind := .affp, va := 0x31000, cmp := 1 }

theorem witness_HomeAccess_checks :
    ((s1.badAt req1.tr = false ∧ req1.kind ≠ .affp) ∧ ∃ v, s1.homeArrival req1.lease req1.access req1.tr = .ok v ∧ true = true) ∧
    (sRace.badAt reqRace.tr = false ∧ reqRace.asks = true ∧ (sRace.homeArrival reqRace.lease reqRace.access reqRace.tr matches .error _) = true) ∧
    (∀ k ∈ [0, 1], let r := { reqAffp with op := k }
      let s : State := { s1 with reqs := [r] }
      let x := { s with reqs := s.reqs.filter fun y => y.num ≠ r.num }
      let x := if r.op = 0 then affTouch r.part r.va r.cmp r.data x else affPrefetch r.part r.va r.cmp x
      s.badAt r.tr = false ∧ r.kind = .affp ∧ s.stoppedAt r.lease = false ∧ x.stoppedAt r.lease = false) ∧
    (withLease fun l => { l with frozen := true }).cur.frozen = true ∧ s1.cur.frozen = false ∧ req1.told = false :=
  ⟨⟨by decide +kernel, ok_of (by decide +kernel)⟩, by decide +kernel⟩

theorem witness_HomeAccess :
    (let s : State := { s1 with reqs := [req1] }
     s.reqs.find? (fun x => x.num = req1.num && !x.back && (x.atHome || s.replays x)) = some req1 ∧ req1.atHome = true) ∧
    s1.cur.id = req1.lease ∧ s1.cur.st ≠ .free ∧ s1.cur.replay = none ∧ (s1.part s1.cur.part).dbg.ctl.getLsbD 3 = false ∧
    req1.kind ≠ .store ∧ ({ req1 with kind := .store } : Req).kind = .store := by decide +kernel

/-- A handle of a format and space: d0 elements a row, d1 rows st bytes apart, one plane, at base. -/
def mkH (fmt sp d0 d1 st base : Nat) : Handle :=
  BitVec.ofNat 256 (fmt * 2 ^ 250 + sp * 2 ^ 248 + d1 * 2 ^ 176 + d0 * 2 ^ 160 + st * 2 ^ 128 + base * 2 ^ 64 + 2 ^ 48)

/-- A scratchpad tensor of 4 rows of 16 INT8 values at window offset 0x8000. -/
def hScr : Handle := mkH 0x09 0 16 4 16 0x8000
/-- A global tensor of the same shape at 0x40000. -/
def hGlo : Handle := mkH 0x09 1 16 4 16 0x40000

theorem witness_HandleWords : CtStarts t0 [1] 0 s1 (begun t0 s1) ∧ CtStarts t0 [2] 0 s1 (begun t0 s1) ∧ CtStarts t0 [] 0 s1 (begun t0 s1) ∧
    CtStarts t0 [] 5 s1 (begun t0 s1) ∧ sget 0 3 (begun t0 s1).cur.inUse = 0 ∧ hSpace hGlo = 1 ∧ hSpace (hPut hGlo 249 248 3) = 3 ∧
    hSpace hScr = 0 ∧ keysRise s1.cur.ct.handles = true ∧
    (let s := withLease fun l => { l with inUse := [(3, 1)] }
     CtStarts t0 [1] 0 s (begun t0 s) ∧ CtStarts t0 [2] 0 s (begun t0 s) ∧ CtStarts t0 [] 0 s (begun t0 s) ∧
      sget 0 3 (begun t0 s).cur.inUse ≠ 0) :=
  ⟨starts_of (by decide +kernel), starts_of (by decide +kernel), starts_of (by decide +kernel), starts_of (by decide +kernel),
    by decide +kernel, by decide +kernel, by decide +kernel, by decide +kernel, by decide +kernel,
    starts_of (by decide +kernel), starts_of (by decide +kernel), starts_of (by decide +kernel), by decide +kernel⟩

/-- The code holds a NOP of CP and a bad word behind an ISSUE at 0x100. -/
def sIssue : State := withLease fun l => { l with code := [(0x21, 0x0000400100000005), (0x22, 0x0000FFFF00000000)],
                                                  ct := { l.ct with idx := 0 } }

theorem witness_IssueAndIssuer :
    CtStarts t0 [] 0 sIssue (begun t0 sIssue) ∧ sIssue.cur.codesize < 0x100 + 8 * ((480 : BitVec 12).toNat + 1) ∧
    0x100 + 8 * ((2 : BitVec 12).toNat + 1) ≤ sIssue.cur.codesize ∧ (begun t0 sIssue).cur.ct.idx < (2 : BitVec 12).toNat ∧
    ((begun t0 sIssue).cur.stream .cp).ring.count < ((begun t0 sIssue).cur.stream .cp).ring.slots ∧
    (∃ j, pushCheck (begun t0 sIssue).cur .cp (sget 0 0x21 (begun t0 sIssue).cur.code) = .ok j ∧ true = true) ∧
    (pushCheck (begun t0 sIssue).cur .cp (sget 0 0x22 (begun t0 sIssue).cur.code) matches .error _) = true ∧
    (let s := withLease fun l => { l with cp := { l.cp with ring := { l.cp.ring with count := 256 } } }
     CtStarts t0 [] 0 s (begun t0 s) ∧ (s.cur.stream .cp).ring.slots ≤ (s.cur.stream .cp).ring.count) ∧
    ((begun t0 sIssue).cur.ct.trapCtl.getLsbD 0 = true ∧
      (withCt fun c => { c with trapCtl := 0 }).cur.ct.trapCtl.getLsbD 0 = false ∧
      (let s := { sIssue with cur := { sIssue.cur with ct := { sIssue.cur.ct with trapCtl := 0 } } }
       s.ctRuns = true ∧ (pushCheck s.cur .cp (sget 0 0x22 s.cur.code) matches .error _) = true)) ∧
    CtStarts t0 [1] 0 s1 (begun t0 s1) ∧ (∃ j, pushCheck (begun t0 s1).cur .cp 0 = .ok j ∧ true = true) ∧
    (let s := withCt fun c => { c with wdone := true, ir := 0x0000388000000001 }
     (s.lease? 1).isSome = true ∧ (s.focus 1).cur.ct.wdone = true ∧
     decodeCt false (s.focus 1).cur.ct.ir = .ok (.issue t0 2 1)) ∧
    (let s := withCt fun c => { c with wdone := true, ir := 0x0000398200000000 }
     decodeCt false (s.focus 1).cur.ct.ir = .ok (.issuer t0 2 1)) :=
  ⟨starts_of (by decide +kernel), by decide +kernel, by decide +kernel, by decide +kernel, by decide +kernel,
    ok_of (by decide +kernel), by decide +kernel, ⟨starts_of (by decide +kernel), by decide +kernel⟩, by decide +kernel,
    starts_of (by decide +kernel), ok_of (by decide +kernel), by decide +kernel⟩

/-- LD's ring holds a NOP. -/
def sLd : State := ringState .ld 0 s1

theorem witness_RingAndIssueFrames : Stream.cp ≠ .ct ∧ Memory.wf s1.mem = true ∧ LsStarts t0 sLd (lsBegun t0 sLd) ∧ sLd.curStream ≠ .ct ∧
    ((lsBegun t0 sLd).cur.stream sLd.curStream).ring.rep = none ∧ Stream.cp ≠ sLd.curStream :=
  ⟨by decide, by decide +kernel, lsStarts_of (by decide +kernel), by decide +kernel⟩

/-! ## Traps -/

theorem witness_TrapEntry : s1.cur.prologue = false ∧ s1.cur.ct.trapCtl.getLsbD 0 = true ∧ s1.cur.traph ≠ 0 ∧ s1.regsWritten = true ∧
    (withLease fun l => { l with loader := 0x800 }).cur.loader ≠ 0 ∧ (withCt fun c => { c with ready := [(5, 9)] }).regsWritten = false := by
  decide +kernel

theorem witness_TrapInstruction : CtStarts t0 [] 0 s1 (begun t0 s1) ∧ (begun t0 s1).cur.prologue = false ∧ (begun t0 s1).regsWritten = true ∧
    (begun t0 s1).cur.ct.trapCtl.getLsbD 0 = true ∧ (begun t0 s1).cur.traph ≠ 0 := ⟨starts_of (by decide +kernel), by decide +kernel⟩

theorem witness_TrapReturns : CtStarts t0 [] 0 s1 (begun t0 s1) ∧ (begun t0 s1).cur.ct.trapCtl.getLsbD 2 = false ∧
    (let s := withCt fun c => { c with trapCtl := 5 }
     CtStarts t0 [] 0 s (begun t0 s) ∧ (begun t0 s).cur.ct.trapCtl.getLsbD 2 = true ∧ (begun t0 s).regsWritten = true) ∧
    (let s := withCt fun c => { c with trapCtl := 5, ready := [(5, 9)] }
     CtStarts t0 [] 0 s (begun t0 s) ∧ (begun t0 s).cur.ct.trapCtl.getLsbD 2 = true ∧ (begun t0 s).regsWritten = false) ∧
    (let u := (withCt fun c => { c with trapCtl := 9, uivec := 0x200 }).focus 1
     u.atBoundary = true ∧ u.cur.ct.trapCtl.getLsbD 3 = true ∧ u.cur.ct.trapCtl.getLsbD 0 = true ∧ u.cur.ct.trapCtl.getLsbD 2 = false ∧
      u.cur.ct.uivec ≠ 0 ∧ u.saveDue = false) ∧ (s1.lease? 1).isSome = true ∧ (s1.focus 1).cur.ct.trapCtl.getLsbD 3 = false :=
  ⟨starts_of (by decide +kernel), by decide +kernel, ⟨starts_of (by decide +kernel), by decide +kernel⟩,
    ⟨starts_of (by decide +kernel), by decide +kernel⟩, by decide +kernel⟩

def stop5 : StopRec := { cause := .illegalOperand, mc := 5 }
def sStop (folds : List (Nat × Nat × List Byte)) : State := withLease fun l => { l with ld := { l.ld with stop := some stop5 }, folds := folds }

theorem witness_AsynchronousTrapEntry : ((s1.lease? 1).isSome = true ∧ (s1.focus 1).atBoundary = true ∧
    (s1.focus 1).cur.ct.trapCtl.getLsbD 0 = true ∧ oldestStop (s1.focus 1).cur.pendingStops = none ∧ (s1.focus 1).cur.folds = [] ∧
    ((withLease fun l => { l with folds := [(3, 0, [])] }).focus 1).cur.folds = [(3, 0, [])] ∧
    (withCt fun c => { c with trapCtl := 0 }).cur.ct.trapCtl.getLsbD 0 = false ∧
    oldestStop ((sStop []).focus 1).cur.pendingStops = some (.ld, stop5)) ∧
    (∀ x y, ((sStop [(3, 0, [])]).focus 1).cur.folds = x :: y → x.1 < stop5.mc) ∧
    (∀ x y, ((sStop [(5, 0, [])]).focus 1).cur.folds = x :: y → stop5.mc ≤ x.1) := by
  refine ⟨by decide +kernel, ?_, ?_⟩
  · intro x y h
    have e : ((sStop [(3, 0, [])]).focus 1).cur.folds = [(3, 0, [])] := by decide +kernel
    rw [e] at h
    cases h
    decide
  · intro x y h
    have e : ((sStop [(5, 0, [])]).focus 1).cur.folds = [(5, 0, [])] := by decide +kernel
    rw [e] at h
    cases h
    decide

/-! ## Synchronisation objects and barriers -/

def bind1 : Binding := { valid := true, owner := 4, obj := 0x50000, base := 0, len := 64 }

/-- Entry 7 of the binding table names an object at 0x50000. -/
def withBind (f : Lease → Lease) (q : Partition → Partition) : State :=
  { withLease f with parts := [(0, q { part0 with bind := [(7, bind1)] })] }

def waiter1 : Waiter := { obj := 0, lease := 1, idx := 7, shared := true, scope := 1, due := 0, atHome := 0, arrived := true }

/-- CT waits in an ACQ, whose request stands in the table's list or has reached the object. -/
def sWaits (w : Waiter) : State :=
  withBind (fun l => { l with ct := { l.ct with wait := .sent, wdone := true, ir := 0x00003B0000000000 } }) fun q => { q with waiters := [w] }

def sAcq (shared : Bool) : State := sWaits { waiter1 with shared := shared }

theorem witness_SyncObjects_acq :
    (let s := withBind id id
     CtStarts t0 [1] 0 s (begun t0 s) ∧ (begun t0 s).cur.replay = none ∧ (begun t0 s).cur.ct.wait = .none ∧
      ((begun t0 s).reg 1).toNat ≤ 4095 ∧ (∀ h ∈ (begun t0 s).cur.held, h.1 ≠ ((begun t0 s).reg 1).toNat) ∧ (begun t0 s).cur.held.length < 16 ∧
      CtStarts t0 [4] 0 s (begun t0 s) ∧ 4095 < ((begun t0 s).reg 4).toNat) ∧
    (let s := withCt fun c => { c with wait := .sent }
     CtStarts t0 [1] 0 s (begun t0 s) ∧ (begun t0 s).cur.ct.wait ≠ .none) ∧
    (∀ b, let s := sAcq b
      s.cur.id = 1 ∧ s.cur.st = .running ∧ s.cur.ct.wait = .sent ∧ CtAt 0x3B s ∧
      (s.part s.cur.part).waiters.find? (fun x => x.lease = s.cur.id) = some { waiter1 with shared := b } ∧ waiter1.arrived = true ∧
      waiter1.atHome ≤ s.datum ∧ s.cur.race = 0 ∧ nbits (s.objGet 0 0x50000 0 4) 31 31 = 0 ∧ nbits (s.objGet 0 0x50000 0 4) 15 0 = 0 ∧
      (((s.part 0).waiters.takeWhile fun x => x.lease ≠ 1).filter fun x => x.obj = 0 && x.arrived) = []) ∧
    nbits (({ sAcq true with mem := writeLe pageMem 0x50000 0x80000000 4 } : State).objGet 0 0x50000 0 4) 31 31 = 1 :=
  ⟨⟨starts_of (by decide +kernel), by decide +kernel, by decide +kernel, by decide +kernel, by decide +kernel, by decide +kernel,
      starts_of (by decide +kernel), by decide +kernel⟩,
    ⟨starts_of (by decide +kernel), by decide +kernel⟩, by unfold CtAt; decide +kernel⟩

/-- The request of an ACQ at the table, for entry k; it has been under way since mc 0. -/
def sTable (k : Nat) : State := sWaits { waiter1 with idx := k, arrived := false }
def xTable : State := ((sTable 7).translate 0 0 0x50000 .atomic false).2
def yTable : State := ((xTable.unsent 0).translate 0 0 0x50000 .atomic false).2

theorem witness_SyncObjects_table :
    (let s := sTable 8
     s.cur.id = 1 ∧ s.cur.st = .running ∧ s.cur.ct.wait = .sent ∧ CtAt 0x3B s ∧
      (s.part 0).waiters.find? (fun x => x.lease = 1) = some { waiter1 with idx := 8, arrived := false } ∧ waiter1.due ≤ s.datum ∧
      (s.entry 0 8).valid = false ∧ (let v := ctRefused .illegalOperand s.cur.ct.ir 0 (s.unsent 0)
        v.cur.id = 1 ∧ (v.part 0).waiters.find? (fun x => x.lease = 1) = none)) ∧
    ((sTable 7).cur.part = 0 ∧ (sTable 7).cur.die = 0 ∧ ((sTable 7).entry 0 7).valid = true ∧ ((sTable 7).entry 0 7).obj = 0x50000 ∧
      (∃ t, (sTable 7).translate 0 0 0x50000 .atomic false = (.ok t, xTable)) ∧
      (∃ t, (xTable.unsent 0).translate 0 0 0x50000 .atomic false = (.ok t, yTable)) ∧
      yTable.cur.id = 1 ∧ yTable.cur.part = 0 ∧ xTable.cur.part = 0 ∧ xTable.cur.die = 0 ∧
      (let w := { waiter1 with idx := 7, arrived := false }
       let home := Nat.max yTable.datum (w.atHome + (24 + 20 * yTable.hopsTo 0x50000))
       let v := ((yTable.addHolds 0 7 true).addWaiter 0 { w with obj := yTable.markAt 0 0x50000, atHome := home, arrived := true }).ctSent
       v.datum < home ∧ (v.part 0).waiters.find? (fun x => x.lease = 1) =
         some { w with obj := yTable.markAt 0 0x50000, atHome := home, arrived := true })) :=
  ⟨by unfold CtAt; decide +kernel, by decide +kernel, by decide +kernel, by decide +kernel, by decide +kernel, tr_at (by decide +kernel),
    tr_at (by decide +kernel), by decide +kernel⟩

/-- FENCE waits for a store that has completed at a narrower scope and has not been performed, and for one of die scope on its way. -/
theorem witness_SyncObjects_fence :
    (let s : State := { s1 with reqs := [{ req1 with kind := .store, told := true, scope := 0 }] }
     CtStarts t0 [] 0 s (begun t0 s) ∧ ((begun t0 s).reqs.any fun r => r.lease = (begun t0 s).cur.id && r.cmd.isNone && r.size ≠ 64 &&
        decide (r.kind ≠ .load) && (r.told = false || r.scope < (1 : BitVec 2).toNat)) = true) ∧
    (let s := withLease fun l => { l with doneQ := [{ stream := .ct, sig := 0, slot := 0, op := 0x2F, due := 24 }] }
     CtStarts t0 [] 0 s (begun t0 s) ∧ ((begun t0 s).cur.doneQ.any fun d => d.stream = .ct && d.op = 0x2F && (begun t0 s).datum < d.due) = true) ∧
    (begun t0 s1).cur.doneQ = [] := ⟨⟨starts_of (by decide +kernel), by decide +kernel⟩, ⟨starts_of (by decide +kernel), by decide +kernel⟩, by decide +kernel⟩

def sHeld : State := withBind (fun l => { l with held := [(7, true, 1)] }) id
def sRelDue (at_ : Nat) : State := withBind (fun l => { l with held := [(7, true, 1)], ct := { l.ct with wait := .change at_ } }) id
def sHeldBusy : State := { sHeld with reqs := [req1] }

theorem witness_SyncObjects :
    (CtStarts t0 [1] 0 sHeld (begun t0 sHeld) ∧ (begun t0 sHeld).cur.replay = none ∧ (begun t0 sHeld).cur.ct.wait = .none ∧
      (∃ h ∈ (begun t0 sHeld).cur.held, h.1 = ((begun t0 sHeld).reg 1).toNat ∧ h.2.1 = decide ((1 : BitVec 4) = 1)) ∧
      (∀ h ∈ (begun t0 sHeld).cur.held, ¬ (h.1 = ((begun t0 sHeld).reg 1).toNat ∧ h.2.1 = decide ((0 : BitVec 4) = 1))) ∧
      (begun t0 sHeld).ctAccessesDone = true) ∧
    (CtStarts t0 [1] 0 sHeldBusy (begun t0 sHeldBusy) ∧ (begun t0 sHeldBusy).ctAccessesDone = false) ∧
    (CtStarts t0 [1] 0 (sRelDue 0) (begun t0 (sRelDue 0)) ∧ (begun t0 (sRelDue 0)).cur.ct.wait = .change 0 ∧ 0 ≤ (begun t0 (sRelDue 0)).datum) ∧
    (CtStarts t0 [1] 0 (sRelDue 9) (begun t0 (sRelDue 9)) ∧ (begun t0 (sRelDue 9)).cur.ct.wait = .change 9 ∧ (begun t0 (sRelDue 9)).datum < 9) ∧
    (CtStarts t0 [] 0 s1 (begun t0 s1) ∧ (begun t0 s1).reqs = []) ∧
    (CtStarts t0 [] 0 sHeldBusy (begun t0 sHeldBusy) ∧ (begun t0 sHeldBusy).reqs.any (fun r =>
      r.lease = (begun t0 sHeldBusy).cur.id && r.cmd.isNone && r.size ≠ 64 && decide (r.kind ≠ .load)) = true) :=
  ⟨⟨starts_of (by decide +kernel), by decide +kernel⟩, ⟨starts_of (by decide +kernel), by decide +kernel⟩,
    ⟨starts_of (by decide +kernel), by decide +kernel⟩, ⟨starts_of (by decide +kernel), by decide +kernel⟩,
    ⟨starts_of (by decide +kernel), by decide +kernel⟩, starts_of (by decide +kernel), by decide +kernel⟩

/-- CT waits in a BIND or UNBIND whose change falls due at the mc at_; entry k holds e. -/
def sBind (at_ : Nat) (m : SMap Nat) (e : SMap Binding) : State :=
  { withCt fun c => { c with wait := .change at_ } with marks := m, parts := [(0, { part0 with bind := e })] }

def bindBad (m : BitVec 4) (k len : Nat) (tr : Tr) (v : State) : Bool :=
  let z := arriveBefore v
  tr.tier ≠ 0 || (z.entry z.cur.part k).valid || len = 0 || decide (m = 1 ↔ sget 0 (tr.key / 64) z.marks ≠ 0)

theorem witness_BindingsAndBarriers_bind :
    (let s := withCt fun c => c
     CtStarts t0 [4, 5, 1] 0 s (begun t0 s) ∧ (begun t0 s).cur.replay = none ∧ ((begun t0 s).reg 4).toNat = 0x30000 ∧
      ((begun t0 s).reg 1).toNat % 64 ≠ 0 ∧ (begun t0 s).cur.ct.wait = .none ∧ ((begun t0 s).reg 5).toNat + ((begun t0 s).reg 1).toNat ≤ 2 ^ 57 ∧
      ∃ tr v, (begun t0 s).translate 0 0 0x30000 .write false = (.ok tr, v) ∧ decide (v.cur = (begun t0 s).cur) = true) ∧
    (let s := sBind 0 [] []
     CtStarts t0 [4, 5, 1] 0 s (begun t0 s) ∧ (begun t0 s).cur.ct.wait = .change 0 ∧
      ∃ tr v, (begun t0 s).translate 0 0 0x30000 .write false = (.ok tr, v) ∧
        (decide (v.cur = (begun t0 s).cur) && decide (0 ≤ v.datum) && !bindBad 1 9 7 tr v && bindBad 0 9 7 tr v) = true) ∧
    (let s := sBind 0 [(0xC00, 1)] []
     CtStarts t0 [4, 5, 1] 0 s (begun t0 s) ∧
      ∃ tr v, (begun t0 s).translate 0 0 0x30000 .write false = (.ok tr, v) ∧
        (decide (v.cur = (begun t0 s).cur) && !bindBad 0 9 7 tr v && bindBad 1 9 7 tr v) = true) ∧
    (let s := sBind 9 [] []
     CtStarts t0 [4, 5, 1] 0 s (begun t0 s) ∧ (begun t0 s).cur.ct.wait = .change 9 ∧ (begun t0 s).datum < 9) ∧
    (CtStarts t0 [] 0 s1 (begun t0 s1) ∧ (begun t0 s1).cur.replay = none ∧ (begun t0 s1).cur.ct.wait = .none) ∧
    (let s := sBind 0 [] [(7, bind1)]
     let z := arriveBefore (begun t0 s)
     CtStarts t0 [] 0 s (begun t0 s) ∧ (begun t0 s).cur.ct.wait = .change 0 ∧ (z.entry 0 7).valid = true ∧ z.cur.part = 0 ∧
      (z.entry 0 7).holds = 0 ∧ (z.entry 0 8).valid = false ∧ nbits (z.objGet 0 0x50000 0 4) 31 31 = 0 ∧
      (∀ x ∈ (z.part 0).bind, x.1 = 7) ∧ nbits (z.objGet 0 0x50000 0 4) 15 0 = 0 ∧ (z.unitTr 0 0 0x50000 .read).isSome = true) ∧
    (let s := sBind 9 [] [(7, bind1)]
     CtStarts t0 [] 0 s (begun t0 s) ∧ (begun t0 s).cur.ct.wait = .change 9 ∧ (begun t0 s).datum < 9) :=
  ⟨⟨starts_of (by decide +kernel), by decide +kernel, by decide +kernel, by decide +kernel, by decide +kernel, by decide +kernel,
      tr_of (by decide +kernel)⟩,
    ⟨starts_of (by decide +kernel), by decide +kernel, tr_of (by decide +kernel)⟩, ⟨starts_of (by decide +kernel), tr_of (by decide +kernel)⟩,
    ⟨starts_of (by decide +kernel), by decide +kernel⟩, ⟨starts_of (by decide +kernel), by decide +kernel⟩,
    ⟨starts_of (by decide +kernel), by decide +kernel⟩, ⟨starts_of (by decide +kernel), by decide +kernel⟩⟩

def bar1 : Barrier := { level := 1, rcb := 0x20000, count := 2, arrived := [1], vec := [] }

def sBar (f : Partition → Partition) : State :=
  { withCt fun c => { c with wait := .sent, wdone := true, ir := 0x00003E0000000000 } with parts := [(0, f part0)] }

/-- An instance of the arrival's level, RCB and group takes arrivals while fewer than its count have come. -/
def takes (x b : Barrier) : Bool := b.level = x.level && b.rcb = x.rcb && b.grp = x.grp && b.arrived.length < b.count

theorem witness_BindingsAndBarriers :
    (CtStarts t0 [1] 0 s1 (begun t0 s1) ∧ ((begun t0 s1).cur.replay = none ∧ (begun t0 s1).cur.ct.wait = .none ∧
      0 < ((begun t0 s1).reg 1).toNat ∧ ((begun t0 s1).reg 1).toNat ≤ 4096 ∧ 4096 < ((begun t0 s1).reg 4).toNat ∧
      ((begun t0 s1).reg 9).toNat = 0 ∧ (begun t0 s1).cur.ringsIdle (begun t0 s1).datum = true ∧ (begun t0 s1).ctDrained = true ∧
      (begun t0 sLd).cur.ringsIdle (begun t0 sLd).datum = false) ∧ CtStarts t0 [1] 0 sLd (begun t0 sLd)) ∧
    (let s := sBar fun q => { q with arrivals := [bar1] }
     (s.part 0).arrivals.find? (fun y => y.arrived = [s.cur.id]) = some bar1 ∧ (s.part 0).barriers.find? (takes bar1) = none) ∧
    (let s := sBar fun q => { q with arrivals := [bar1], barriers := [{ bar1 with arrived := [2] }] }
     (s.part 0).barriers.find? (takes bar1) = some { bar1 with arrived := [2] }) ∧
    (let b := { bar1 with arrived := [2], count := 3 }
     let s := sBar fun q => { q with arrivals := [bar1], barriers := [b] }
     (s.part 0).barriers.find? (takes bar1) = some b ∧ b.count ≠ bar1.count ∧ CtAt 0x3E s ∧ s.cur.prologue = false ∧
      s.cur.ct.trapCtl.getLsbD 0 = true ∧ s.cur.traph ≠ 0) ∧
    (let b := { bar1 with arrived := [2, 3] }
     let s := sBar fun q => { q with arrivals := [bar1], barriers := [b] }
     (s.part 0).barriers.find? (takes bar1) = none) ∧
    (∀ k ∈ [1, 2], let b := { bar1 with count := 1, level := k }
      let s := sBar fun q => { q with barriers := [b] }
      CtAt 0x3E s ∧ b.arrived = [s.cur.id] ∧ b.count = 1 ∧ b.due ≤ s.datum ∧
      (s.part 0).barriers.find? (fun y => y.arrived.head? = some s.cur.id) = some b ∧
      ∀ x ∈ (s.part 0).sweeps, ((s.part 0).gen + 65536 - x.1) % 65536 < 3) ∧
    keysRise s1.parts = true ∧ (sBar fun q => { q with sweeps := [(1, 0)] }).parts.map (·.2.sweeps) = [[(1, 0)]] := by
  unfold CtAt
  exact ⟨⟨starts_of (by decide +kernel), by decide +kernel, starts_of (by decide +kernel)⟩,
    by decide +kernel⟩

/-! ## Shapes -/

/-- A second parcel below the first, for CHAIN: the first is NN at row 0, this one T at row 1. -/
def lease2 (op : Nat) : Lease :=
  { lease1 with id := 2, row := 1, ori := true, aid := 8, ct := { lease1.ct with wait := .sent, ir := BitVec.ofNat 64 (op * 2 ^ 40 + 0xE000) } }

/-- The first parcel names the second. -/
def sPair (op : Nat) (w : CtWait) (ls : List Lease) : State :=
  { withCt fun c => { c with wait := w, ir := BitVec.ofNat 64 (op * 2 ^ 40 + 0x2020) } with rest := ls }

def root1 : Rcb :=
  { va := 0x20000, parent := 0, kind := 2, depth := 0, prio := 128, race := 128, maxPlots := 0xFFFF, maxLeases := 0xFFFF, fdom := 128,
    resmap := 0, vec := 0 }
def child1 : Rcb := { root1 with va := 0x20080, parent := 0x20000, kind := 1, depth := 1, prio := 0, race := 0, fdom := 0, vec := 1 }

def sBig : State := withLease fun l => { l with shape := 1, ct := { l.ct with ir := 0x0000410000000000 } }

theorem witness_ShapeWords : CtStarts t0 [] 0 s1 (begun t0 s1) ∧ (begun t0 s1).cur.ct.wait = .none ∧ (begun t0 s1).cur.chained = false ∧
    splitOk (begun t0 s1).cur 0 = false ∧ (begun t0 s1).shapeDrained = true ∧ (begun t0 s1).cur.queuesEmpty = true ∧
    (begun t0 s1).cur.names = some ((begun t0 s1).cur.row, (begun t0 s1).cur.col) :=
  ⟨starts_of (by decide +kernel), by decide +kernel⟩

def sSent : State := withCt fun c => { c with wait := .sent }
def sChained : State := withLease fun l => { l with chin := some 2 }
def sQueue : State := withLease fun l => { l with sret := [5] }
/-- The region admits no further lease. -/
def sFull : State :=
  { sBig with cur := { sBig.cur with rcb := 0x20000 }, parts := [(0, { part0 with rcbs := [{ root1 with maxLeases := 0 }] })] }
def sFuse : State := withCt fun c => { c with ir := 0x0000420000000000 }

theorem witness_ShapeWords_refused : CtStarts t0 [] 0 sSent (begun t0 sSent) ∧ (begun t0 sSent).cur.ct.wait ≠ .none ∧
    CtStarts t0 [] 0 sChained (begun t0 sChained) ∧ (begun t0 sChained).cur.chained = true ∧
    CtStarts t0 [] 0 sQueue (begun t0 sQueue) ∧ (begun t0 sQueue).cur.queuesEmpty = false ∧
    CtStarts t0 [] 0 sLd (begun t0 sLd) ∧ (begun t0 sLd).shapeDrained = false ∧
    CtStarts t0 [] 0 sFull (begun t0 sFull) ∧ (begun t0 sFull).limitsOk 0 0x20000 0 (splitMore (begun t0 sFull).cur 0) = false :=
  ⟨starts_of (by decide +kernel), by decide +kernel, starts_of (by decide +kernel), by decide +kernel, starts_of (by decide +kernel),
    by decide +kernel, starts_of (by decide +kernel), by decide +kernel, starts_of (by decide +kernel), by decide +kernel⟩

theorem witness_ShapeWords_done : CtStarts t0 [] 0 sBig (begun t0 sBig) ∧ splitOk (begun t0 sBig).cur (0 : BitVec 4).toNat = true ∧
    (begun t0 sBig).limitsOk (begun t0 sBig).cur.part (begun t0 sBig).cur.rcb 0 (splitMore (begun t0 sBig).cur 0) = true ∧
    splitMore (begun t0 sBig).cur 0 ≤ ((begun t0 sBig).part (begun t0 sBig).cur.part).freeGroups.length ∧
    CtStarts t0 [] 0 sFuse (begun t0 sFuse) ∧ ((begun t0 sFuse).cur.fuseRect.map (begun t0 sFuse).fuseOk) = some true :=
  ⟨starts_of (by decide +kernel), by decide +kernel, by decide +kernel, by decide +kernel, starts_of (by decide +kernel), by decide +kernel⟩

def sAlone : State := sPair 0x43 .none []
def sTwo : State := sPair 0x43 .none [lease2 0x43]
def sTwoSent : State := sPair 0x43 .sent [lease2 0x43]
def leaseTaken : Lease := { lease2 0x43 with chin := some 9 }
def sTaken : State := sPair 0x43 .none [leaseTaken]

theorem witness_ShapeWords_chain : CtStarts t0 [] 0 sAlone (begun t0 sAlone) ∧ (begun t0 sAlone).cur.names = some (1, 0) ∧
    parcelOk (irShape (begun t0 sAlone).cur.ct.ir) 1 0 = true ∧ (begun t0 sAlone).linkPartner (begun t0 sAlone).cur = none ∧
    CtStarts t0 [] 0 sTwo (begun t0 sTwo) ∧ (begun t0 sTwo).linkPartner (begun t0 sTwo).cur = some (lease2 0x43) ∧
    (linkPair (begun t0 sTwo).cur (lease2 0x43)).isSome = true ∧
    CtStarts t0 [] 0 sTwoSent (begun t0 sTwoSent) ∧ (begun t0 sTwoSent).linkPartner (begun t0 sTwoSent).cur = some (lease2 0x43) ∧
    CtStarts t0 [] 0 sTaken (begun t0 sTaken) ∧ (begun t0 sTaken).linkPartner (begun t0 sTaken).cur = some leaseTaken ∧
    linkPair (begun t0 sTaken).cur leaseTaken = none :=
  ⟨starts_of (by decide +kernel), by decide +kernel, by decide +kernel, by decide +kernel, starts_of (by decide +kernel), by decide +kernel,
    by decide +kernel, starts_of (by decide +kernel), by decide +kernel, starts_of (by decide +kernel), by decide +kernel⟩

def sChange (ir : W64) (at_ : Nat) : State := withCt fun c => { c with wait := .change at_, ir := ir }

theorem witness_ShapeChanges :
    ((sChange 0x0000410000000000 9).cur.st ≠ .free ∧ (sChange 0x0000410000000000 9).datum < 9) ∧
    CtAt 0x41 (sChange 0x0000410000000000 0) ∧ CtAt 0x45 (sChange 0x0000450000000000 0) ∧ CtAt 0x42 (sChange 0x0000420000000000 0) ∧
    0 ≤ (sChange 0x0000410000000000 0).datum ∧ ((sChange 0x0000420000000000 0).cur.fuseRect).isSome = true ∧
    irAcc (sChange 0x0000450000000000 0).cur.ct.ir ≠ 3 ∧ irAcc (sChange 0x000045000000000C 0).cur.ct.ir = 3 ∧
    (let y := { lease2 0x43 with ct := { (lease2 0x43).ct with wait := .change 0 } }
     let s := sPair 0x43 (.change 0) [y]
     s.linkPartner s.cur = some y ∧ (linkPair s.cur y).isSome = true ∧ CtAt 0x43 s) ∧
    (let y := { lease2 0x44 with chin := some 1, ct := { (lease2 0x44).ct with wait := .change 0 } }
     let s := { sPair 0x44 (.change 0) [y] with cur := { (sPair 0x44 (.change 0) [y]).cur with chout := some 2 } }
     s.linkPartner s.cur = some y ∧ (linkPair s.cur y).isSome = true ∧ CtAt 0x44 s) ∧
    (lease2 0x43).frozen = false ∧
    (let s : State := { s1 with rest := [{ lease2 0x43 with vc := 9 }] }
     let r : Rect := { die := 0, row := 0, col := 0, shape := 2 }
     s.inRect r ≠ [] ∧ s.cur.id ≠ 0 ∧ s.cur.st ≠ .free ∧ ∃ x ∈ s.inRect r, x.id ≠ 0 ∧ x.id ≠ s.cur.id) ∧
    lease1.id ≠ (lease2 0x43).id ∧ s1.cur.id = lease1.id ∧ (s1.groupOf lease1 ++ s1.groupOf (lease2 0x43)).contains s1.cur.id = true := by
  unfold CtAt
  decide +kernel

/-! ## Regions, ends and models -/

/-- A header of a kernel of 4,096 bytes for one plot; the last four bytes are the CRC-32 of the rest. -/
def headerBytes : List Byte := packLe [(0x59484B48, 4), (0x0100, 2), (0, 2), (4096, 4), (0, 4), (8, 1), (0, 3), (1, 2), (1, 2), (0, 2), (8, 1), (8, 1), (8, 1),
    (0, 3), (0, 8), (0, 4), (0, 4), (0, 4), (0, 4), (0, 8), (0, 60), (0x272F05AA, 4)]

/-- The root region and one below it, a header at 0x21000 and a launch record for it at 0x22000; s8 to s10 hold the addresses. -/
def regionState (f : Lease → Lease) (q : Partition → Partition) : State :=
  let m := writeByte (writeByte pageMem 0x20009 1) 0x20089 1
  let m := writeLe (writeBytes m 0x21000 headerBytes) 0x22000 0x21000 8
  let l := { lease1 with rcb := 0x20000, task := 1, ct := { lease1.ct with sregs := [(1, 7), (8, 0x20080), (9, 0x22000), (10, 0x22001), (11, 0x20000)] } }
  { stateOf (f l) with mem := m, parts := [(0, q { part0 with rootRcb := 0x20000, rcbs := [root1, child1], tasks := [{ id := 1, rcb := 0x20000, leases := 1 }] })] }

def sReg : State := regionState id id

def noLogB (s : State) : Bool := s.cur.replay.isNone && !(s.part s.cur.part).dbg.ctl.getLsbD 3

theorem noLog_of {s : State} (h : noLogB s = true) : NoLog s := by
  simp only [noLogB, Bool.and_eq_true, Option.isNone_iff_eq_none, Bool.not_eq_true'] at h
  exact h

def uReg : State := begun t0 sReg
def vReg1 : State := readAfter 0x20080 128 uReg
def vReg2 : State := readAfter 0x22000 32 vReg1
def vReg3 : State := readAfter 0x21000 128 vReg2

theorem witness_RegionWordsAndEnds_reads : CtReads 0x20080 128 uReg vReg1 ∧ CtReads 0x22000 32 vReg1 vReg2 ∧ CtReads 0x21000 128 vReg2 vReg3 :=
  ⟨reads_of (by decide +kernel), reads_of (by decide +kernel), reads_of (by decide +kernel)⟩

theorem witness_RegionWordsAndEnds : CtStarts t0 [8, 9] 5 sReg uReg ∧ NoLog uReg ∧ ((uReg.reg 8).toNat = 0x20080 ∧ (uReg.reg 9).toNat = 0x22000 ∧
    (uReg.reg 1).toNat % 128 ≠ 0 ∧ (uReg.reg 10).toNat % 8 ≠ 0 ∧ uReg.cur.ct.wait = .none ∧ vReg2.unitLe 0 0x22000 8 = 0x21000 ∧
    vReg2.unitLe 0 0x22018 8 = 0 ∧ vReg1.cur = uReg.cur ∧ vReg2.cur = uReg.cur ∧ vReg3.cur = uReg.cur ∧ vReg3.attach 0 0x23000 = none) ∧
    CtStarts t0 [8] 5 sReg uReg ∧ CtStarts t0 [8] 0 sReg uReg ∧ CtStarts t0 [] 0 sReg uReg ∧ uReg.attach 0 7 = none :=
  ⟨starts_of (by decide +kernel), noLog_of (by decide +kernel), by decide +kernel, starts_of (by decide +kernel), starts_of (by decide +kernel), starts_of (by decide +kernel),
    by decide +kernel⟩

/-- After the tasks of the SPAWN are queued nothing logs or replays the lease. -/
def spawnedB (w : State) : Bool :=
  match w.header 0 0x21000 with
  | none => false
  | some h => noLogB ((List.range 3).foldl (fun z i => z.queueTask 0 0x20080 0x21000
      ((vReg2.unitLe 0 0x22008 8 + i * vReg2.unitLe 0 0x22010 8) % 2 ^ 64) h.kid { ring := 16 } uReg.cur.die
      (w.release .ct (uReg.cur.ct.pc / 8)).1) (w.release .ct (uReg.cur.ct.pc / 8)).2)

def attachedB (w : State) : Bool :=
  decide (w.cur = uReg.cur) && (w.part 0).below 0x20000 0x20080 && decide (w.rcbGet 0 0x20080 9 1 = 1) &&
    decide (w.queuedOf 0 + 3 ≤ 4096) && spawnedB w

/-- The executing lease is left by a kill of the region at va below its own. -/
def leftB (va : Nat) (w : State) : Bool :=
  (w.part 0).below 0x20000 va && ((killTree 0 va 2 uReg.cur.aid (some uReg.cur.task) w).lease? uReg.cur.id).isSome

theorem witness_RegionWordsAndEnds_attach : (∃ w, vReg3.attach 0 0x20080 = some w ∧ attachedB w = true) ∧
    (∃ w, uReg.attach 0 0x20080 = some w ∧ leftB 0x20080 w = true) ∧
    ((uReg.attached 0 0x20080).isSome = true ∧ 0x20080 ≠ uReg.cur.rcb ∧ (uReg.part 0).below uReg.cur.rcb 0x20080 = true) ∧
    uReg.attached 0 0x22000 = none ∧ (uReg.reg 11).toNat = uReg.cur.rcb :=
  ⟨some_of (by decide +kernel), some_of (by decide +kernel), by decide +kernel⟩

/-- The SPAWN that may not launch: its record's reserved bytes are not zero, its header is refused, or the queues are full. -/
def waits (w : State) : Bool :=
  decide (w.cur = uReg.cur) && (w.part 0).below 0x20000 0x20080 && decide (w.rcbGet 0 0x20080 9 1 = 1)

theorem witness_RegionWordsAndEnds_spawn :
    (∃ w, vReg3.attach 0 0x20080 = some w ∧ (waits w && (w.header 0 0x21000).isSome && (w.header 0 0x23000).isNone &&
      decide (4096 < w.queuedOf 0 + (4097 : BitVec 16).toNat)) = true) ∧
    vReg2.unitLe 0 0x22018 8 = 0 ∧ ({ vReg2 with mem := writeByte vReg2.mem 0x22018 1 } : State).unitLe 0 0x22018 8 ≠ 0 ∧
    uReg.cur.ct.wait = .none ∧ (withCt fun c => { c with wait := .sent }).cur.ct.wait ≠ .none :=
  ⟨some_of (by decide +kernel), by decide +kernel⟩

def sRegBelow : State := regionState (fun l => { l with rcb := 0x20080 }) id

theorem witness_RegionWordsAndEnds_above : ∃ w, (begun t0 sRegBelow).attach 0 0x20000 = some w ∧ (!(w.part 0).below 0x20080 0x20000) = true :=
  some_of (by decide +kernel)

def sJoin (ir : W64) : State := regionState (fun l => { l with ct := { l.ct with wait := .sent, wdone := true, ir := ir } }) id

/-- CT knows the vectors of the regions that the JOIN merges. -/
def joined (s : State) (va : Nat) : State :=
  (((s.part 0).rcb? va).toList ++ (s.part 0).rcbs.filter fun r => (s.part 0).below va r.va && r.va ≠ va && s.rcbGet 0 r.va 9 1 ≠ 0).foldl
    (fun z r => z.acquire .ct (z.vecOf r.vec)) s

theorem witness_RegionWordsAndEnds_join : CtAt 0x47 (sJoin 0x0000472A00000000) ∧ (sJoin 0x0000472A00000000).namedRcb = 0x20080 ∧
    (sJoin 0x0000472A00000000).rcbGet 0 0x20080 0x0A 2 = 0 ∧ NoLog (joined (sJoin 0x0000472A00000000) 0x20080) ∧
    ({ sJoin 0x0000472AC0000000 with mem := writeLe pageMem 0x2000A 1 2 } : State).rcbGet 0 0x20000 0x0A 2 ≠ 0 ∧
    CtAt 0x48 (sJoin 0x0000480200000000) ∧ (sJoin 0x0000480200000000).tasksBelow 0 0x20080 = [] ∧
    (sJoin 0x0000480200000000).namedRcb = 0x20080 ∧ (sJoin 0x0000480200000000).tasksBelow 0 0x20000 ≠ [] ∧
    (sJoin 0x00004802C0000000).namedRcb = 0x20000 := by
  refine ⟨?_, by decide +kernel, by decide +kernel, noLog_of (by decide +kernel), by decide +kernel, ?_⟩ <;> unfold CtAt <;> decide +kernel

def sEnd : State := withCt fun c => { c with wdone := true, ir := 0x00005B0000000000 }

theorem witness_RegionWordsAndEnds_end : CtStarts t0 [] 0 s1 (begun t0 s1) ∧ s1.cur.st ≠ .free ∧ (sEnd.cur.st = .running ∧ sEnd.cur.ct.wdone = true ∧
    opcodeOf sEnd.cur.ct.ir = 0x5B ∧ sEnd.cur.ringsIdle sEnd.datum = true ∧ sEnd.ctDrained = true) ∧ s1.cur.ct.wdone = false ∧
    ∀ x ∈ s1.rest, x.id ≠ s1.cur.id := ⟨starts_of (by decide +kernel), by decide +kernel⟩

theorem witness_RegionWordsAndEnds_end_clauses : CtStarts t0 [] 0 sChained (begun t0 sChained) ∧ (begun t0 sChained).cur.chin ≠ none ∧
    (let u := begun t0 s1
     u.cur.chin = none ∧ u.cur.chout = none ∧ u.cur.ringsIdle u.datum = true ∧ u.ctDrained = true ∧ u.yieldTo = false) ∧
    CtStarts t0 [] 0 sLd (begun t0 sLd) ∧
    (let u := begun t0 sLd
     u.cur.chin = none ∧ u.cur.chout = none ∧ u.cur.ringsIdle u.datum = false) :=
  ⟨starts_of (by decide +kernel), by decide +kernel, by decide +kernel, starts_of (by decide +kernel), by decide +kernel⟩

/-- A graph of one addition. -/
def graphBytes : List Byte :=
  packLe [(0x5847, 2), (1, 1), (1, 1), (1, 1), (2, 1), (0, 2), (0, 8), (1, 1), (0, 2), (0xC0, 1), (0, 4), (0, 120), (0, 64), (0, 44), (0xE5829143, 4)]

def sGraph : State := { s1 with mem := writeBytes pageMem 0x30000 graphBytes }
def uGraph : State := begun t0 sGraph

theorem witness_ModelWords_xload : CtStarts t0 [4] 0 sGraph uGraph ∧ uGraph.cur.cpDrained = true ∧
    (∃ bs v, CtGets 0 (uGraph.reg 4) 64 256 uGraph bs v ∧ (decide (v.cur = uGraph.cur) && decide (bs = graphBytes) && gValid bs) = true) ∧
    (∃ bs v, CtGets 0 ((begun t0 s1).reg 4) 64 256 (begun t0 s1) bs v ∧ (decide (v.cur = (begun t0 s1).cur) && !gValid bs) = true) :=
  ⟨starts_of (by decide +kernel), by decide +kernel, ctGets_of (by decide +kernel), ctGets_of (by decide +kernel)⟩

end Sys2Proof.Tests
end

