-- ==== Sys2Proof/Tests/WitnessesUnits.lean ====
section
/-! SUPPORT. Tests/WitnessesUnits.lean: the witnesses of the statements about models, the words of LD, SD and CP, and their units. -/

namespace Sys2Proof.Tests

set_option Elab.async false

open Machine Claims

/-! ## Tables of the model -/

theorem witness_ModelWords_cbld : CtStarts t0 [4] 0 s1 (begun t0 s1) ∧ (begun t0 s1).cur.cpDrained = true ∧ (begun t0 s1).cur.load = none ∧
    (∃ bs v, CtGets 0 ((begun t0 s1).reg 4) 32 32 (begun t0 s1) bs v ∧ decide (v.cur = (begun t0 s1).cur) = true) ∧
    (let s := withLease fun l => { l with cp := { l.cp with ring := { l.cp.ring with count := 1, tail := 1 } } }
     CtStarts t0 [4] 0 s (begun t0 s) ∧ (begun t0 s).cur.cpDrained = false) ∧
    (let s := withLease fun l => { l with load := some { t := 0 } }
     CtStarts t0 [4] 0 s (begun t0 s) ∧ (begun t0 s).cur.load.isSome = true) :=
  ⟨starts_of (by decide +kernel), by decide +kernel, by decide +kernel, ctGets_of (by decide +kernel),
    ⟨starts_of (by decide +kernel), by decide +kernel⟩, starts_of (by decide +kernel), by decide +kernel⟩

/-- A handle of bytes of the window, and a bias record behind it: its count of experts is n. -/
def hRec : Handle := mkH 0x0C 0 16 4 16 0x4000

def sRec (w : CtWait) (n : Nat) : State :=
  let s := withCt fun c => { c with wait := w, handles := [(2, hRec)], ir := 0x0000800000000000 }
  { s with mem := writeLe s.mem (s.cur.winKey 0x4000) n 2 }

/-- A SELK of the record's other generation is in flight. -/
def sRecBusy : State := let s := sRec .none 4
  { s with cur := { s.cur with cfgQ := [{ op := 0x0D, due := 9, selRec := 0x4000, gen := 1 }] } }
def uRec : State := begun t0 (sRec .none 4)

theorem witness_ModelWords_bupd : CtStarts t0 [5] 0 (sRec .none 4) uRec ∧ (uRec.cur.replay = none ∧ uRec.cur.ct.wait = .none ∧
    uRec.cur.recBad (uRec.handle ((2 : BitVec 5).toNat % 16)) = none ∧ uRec.recField (uRec.handle ((2 : BitVec 5).toNat % 16)) 0 2 = 4 ∧
    uRec.recField (uRec.handle ((2 : BitVec 5).toNat % 16)) 2 1 % 2 = 0 ∧ uRec.cur.cfgQ = [] ∧ uRec.reg 5 = 0) ∧
    (∃ x, uRec.cur.recBad (uRec.handle ((3 : BitVec 5).toNat % 16)) = some x ∧ true = true) ∧
    (let s := sRec (.flip 9 0 [0, 0, 0, 0]) 4
     CtStarts t0 [5] 0 s (begun t0 s) ∧ (begun t0 s).cur.ct.wait = .flip 9 0 [0, 0, 0, 0] ∧ (begun t0 s).datum < 9) ∧
    (let s := sRec (.flip 0 0 [0, 0, 0, 0]) 4
     CtStarts t0 [5] 0 s (begun t0 s) ∧ (begun t0 s).cur.ct.wait = .flip 0 0 [0, 0, 0, 0] ∧ 0 ≤ (begun t0 s).datum) ∧
    (∀ k ∈ [0, 9], let s := sRec (.counts k [1, 2, 3, 4]) 4
     CtStarts t0 [5] 0 s (begun t0 s) ∧ (begun t0 s).cur.ct.wait = .counts k [1, 2, 3, 4] ∧ (begun t0 s).datum = 0) ∧
    (∀ n ∈ [0, 257], let s := sRec .none n
      CtStarts t0 [5] 0 s (begun t0 s) ∧ (begun t0 s).cur.recBad ((begun t0 s).handle ((2 : BitVec 5).toNat % 16)) = none ∧
        (begun t0 s).recField ((begun t0 s).handle ((2 : BitVec 5).toNat % 16)) 0 2 = n) ∧
    (CtStarts t0 [5] 0 sRecBusy (begun t0 sRecBusy) ∧
      ∃ c ∈ (begun t0 sRecBusy).cur.cfgQ, c.op = 0x0D ∧ c.selRec = hBase hRec ∧ c.gen ≠ 0) ∧
    (CtStarts t0 [1] 0 (sRec .none 4) uRec ∧ uRec.reg 1 ≠ 0 ∧ (uRec.reg 1).toNat % 4 ≠ 0) ∧
    (CtStarts t0 [4] 0 (sRec .none 4) uRec ∧ uRec.reg 4 ≠ 0) ∧
    ∃ bs v, CtGets 2 (uRec.reg 4) 4 (4 * 4) uRec bs v ∧ true = true := by
  refine ⟨starts_of (by decide +kernel), by decide +kernel, some_of (by decide +kernel), ⟨starts_of (by decide +kernel), by decide +kernel⟩,
    ⟨starts_of (by decide +kernel), by decide +kernel⟩, ?_, ?_, ⟨starts_of (by decide +kernel), by decide +kernel⟩,
    ⟨starts_of (by decide +kernel), by decide +kernel⟩, ⟨starts_of (by decide +kernel), by decide +kernel⟩,
    ctGets_of (P := fun _ _ => true) (by decide +kernel)⟩ <;>
  · intro n h
    simp only [List.mem_cons, List.not_mem_nil, or_false] at h
    rcases h with rfl | rfl <;> exact ⟨starts_of (by decide +kernel), by decide +kernel⟩

/-- An affinity table of two records of eight experts at 0x31000; s7 names record 1 and expert 0, s8 a record beyond the table. -/
def sAff : State :=
  let s := withCt fun c => { c with sregs := [(4, 0x31000), (5, 0x31008), (6, -64), (7, 0x10000), (8, 0x20000)], ir := 0x0000810000000000 }
  { s with mem := writeLe s.mem 0x31000 0x80002 4 }
def uAff : State := begun t0 sAff

def vAff : State := reached 0x31000 .read uAff

theorem witness_ModelWords_affp : CtStarts t0 [4, 7] 0 sAff uAff ∧ CtStarts t0 [6, 7] 0 sAff uAff ∧ (uAff.cur.replay = none ∧
    2 ^ 57 ≤ (uAff.reg 6).toNat ∧ (uAff.reg 6).toNat % 64 = 0 ∧ (uAff.reg 5).toNat % 64 ≠ 0 ∧ (uAff.reg 4).toNat = 0x31000 ∧ uAff.cur.part = 0) ∧
    CtReaches 0x31000 .read uAff vAff ∧ (vAff.cur = uAff.cur ∧ vAff.unitLe 0 0x31000 2 = 2 ∧ vAff.unitLe 0 0x31002 2 = 8 ∧
    (uAff.reg 7).toNat / 2 ^ 16 % 2 ^ 16 = 1 ∧ (uAff.reg 7).toNat % 2 ^ 16 = 0 ∧ (uAff.reg 8).toNat / 2 ^ 16 % 2 ^ 16 = 2) ∧
    (∀ k ∈ [AccKind.read, .write], CtReaches (0x31000 + 0x40 + 32 * 1) k vAff (reached (0x31000 + 0x40 + 32 * 1) k vAff) ∧
      (reached (0x31000 + 0x40 + 32 * 1) k vAff).cur = uAff.cur) := by
  refine ⟨starts_of (by decide +kernel), starts_of (by decide +kernel), by decide +kernel, reaches_of (by decide +kernel), by decide +kernel, ?_⟩
  intro k h
  simp only [List.mem_cons, List.not_mem_nil, or_false] at h
  rcases h with rfl | rfl <;> exact ⟨reaches_of (by decide +kernel), by decide +kernel⟩

/-- The record's place translates for the table's own accesses, and the word that has sent its request waits. -/
theorem witness_ModelWords_affp_sent : (∃ z, (reached (0x31000 + 0x40 + 32 * 1) .write vAff).unitTr 0 0 (0x31000 + 0x40 + 32 * 1) .read = some z ∧ true = true) ∧
    uAff.cur.ct.wait ≠ .sent ∧
    (let s : State := { sAff with cur := { sAff.cur with ct := { sAff.cur.ct with wait := .sent } } }
     CtStarts t0 [4, 7] 0 s (begun t0 s) ∧ (begun t0 s).cur.ct.wait = .sent) :=
  ⟨some_of (by decide +kernel), by decide +kernel, starts_of (by decide +kernel), by decide +kernel⟩

def sRing (n : Nat) : State := withCt fun c => { c with sregs := [(4, 0x2000), (5, BitVec.ofNat 64 n)] }

theorem witness_ModelWords_ringset : CtStarts t0 [4, 5] 0 (sRing 512) (begun t0 (sRing 512)) ∧
    (begun t0 (sRing 512)).cur.ringsIdle (begun t0 (sRing 512)).datum = true ∧
    ((begun t0 (sRing 512)).cur.stream (Stream.ofIndex (2 : BitVec 2).toNat)).retry = none ∧
    (begun t0 (sRing 512)).cur.ringLegal (Stream.ofIndex (2 : BitVec 2).toNat) ((begun t0 (sRing 512)).reg 4).toNat
      ((begun t0 (sRing 512)).reg 5).toNat = true ∧ CtStarts t0 [4, 5] 0 (sRing 300) (begun t0 (sRing 300)) ∧
    (begun t0 (sRing 300)).cur.ringLegal (Stream.ofIndex (2 : BitVec 2).toNat) ((begun t0 (sRing 300)).reg 4).toNat
      ((begun t0 (sRing 300)).reg 5).toNat = false ∧
    CtStarts t0 [4, 5] 0 sLd (begun t0 sLd) ∧ (begun t0 sLd).cur.ringsIdle (begun t0 sLd).datum = false :=
  ⟨starts_of (by decide +kernel), by decide +kernel, by decide +kernel, by decide +kernel, starts_of (by decide +kernel), by decide +kernel,
    starts_of (by decide +kernel), by decide +kernel⟩

def sQuies (f : Nat) (w : CtWait) : State :=
  let s := withCt fun c => { c with wait := w, wdone := true, ir := 0x0000492900000000 }
  { s with mem := writeLe s.mem 0x3000C f 4 }

theorem witness_ModelWords_quies : CtStarts t0 [4] 5 s1 (begun t0 s1) ∧ (begun t0 s1).reg 4 ≠ 0 ∧ (begun t0 s1).cur.replay = none ∧
    (begun t0 s1).cur.ct.wait = .none ∧ ((begun t0 s1).reg 4).toNat < 2 ^ 57 ∧ ((begun t0 s1).reg 4).toNat % 64 = 0 ∧
    CtReaches ((begun t0 s1).reg 4).toNat .read (begun t0 s1) (reached ((begun t0 s1).reg 4).toNat .read (begun t0 s1)) ∧
    2 ^ 57 ≤ ((begun t0 s1).reg 3).toNat ∧ ((begun t0 s1).reg 1).toNat % 64 ≠ 0 ∧ (begun t0 s1).reg 9 = 0 ∧ (begun t0 s1).cur.sret = [] ∧
    CtStarts t0 [9] 5 sQueue (begun t0 sQueue) ∧ (begun t0 sQueue).cur.sret = [5] ∧ NoLog (sQuies 0 .sent) ∧
    quiesSet (sQuies 0 .sent) = 0x30000 ∧ (sQuies 0 .sent).dsc 0 0x30000 1 1 = 0 ∧ (sQuies 0 .sent).dsc 0 0x30000 0x0C 4 % 2 = 0 ∧
    (sQuies 1 .sent).dsc 0 0x30000 0x0C 4 % 2 = 1 :=
  ⟨starts_of (by decide +kernel), by decide +kernel, by decide +kernel, by decide +kernel, by decide +kernel, by decide +kernel,
    reaches_of (by decide +kernel), by decide +kernel, by decide +kernel, by decide +kernel, by decide +kernel, starts_of (by decide +kernel),
    by decide +kernel, noLog_of (by decide +kernel), by decide +kernel⟩

theorem witness_ModelWords_quiesComplete : CtAt 0x49 (sQuies 0 .sent) ∧ CtAt 0x49 (sQuies 1 .sent) ∧ NoLog (sQuies 1 .sent) := by
  refine ⟨?_, ?_, noLog_of (by decide +kernel)⟩ <;> unfold CtAt <;> decide +kernel

/-! ## Words of LD and SD -/

/-- What the reads of granules of cards give, while all of them pass in this package. -/
def cardsGot (sc : BitVec 2) (st : Stream) (slot : Nat) : List Nat → State → List Byte → Option (List Byte × State)
  | [], s, acc => some (acc, s)
  | g :: r, s, acc =>
    match s.accessGlobal { st := st, kind := .read, scope := sc.toNat, va := g, scr := false, late := true, slot := slot } false with
    | .ok t v =>
      if t.tier = 3 then none
      else cardsGot sc st slot r (v.readTr t (64 - g % 64) false).2 (acc ++ (v.readTr t (64 - g % 64) false).1)
    | _ => none

theorem globalCards_got {sc : BitVec 2} {st : Stream} {slot : Nat} {bs : List Byte} {w : State} {k : List Byte → State → LsRes} :
    ∀ {gs : List Nat} {s : State} {acc : List Byte}, cardsGot sc st slot gs s acc = some (bs, w) →
      globalCards sc st slot gs s acc k = k bs w
  | [], s, acc, h => by cases h; rfl
  | g :: r, s, acc, h => by
    simp only [cardsGot] at h
    split at h
    · rename_i t v e
      split at h
      · cases h
      · rename_i n
        rw [globalCards]
        simp only [e, if_neg n]
        exact globalCards_got h
    · cases h

/-- A read of cards in global memory that passes. -/
theorem lsTakes_of {sc : BitVec 2} {h : Handle} {n : Nat} {u : State} {P : List Byte → State → Bool} (hs : hSpace h = spGlobal)
    (g : (match cardsGot sc u.curStream (u.cur.curSlot u.curStream) (granulesOf (hBase h) n) u [] with
      | some x => (match x.2.input u.curStream.index (u.cur.curSlot u.curStream) (x.1.take n) (fun sl =>
          x.2.cur.cmds.any fun c => c.stream = u.curStream && c.slot = sl) with
        | some y => P y.1 (y.2.forgetRow (hBase h) n)
        | none => false)
      | none => false) = true) : ∃ bs v, LsTakes sc h n u bs v ∧ P bs v = true := by
  split at g
  · rename_i x e
    split at g
    · rename_i y f
      exact ⟨y.1, _, .inr ⟨hs, x.1, x.2, y.2, fun k => globalCards_got e, f, rfl⟩, g⟩
    · simp at g
  · simp at g

/-- The ring of stream st holds a word; handles hs are set. -/
def lsState (st : Stream) (hs : List (Nat × Handle)) : State := ringState st 0 (withCt fun c => { c with handles := hs })

theorem witness_LsPlainWords : LsStarts t0 sLd (lsBegun t0 sLd) ∧ sLd.lsGoes sLd.curStream t0 = true ∧ Stream.ld ≠ .ct ∧ (3 : Nat) ≠ 0 :=
  ⟨lsStarts_of (by decide +kernel), by decide +kernel⟩

def hScr2 : Handle := mkH 0x09 0 16 4 16 0x8400
def hTall : Handle := mkH 0x09 0 16 5 16 0x8400
def hInt : Handle := mkH 0x0B 0 4 4 16 0x8400
def hFar : Handle := hPut (mkH 0x09 2 16 4 16 0x40000) 243 233 1
def hPat : Handle := mkH 0x0C 0 64 1 64 0x9000
def hIdx : Handle := mkH 0x0B 0 3 1 16 0xA000

/-- A pattern record of 16 single bytes, and the indexes 0, 2 and 9. -/
def patMem (m : Memory) (l : Lease) (eom : Nat) : Memory :=
  let m := writeBytes m (l.winKey 0x9000) (packLe [(1, 4), (16, 4), (1, 4), (1, 4), (1, 4), (0, 8), (1, 4), (0, 8), (0, 16), (eom, 4), (0, 4)])
  writeBytes m (l.winKey 0xA000) (packLe [(0, 4), (2, 4), (9, 4)])

def sCopy (eom : Nat) : State :=
  let s := lsState .ld [(0, hScr), (1, hScr2), (2, hTall), (3, hInt), (4, hFar), (5, 0), (6, hPat), (7, hIdx), (8, hGlo)]
  { s with mem := patMem s.mem s.cur eom }
def uCopy (eom : Nat) : State := lsBegun t0 (sCopy eom)

theorem copy_starts : LsStarts t0 (sCopy 0) (uCopy 0) ∧ LsStarts t0 (sCopy 4) (uCopy 4) :=
  ⟨lsStarts_of (by decide +kernel), lsStarts_of (by decide +kernel)⟩

theorem witness_Copies : LsRoom (uCopy 0) ∧ (sCopy 0).curStream = .ld ∧
    ([hScr, hScr2, hTall, hInt, hGlo].all fun h => decide ((uCopy 0).cur.fullCheck h = none ∧ hSpace h ≠ spRemote)) = true ∧
    (uCopy 0).cur.fullCheck ((uCopy 0).handle 5) = some .handleInvalid ∧ (uCopy 0).cur.fullCheck hFar = none ∧ hSpace hFar = spRemote ∧
    (uCopy 0).handle 0 = hScr ∧ (uCopy 0).handle 8 = hGlo := by
  unfold LsRoom
  decide +kernel

theorem witness_Copies_shapes : hFmt hScr = hFmt hGlo ∧ hFmt hScr ≠ hFmt hInt ∧
    (hDim0 hScr = hDim0 hScr2 ∧ hDim1 hScr = hDim1 hScr2 ∧ hDim2 hScr = hDim2 hScr2) ∧ hDim1 hScr ≠ hDim1 hTall ∧
    fmtScaled (hFmt hScr) = false ∧ hRowBytes hScr ≤ (uCopy 0).cur.n * 512 ∧ hTotal hScr ≠ 0 ∧
    fpOverlap (hRange hScr true false) (hRange hScr2 true true) = false ∧
    fpOverlap (hRange hScr true false) (hRange hScr true true) = true := by decide +kernel

def patGoodB (bs : List Byte) (v : State) : Bool :=
  let c := { v.newCmd t0 .pattern 0 with dst := hScr, src := hScr2, pat := (patRecord bs).1 }
  decide (v.cur = (uCopy 0).cur) && decide (v.cur.cmds = []) && decide ((patRecord bs).2 = 0) && decide (patN c 12 = 0) &&
  decide (patN c 0 * patN c 1 * patN c 2 * patN c 3 = 16) && !patSideBad v.cur c hScr2 10 4 && !patSideBad v.cur c hScr 11 7 &&
  !fpOverlap (patRange c hScr2 10 4 false) (patRange c hScr 11 7 true)

theorem witness_Copies_pattern : (uCopy 0).cur.handleCheck hPat = none ∧ hSpace hPat = spScratch ∧ hFmt hPat = 0x0C ∧
    (∃ bs v, LsGets 0 (hBase hPat) 64 (uCopy 0) bs v ∧ patGoodB bs v = true) ∧
    (∃ bs v, LsGets 0 (hBase hPat) 64 (uCopy 4) bs v ∧
      decide (4 ≤ patN { v.newCmd t0 .pattern 0 with pat := (patRecord bs).1 } 12) = true) :=
  ⟨by decide +kernel, by decide +kernel, by decide +kernel, lsGets_of (by decide +kernel), lsGets_of (by decide +kernel)⟩

theorem witness_Copies_index : indexBad (uCopy 0).cur hIdx = none ∧ hDim0 hIdx ≤ hDim1 hScr ∧
    (∃ bs v, LsGets 0 (hBase hIdx) (4 * hDim0 hIdx) (uCopy 0) bs v ∧ (decide (ints32 bs = [0, 2, 9]) && decide (v.cur.cmds = [])) = true) :=
  ⟨by decide +kernel, by decide +kernel, lsGets_of (by decide +kernel)⟩

def hDie : Handle := hPut (mkH 0x09 2 16 4 16 0x40000) 247 244 1
def hDieBad : Handle := hPut (mkH 0x09 2 16 4 16 0x40000) 247 244 7
def hGCards : Handle := mkH 0x0C 1 64 2 64 0x70000
def hCards : Handle := mkH 0x0C 0 64 2 64 0xB000
def hPages : Handle := mkH 0x0B 0 2 1 8 0xC000

/-- Package 1 is a peer, entry 5; batcher 0 names a pool of two pages; the window holds a card of one run of 64 bytes. -/
def sRem (st : Stream) (peers : List (Nat × Nat)) (kind : Nat) : State :=
  let s := lsState st [(0, hScr), (1, hFar), (2, hDie), (3, hDieBad), (4, hCards), (5, hPages)]
  let m := writeBytes s.mem (s.cur.winKey 0xB000) (packLe [(kind, 1), (0, 7), (0x40000, 8), (0x50000, 8), (64, 4), (1, 4), (0, 32)])
  let m := writeBytes m 0x70000 (packLe [(kind, 1), (0, 7), (0x40000, 8), (0x50000, 8), (64, 4), (1, 4), (0, 32)])
  let m := writeLe (writeBytes (writeLe m 0x60010 0x61000 8) 0x61000 (packLe [(0x100000, 8), (2, 4)])) (s.cur.winKey 0xC000) 1 8
  { s with mem := m, parts := [(0, { part0 with peers := peers, batchers := [(0, { addr := 0x60000 })] })] }
def peer1 : List (Nat × Nat) := [(5, 2 ^ 63 + 2 ^ 62 + 2 ^ 48)]
def uRem (st : Stream) (peers : List (Nat × Nat)) (kind : Nat) : State := lsBegun t0 (sRem st peers kind)

theorem rem_starts : LsStarts t0 (sRem .ld peer1 1) (uRem .ld peer1 1) ∧ LsStarts t0 (sRem .ld [] 0) (uRem .ld [] 0) ∧
    LsStarts t0 (sRem .sd peer1 1) (uRem .sd peer1 1) ∧ LsStarts t0 (sRem .sd [] 0) (uRem .sd [] 0) :=
  ⟨lsStarts_of (by decide +kernel), lsStarts_of (by decide +kernel), lsStarts_of (by decide +kernel), lsStarts_of (by decide +kernel)⟩

theorem witness_RemoteCopiesAndJobs : (∀ st ∈ [Stream.ld, .sd], ∀ p ∈ [(peer1, 1), ([], 0)],
      let u := uRem st p.1 p.2
      u.cur.fullCheck (u.handle 0) = none ∧ u.cur.handleCheck (u.handle 1) = none ∧ u.cur.handleCheck (u.handle 2) = none ∧
        u.cur.handleCheck (u.handle 3) = none ∧ u.cur.cmds = [] ∧ 0 ≤ (u.cur.die : Int) + hDd (u.handle 2) ∧
        (u.cur.die : Int) + hDd (u.handle 2) < 8) ∧
    (uRem .ld peer1 1).farPkg (hDp hFar) = some (1, 0) ∧ (uRem .ld [] 0).farPkg (hDp hFar) = none ∧
    hSpace hFar = spRemote ∧ hSpace hScr ≠ spRemote ∧ hDp hFar ≠ 0 ∧ hDd hFar = 0 ∧ hDp hDie = 0 ∧ hDd hDie ≠ 0 ∧
    hFmt hScr = hFmt hFar ∧ hDim0 hScr = hDim0 hFar ∧ hDim1 hScr = hDim1 hFar ∧ hDim2 hScr = hDim2 hFar := by decide +kernel

theorem witness_RemoteCopiesAndJobs_far : ∃ k, hDd (hPut (mkH 0x09 2 16 4 16 0x40000) 247 244 k) < 0 ∧ (uRem .sd peer1 1).cur.die = 0 :=
  ⟨15, by decide +kernel⟩

/-- A die that edges join to the lease's own, and one that none does. -/
theorem witness_RemoteCopiesAndJobs_joined : (uRem .sd peer1 1).joined 0 ((0 : Int) + hDd hDie).toNat = true ∧
    ({ uRem .sd peer1 1 with links := (List.range 200).map fun k => (k, { up := false }) } : State).joined 0 ((0 : Int) + hDd hDie).toNat = false := by
  decide +kernel

def cardsGood (bs : List Byte) (v : State) : Bool :=
  let cards := (List.range 1).map fun k => cardCmd { v.newCmd t0 .job 0 with aux := hCards, total := 1 } k ((bs.drop (64 * k)).take 64)
  cards.all fun x => x.isSome

theorem witness_RemoteCopiesAndJobs_cards : (uRem .ld peer1 1).cur.handleCheck hCards = none ∧ hSpace hCards = spScratch ∧ hFmt hCards = 0x0C ∧
    (∃ bs v, LsGets 0 (hBase hCards) 64 (uRem .ld peer1 1) bs v ∧
      (decide (v.cur = (uRem .ld peer1 1).cur) && cardsGood bs v) = true) ∧
    (∃ bs v, LsGets 0 (hBase hCards) 64 (uRem .ld [] 0) bs v ∧ (decide (v.cur = (uRem .ld [] 0).cur) && !cardsGood bs v) = true) :=
  ⟨by decide +kernel, by decide +kernel, by decide +kernel, lsGets_of (by decide +kernel), lsGets_of (by decide +kernel)⟩

theorem witness_RemoteCopiesAndJobs_globalCards : (uRem .ld peer1 1).cur.handleCheck hGCards = none ∧ hSpace hGCards = spGlobal ∧
    hFmt hGCards = 0x0C ∧ (∃ bs v, LsTakes 0 hGCards 64 (uRem .ld peer1 1) bs v ∧
      (decide (v.cur = (uRem .ld peer1 1).cur) && cardsGood bs v) = true) ∧
    (∃ bs v, LsTakes 0 hGCards 64 (uRem .ld [] 0) bs v ∧ (decide (v.cur = (uRem .ld [] 0).cur) && !cardsGood bs v) = true) :=
  ⟨by decide +kernel, by decide +kernel, by decide +kernel, lsTakes_of (by decide) (by decide +kernel), lsTakes_of (by decide) (by decide +kernel)⟩

theorem witness_RemoteCopiesAndJobs_pages : ((uRem .ld peer1 1).cur.handleCheck hPages = none ∧ hFmt hPages = 0x0B ∧ hDim0 hPages = 2 ∧
    hDim1 hPages ≠ 0 ∧ hDim2 hPages = 1 ∧
    peerUsable (sget 0 5 ((uRem .ld peer1 1).part 0).peers) 0 = true ∧ peerUsable (sget 0 5 ((uRem .ld [] 0).part 0).peers) 0 = false) ∧
    (∃ v, scratchCheck (uRem .ld peer1 1).curStream ((uRem .ld peer1 1).cur.curSlot (uRem .ld peer1 1).curStream) 0
        (asKind .read ((List.range (hDim1 hPages)).flatMap fun r => granulesOf (hRowAt hPages 0 r).toNat 8)) (uRem .ld peer1 1) = .ok v ∧
      (decide (v.cur = (uRem .ld peer1 1).cur) && decide (v.poolPages 0 = 2) &&
        decide (ints32 (v.winBytes (hRowAt hPages 0 0).toNat 8) = [1, 0])) = true) :=
  ⟨by decide +kernel, ok_of (by decide +kernel)⟩

def hGloInt : Handle := mkH 0x0B 1 4 4 16 0x40000
def hGloFp : Handle := mkH 0x01 1 4 4 16 0x40000
def hFp : Handle := mkH 0x01 0 4 4 16 0x8400
def hGloOdd : Handle := mkH 0x0B 1 4 4 16 0x40002
def hRef : Handle := mkH 0x09 0 16 1 16 0x8C00
def hRefOdd : Handle := mkH 0x09 0 16 1 16 0x8C04
def hRows : Handle := mkH 0x0B 0 3 2 16 0x8800
def hView : Handle := hPut hGlo 249 248 3

def sSli (st : Stream) : State := lsState st [(0, hScr), (1, hGlo), (2, hView), (3, hGloInt), (4, hGloFp), (5, hFp), (6, hGloOdd), (7, hRef),
  (8, hRefOdd), (9, hRows), (10, hInt), (11, hIdx)]
def uSli (st : Stream) : State := lsBegun t0 (sSli st)

theorem sli_starts : LsStarts t0 (sSli .ld) (uSli .ld) ∧ LsStarts t0 (sSli .sd) (uSli .sd) :=
  ⟨lsStarts_of (by decide +kernel), lsStarts_of (by decide +kernel)⟩

theorem witness_SliceAndListCommands : (∀ st ∈ [Stream.ld, .sd], (∀ k < 12, (uSli st).cur.handleCheck ((uSli st).handle k) = none) ∧
      ((uSli st).cur.cmds = []) ∧ (uSli st).cur.winOk (hBase hRef) (hBase hRef + 8 : Nat) = true ∧
      ∀ i < 3, (uSli st).cur.winOk (elemAt hInt i 4) (elemAt hInt i 4 + 4) = true) ∧
    hSpace hGlo = spGlobal ∧ hSpace hView = spView ∧ hSpace hScr = spScratch ∧ hFmt hGloInt = 0x0B ∧ hFmt hInt = 0x0B ∧ hFmt hGloFp = 1 ∧
    hFmt hFp = 1 ∧ hDim0 hGloInt * hDim1 hGloInt * hDim2 hGloInt ≤ hDim0 hInt * hDim1 hInt * hDim2 hInt ∧
    hDim0 hRows * hDim1 hRows * hDim2 hRows < hDim0 hGloInt * hDim1 hGloInt * hDim2 hGloInt ∧ hSpace hRows = spScratch ∧
    hDim0 hIdx = 3 ∧ hBase hGloInt % 4 = 0 ∧ hBase hGloOdd % 4 ≠ 0 ∧ hBase hRef % 8 = 0 ∧ hBase hRefOdd % 8 ≠ 0 ∧ hFmt hRows = 0x0B ∧
    hDim0 hRows = 3 ∧ hDim2 hRows = 1 ∧ (3 : Nat) < hDim0 hInt ∧ hBase hGloOdd % 8 ≠ 0 := by decide +kernel

theorem witness_SliceAndListCommands_reference : (∃ bs v, LsGets 0 (hBase hRef) 8 (uSli .sd) bs v ∧ decide (v.cur.cmds = []) = true) ∧
    (uSli .sd).cur.winOk (hBase hIdx) (hBase hIdx + hDim0 hIdx * 4 : Nat) = true ∧
    (let h := hPut hRef 127 64 0x100000
     hBase h % 8 = 0 ∧ (uSli .sd).cur.winOk (hBase h) (hBase h + 8 : Nat) = false) :=
  ⟨lsGets_of (by decide +kernel), by decide +kernel⟩

def cmdOf (k : CmdKind) : Cmd := { seq := 0, stream := .sd, kind := k, dst := hGloInt, src := hInt, total := 16 }
def sUnit (k : CmdKind) : State := withLease fun l =>
  { l with cmds := [{ cmdOf k with src := if k = .flush then hGlo else hInt }] }

theorem witness_CommandUnits : (∀ k ∈ [CmdKind.flush, .wlseal, .atomv], (sUnit k).cur.active = true ∧ (sUnit k).cur.replay = none ∧
      ∃ c, (sUnit k).cur.cmd? 0 = some c ∧ (c.kind = k ∧ c.seq = 0 ∧ (sUnit k).cmdGoes c = true)) ∧
    (let s := sUnit .flush
     ∃ tr v, (s.unretry { cmdOf .flush with src := hGlo }).translate 0 s.cur.die (maintAddr { cmdOf .flush with src := hGlo }) .read false =
       (.ok tr, v) ∧ true = true) := by
  refine ⟨?_, tr_of (by decide +kernel)⟩
  intro k hk
  simp only [List.mem_cons, List.not_mem_nil, or_false] at hk
  rcases hk with rfl | rfl | rfl <;> exact ⟨by decide +kernel, by decide +kernel, _, rfl, by decide +kernel⟩

def atomvB (x : Option (List Byte) × State) : Bool :=
  x.1.isSome && (match globalParts (cmdOf .atomv) .atomic (elemParts (addr64 (elemAt hGloInt 0 4)) 4) x.2 with
    | .ok (parts, _) => decide (∀ y ∈ parts, y.1.tier ≠ 3)
    | .error _ => false)

/-- The set reference that a WLSEAL names is read in the window. -/
theorem witness_CommandUnits_seal : (readSet (cmdOf .wlseal) (cmdOf .wlseal).src ((sUnit .wlseal).unretry (cmdOf .wlseal))).1.isSome = true ∧
    (sUnit .wlseal).cur.cmd? 0 = some (cmdOf .wlseal) := by decide +kernel

theorem witness_CommandUnits_atomv : atomvB (atomvSource (cmdOf .atomv) 4 ((sUnit .atomv).unretry (cmdOf .atomv))) = true := by decide +kernel

def sStaged : State := { s1 with parts := [(0, part0)], slotTabs := [(0, { staged := some ([(0, 1)], false) })] }

theorem witness_CommandUnits_staged : (s1.slotTable 0 0).staged = none ∧ (sStaged.slotTable 0 0).staged = some ([(0, 1)], false) := by
  decide +kernel

def sPro (rs : List Req) : State :=
  { stateOf { lease1 with prologue := true, origin := { ring := 0 }, task := 0xFFFF } with reqs := rs }

theorem witness_PrologueWords : CtStarts t0 [] 0 (sPro []) (begun t0 (sPro [])) ∧ (∀ r ∈ (begun t0 (sPro [])).reqs, r.lease = 1 → r.kind = .load) ∧
    (begun t0 (sPro [])).queueRoom 0 = true ∧ CtStarts t0 [] 0 (sPro [{ req1 with kind := .store }]) (begun t0 (sPro [{ req1 with kind := .store }])) ∧
    ¬ (∀ r ∈ (begun t0 (sPro [{ req1 with kind := .store }])).reqs, r.lease = 1 → r.kind = .load) :=
  ⟨starts_of (by decide +kernel), by decide +kernel, by decide +kernel, starts_of (by decide +kernel), by decide +kernel⟩

/-- The lease queues are full. -/
def sFullQ : State :=
  { sPro [] with queues := [(0, List.replicate 4096 { part := 0, task := 1, rcb := 0, kernel := 0, args := 0 })] }

theorem witness_PrologueWords_full : CtStarts t0 [] 0 sFullQ (begun t0 sFullQ) ∧ (begun t0 sFullQ).queueRoom 0 = false :=
  ⟨starts_of (by decide +kernel), by decide +kernel⟩

/-! ## Words of CP -/

/-- One row of lanes for the queue of LD. -/
def lanes1 : Lanes := (List.range 128).map fun j => BitVec.ofNat 32 j

def hAct : Handle := mkH 0x02 0 16 4 32 0x9000
def hWts : Handle := mkH 0x02 0 16 4 32 0x9400
def hEnt : Handle := mkH 0x0C 0 16 0 16 0x9800
def hDst : Handle := mkH 0x01 0 16 8 64 0xA000
def hCfg : Handle := mkH 0x01 0 128 1 512 0xB000
def hTab : Handle := mkH 0x0C 0 528 1 528 0xB400
def hAct8 : Handle := mkH 0x09 0 16 4 16 0x9000
def hSel : Handle := mkH 0x02 0 4 2 8 0xC000
def hOut : Handle := mkH 0x0B 0 4 2 16 0xC400

/-- CP's ring holds a word; a tile of BF16 or of sign nibbles is active. -/
def sCp (tag : Nat) (f : Lease → Lease) : State :=
  let s := withLease fun l =>
    f { l with wact := { tag := tag },
               ct := { l.ct with handles := [(0, hAct), (1, hWts), (2, hEnt), (3, hDst), (4, hCfg), (5, hTab), (6, hScr), (7, hRec), (8, hOut),
                                             (9, hSel), (10, hAct8), (11, hRef), (12, hRows)], accwin := [(0, 0x10000), (1, 0)] } }
  let s := ringState .cp 0 s
  { s with mem := writeLe s.mem (s.cur.winKey 0x4000) 4 2 }
def uCp : State := cpBegun t0 (sCp 2 id)
/-- A row waits in LD's queue and a graph is loaded. -/
def sCpQ : State := sCp 2 fun l => { l with dqIn := [lanes1], xop := [(1, graphBytes)] }
def uCpQ : State := cpBegun t0 sCpQ
/-- The word has started, and its issue cycles are over. -/
def sCpS : State := sCp 2 fun l => { l with cpStart := some 0, vc := 9 }

theorem cp_starts {is : List Instr} {s : State} (h : is.all (fun i => cpStartsB i t0 s) = true) : ∀ i ∈ is, CpStarts i t0 s (cpBegun t0 s) :=
  fun i m => cpStarts_of (List.all_eq_true.mp h i m)

/-- A word of each instruction of the statements on vectors, transfers and the array. -/
def floatWords : List Instr := [.vadd t0 3 1 2, .vsub t0 3 1 2, .vmul t0 3 1 2, .vfma t0 3 1 2 4, .vfms t0 3 1 2 4, .vfnma t0 3 1 2 4,
  .vmin t0 3 1 2, .vmax t0 3 1 2, .vabs t0 3 1, .vneg t0 3 1, .vdiv t0 3 1 2 0, .vdiv t0 3 1 2 1, .vdiv t0 3 1 2 2, .vsqrt t0 3 1,
  .vrcp t0 3 1, .vrsq t0 3 1, .vexp2 t0 3 1, .vlog2 t0 3 1, .vtab t0 3 1 1, .vscale t0 3 1 5]
def intWords : List Instr := [.viadd t0 3 1 2 0, .viadd t0 3 1 2 1, .viadd t0 3 1 2 2, .visub t0 3 1 2 0, .visub t0 3 1 2 1,
  .visub t0 3 1 2 2, .vimul t0 3 1 2 0, .vimul t0 3 1 2 1, .vimul t0 3 1 2 2, .vimad t0 3 1 2 4, .vand t0 3 1 2, .vor t0 3 1 2, .vxor t0 3 1 2,
  .vnot t0 3 1, .vshl t0 3 1 2, .vshr t0 3 1 2, .vsra t0 3 1 2, .vimin t0 3 1 2 0, .vimin t0 3 1 2 1, .vimax t0 3 1 2 0, .vimax t0 3 1 2 1,
  .vcmp t0 3 1 2 4, .vsel t0 3 1 2 4, .vclass t0 3 1, .vmov t0 3 1, .vli t0 3 7, .vliHi t0 3 7, .vidx t0 3 1 1 4]
def moveWords : List Instr := [.vcvt t0 3 1 1 2 0, .vpack t0 3 1 2 1 2 0, .vunpk t0 3 1 0 2 1 0, .vqnt t0 3 1 1 6 0, .vdeq t0 3 1 6 1 0,
  .vred t0 3 1 3, .vscan t0 3 1 3, .vperm t0 3 1 2 0, .vrot t0 3 1 1 5, .vslide t0 3 1 0 5, .vbcast t0 3 1 1 5, .vbcast t0 3 1 1 500,
  .vpart t0 3 1 2 0 1]
def transferWords : List Instr := [.vtos t0 3 1 5, .vtos t0 3 1 500, .vout t0 3 0 0, .vout t0 3 1 0, .vout t0 3 2 5, .vpush t0 3, .vpop t0 3,
  .vfrs t0 3 6 1, .vfrs t0 3 7 0x700000, .vld t0 3 6 0 1, .vst t0 3 6 0 1, .cpWlapp t0 3 11 0 1, .xop t0 1 3 1 0 0 0, .xop t0 2 3 1 0 0 0]
def plainWords : List Instr := [.cpNop t0, .cpTmark t0 5, .cpRep t0 3 2, .selk t0 9 7 2 1]
def arrayWords : List Instr := [.mxmul t0 0 0 0 0 4, .mxlut t0 0 0 0 0 4, .mxdrain t0 0 0 0 4, .mxbs t0 0 1 0 0 0, .mxld t0 1 0 0, .mxswap t0,
  .mxcfg t0 4 0, .mxcfg t0 5 0x20000, .mxcfg t0 0 0x30001, .mxzero t0 0, .mxzero t0 1, .mxrd t0 0 3 5, .mxwr t0 0 3 5, .mxrd t0 0 3 500, .mxwr t0 0 3 500]

theorem witness_VectorFloat : ∀ i ∈ floatWords, CpStarts i t0 sCpS (cpBegun t0 sCpS) := cp_starts (by decide +kernel)
theorem witness_VectorInteger : ∀ i ∈ intWords, CpStarts i t0 sCpS (cpBegun t0 sCpS) := cp_starts (by decide +kernel)
theorem witness_VectorConvertAndCrossLane : (∀ i ∈ moveWords, CpStarts i t0 (sCp 2 id) uCp) ∧ (5 : BitVec 11).toNat < 128 * uCp.cur.n ∧
    128 * uCp.cur.n ≤ (500 : BitVec 11).toNat ∧ (sCp 2 id).cur.cpStart = none ∧ waitGrp t0.wait = false :=
  ⟨cp_starts (by decide +kernel), by decide +kernel⟩

theorem witness_FloatRules : isNan32 0x7FC00000 = true ∧ isNan32 0x3F800000 = false ∧ (0x3F800000 : W32).toNat % 2 ^ 31 ≠ 0 ∧
    (0x3F800000 : W32).toNat % 2 ^ 31 < 0x7F800000 ∧ (0xBF800000 : W32).getLsbD 31 = true ∧
    (0xBF800000 : W32).toNat % 2 ^ 31 < 0x7F800000 := by decide +kernel

theorem witness_ComparePredicates : isNan32 0x7F800001 = true ∧ isNan32 0 = false ∧ isNan32 0x7F800000 = false := by decide +kernel

theorem witness_CrossLaneAndSelectionRules : (0 : Nat) ≤ 11 ∧ ([5] : Lanes).length = 2 ^ 0 ∧ (List.replicate 2048 (1 : W32)).length = 2 ^ 11 ∧
    ([7, 8] : Lanes) ≠ [] ∧ (3 : Nat) ≤ 5 ∧ 0 + 1 < ([7, 8] : Lanes).length ∧ (∀ x ∈ [5, 65535, 5], x < 2 ^ 16) ∧ 2 ≤ [5, 65535, 5].length := by
  decide +kernel

def pass (r : Except (Cause × List W64 × State) State) : Bool := match r with | .ok v => decide (v.cur = uCp.cur) | .error _ => false

theorem pass_of {r : Except (Cause × List W64 × State) State} (h : pass r = true) : ∃ v, r = .ok v ∧ v.cur = uCp.cur := by
  cases r with
  | ok v => exact ⟨v, rfl, of_decide_eq_true h⟩
  | error e => simp [pass] at h

theorem witness_VectorTransfers : (∀ i ∈ transferWords, CpStarts i t0 sCpQ uCpQ) ∧ uCpQ.cur.dqIn = [lanes1] ∧
    uCp.cur.handleCheck hScr = none ∧ uCp.cur.handleCheck hRef = none ∧ uCp.cur.handleCheck hRec = none ∧ (0x8004 : Nat) % 4 = 0 ∧
    uCp.cur.winOk 0x8004 (0x8004 + 4) = true ∧ uCp.cur.winOk (0x4000 + 4 * 0x700000) (0x4000 + 4 * 0x700000 + 4) = false ∧
    uCp.cur.winOk (hBase hRef) (hBase hRef + 8 : Nat) = true ∧ hBase hRef % 8 = 0 ∧ uCp.cur.replay = none ∧
    (0x8200 % 64 = 0 ∧ uCp.cur.winOk 0x8200 (0x8200 + 512) = true) ∧ sget [] 1 uCpQ.cur.xop ≠ [] ∧
    xopBad uCp.cur (sget [] 1 uCpQ.cur.xop) 3 1 0 0 0 = none ∧ gLat (sget [] 1 uCpQ.cur.xop) ≠ 0 ∧ sget [] 2 uCpQ.cur.xop = [] :=
  ⟨cp_starts (by decide +kernel), by decide +kernel⟩

theorem witness_VectorTransfers_window : (∃ v, scratchCheck .cp (uCp.cur.curSlot .cp) 0 (asKind .read (granulesOf 0x8004 4)) uCp = .ok v ∧ v.cur = uCp.cur) ∧
    (∃ v, scratchCheck .cp (uCp.cur.curSlot .cp) 0 (asKind .read (granulesOf 0x8200 512)) uCp = .ok v ∧ v.cur = uCp.cur) ∧
    (∃ v, scratchCheck .cp (uCp.cur.curSlot .cp) 0 (asKind .write (granulesOf 0x8200 512)) uCp = .ok v ∧ v.cur = uCp.cur) ∧
    (∃ v, scratchCheck .cp (uCp.cur.curSlot .cp) 0 [(.read, hBase hRef)] uCp = .ok v ∧ v.cur = uCp.cur) :=
  ⟨pass_of (by decide +kernel), pass_of (by decide +kernel), pass_of (by decide +kernel), pass_of (by decide +kernel)⟩

theorem witness_CpPlainWords : (∀ i ∈ plainWords, CpStarts i t0 (sCp 2 id) uCp) ∧ (sCp 2 id).streamRuns .cp = true ∧
    (sCp 2 id).cur.cp.ring.has = true ∧ (sCp 2 fun l => { l with cp := { l.cp with stop := some stop5 } }).streamRuns .cp = false ∧
    (sCp 2 id).cur.pin = none ∧ (sCp 2 id).cur.cpStart = none ∧
    (let s := sCp 2 fun l => { l with pin := some 9, ct := { l.ct with vcmode := 1 } }
     s.cpRuns = true ∧ s.missMode = true ∧ s.cur.cpStart = none ∧ s.cur.replay = none ∧ s.cur.st ≠ .free ∧ s.cur.vc < 9) ∧
    (let s := sCp 2 fun l => { l with pin := some 9, vc := 9, ct := { l.ct with vcmode := 1 } }
     s.cpRuns = true ∧ s.missMode = true ∧ s.cur.cpStart = none ∧ s.cur.replay = none ∧ s.cur.st ≠ .free ∧ 9 ≤ s.cur.vc) :=
  ⟨cp_starts (by decide +kernel), by decide +kernel⟩

/-- CP's head is an AT, which replaces a pin. -/
theorem witness_CpPlainWords_at : (sCp 2 id).headIsAt = false ∧ (ringState .cp 0x00000B8000000004 (sCp 2 id)).headIsAt = true ∧
    (let s := sCp 2 fun l => { l with pin := some (-5), ct := { l.ct with vcmode := 1 } }
     s.cpStands = true ∧ s.missMode = true ∧ s.cur.pin = some (-5) ∧ (-5 : Int) ≤ s.cur.vc) := by decide +kernel

theorem witness_CpPlainWords_selk : (uCp.handle 9 = hSel ∧ uCp.handle 7 = hRec ∧ uCp.handle 8 = hOut ∧ uCp.cur.cpHandle hSel = none ∧ hFmt hSel = 2 ∧
    uCp.cur.recBad hRec = none ∧ uCp.cur.cpHandle hOut = none ∧ hFmt hOut = 0x0B ∧ uCp.selField hRec 0 2 = 4 ∧ hDim0 hSel = 4 ∧
    hDim1 hSel ≤ hDim0 hOut ∧ 2 ≤ hDim1 hOut) ∧ (∃ v, selkAccess hSel hOut 2 (uCp.cur.curSlot .cp) uCp = .ok v ∧ v.cur = uCp.cur) :=
  ⟨by decide +kernel, pass_of (by decide +kernel)⟩

theorem witness_ArrayWords : (∀ i ∈ arrayWords, CpStarts i t0 (sCp 2 id) uCp) ∧
    CpStarts (.mxlut t0 10 0 0 0 4) t0 (sCp tagSgn id) (cpBegun t0 (sCp tagSgn id)) ∧ (cpBegun t0 (sCp tagSgn id)).cur.wact.tag = tagSgn ∧
    uCp.cur.wact.tag = 2 ∧ (2 : Nat) ≠ tagSgn ∧ (uCp.cur.window 0).2 ≠ 0 ∧ 64 ≤ (uCp.cur.window 0).2 * uCp.cur.accQ ∧
    (uCp.cur.window 1).2 = 0 ∧ 5 < (uCp.cur.window 0).2 ∧ (uCp.cur.window 0).2 ≤ 500 ∧ dstBad uCp.cur 0 (uCp.handle 0) (some 4) = none ∧
    actBad uCp.cur hAct false 4 = none ∧ actBad uCp.cur hAct8 false 4 = none ∧ actBad uCp.cur hAct false 0 = none ∧
    pairOk (hFmt hAct) 2 = true ∧ pairOk (hFmt hAct) (hFmt hWts) = true ∧ uCp.cur.cpHandle hWts = none ∧ uCp.cur.cpHandle hEnt = none ∧
    weightFmt (hFmt hWts) = true ∧ hFmt hWts = 2 ∧ hDim0 hWts ≤ uCp.cur.kLen ∧ hDim1 hWts ≤ uCp.cur.width ∧ hFmt hEnt = 0x0C ∧
    hDim0 hEnt = 16 ∧ dstBad uCp.cur 0 hDst none = none ∧ uCp.cur.scaleOk hWts = true ∧ cfgBad uCp.cur hCfg 0x01 (4 * uCp.cur.width) = none ∧
    cfgBad uCp.cur hTab 0x0C 528 = none := by
  refine ⟨cp_starts (by decide +kernel), cpStarts_of (by decide +kernel), ?_⟩
  decide +kernel

theorem witness_ArrayWords_spans : (∃ v, spansCheck (uCp.cur.curSlot .cp) (rowSpans hAct 0 4) (outSpans 0 (uCp.handle 0) 4) uCp = .ok v ∧ v.cur = uCp.cur) ∧
    (∃ v, spansCheck (uCp.cur.curSlot .cp) [] (outSpans 0 (uCp.handle 0) 4) uCp = .ok v ∧ v.cur = uCp.cur) ∧
    (∃ v, spansCheck (uCp.cur.curSlot .cp) (rowSpans hWts 0 4) [] uCp = .ok v ∧ v.cur = uCp.cur) ∧
    (∃ v, spansCheck (uCp.cur.curSlot .cp) [(hBase hCfg, 4 * uCp.cur.width)] [] uCp = .ok v ∧ v.cur = uCp.cur) ∧
    (∃ v, spansCheck (uCp.cur.curSlot .cp) [] [] uCp = .ok v ∧ v.cur = uCp.cur) ∧ uCp.cur.ct.bad = [] ∧
    (∃ x, cfgItem uCp.cur 0 0 (uCp.winBytes (hBase hCfg) 512) = some x ∧ true = true) ∧
    (∃ x, cfgItem uCp.cur 3 1 [] = some x ∧ true = true) ∧
    (∃ x, cfgItem uCp.cur 2 0 (uCp.winBytes (hBase hTab) 528) = some x ∧ true = true) :=
  ⟨pass_of (by decide +kernel), pass_of (by decide +kernel), pass_of (by decide +kernel), pass_of (by decide +kernel),
    pass_of (by decide +kernel), by decide +kernel, some_of (by decide +kernel), some_of (by decide +kernel), some_of (by decide +kernel)⟩

/-- The walk of MXBS over a table of no entries, at a register that is 0. -/
def bsCmd : ArrCmd :=
  { seq := 0, kind := .bs, t := uCp.cur.avc, slot := uCp.cur.curSlot .cp, base := (uCp.cur.window 0).1, rows := (uCp.cur.window 0).2, h := hAct,
    g := hWts, g1 := hEnt, g2 := hDst, cfg := uCp.cur.cfg, mcnt := uCp.cur.bsStart, doneAt := some (uCp.cur.avc + 1) }

theorem witness_ArrayWords_walk : ∃ v, spansCheck (uCp.cur.curSlot .cp) (bsSpans uCp bsCmd uCp.cur.bsStart).1
    (bsSpans uCp bsCmd uCp.cur.bsStart).2 uCp = .ok v ∧ v.cur = uCp.cur := pass_of (by decide +kernel)

def rowW1 : RowWrite := { cmd := 0, row := 0, due := 0, vals := lanes1, clr := true, int := true }

theorem witness_ArrayArithmetic : ({ tag := 0x09 } : WTile).tag ≠ tagSgn ∧ rowW1.clr = true ∧ ({ rowW1 with clr := false } : RowWrite).clr = false ∧
    ({ rowW1 with int := false } : RowWrite).int = false ∧ s1.cur.ct.bad = [] ∧ keysRise s1.accs = true ∧ 5 < (sget zeroLanes 3 s1.accs).length := by decide +kernel

/-- A double-bit error in a word of bank row 3, and a single-bit error, which reading repairs. -/
def sAccBad (dbl : Bool) : State := withCt fun c => { c with bad := [⟨6, 3, dbl, cellWord (3, 5)⟩] }

theorem witness_ArrayArithmetic_cells : (∃ v, s1.readCells [(3, 5)] = .ok v ∧ true = true) ∧
    (∃ v, (sAccBad false).readCells [(3, 5)] = .ok v ∧ v.cur.ct.bad.isEmpty = true) ∧
    ((sAccBad true).readCells [(3, 5)] matches .error _) = true ∧ (sAccBad true).cur.ct.bad ≠ [] :=
  ⟨ok_of (by decide +kernel), ok_of (by decide +kernel), by decide +kernel⟩

/-- A weight load of a lease of one plot awaits its row 3, or has lost it on the host link. -/
def sAwait (lost : List Nat) : State :=
  withLease fun l => { l with load := some { t := 0, g := hWts, next := 4, out := [(3, 0)], onLink := lost, lost := lost } }

theorem witness_ResultsAndCompletions_load : ∀ lost ∈ [[], [3]], NoLog (sAwait lost) ∧ (sAwait lost).cur.st ≠ .free ∧
    ∃ x, (sAwait lost).cur.load = some x ∧ (∃ o ∈ x.out, o.1 = 3) ∧ x.lost = lost := by
  intro lost h
  simp only [List.mem_cons, List.not_mem_nil, or_false] at h
  rcases h with rfl | rfl <;>
    exact ⟨noLog_of (by decide +kernel), by decide +kernel, _, rfl, ⟨(3, 0), by decide, rfl⟩, rfl⟩

/-- An MXMUL that emits to the chain has a row due; the FIFO holds n rows. -/
def mulChain : ArrCmd := { seq := 0, kind := .mul, t := 0, f := 0x42, h := hAct, mcnt := 4, rows := 4 }
def emit1 : RowEmit := { cmd := 0, row := 0, out := 0, readAt := 0, due := 0, vals := some lanes1 }
def sEmit (n : Nat) : State := withLease fun l =>
  { l with arr := [mulChain], rowE := [emit1], fifo := List.replicate n lanes1, fifoAt := List.replicate n 0 }

theorem witness_ResultsAndCompletions_chain : ∀ n ∈ [0, 7, 8], (sEmit n).cur.st ≠ .free ∧ (sEmit n).cur.pause = false ∧
    (sEmit n).cur.arr = [mulChain] ∧ (sEmit n).cur.rowE = [emit1] ∧ (sEmit n).cur.rowW = [] ∧ (sEmit n).cur.pend = [] ∧
    (sEmit n).cur.cfgQ = [] ∧ (sEmit n).cur.load = none ∧ emit1.cmd = mulChain.seq ∧ emit1.emit = true ∧ emit1.due ≤ (sEmit n).cur.avc ∧
    dstOf mulChain.f = 1 ∧ (sEmit n).cur.fifo.length = n := by decide +kernel

/-- The consumer of that chain, at vc 5, takes its rows from lease 2, whose FIFO holds rows that entered at vc 0, or none. -/
def mulTakes : ArrCmd := { seq := 0, kind := .mul, t := 0, f := 0x40, imm := 0x80004, h := hAct, mcnt := 4, rows := 4 }
def sTakes (rows : List Lanes) : State :=
  { withLease fun l => { l with vc := 5, arr := [mulTakes], chin := some 2 } with rest := [{ lease2 0 with fifo := rows, fifoAt := rows.map fun _ => 0 }] }

theorem witness_ResultsAndCompletions_takes : ∀ rows ∈ [[], [lanes1]], let s := sTakes rows
    s.cur.st ≠ .free ∧ s.cur.pause = false ∧ s.cur.arrHeld = false ∧ s.cur.saving = false ∧ s.cur.load = none ∧ s.cur.cfgQ = [] ∧
    s.cur.arr = [mulTakes] ∧ mulTakes.kind = .mul ∧ finOf mulTakes.imm = true ∧ mulTakes.doneAt = none ∧ mulTakes.taken < mulTakes.mcnt ∧
    mulTakes.t + mulTakes.taken ≤ s.cur.avc ∧ s.cur.chin = some 2 ∧
    (match s.lease? 2 with
      | some p => decide (p.fifo = rows) && decide (p.id = 2) && decide (p.id ≠ s.cur.id) && decide (p.st ≠ .free) && p.fifoAt.all fun t => t < s.cur.vc
      | none => false) = true := by decide +kernel

def cfgSwap : CfgCmd := { op := 2, due := 0 }
def sSwap : State := withLease fun l => { l with cfgQ := [cfgSwap] }
def pend1 : Pend := { due := 0, path := 1, writes := [(3, lanes1)] }

theorem witness_ResultsAndCompletions : (withLease fun l => { l with pause := true }).cur.pause = true ∧
    (withLease fun l => { l with pause := true }).cur.backPressure = false ∧ s1.cur.st ≠ .free ∧ pend1.accRow = none ∧
    (sSwap.cur.pause = false ∧ sSwap.cur.arrHeld = false ∧ sSwap.cur.arr = [] ∧ sSwap.cur.load = none ∧ sSwap.cur.cfgQ = [cfgSwap] ∧
      cfgSwap.op = 2 ∧ sSwap.cur.st ≠ .free) ∧ s1.cur.load = none ∧ (withLease fun l => { l with frozen := true }).cur.frozen = true ∧
    s1.cur.st ≠ .halted ∧ s1.cur.frozen = false := by decide +kernel

end Sys2Proof.Tests
end

