-- ==== Sys2Proof/Tests/WitnessesSystem.lean ====
section
/-! SUPPORT. Tests/WitnessesSystem.lean: the witnesses of the statements about the package: faults, halts, swaps, launches, links,
lists, debug and what arrives from outside; and of those about whole steps and encodings. -/

namespace Sys2Proof.Tests

set_option Elab.async false

open Machine Claims

/-! ## The package: faults, swaps, launches, translation -/

def withPart (q : Partition) (l : Lease) : State := { stateOf l with parts := [(0, { q with pxbase := 0x10000 })] }

def fault1 : FaultEntry :=
  { lease := 1, stream := .ld, cause := .pageNotPresent, flags := 0, aid := 5, va := 0, offset := 0, where_ := 0, tier := 0, kernelId := 0,
    datum := 0, loc := 0 }
def sFault : State := withPart { eqs := [(0, { base := 0x40000, ctl := 0x80000006 })], faultWait := [fault1] } lease1
def sFaultOpen : State := withPart { faultOpen := [{ fault1 with seq := some 0 }] } { lease1 with st := .parked }

theorem witness_FaultsAndHalts : (s1.part 0).faultWait = [] ∧ (s1.eq 0 0).full = true ∧ (sFault.part 0).faultWait = [fault1] ∧
    (sFault.eq 0 0).full = false ∧ sFaultOpen.vfOff 0 = false ∧
    ((sFaultOpen.part 0).faultOpen.find? fun e => e.seq = some (nbits (0 : W64).toNat 31 0) && !e.resolved) = some { fault1 with seq := some 0 } ∧
    ((s1.part 0).faultOpen.find? fun e => e.seq = some (nbits (0 : W64).toNat 31 0) && !e.resolved) = none ∧
    eBit 0x100000000 32 = true ∧ eBit 0 32 = false ∧ (sFaultOpen.part 0).faultWait = [] ∧ sFaultOpen.cur.st = .parked ∧
    (sFaultOpen.lease? 1).isSome = true ∧ s1.cur.st ≠ .free := by decide +kernel

def sHalt : State := withPart { pstate := 1, stopLeft := [[1, 2, 3]], haltBase := 0x50000, haltLen := 64 } lease1

theorem witness_FaultsAndHalts_line : Cause.watchdog ∈ [Cause.uncorrectable, .doubleTrap, .isolation, .watchdog, .hostHalt] ∧
    Cause.watchdog.code = (BitVec.ofNat 6 Cause.watchdog.code).toNat ∧ (sHalt.part 0).pstate ≠ 0 ∧ (s1.part 0).pstate = 0 ∧
    (sHalt.part 0).stopLeft[0]? = some [1, 2, 3] ∧ (s1.part 0).stopLeft[0]? = none ∧ s1.cur.part ≠ 3 := by decide +kernel

/-- A stream that is ready has issued nothing for idle mc; a command has not moved for still mc; a prologue. -/
def sIdle (idle still : Nat) (pro : Bool) : State := withLease fun l =>
  { l with prologue := pro, idle := [(2, idle)], cmds := [{ seq := 0, stream := .ld, kind := .copy, total := 64, still := still }] }

theorem witness_FaultsAndHalts_watchdog : (∀ pro, (sIdle 65536 0 pro).cur.st = .running ∧ 65536 ≤ sget 0 Stream.cp.index (sIdle 65536 0 pro).cur.idle ∧
      (sIdle 65536 0 pro).cur.prologue = pro) ∧
    (∀ st : Stream, ¬ 65536 ≤ sget 0 st.index (sIdle 65535 (2 ^ 24 - 1) false).cur.idle) ∧
    (∀ c ∈ (sIdle 65535 (2 ^ 24 - 1) false).cur.cmds, c.still < 2 ^ 24) ∧
    (∀ st : Stream, ¬ 65536 ≤ sget 0 st.index (sIdle 0 (2 ^ 24) false).cur.idle) ∧
    (∃ c ∈ (sIdle 0 (2 ^ 24) false).cur.cmds, 2 ^ 24 ≤ c.still) ∧ (withLease fun l => { l with st := .parked }).cur.st ≠ .running := by
  refine ⟨by decide +kernel, ?_, by decide +kernel, ?_, by decide +kernel, by decide +kernel⟩ <;> intro st <;> cases st <;> decide +kernel

theorem witness_FaultsAndHalts_halted : (sHalt.part 0).pstate ≠ 0 ∧ (s1.part 0).pstate = 0 ∧ Cause.uncorrectable.code = (BitVec.ofNat 6 Cause.uncorrectable.code).toNat ∧
    (∀ c ∈ [Cause.uncorrectable, .doubleTrap, .isolation, .watchdog, .hostHalt], c.code ≠ (0 : BitVec 6).toNat) ∧ s1.badGran = [] := by
  decide +kernel

/-- A save is asked for; the second stands where it may begin. -/
def sAsked : State := withLease fun l => { l with pre := .byWrite, ct := { l.ct with wdone := false } }
def sSaved : State := withPart { imgBase := 0x100000, imgLen := 64 } { lease1 with st := .saved }
def sDrained : State := regionState (fun l => { l with st := .saved, drained := true })
  (fun q => { q with imgBase := 0x100000, imgLen := 64 })
def image1 : Launch := { part := 0, task := 1, rcb := 0x20000, kernel := 0, args := 0, image := some 1 }

theorem witness_SwapsAndKills_save : s1.cur.preAsked = false ∧ s1.cur.st ≠ .free ∧ sAsked.cur.preAsked = true ∧ sAsked.cur.frozen = false ∧
    sAsked.atSavePoint = true := by decide +kernel

/-- Nothing of the lease is in flight. -/
def sQuiet : State := withLease fun l => { l with pre := .draining false }

theorem witness_SwapsAndKills_quiet : sQuiet.groupQuiet (sQuiet.groupOf sQuiet.cur) = true ∧ sQuiet.groupOf sQuiet.cur = [sQuiet.cur.id] ∧
    (match readAll [sQuiet.cur.id] sQuiet with | .ok _ => true | .error _ => false) = true ∧ sQuiet.cur.frozen = false ∧ s1.groupQuiet (s1.groupOf s1.cur) = false ∧ s1.cur.st ≠ .saved := by decide +kernel

theorem witness_SwapsAndKills_drain : sSaved.cur.st = .saved ∧ sSaved.cur.drained = false ∧ sSaved.cur.chin = none ∧
    sSaved.poolRoom sSaved.cur.part ((sSaved.cur.imgKib + 1023) / 1024) = some 0 ∧ sSaved.cur.id ∈ sSaved.groupOf sSaved.cur ∧
    ((sSaved.groupOf sSaved.cur).filterMap sSaved.lease?).findSome? sSaved.badShadow = none ∧
    (let s : State := { sSaved with badGran := [shadowKey 0 0 0 / 64] }
     (((s.groupOf s.cur).filterMap s.lease?).findSome? s.badShadow).isSome = true) ∧
    (sSaved.part 0).pstate = 0 ∧ (sHalt.part 0).pstate ≠ 0 ∧
    (let s := withPart {} { lease1 with st := .saved, imgKib := 5 }
     s.cur.st = .saved ∧ s.poolRoom s.cur.part ((s.cur.imgKib + 1023) / 1024) = none) := by decide +kernel

def sServe : State := { sDrained with queues := [(0, [image1])] }

theorem witness_SwapsAndKills_restore : s1.candidate = none ∧ sServe.cur.st ≠ .free ∧
    (∃ x, sServe.candidate = some x ∧ (decide (x.1.image = some sServe.cur.id) && (groupPlots x.2.2.2.1 x.2.2.2.2 (sServe.imageOffsets sServe.cur.id)).isSome &&
      !sServe.shadowBusy x.2.2.1 ((groupPlots x.2.2.2.1 x.2.2.2.2 (sServe.imageOffsets sServe.cur.id)).getD [])) = true) ∧
    sServe.groupOf sServe.cur = [sServe.cur.id] ∧ sServe.hasFaults sServe.cur.id = false ∧ sServe.cur.ct.wait ≠ .sent := ⟨by decide +kernel, by decide +kernel, some_of (by decide +kernel), by decide +kernel⟩

/-- A saved image of the region waits, at a higher priority, for the plots of the lease in focus. -/
def sYield : State := { sReg with rest := [{ sDrained.cur with id := 2 }], queues := [(7, [{ image1 with image := some 2 }])] }

theorem witness_RegionWordsAndEnds_yield : CtStarts t0 [] 0 sYield (begun t0 sYield) ∧ (begun t0 sYield).yieldTo = true :=
  ⟨starts_of (by decide +kernel), by decide +kernel⟩

def sOther : State := { sReg with queues := [(0, [{ part := 0, task := 1, rcb := 0x20000, kernel := 0x21000, args := 9 }])] }

theorem witness_SwapsAndKills_other :
    ∃ x, ({ sServe with cur := lease2 0, rest := [sServe.cur] } : State).candidate = some x ∧ (decide (x.1.image ≠ some (lease2 0).id)) = true :=
  some_of (by decide +kernel)

theorem witness_SwapsAndKills_commands : sReg.vfOff 0 = false ∧ (sReg.part 0).ctxBusy = false ∧ (sReg.attached 0 0x20000).isSome = true ∧
    (sReg.part 0).pstate = 0 ∧ (sDrained.part 0).pstate = 0 ∧
    sReg.attached 0 0x7000 = none ∧ sReg.cur.part = 0 ∧ sReg.cur.st = .running ∧ sReg.cur.prologue = false ∧ sReg.cur.chin = none ∧
    sReg.cur.pre = .none ∧ (sReg.part 0).below 0x20000 sReg.cur.rcb = true ∧ sReg.savedBelow 0 0x20000 = [] ∧
    (sReg.part 0).rcbkBusy = false ∧ sDrained.savedBelow 0 0x20000 = [sDrained.cur] ∧
    (let w := sDrained.onPart 0 fun q => { q with ctxCount := 0 }
     w.imageOk sDrained.cur = true ∧ w.mapFits (w.imageOffsets sDrained.cur.id) = true) := by decide +kernel

/-- A header with a prologue of one word at 0x800. -/
def headerPro : List Byte := packLe [(0x59484B48, 4), (0x0100, 2), (0, 2), (4096, 4), (0, 4), (8, 1), (0, 3), (1, 2), (1, 2), (0, 2), (8, 1), (8, 1), (8, 1),
    (0, 3), (0, 8), (0, 4), (0, 4), (0x800, 4), (8, 4), (0, 8), (0, 60), (0xD810AF21, 4)]

/-- Ring 0 of 16 packets at 0x50000 expects packet 0, of this TYPE and kernel, whose header these bytes are. -/
def sHr (type kernel bits : Nat) (hdr : List Byte) : State :=
  let s := withPart { rings := [(0, { base := 0x50000, ctl := 0x80000004 })] } lease1
  { s with mem := writeBytes (writeBytes s.mem 0x50000 (packLe [(1 + bits * 4, 3), (type, 1), (0, 4), (kernel, 8)])) kernel hdr }

def fullQueues (s : State) : State := { s with queues := [(0, List.replicate 4096 { part := 0, task := 1, rcb := 0, kernel := 0, args := 0 })] }

def hrB (s : State) : Bool := s.ringFree 0 0 && s.accepts 0 0

theorem witness_LaunchesAndRings_packets : (∀ s ∈ [sHr 1 0x21000 0 [], sHr 1 0x23000 0 [], sHr 1 0x7000 0 [], sHr 0 0 0 [], sHr 9 0 0 [],
      fullQueues (sHr 1 0x21000 0 []), sHr 1 0x21000 1 []], hrB s = true) ∧ hrB sReg = false := by decide +kernel

/-- The packet can be read; that of a ring in a host page without a translation cannot, nor one whose granule has an error. -/
theorem witness_LaunchesAndRings_read : (∀ n ∈ [8, 40, 128], ∀ s ∈ [sHr 1 0x21000 0 [], sHr 0 0 0 [], sHr 9 0 0 []],
      (s.readPacket 0 0 n).1 = true ∧ (((s.readPacket 0 0 n).2.unitTouch (coreUnit 0) 0 0x21000 128).part 0).pstate = 0 ∧
        (({ s with badGran := [0x50000 / 64] } : State).readPacket 0 0 n).1 = false) ∧
    (let s : State := { sHr 1 0x21000 0 [] with badGran := [0x21000 / 64] }
     (s.readPacket 0 0 128).1 = true ∧ (((s.readPacket 0 0 128).2.unitTouch (coreUnit 0) 0 0x21000 128).part 0).pstate ≠ 0) ∧
    (let s := withPart { rings := [(0, { base := 0x8000000000050000, ctl := 0x80000004 })] } lease1
     (s.readPacket 0 0 128).1 = false) := by decide +kernel

/-- A ring waits for the translation of its READ; a ring whose READ lies in HBM does not. -/
theorem witness_LaunchesAndRings_arming : (let s := withPart { rings := [(0, { ctl := 0x80000004, arming := true })] } lease1
     (s.ring 0 0).en = true ∧ (s.ring 0 0).arming = true) ∧ ((sHr 0 0 0 []).ring 0 0).arming = false ∧
    (s1.busReady 0 false 0x40 8).1 = true ∧ (s1.busReady 0 true 0x40 8).1 = false := by decide +kernel

theorem witness_LaunchesAndRings_fields : ((sHr 1 0x21000 0 []).packetOrigin 0 0).kernel = 0x21000 ∧
    ((sHr 1 0x23000 0 []).packetOrigin 0 0).kernel = 0x23000 ∧ ((sHr 1 0x7000 0 []).packetOrigin 0 0).kernel = 0x7000 ∧
    (sHr 1 0x21000 0 []).packetType 0 0 = 1 ∧ (sHr 0 0 0 []).packetType 0 0 = 0 ∧ (sHr 9 0 0 []).packetType 0 0 = 9 ∧
    (sHr 1 0x21000 0 []).packetClean 0 0 = true ∧ (sHr 1 0x21000 1 []).packetClean 0 0 = false ∧ (sHr 1 0x21000 0 []).queueRoom 0 = true ∧
    (fullQueues (sHr 1 0x21000 0 [])).queueRoom 0 = false := by decide +kernel

theorem witness_LaunchesAndRings_header : ∃ h, (sHr 1 0x21000 0 headerBytes).header 0 0x21000 = some h ∧ decide (h.prolog = 0) = true :=
  some_of (by decide +kernel)

theorem witness_LaunchesAndRings_prologue : ∃ h, (sHr 1 0x23000 0 headerPro).header 0 0x23000 = some h ∧ decide (h.prolog ≠ 0) = true :=
  some_of (by decide +kernel)

theorem witness_LaunchesAndRings_none : (sHr 1 0x7000 0 []).header 0 0x7000 = none := by decide +kernel

def hr1 : HostRing := { base := 0x50000, ctl := 0x80000004, again := [{ kernel := 0x23000 }] }
def sAgain (active : Bool) : State := withPart { rings := [(0, { hr1 with active := active })] } lease1

theorem witness_LaunchesAndRings_rings : (stateOf { lease1 with prologue := true }).cur.st = .running ∧
    (stateOf { lease1 with prologue := true }).cur.prologue = true ∧ ((sAgain false).ring 0 0).again = [{ kernel := 0x23000 }] ∧
    ((sAgain true).ring 0 0).active = true ∧ ((sAgain false).part 0).pstate = 0 ∧ (sAgain false).vfOff 0 = false ∧
    ((sAgain false).ring 0 0).en = true ∧ (s1.ring 0 0).en = false ∧ (s1.ring 0 0).again = [] ∧ (4 ≤ (4 : W64).toNat % 32) ∧
    (3 : W64).toNat % 32 < 4 := by decide +kernel

theorem witness_LaunchesAndRings_grant : (∃ x, sOther.candidate = some x ∧
      (x.1.image.isNone && (sOther.header x.1.part x.1.kernel).isSome && (sOther.part x.1.part).freeGroup.isSome) = true) ∧
    (∀ l ∈ sOther.cur :: sOther.rest, l.id ≠ sOther.nextLease) ∧ (withPart { vfFrozen := true } lease1).part 0 = { vfFrozen := true, pxbase := 0x10000 } :=
  ⟨some_of (by decide +kernel), by decide +kernel⟩

def sInv : State := { withPart { tlbBusy := true, tlbBarrier := [3] } lease1 with reqs := [req1] }

theorem witness_TranslationServices : s1.vfOff 0 = false ∧ (s1.part 0).tlbBusy = false ∧ (sInv.part 0).tlbBusy = true ∧
    (∃ r ∈ sInv.reqs, r.num ∈ (sInv.part 0).tlbBarrier ∧ r.back = false) ∧ (∀ r ∈ ({ sInv with reqs := [{ req1 with back := true }] } : State).reqs, r.back = true) ∧ sInv.ratoms = [] ∧
    (5, 0) ∈ ((withPart { ats := [(5, 0)] } lease1).part 0).ats ∧ (5, 1) ∈ ((withPart { ats := [(5, 1)] } lease1).part 0).ats ∧
    (5, 0) ∉ (s1.part 0).ats ∧ s1.leafAddr 0 (2 ^ 40) = none ∧ s1.leafAddr 0 5 = some 0x10000 ∧ (s1.part 0).faultOpen = [] ∧
    sget 0 0 (s1.part 0).migr = 0 ∧ (∀ k ∈ [1, 2, 3], sget 0 0 ((withPart { migr := [(0, k)] } lease1).part 0).migr = k) := by decide +kernel

/-! ## Links, lists, debug, firmware and the outside -/

def hdr (seq kind : Nat) : BitVec 32 := BitVec.ofNat 32 (seq * 2 ^ 20 + 4095 * 2 ^ 8 + kind)
def modDown : Module := { up := false }
def flit1 : LinkEnd := { replay := [(0, [1])], nextSeq := 1 }
def sLinks (m : Module) : State := { s1 with links := [(0, m)], datum := 5000 }

/-- A DATA, a NAK, an IDLE and a RETRAIN flit without messages, and one of no kind, each with the CRC of its bytes. -/
theorem witness_LinksAndRemoteAtomics_links : ((sLinks modDown).moduleOf 0).up = false ∧ (s1.moduleOf 0).up = true ∧
    (∀ k ∈ [0, 1, 2, 3, 4, 5], hdrKind (hdr 0 k) = k) ∧ hdrSeq (hdr 0 1) = 0 ∧ hdrSeq (hdr 7 1) = 7 ∧
    flitCrc (hdr 0 1) [] = BitVec.ofNat 32 (crc32 (leBytes (hdr 0 1).toNat 4 ++ List.replicate 60 0)) ∧ (0 : BitVec 32) ≠ flitCrc (hdr 0 1) [] ∧
    (((s1.offWire 0 true (hdr 0 1) []).moduleOf 0).receiver true).expect = 0 ∧
    ((sLinks { b := flit1 }).moduleOf 0).up = true ∧ ((sLinks { b := flit1 }).moduleOf 0).b.replay ≠ [] ∧
    ((sLinks { b := flit1 }).moduleOf 0).b.fresh = false ∧
    ((sLinks { b := flit1 }).moduleOf 0).b.timer + 4096 ≤ (sLinks { b := flit1 }).datum ∧ flit1.replay ≠ [] ∧ ({} : LinkEnd).replay = [] ∧
    ((sLinks { retraining := some 7 }).moduleOf 0).retraining = some 7 ∧ (s1.moduleOf 0).retraining = none ∧
    ((s1.moduleOf 0).a.queue = [] ∧ (s1.moduleOf 0).a.replay = [] ∧ (s1.moduleOf 0).a.wire = []) := by decide +kernel

/-- Every module between dies 0 and 1 is down. -/
def sCut : State := { s1 with links := match edgeIdx 0 1 with | some e => (List.range 8).map fun k => (e * 8 + k, modDown) | none => [] }

def around : List Nat := [0, 4, 5, 1]

theorem witness_LinksAndRemoteAtomics_detour : pathUp s1 (dieRoute 0 1) = true ∧ pathUp sCut (dieRoute 0 1) = false ∧
    pathUp sCut around = true ∧ sCut.upHops 0 1 = some (around.length - 1) := by decide +kernel

def ratom1 : RatomReq := { num := 7, lease := 1, part := 0, aid := 6, req := 0, cmd := 0, elem := 0, key := 0x30000, home := 0, size := 8, op := 2,
                           data := 1, cmp := 0, guarded := true, sends := 1, answered := 0, lastSend := 0, toHome := 1, results := [] }
def sRatom (r : RatomReq) (stop : Option StopRec) (cs : List Cmd) : State :=
  { withLease (fun l => { l with cmds := cs, sd := { l.sd with stop := stop } }) with ratoms := [r], datum := 20000 }
def cmdR : Cmd := { seq := 0, stream := .sd, kind := .ratom, dst := hGloInt, src := hGloInt, aux := hIdx, total := 3 }
def win1 : Window := { slice := 0, part := 0, pkg := 0, aid := 6, results := [(0, (64, 5))] }

theorem witness_LinksAndRemoteAtomics : (s1.ratoms.find? fun r => r.num % 2 ^ 32 = 7 % 2 ^ 32) = none ∧
    (s1.foreign.find? fun r => r.num % 2 ^ 32 = 7 % 2 ^ 32) = none ∧
    (({ s1 with foreign := [ratom1] } : State).foreign.find? fun r => r.num % 2 ^ 32 = 7 % 2 ^ 32) = some ratom1 ∧
    ((sRatom ratom1 none [cmdR]).ratoms.find? fun r => r.num % 2 ^ 32 = 7 % 2 ^ 32) = some ratom1 ∧ ratom1.guarded = true ∧
    ({ ratom1 with guarded := false, toHome := 1 } : RatomReq).toHome ≠ 0 ∧ ({ ratom1 with pkg := 2 } : RatomReq).pkg ≠ 0 ∧
    (sRatom ratom1 none [cmdR]).cur.id = ratom1.lease ∧ (sRatom ratom1 none [cmdR]).cur.st ≠ .free ∧ ratom1.results = [] ∧
    ratom1.refused = false ∧ ratom1.haveResult = false ∧ ratom1.refusal = none ∧
    ({ ratom1 with results := [3] } : RatomReq).results ≠ [] ∧ (sRatom ratom1 none []).cur.cmd? 0 = none ∧
    (sRatom ratom1 none [cmdR]).cur.cmd? 0 = some cmdR ∧ ({ ratom1 with haveResult := true } : RatomReq).haveResult = true ∧
    cmdR.idxs.contains (ratom1.elem : Int) = false ∧ ((sRatom ratom1 none [cmdR]).cur.stream cmdR.stream).stop = none ∧
    ((sRatom ratom1 none [cmdR]).cur.stream cmdR.stream).retry = none ∧
    ((sRatom ratom1 (some stop5) [cmdR]).cur.stream cmdR.stream).stop.isSome = true ∧
    cmdR.imm / 4 % 2 = 0 ∧ ratom1.lastSend + 16384 ≤ (sRatom ratom1 none [cmdR]).datum ∧ ratom1.sends < 8 ∧ ratom1.pkg = 0 ∧
    8 ≤ ({ ratom1 with sends := 8 } : RatomReq).sends := by decide +kernel

/-- A refusal of element 0 has come back, with its cause. -/
def ratomNo : RatomReq := { ratom1 with refused := true, refusal := some (.remoteUnreachable, [0, 0, 0, 0]) }
/-- A FETCH, whose old value goes to the window. -/
def cmdFetch : Cmd := { cmdR with imm := 4, dst := hFp }

theorem witness_LinksAndRemoteAtomics_refusal : (ratomNo.results = [] ∧ ratomNo.refused = true ∧ ratomNo.haveResult = false ∧
      ratomNo.refusal = some (.remoteUnreachable, [0, 0, 0, 0])) ∧
    cmdFetch.imm / 4 % 2 = 1 ∧ NoLog (sRatom { ratom1 with results := [3] } none [cmdFetch]) ∧
    (∃ v, cmdFetch.scratchCheck .write (granulesOf (elemAt cmdFetch.dst 0 8).toNat 8)
      ((sRatom { ratom1 with results := [3] } none [cmdFetch]).unretry cmdFetch) = .ok v ∧ true = true) :=
  ⟨by decide +kernel, by decide +kernel, noLog_of (by decide +kernel), ok_of (by decide +kernel)⟩

/-- The window of the request's source at slice 0 stands, or all 256 windows of the slice are other sources'. -/
def sWin (n : Nat) : State := { sRatom ratom1 none [cmdR] with windows := List.replicate n { win1 with aid := 9 } }

/-- A load of s5 whose line is on the host link. -/
def lostReq : Req :=
  { num := 1, lease := 1, aid := 4, part := 0, die := 0, kind := .load, va := 0, key := 0, size := 8, dreg := 5, back := true, onLink := true, due := 9 }

theorem witness_LinksAndRemoteAtomics_reset : ({ s1 with reqs := [lostReq] } : State).reqs = [lostReq] ∧
    (lostReq.back = true ∧ lostReq.onLink = true ∧ s1.datum < lostReq.due ∧ lostReq.dreg ≠ 0) ∧ lostReq.lease = s1.cur.id ∧
    s1.cur.st ≠ .free ∧ s1.reqs = [] := by decide +kernel

theorem witness_LinksAndRemoteAtomics_windows :
    (∃ old, (windowed 0 0 0 6 0 ratom1.perform (sWin 0)).1 = .result old) ∧ (windowed 0 0 0 6 0 ratom1.perform (sWin 256)).1 = .full ∧
    (windowed 0 0 0 6 0 (fun s => (none, s)) (sWin 0)).1 = .refused ∧ (ratom1.perform (sWin 0)).1.isSome = true ∧
    [win1].find? (fun w => w.isOf 0 0 0 6) = some win1 ∧
    win1.results.find? (fun e => e.1 = 64 % 64 && e.2.1 = 64) = some (0, (64, 5)) ∧
    win1.results.find? (fun e => e.1 = 1 % 64 && e.2.1 = 1) = none ∧ (∀ w ∈ (sWin 256).windows, w.isOf 0 0 0 6 = false) ∧
    256 ≤ ((sWin 256).windows.filter fun w => w.slice = 0).length := by
  refine ⟨?_, by decide +kernel⟩
  have h : (match (windowed 0 0 0 6 0 ratom1.perform (sWin 0)).1 with | .result _ => true | _ => false) = true := by decide +kernel
  revert h
  cases (windowed 0 0 0 6 0 ratom1.perform (sWin 0)).1 with
  | result old => exact fun _ => ⟨old, rfl⟩
  | _ => simp

/-- Row 3 of a weight load is on the host link when it resets, due later. -/
theorem witness_LinksAndRemoteAtomics_load : (let s := withLease fun l => { l with load := some { t := 0, g := hWts, out := [(3, 9)], onLink := [3] } }
     s.cur.st ≠ .free ∧ ∃ x, s.cur.load = some x ∧ ∃ o ∈ x.out, o.1 ∈ x.onLink ∧ s.datum < o.2) := ⟨by decide +kernel, _, rfl, (3, 9), by decide, by decide⟩

/-- A descriptor at 0x52000 of one list of eight items and one producer. -/
def sSet (mode q flags sealed : Nat) : State :=
  { s1 with mem := writeBytes pageMem 0x52000 (packLe [(mode, 1), (q, 1), (1, 2), (1, 2), (1, 2), (8, 4), (flags, 4), (0x53000, 8), (0x53400, 8),
      (0x53800, 8), (if mode = 1 then 0x53C00 else 0, 8), (4, 4), (0, 4), (sealed, 2)]),
            wl := [(0, [.seal 0 0x52000 4, .item 0 0x52000 4 0 9 0 false, .take 0 0x52000 1 0 0 4])] }

theorem witness_ListsAndBatching_ingress : (∀ k ∈ [0, 1, 2], ∀ m ∈ sget [] 3 (sSet 0 0 0 0).wl, m.rank ≠ k) ∧
    sget [] 0 (sSet 0 0 0 0).wl = [.seal 0 0x52000 4] ++ .item 0 0x52000 4 0 9 0 false :: [.take 0 0x52000 1 0 0 4] ∧
    (∀ m ∈ [WlMsg.seal 0 0x52000 4], m.rank ≠ 0) ∧ sget [] 0 (sSet 0 0 0 0).wl = [] ++ .seal 0 0x52000 4 :: [.item 0 0x52000 4 0 9 0 false, .take 0 0x52000 1 0 0 4] ∧
    (∀ m ∈ [WlMsg.seal 0 0x52000 4, .item 0 0x52000 4 0 9 0 false], m.rank ≠ 2) ∧
    sget [] 0 (sSet 0 0 0 0).wl = [.seal 0 0x52000 4, .item 0 0x52000 4 0 9 0 false] ++ .take 0 0x52000 1 0 0 4 :: [] := by decide +kernel

theorem witness_ListsAndBatching_sets : (∀ s ∈ [sSet 0 0 0 0, sSet 0 1 0 0, sSet 1 0 0 0, sSet 0 0 0 1], s.inHbm 0 0x52000 64 = true ∧
      s.dsc 0 0x52000 0x0C 4 % 2 = 0 ∧ wlBad s 0 0x52000 = false) ∧ 0x52000 % 64 = 0 ∧ 0x52001 % 64 ≠ 0 ∧
    (sSet 0 0 1 0).dsc 0 0x52000 0x0C 4 % 2 = 1 ∧ (sSet 0 0 0 0).dsc 0 0x52000 0 1 = 0 ∧ (sSet 1 0 0 0).dsc 0 0x52000 0 1 = 1 ∧
    (sSet 0 1 0 0).dsc 0 0x52000 1 1 = 1 ∧ (sSet 0 0 0 0).dsc 0 0x52000 0x38 2 ≠ (sSet 0 0 0 0).dsc 0 0x52000 4 2 ∧
    (sSet 0 0 0 1).dsc 0 0x52000 0x38 2 = (sSet 0 0 0 1).dsc 0 0x52000 4 2 ∧ (sSet 0 0 0 1).dsc 0 0x52000 1 1 ≠ 1 := by decide +kernel

/-- A topology table of set 0x52000 is being written, five entries to go. -/
def build1 : TopoBuild := { part := 0, desc := 0x52000, left := List.replicate 5 (0, 0, 0) }
def sBuild : State := { sSet 1 0 0 1 with wlBuilds := [build1] }

theorem witness_ListsAndBatching_build : (sBuild.wlBuilds.find? fun x => x.part = build1.part && x.desc = build1.desc) = some build1 ∧
    4 < build1.left.length ∧ (sSet 1 0 0 1).wlBuilds = [] ∧ (sSet 1 0 0 1).dsc 0 0x52000 0 1 = 1 ∧
    (sSet 1 0 0 1).dsc 0 0x52000 0x38 2 = (sSet 1 0 0 1).dsc 0 0x52000 4 2 := by decide +kernel

def sBat (q : Batcher) : State := withPart { batchers := [(0, { q with addr := 0x60000 })] } lease1

theorem witness_ListsAndBatching : ((sBat { stage := 2 }).batcher 0 0).stage = 2 ∧ ((sBat {}).batcher 0 0).stage ≠ 2 ∧
    ((sBat {}).batcher 0 0).en = false ∧ ((sBat { en := true, done := 1 }).batcher 0 0).done = 1 ∧
    ((sBat { en := true, done := 1 }).batcher 0 0).en = true ∧ ((sBat { en := true, done := 1 }).batcher 0 0).stage = 0 ∧
    (sBat {}).vfOff 0 = false ∧ (sBat {}).unitLe 0 0x60020 8 = 0 := by decide +kernel

theorem witness_ListsAndBatching_stages : (∀ q ∈ [{ en := true, stage := 1 }, { en := true, done := 1 }], ((sBat q).batcher 0 0).state ≠ 2 ∧
      (((sBat q).unitTouch (batchUnit 0) 0 0x60000 256).part 0).pstate = 0) ∧
    (({ sBat { en := true, stage := 1 } with badGran := [0x60000 / 64] } : State).unitTouch (batchUnit 0) 0 0x60000 256 |>.part 0).pstate ≠ 0 ∧
    ((sBat { claim := some 3 }).batcher 0 0).claim = some 3 ∧ ((sBat {}).batcher 0 0).claim = none ∧
    ((sBat { en := true, state := 2 }).batcher 0 0).state = 2 := by decide +kernel

/-- A descriptor may be read; one whose granule has an error halts its partition. -/
theorem witness_ListsAndBatching_touch : (((sSet 0 0 0 0).dscTouch 0 0x52000).part 0).pstate = 0 ∧
    ((({ sSet 0 0 0 0 with badGran := [0x52000 / 64] } : State).dscTouch 0 0x52000).part 0).pstate ≠ 0 := by decide +kernel

/-- The debug registers name AID 4, CT of the lease in focus. -/
def sDbg (d : Debug) (f : Lease → Lease) : State := withPart { dbg := { d with tgt := 4 } } (f lease1)
def sDump : State := sDbg { stopped := true, reason := 1, pend := 0, dumpCopy := List.replicate 64 0 } fun l => { l with frozen := true }

theorem witness_DebugStops : (sDbg {} id).targetOf 0 = some lease1 ∧ (withPart {} lease1).targetOf 0 = none ∧ ((sDbg {} id).dbg 0).busy = false ∧
    ((sDbg { pend := 1 } id).dbg 0).busy = true ∧ (sDbg {} id).vfOff 0 = false ∧ ((sDbg {} id).dbg 0).stopped = false ∧
    lease1.frozen = false ∧ sDump.targetOf 0 = some sDump.cur ∧ (sDump.dbg 0).busy = false ∧ (sDump.dbg 0).stopped = true ∧
    sDump.groupOf sDump.cur = [sDump.cur.id] ∧ sDump.cur.frozen = true ∧ sDump.cur.st ≠ .free ∧ sDump.dumpKept 0 [sDump.cur.id] = true ∧
    ((sDbg { pend := 1, who := 1 } id).dbg 0).pend ≠ 0 ∧ (sDbg { pend := 1, who := 1 } id).lease? 1 = some lease1 ∧
    (sDbg { pend := 1, who := 9 } id).lease? 9 = none ∧ lease1.st = .running ∧ (sDbg {} id).groupOf lease1 = [1] ∧
    (let t := { lease1 with st := .saved }
     (stateOf t).groupOf t = [1] ∧ (stateOf t).lease? 1 = some t ∧ t.st ≠ .running ∧ t.st ≠ .parked ∧ t.st ≠ .halted ∧ t.st ≠ .retired) ∧
    (sDbg { armed := true, ctl := 0x14 } id).targetOf 0 = some lease1 ∧ ((sDbg { armed := true, ctl := 0x14 } id).dbg 0).ctl.getLsbD 4 = true := by
  decide +kernel

/-- A command of the frozen group stands inside its segment. -/
def sMoving : State := sDbg { pend := 1, who := 1, edge := some 3 } fun l =>
  { l with frozen := true, cmds := [{ seq := 0, stream := .ld, kind := .copy, offset := 512, total := 4096 }] }

theorem witness_DebugStops_moving : lease1.cmds = [] ∧ sMoving.lease? 1 = some sMoving.cur ∧ sMoving.cur.frozen = true ∧
    sMoving.cur.st ≠ .halted ∧ sMoving.cur.st ≠ .retired ∧ (sMoving.dbg 0).edge = some 3 ∧ nbits (sMoving.dbg 0).pend 6 4 = 0 ∧
    sMoving.movesHeld (sMoving.groupOf sMoving.cur) = false ∧ (sDump.dbg 0).edge = none := by decide +kernel

def sReplay : State := regionState (fun l => { l with replay := some [] })
  fun q => { q with dbg := { dumps := [(0x70000, ([{ lease1 with rcb := 0x20000 }], []))] } }

theorem witness_DebugStops_replay : ((sReplay.dbg 0).dumps.find? fun e => e.1 = (0x70000 : W64).toNat / 64 * 64) =
      some (0x70000, ([{ lease1 with rcb := 0x20000 }], [])) ∧ ((s1.dbg 0).dumps.find? fun e => e.1 = (0x70000 : W64).toNat / 64 * 64) = none ∧
    sReplay.vfOff 0 = false ∧ (match (dumpStarts [{ lease1 with rcb := 0x20000 }] 0).map (sReplay.fromDump 0x70000) with
      | [f] => (sReplay.part 0).replayGroups [f.aid / 4] = some [1] && (sReplay.attached 0 f.rcb).isSome
      | _ => false) = true ∧ sReplay.attached 0 0 = none ∧
    (sReplay.leases.find? fun l => l.part = 0 && l.replay.isSome && !l.frozen && (l.st = .running || l.st = .parked)) = some sReplay.cur ∧
    (s1.leases.find? fun l => l.part = 0 && l.replay.isSome && !l.frozen && (l.st = .running || l.st = .parked)) = none := by decide +kernel

/-- The page's key slot is not the partition's. -/
def sForeign : State := { s1 with mem := writeLe [] 0x10000 0xE005000000000000 8 }
def sPeer : State := withPart { peers := [(0, 2 ^ 63 + 2 ^ 62 + 2 ^ 61 + 2 ^ 48)] } lease1

theorem witness_FirmwareAndHealth : s1.cur.part = 0 ∧ s1.cur.st ≠ .free ∧ s1.fw.missed < 3 ∧
    (3 ≤ ({ s1 with fw := { missed := 3 } } : State).fw.missed ∧ ({ s1 with fw := { missed := 3 } } : State).fw.standbyFailed = false) ∧
    (({ s1 with fw := { written := 4 } } : State).fw.applied + 1 ≤ 4) ∧
    ((s1.datum % (1000 * s1.mhz) = 0 ∧ s1.fw.booted = false ∧ s1.fw.missed < 2) ∧ s1.datum % (3600 * 1000000 * s1.mhz) = 0) ∧
    30 < (0xFFFF000000000000 : W64).toNat / 2 ^ 48 ∧
    (0 : W64).toNat / 2 ^ 48 ≤ 30 ∧ (({ s1 with ageing := sset ageReset 1 (ageWord 0) s1.ageing } : State).logicalPlot 0 1).isSome = true ∧
    (∃ p, ({ s1 with scrubs := s1.scrubs + 1, retiredPages := [0] } : State).ownerOf 5 = some p ∧ true = true) ∧
    ({ State.reset with scrubs := 1, retiredPages := [0] } : State).ownerOf 5 = none ∧
    (isHostKey (1024 * 2 ^ 57) = true ∧ s1.lineOf (1024 * 2 ^ 57) ≠ 2) ∧ isHostKey 5 = false ∧ s1.lineOf 5 = 0 ∧
    (∀ n ∈ [1, 2], ({ s1 with hostLines := [(1024 * 2 ^ 57 / 128, n)] } : State).lineOf (1024 * 2 ^ 57) = n) ∧ (5 : Nat) < 2 ^ 80 ∧
    s1.quiescent = true ∧ (withPart { rings := [(0, { active := true })] } lease1).quiescent = false := by
  refine ⟨by decide +kernel, by decide +kernel, by decide +kernel, by decide +kernel, by decide +kernel, by decide +kernel, by decide +kernel,
    by decide +kernel, by decide +kernel, some_of (by decide +kernel), by decide +kernel⟩

theorem witness_HostAndFabric : s1.vfOff 0 = false ∧ (5 : Nat) % 8 ≠ 0 ∧ (0x30000 : W64).toNat % 8 = 0 ∧ (s1.part 0).pstate = 0 ∧ (sHalt.part 0).pstate ≠ 0 ∧
    (1, 4) ∈ ({ s1 with srcFrozen := [(1, 4)] } : State).srcFrozen ∧ (1, 4) ∉ s1.srcFrozen ∧ (sPeer.part 0).accepts 1 0 0 = true ∧
    (sPeer.part 0).accepts 1 0 1 = true ∧ (s1.part 0).accepts 1 0 0 = false ∧ (s1.part 0).accepts 1 0 1 = false ∧ s1.poolPages 0 ≤ 3 ∧
    (uRem .ld peer1 1).poolPages 0 = 2 := by decide +kernel

theorem witness_HostAndFabric_bar :
    (∃ t w, s1.translate 0 8 0x30000 .read false = (.ok t, w) ∧ (decide (t.tier ≠ 3) && !w.badAt t) = true) ∧
    (∃ t w, s1.translate 0 8 0x30000 .write false = (.ok t, w) ∧ (decide (t.tier ≠ 3) && !w.badAt t) = true) ∧
    (match sForeign.translate 0 8 0x30000 .write false with | (.fault c _ _, _) => decide (c = .isolation) | _ => false) = true :=
  ⟨tr_of (by decide +kernel), tr_of (by decide +kernel), by decide +kernel⟩

/-- A read of eight bytes is answered; an atomic with an entry waits for its slice. -/
theorem witness_HostAndFabric_far : ((farPerform 1 0 0 4 0 7 0x30000 8 0 [] sPeer).1).isSome = true ∧
    (farPerform 1 0 0 4 2 7 0x30000 8 0 [0, 0, 0, 0, 0, 0, 0, 0] sPeer).1 = none := by decide +kernel

/-- A lease that runs, one that a stop holds, and one that was paused. -/
theorem witness_ClockTick : s1.cur.active = true ∧ s1.cur.st = .running ∧ s1.cur.prologue = false ∧ s1.cur.frozen = false ∧ s1.cur.pause = false ∧
    s1.badGran = [] ∧ (withLease fun l => { l with pause := true }).cur.pause = true ∧
    (withLease fun l => { l with st := .halted }).cur.active = false := by decide +kernel

/-! ## Steps, encodings and memory -/

/-- The mc under way has CT's word to do, an LI that its cache holds. -/
def sLi (f : Lease → Lease) : State := { withLease fun l => f { l with code := [(0x20, 0x00002028000003E8)] } with turn := [.word 1 .ct] }

def stepsB (stop : Bool) (s : State) : Bool :=
  let f := ({ s with turn := [] } : State).focus 1
  let w := f.cur.ctWordAt
  let u := f.onCt fun c => { c with ir := w, begun := !stop }
  (s.lease? 1).isSome && f.ctMay && f.cur.ct.trapDue.isNone && decide (f.cur.codeFrom ≤ f.cur.ct.pc) && decide (f.cur.ct.pc < f.cur.codesize) &&
    f.cur.icache.contains f.cur.codeLine && (f.boundaryStop == stop) && !u.ctBroken && !f.cur.prologue &&
    (match decodeChecked f.cur.vregs .ct w with | .ok i => decide (i = .li t0 5 1000) | .error _ => false)

theorem witness_StepRunsDecodedWord : stepsB false (sLi id) = true ∧
    stepsB true (sLi fun l => { l with ct := { l.ct with trapCtl := 9, uivec := 0x200 } }) = true ∧
    (let s : State := { sLd with turn := [.word 1 .ld] }
     let f := ({ s with turn := [] } : State).focus 1
     (s.lease? 1).isSome = true ∧ f.streamRuns .ld = true ∧ (f.cur.stream .ld).ring.has = true ∧
      ({ f with curStream := .ld } : State).ringBroken .ld = false ∧ decodeChecked f.cur.vregs .ld (f.curWord .ld) = .ok (.lsNop t0)) ∧
    (∀ q ∈ s1.parts, q.2.dbg.ask = 0) := by decide +kernel

/-- A prologue whose word is an LI. -/
def sProLi : State :=
  { stateOf { lease1 with prologue := true, task := 0xFFFF, codeFrom := 0x100, codeTo := 0x110, code := [(0x20, 0x00002028000003E8)] } with
    turn := [.word 1 .ct] }

theorem witness_StepRunsDecodedWord_prologue :
    let f := ({ sProLi with turn := [] } : State).focus 1
    f.ctMay = true ∧ f.cur.ct.trapDue = none ∧ f.cur.codeFrom ≤ f.cur.ct.pc ∧ f.cur.prologue = true ∧ f.cur.ct.pc < f.cur.codeTo ∧
      decodePrologue f.cur.ctWordAt = .ok (.li t0 5 1000) ∧ f.boundaryStop = false := by decide +kernel

theorem witness_StepRunsDecodedWord_answers : (∃ x, exec (.li t0 5 1000) s1 = .next x) ∧ (∃ x, exec (.lsNop t0) sLd = .next x) ∧
    (∃ x, exec .heartbeat s1 = .next x) ∧ ∃ x, exec .mainClockTick s1 = .next x := ⟨⟨_, rfl⟩, ⟨_, rfl⟩, ⟨_, rfl⟩, ⟨_, rfl⟩⟩

theorem witness_EncodeDecodeRoundTrip : encode (.li t0 5 1000) = some (spaceOf .ct, 0x00002028000003E8) ∧ encodable .ct (.li t0 5 1000) = true ∧
    (Instr.li t0 5 1000).WF ∧ prologueOpcode (opcodeOf 0x00002028000003E8) = true ∧ tokOf 0x00002028000003E8 = ⟨0, 0⟩ ∧
    encode (.lgo t0) = some (.ct, 0x00005D0000000000) ∧ prologueOpcode (opcodeOf 0x00005D0000000000) = true := by decide +kernel

theorem witness_DecodedWordIsTheWord : decode .cp 0x0000130102030400 = .ok (.vfma t0 1 2 3 4) := by decide +kernel

theorem witness_StepKeepsMemory : State.reset.memOk = true ∧ ∃ t, step State.reset = .next t := ⟨by decide +kernel, ⟨_, rfl⟩⟩

theorem witness_ResetAndMemory : Memory.wf pageMem = true ∧ (5 : Nat) < 256 ^ 8 := by decide +kernel

end Sys2Proof.Tests
end

