-- ==== Sys2Proof/Tests/Slice0.lean ====
section
/-! SUPPORT. Tests/Slice0.lean: the decoding of a word of every instruction, the checks that refuse ill-formed words, and small
tests of single steps. Words and expected values are the spec's: its worked examples, and its format tables (02 R35, R42, R43,
R46, R48) with the fields of each entry. -/

namespace Sys2Proof.Tests

set_option Elab.async false

open Machine Claims

/-! ## Decoding -/

/-- Each word decodes to its instruction, passes the checks of its values, and is the word of the instruction. -/
def decodesTo (st : Stream) (xs : List (W64 × Instr)) : Bool :=
  xs.all fun x => decide (decodeChecked 64 st x.1 = .ok x.2 ∧ encode x.2 = some (spaceOf st, x.1))

theorem test_decode_ct_registers : decodesTo .ct [
    (0x0000000000000000, .ctNop t0),
    (0x0000013152000000, .add t0 6 5 9),
    (0x0000023152000000, .sub t0 6 5 9),
    (0x0000033152000000, .mul t0 6 5 9),
    (0x0000043152000000, .mulh t0 6 5 9),
    (0x0000053152000000, .mulhu t0 6 5 9),
    (0x0000063152000000, .div t0 6 5 9),
    (0x0000073152000000, .divu t0 6 5 9),
    (0x0000083152000000, .rem t0 6 5 9),
    (0x0000093152000000, .remu t0 6 5 9),
    (0x00000A3152000000, .and t0 6 5 9),
    (0x00000B3152000000, .or t0 6 5 9),
    (0x00000C3152000000, .xor t0 6 5 9),
    (0x00000D3152000000, .shl t0 6 5 9),
    (0x00000E3152000000, .shr t0 6 5 9),
    (0x00000F3152000000, .sra t0 6 5 9),
    (0x0000103152000000, .min t0 6 5 9),
    (0x0000113152000000, .max t0 6 5 9),
    (0x0000123152000000, .slt t0 6 5 9),
    (0x0000133152000000, .sltu t0 6 5 9),
    (0x0000143140000000, .clz t0 6 5),
    (0x0000153140000000, .popc t0 6 5)] = true := by decide +kernel

theorem test_decode_ct_immediates : decodesTo .ct [
    (0x0000163140000011, .sext t0 6 5 17),
    (0x0000173140000011, .zext t0 6 5 17),
    (0x0000183140000011, .addi t0 6 5 17),
    (0x0000193140000011, .andi t0 6 5 17),
    (0x00001A3140000011, .ori t0 6 5 17),
    (0x00001B3140000011, .xori t0 6 5 17),
    (0x00001C3140000011, .shli t0 6 5 17),
    (0x00001D3140000011, .shri t0 6 5 17),
    (0x00001E3140000011, .srai t0 6 5 17),
    (0x00001F3140000011, .slti t0 6 5 17),
    (0x00001818BFFFFFFB, .addi t0 3 2 (-5)),
    (0x00002028000003E8, .li t0 5 0x3E8),
    (0x00002128000003E8, .liwLo t0 5 0x3E8),
    (0x00002129000003E8, .liwHi t0 5 0x3E8)] = true := by decide +kernel

theorem test_decode_ct_transfers : decodesTo .ct [
    (0x000022317FFFFFFC, .beq t0 6 5 (-4)),
    (0x000023317FFFFFFC, .bne t0 6 5 (-4)),
    (0x000024317FFFFFFC, .blt t0 6 5 (-4)),
    (0x000025317FFFFFFC, .bge t0 6 5 (-4)),
    (0x000026317FFFFFFC, .bltu t0 6 5 (-4)),
    (0x000027317FFFFFFC, .bgeu t0 6 5 (-4)),
    (0x000028003FFFFFF9, .jmp t0 (-7)),
    (0x0000293000000009, .jal t0 6 9),
    (0x00002A3140000008, .jr t0 6 5 8),
    (0x00002BA03FFFFFFD, .brq t0 2 1 (-3)),
    (0x00002C29BFF40006, .loop t0 5 6 (-3) 6),
    (0x00002D0000000000, .endl t0)] = true := by decide +kernel

theorem test_decode_ct_memory : decodesTo .ct [
    (0x00002E1041A00008, .lds t0 2 1 0b11010 8),
    (0x00002F00CBA00000, .sts t0 3 5 0b11010 0),
    (0x00003020C5900008, .amo t0 4 3 2 0b11001 0 8),
    (0x00003120C5900008, .cas t0 4 3 2 0b11001 8)] = true := by decide +kernel

theorem test_decode_ct_handles : decodesTo .ct [
    (0x0000323140000003, .hset t0 6 5 3),
    (0x0000333140000003, .hget t0 6 5 3),
    (0x0000343140000000, .hmov t0 6 5),
    (0x0000353140000002, .hadv t0 6 5 2),
    (0x0000363152000002, .hview t0 6 5 9 2),
    (0x0000373000000000, .hclr t0 6),
    (0x0000388000000001, .issue t0 2 1),
    (0x0000398A00000000, .issuer t0 2 5),
    (0x00003A8850000000, .ringset t0 2 4 5)] = true := by decide +kernel

theorem test_decode_ct_objects : decodesTo .ct [
    (0x00003B0140200000, .acq t0 5 2 0),
    (0x00003C0240110000, .rel t0 9 1 1),
    (0x00003D0000100000, .fence t0 1 0),
    (0x00003E0180220000, .barg t0 6 2 2),
    (0x00003F010A610007, .bind t0 4 5 6 1 7),
    (0x0000400000010007, .unbind t0 1 7)] = true := by decide +kernel

theorem test_decode_ct_shapes : decodesTo .ct [
    (0x0000410000000024, .split t0 0 1 1),
    (0x0000420000001C68, .fuse t0 0 7 1 1 2),
    (0x0000430000000400, .chain t0 0 1 0 0),
    (0x0000430000001C20, .chain t0 0 7 0 1),
    (0x0000440000001C20, .unchain t0 0 7 0 1),
    (0x000045000000002C, .orient t0 1 3)] = true := by decide +kernel

theorem test_decode_ct_regions : decodesTo .ct [
    (0x000046310A000008, .spawn t0 6 4 5 8),
    (0x0000473100000000, .join t0 6 4),
    (0x0000480140000000, .kill t0 5),
    (0x0000480000010000, .killSelf t0),
    (0x0000492800000000, .quies t0 5 0),
    (0x00004A0100000003, .cbld t0 4 3),
    (0x00004B0100000005, .xload t0 4 5),
    (0x00004C0000000005, .xunld t0 5),
    (0x00004D010A000000, .bupd t0 4 5),
    (0x00004E010A000001, .affp t0 4 5 1)] = true := by decide +kernel

theorem test_decode_ct_counters : decodesTo .ct [
    (0x00004F2800000000, .rdcyc t0 5),
    (0x0000503000000000, .rdvc t0 6),
    (0x0000510000010000, .pcsel t0 1),
    (0x0000523800000017, .pcrd t0 7 0x17),
    (0x0000534900000005, .clkrd t0 9 4 5)] = true := by decide +kernel

theorem test_decode_ct_system : decodesTo .ct [
    (0x0000540000000007, .trap t0 7),
    (0x0000550000000000, .eret t0),
    (0x0000560000000000, .tren t0),
    (0x0000570000000000, .uiret t0),
    (0x0000585000000013, .csrr t0 10 0x13),
    (0x0000590240000020, .csrw t0 9 0x20),
    (0x00005A0000000000, .yield t0),
    (0x00005B0000000000, .endTask t0),
    (0x00005C0000001234, .tmark t0 0x1234)] = true := by decide +kernel

theorem test_decode_ld_copies : decodesTo .ld [
    (0x0000000000000000, .lsNop t0),
    (0x0000011201000000, .copy t0 1 2 1),
    (0x0000010204000000, .copyDq t0 0 2 0),
    (0x0000021238000000, .copyp t0 1 2 3 0 0),
    (0x0000031238100000, .gath t0 1 2 3 0 0 1),
    (0x0000050200000000, .pref t0 2 0),
    (0x0000060200000000, .flush t0 2 0),
    (0x0000070200000000, .inval t0 2 0),
    (0x0000080200000000, .dcmpf t0 2 0),
    (0x00000A1203000000, .rread t0 1 2 0 3),
    (0x00000C6588000007, .ratom t0 6 5 8 0 0 1 1 1),
    (0x00000D0038100005, .kvget t0 3 0 1 5),
    (0x00000F0200000004, .job t0 2 0 4),
    (0x0000100064030000, .lsRep t0 100 3),
    (0x0000110000000001, .outq t0 0 0 0 1),
    (0x0000121200100000, .wlapp t0 1 2 0 1),
    (0x0000131200105009, .wltake t0 1 2 0 1 5 9),
    (0x0000140200000003, .wlseal t0 2 0 3),
    (0x0000150000000051, .lsTmark t0 0x51)] = true := by decide +kernel

theorem test_decode_sd_copies : decodesTo .sd [
    (0x0004013700000000, .copy ⟨0x00, 0x04⟩ 3 7 0),
    (0x0000041238000000, .scat t0 1 2 3 0 0),
    (0x0000091202800000, .atomv t0 1 2 0 2 8),
    (0x00000B1203000000, .rwrite t0 1 2 0 3),
    (0x00000B1201100000, .rwriteWin t0 1 2 0 1),
    (0x00000E0038000005, .kvput t0 3 0 0 5),
    (0x0000110200100000, .outq t0 2 0 1 0)] = true := by decide +kernel

theorem test_decode_cp_array : decodesTo .cp [
    (0x0000000000000000, .cpNop t0),
    (0x0000010200000000, .mxld t0 2 0 0),
    (0x0000010200200000, .mxld t0 2 0 1),
    (0x0000020000000000, .mxswap t0),
    (0x000103540C000004, .mxmul ⟨0x00, 0x01⟩ 5 4 0 0xC0 4),
    (0x000004541C000004, .mxlut t0 5 4 1 0xC0 4),
    (0x0000050000030002, .mxcfg t0 0 0x30002),
    (0x000006541C000000, .mxbs t0 5 4 1 0xC0 0),
    (0x000007041C000004, .mxdrain t0 4 1 0xC0 4),
    (0x0000080010000000, .mxzero t0 1),
    (0x0000090010300005, .mxrd t0 1 3 5),
    (0x00000A0010300005, .mxwr t0 1 3 5),
    (0x00000B8000000010, .atPin t0 1 0x10),
    (0x00000B00000008F2, .atPin t0 0 0x8F2),
    (0x00000C0064030000, .cpRep t0 100 3),
    (0x00000D3400300001, .selk t0 3 4 3 1),
    (0x00000E0000050001, .cpTmark t0 0x50001)] = true := by decide +kernel

theorem test_decode_cp_floats : decodesTo .cp [
    (0x0000100102030000, .vadd t0 1 2 3),
    (0x0000110102030000, .vsub t0 1 2 3),
    (0x0000120102030000, .vmul t0 1 2 3),
    (0x0000130102030400, .vfma t0 1 2 3 4),
    (0x0401130501428000, .vfma ⟨0x04, 0x01⟩ 5 1 0x42 0x80),
    (0x0000140102030400, .vfms t0 1 2 3 4),
    (0x0000150102030400, .vfnma t0 1 2 3 4),
    (0x0000160102030000, .vmin t0 1 2 3),
    (0x0000170102030000, .vmax t0 1 2 3),
    (0x0000180102000000, .vabs t0 1 2),
    (0x0000190102000000, .vneg t0 1 2),
    (0x00001A0102030002, .vdiv t0 1 2 3 2),
    (0x00001B0102000000, .vsqrt t0 1 2),
    (0x00001C0102000000, .vrcp t0 1 2),
    (0x00001D0102000000, .vrsq t0 1 2),
    (0x00001E0102000000, .vexp2 t0 1 2),
    (0x00001F0102000000, .vlog2 t0 1 2),
    (0x0000200102000003, .vtab t0 1 2 3),
    (0x00002101020001FB, .vscale t0 1 2 (-5))] = true := by decide +kernel

theorem test_decode_cp_integers : decodesTo .cp [
    (0x0000220102030001, .viadd t0 1 2 3 1),
    (0x0000230102030002, .visub t0 1 2 3 2),
    (0x0000240102030001, .vimul t0 1 2 3 1),
    (0x0000250102030400, .vimad t0 1 2 3 4),
    (0x0000260102030000, .vand t0 1 2 3),
    (0x0000270102030000, .vor t0 1 2 3),
    (0x0000280102030000, .vxor t0 1 2 3),
    (0x0000290102000000, .vnot t0 1 2),
    (0x00002A0102030000, .vshl t0 1 2 3),
    (0x00002B0102030000, .vshr t0 1 2 3),
    (0x00002C0102030000, .vsra t0 1 2 3),
    (0x00002D0102030001, .vimin t0 1 2 3 1),
    (0x00002E0102030001, .vimax t0 1 2 3 1),
    (0x00002F0102030005, .vcmp t0 1 2 3 5),
    (0x0000300102030400, .vsel t0 1 2 3 4),
    (0x0000310102000000, .vclass t0 1 2)] = true := by decide +kernel

theorem test_decode_cp_moves : decodesTo .cp [
    (0x0000320605000420, .vcvt t0 6 5 1 2 0),
    (0x0000330102030428, .vpack t0 1 2 3 1 2 1),
    (0x0000340102010810, .vunpk t0 1 2 1 2 1 0),
    (0x0000350102000468, .vqnt t0 1 2 1 6 1),
    (0x0000360102001810, .vdeq t0 1 2 6 1 0),
    (0x0000370702000009, .vred t0 7 2 9),
    (0x0000380702000033, .vscan t0 7 2 0x33),
    (0x0000390102030010, .vperm t0 1 2 3 1),
    (0x00003A0102800FFF, .vrot t0 1 2 1 (-1)),
    (0x00003B0102800100, .vbcast t0 1 2 1 0x100),
    (0x00003C0102000FFF, .vslide t0 1 2 0 (-1)),
    (0x00003D010280FFFF, .vidx t0 1 2 1 (-1)),
    (0x00003E0602000002, .vpart t0 6 2 0 0 2),
    (0x00003F0102000000, .vmov t0 1 2),
    (0x0000400100FFFFFF, .vli t0 1 (-1)),
    (0x00004001013F8000, .vliHi t0 1 0x3F8000)] = true := by decide +kernel

theorem test_decode_cp_transfers : decodesTo .cp [
    (0x0000410101000005, .vtos t0 1 1 5),
    (0x0000420120000005, .vfrs t0 1 2 5),
    (0x0000430100000000, .vpop t0 1),
    (0x0000440100000000, .vpush t0 1),
    (0x0000450102000005, .vout t0 1 2 5),
    (0x0000460121000005, .vld t0 1 2 1 5),
    (0x0000470121000005, .vst t0 1 2 1 5),
    (0x0000480121000005, .cpWlapp t0 1 2 1 5),
    (0x0000E30102030405, .xop t0 3 1 2 3 4 5)] = true := by decide +kernel

/-- A launch prologue decodes its own words (02 R53, 11 R283). -/
theorem test_decode_prologue : decodePrologue 0x00005D0000000000 = .ok (.lgo t0) ∧ decodePrologue 0x00005E0000000000 = .ok (.lcancel t0) ∧
    decodePrologue 0x00005F0000000000 = .ok (.lrepeat t0) ∧ decodePrologue 0x00002028000003E8 = .ok (.li t0 5 1000) ∧
    decodePrologue 0x00002BA03FFFFFFD = .error .illegalOpcode ∧ decodePrologue 0x0100000000000000 = .error .reservedField := by decide +kernel

/-- Reserved opcodes, the wrong stream, reserved bits and fields that an entry requires to be zero (02 R39, R44, R47, R51). -/
theorem test_decode_refusals : decode .ct 0x0000600000000000 = .error .illegalOpcode ∧ decode .ld 0x0000160000000000 = .error .illegalOpcode ∧
    decode .cp 0x00000F0000000000 = .error .illegalOpcode ∧ decode .cp 0x0000490000000000 = .error .illegalOpcode ∧
    decode .sd 0x0000030008000000 = .error .illegalOpcode ∧ decode .ld 0x0000040008000000 = .error .illegalOpcode ∧
    decode .ct 0x00005D0000000000 = .error .privileged ∧ decode .ct 0x000003314A000001 = .error .reservedField ∧
    decode .ct 0x0000202A000003E8 = .error .reservedField ∧ decode .ct 0x00002029000003E8 = .error .illegalOperand ∧
    decode .ld 0x0000011210000000 = .error .reservedField ∧ decode .ld 0x0000021200000000 = .error .illegalOperand ∧
    decode .cp 0x0000320605000421 = .error .reservedField := by decide +kernel

/-- An MXBS to the data queue names its three handles all the same, one with FIN is refused (07 R170; the model's reading, log entry
69); a nonzero M where R140 lists only 0; a prologue's AMO of operation 9 or of bytes (02 R51-R53). -/
theorem test_decode_listed_values : decode .cp 0x000006541C400000 = .ok (.mxbs t0 5 4 1 0xC4 0) ∧
    decode .cp 0x000006541C080000 = .error .reservedField ∧ decode .cp 0x00002A0102030001 = .error .illegalOperand ∧
    decodePrologue 0x00003020C5990008 = .error .illegalOperand ∧ decodePrologue 0x00003020C4100008 = .error .illegalOperand := by decide +kernel

/-- A table word's stream index above bit 64 picks the stream (16 streams of 01 R16 in the order CT, LD, CP, SD). -/
theorem test_decodeTableWord : decodeTableWord 64 0x00002028000003E8 = some (.li t0 5 1000) ∧
    decodeTableWord 72 0x010000011200000000 = some (.copy t0 1 2 0) ∧ decodeTableWord 72 0x020000320605000420 = some (.vcvt t0 6 5 1 2 0) ∧
    decodeTableWord 64 0x0000600000000000 = none := by decide +kernel

/-! ## Ill-formed words -/

/-- Every value check of 02 R51 and R52 refuses a term that fails it. -/
def refuses (c : Cause) (xs : List Instr) : Bool := xs.all fun i => decide (WellFormed.check 64 i = some c)

theorem smoke_format : refuses .formatInvalid [
    .vcvt t0 3 1 6 1 0, .vpack t0 3 1 2 2 2 0, .vunpk t0 3 1 0 1 1 0, .vqnt t0 3 1 1 1 1, .vdeq t0 3 1 1 1 0, .mxcfg t0 0 0x30006] = true := by decide +kernel

theorem smoke_bounds : refuses .regBounds [
    .vadd t0 0x48 1 2, .vadd t0 3 0x48 2, .vfma t0 3 1 2 0x84, .mxwr t0 0 0x48 1, .xop t0 1 3 1 0 0 0x48] = true := by decide +kernel

theorem smoke_operand_a : refuses .illegalOperand [
    .vadd t0 0x80 1 2, .vli t0 0xC1 7, .vpop t0 0x81, .vld t0 0xC0 6 0 1, .mxrd t0 0 0x80 5, .xop t0 1 3 1 0 0 0x81, .sext t0 6 5 0,
    .zext t0 6 5 64, .shli t0 6 5 64, .shri t0 6 5 64, .srai t0 6 5 64, .brq t0 0 1 4, .loop t0 5 6 0 4, .loop t0 5 6 1 0,
    .lds t0 2 1 0b11100 8, .sts t0 1 2 0b11100 8, .amo t0 4 3 2 0b01000 0 8, .amo t0 4 3 2 0b11000 9 8, .cas t0 4 3 2 0b01000 8,
    .hset t0 16 5 0, .hget t0 6 16 0, .hmov t0 16 5, .hmov t0 5 16, .hadv t0 16 5 0, .hadv t0 6 5 3, .hview t0 16 5 9 0,
    .hview t0 6 16 9 0, .hclr t0 16, .issue t0 0 1, .issue t0 2 0, .issuer t0 0 5, .ringset t0 0 4 5, .acq t0 5 2 2, .rel t0 5 2 2,
    .fence t0 1 2, .barg t0 6 3 3, .barg t0 0 0 0, .barg t0 6 1 1, .barg t0 6 1 2, .bind t0 4 5 6 2 7] = true := by decide +kernel

theorem smoke_operand_b : refuses .illegalOperand [
    .unbind t0 2 7, .split t0 0 1 4, .fuse t0 0 0 0 1 4, .orient t0 1 4, .spawn t0 6 4 5 0, .spawn t0 6 4 5 1025, .cbld t0 4 32,
    .xload t0 4 32, .xunld t0 32, .bupd t0 16 5, .affp t0 4 5 2, .pcsel t0 2, .pcrd t0 7 0x1D, .pcrd t0 7 0x2C, .pcrd t0 7 0x4C,
    .clkrd t0 9 4 3, .endTask ⟨0x01, 0⟩, .endTask ⟨0, 0x40⟩, .gath t0 1 2 3 0 0 2, .atomv t0 1 2 0 0 11, .ratom t0 0 5 8 0 10 0 0 0,
    .kvget t0 3 0 2 5, .kvput t0 3 0 2 5, .job t0 2 0 0, .job t0 2 0 65, .lsRep t0 1 0, .cpRep t0 1 0, .outq t0 2 0 3 0,
    .wlapp t0 1 2 0 2, .wltake t0 1 2 0 2 5 9, .wltake t0 1 2 0 0 0 9, .mxld t0 2 1 1, .mxmul t0 5 4 0 0xC6 4, .mxmul t0 5 4 0 0xC0 0,
    .mxlut t0 5 4 0 0xC0 0, .mxcfg t0 0 0x40000, .mxbs t0 5 4 1 0x40 0, .mxbs t0 5 4 1 0x80 0, .mxbs t0 5 4 1 0xC6 0,
    .mxbs t0 5 14 1 0xC0 0] = true := by decide +kernel

theorem smoke_operand_c : refuses .illegalOperand [
    .mxdrain t0 4 1 0x80 4, .mxdrain t0 4 1 0xC0 0, .atPin ⟨0x01, 0⟩ 0 5, .atPin ⟨0, 0x01⟩ 0 5, .selk t0 3 4 0 1, .selk t0 3 4 17 1,
    .selk t0 3 15 3 1, .vdiv t0 3 1 2 3, .viadd t0 3 1 2 3, .visub t0 3 1 2 3, .vimul t0 3 1 2 3, .vimin t0 3 1 2 2, .vimax t0 3 1 2 2,
    .vcmp t0 3 1 2 0x18, .vcmp t0 3 1 2 7, .vcmp t0 3 1 2 0x0E, .vunpk t0 3 1 2 2 1 0, .vqnt t0 3 1 1 6 0, .vdeq t0 3 1 6 1 1,
    .vred t0 3 1 10, .vscan t0 3 1 6, .vbcast t0 3 1 0 128, .vtos t0 3 2 5, .vout t0 3 3 0, .vld t0 3 6 5 1, .vst t0 3 6 4 1,
    .cpWlapp t0 3 6 2 1] = true := by decide +kernel

theorem smoke_shape : refuses .shapeInvalid [
    .split t0 9 1 1, .fuse t0 0 7 9 1 2, .chain t0 0 1 9 0, .unchain t0 0 1 15 0] = true := by decide +kernel

/-- A designator beyond the granted registers is refused, and the same designator below them is not (02 R40, R62). -/
theorem smoke_granted : WellFormed.check 8 (.vadd t0 3 9 2) = some .regBounds ∧ WellFormed.check 16 (.vadd t0 3 9 2) = none := by decide +kernel

/-- Of several failed checks the first of 02 R52's order counts. -/
theorem smoke_order : WellFormed.check 64 (.vcvt t0 0x80 0x48 6 1 0) = some .formatInvalid ∧
    WellFormed.check 64 (.vadd t0 0x80 0x48 2) = some .regBounds ∧ WellFormed.check 64 (.split t0 9 1 4) = some .illegalOperand := by decide +kernel

/-! ## Single words of CT -/

/-- A register after the word i at s1 (s1 = 7, s2 = 0x40, s3 = −8, s4 = 0x30000). -/
def regAfter (i : Instr) (r : BitVec 5) : Option W64 := match exec i s1 with | .next v => some (v.reg r) | _ => none
/-- A field of the state after the word i at s. -/
def after {α : Type} (i : Instr) (s : State) (f : State → α) : Option α := match exec i s with | .next v => some (f v) | _ => none

/-- 05 R101: results wrap modulo 2^64; signed operations read int64. -/
theorem test_arithmetic : regAfter (.add t0 6 3 2) 6 = some 0x38 ∧ regAfter (.sub t0 6 1 2) 6 = some (-57) ∧ regAfter (.mul t0 6 3 3) 6 = some 64 ∧
    regAfter (.mulh t0 6 3 2) 6 = some (-1) ∧ regAfter (.mulhu t0 6 3 2) 6 = some 0x3F ∧ regAfter (.div t0 6 3 1) 6 = some (-1) ∧
    regAfter (.divu t0 6 3 2) 6 = some 0x03FFFFFFFFFFFFFF ∧ regAfter (.rem t0 6 3 1) 6 = some (-1) ∧ regAfter (.remu t0 6 3 1) 6 = some 1 := by
  decide +kernel

theorem test_logic : regAfter (.and t0 6 3 1) 6 = some 0 ∧ regAfter (.or t0 6 3 1) 6 = some (-1) ∧ regAfter (.xor t0 6 1 1) 6 = some 0 ∧
    regAfter (.shl t0 6 1 2) 6 = some 7 ∧ regAfter (.shr t0 6 3 1) 6 = some 0x01FFFFFFFFFFFFFF ∧ regAfter (.sra t0 6 3 1) 6 = some (-1) ∧
    regAfter (.min t0 6 3 1) 6 = some (-8) ∧ regAfter (.max t0 6 3 1) 6 = some 7 ∧ regAfter (.slt t0 6 3 1) 6 = some 1 ∧
    regAfter (.sltu t0 6 3 1) 6 = some 0 ∧ regAfter (.clz t0 6 1) 6 = some 61 ∧ regAfter (.popc t0 6 3) 6 = some 61 := by decide +kernel

theorem test_immediates : regAfter (.sext t0 6 1 3) 6 = some (-1) ∧ regAfter (.zext t0 6 3 3) 6 = some 0 ∧ regAfter (.addi t0 6 3 (-5)) 6 = some (-13) ∧
    regAfter (.srai t0 6 3 63) 6 = some (-1) ∧ regAfter (.slti t0 6 3 0) 6 = some 1 ∧ regAfter (.li t0 6 0x80000000) 6 = some 0xFFFFFFFF80000000 ∧
    regAfter (.liwHi t0 1 5) 1 = some 0x0000000500000007 ∧ regAfter (.liwLo t0 3 5) 3 = some 0xFFFFFFFF00000005 := by decide +kernel

/-- s0 discards what is written to it (04 R85). -/
theorem test_s0 : regAfter (.li t0 0 5) 0 = some 0 := by decide +kernel

/-- A divisor of zero traps with DIVIDE_BY_ZERO, 0x0C, and leaves the destination (05 R102). -/
theorem test_divide_by_zero : after (.div t0 1 3 0) s1 (fun v => (v.reg 1, v.cur.ct.trapCause.toNat % 64, v.cur.ct.pc)) = some (7, 0x0C, 0x400) := by
  decide +kernel

/-- Offsets count words from the branching word; JAL links the next word (05 R105, R106). -/
theorem test_transfers : after (.bne t0 1 2 (-4)) s1 (·.cur.ct.pc) = some 0xE0 ∧ after (.beq t0 1 2 (-4)) s1 (·.cur.ct.pc) = some 0x108 ∧
    after (.jal t0 5 2) s1 (fun v => (v.cur.ct.pc, v.reg 5)) = some (0x110, 0x108) ∧ after (.jr t0 5 2 8) s1 (fun v => (v.cur.ct.pc, v.reg 5)) = some (0x48, 0x108) := by
  decide +kernel

/-- 14 R345: from 10 down to 0 by −3 makes four trips, and ENDL takes the index to 7 and back to the body. -/
theorem test_loop : after (.loop t0 5 0 (-3) 6) { s1 with cur := { s1.cur with ct := { s1.cur.ct with sregs := [(5, 10)] } } }
      (fun v => (v.cur.ct.pc, v.cur.ct.loops.map fun e => (e.trips, e.endOff))) = some (0x108, [(4, 0x130)]) ∧
    after (.endl t0) (withCt fun c => { c with pc := 0x130, sregs := [(5, 10)], loops := [⟨5, -3, 10, 4, 0, 0x108, 0x130⟩] })
      (fun v => (v.cur.ct.pc, v.reg 5)) = some (0x108, 7) := by decide +kernel

/-- TRAP enters the handler with cause 9, its operand in TRAPINFO0, and TRAPPC behind it (05 R121). -/
theorem test_trap : after (.trap t0 0x77) s1 (fun v => (v.cur.ct.pc, v.cur.ct.trapCause.toNat % 64, v.cur.ct.info0, v.cur.ct.trapPc.toNat % 2 ^ 32)) =
    some (0x400, 9, 0x77, 0x108) := by decide +kernel

/-- The worked `amo.add.d.die s4, s3, s2, 8` (05 R112) sends one request for eight bytes at s3 + 8, once the walk of its page has ended
(18 R406). -/
theorem test_amo : after (.amo t0 5 4 2 0b11001 0 8) (withCt fun c => { c with wait := .walk 0 }) (fun v => v.reqs.map fun r => (r.kind, r.va, r.size, r.data)) =
    some [(.amo, 0x30008, 8, 0x40)] := by decide +kernel

/-- A misaligned access traps with MISALIGNED, 0x0B (05 R110). -/
theorem test_misaligned : after (.lds t0 5 4 0b11000 4) s1 (fun v => (v.reqs.length, v.cur.ct.trapCause.toNat % 64)) = some (0, 0x0B) := by
  decide +kernel

/-- HSET writes one quarter of a handle (04 R87). -/
theorem test_hset : after (.hset t0 2 1 1) s1 (fun v => v.handle 2) = some (7#256 <<< 64) := by decide +kernel

/-! ## Conversions and lanes: the tables of chapters 03 and 06 -/

theorem test_conversions : cvtLane 1 2 false 0x3F808000 = (0x3F80, 0) ∧ cvtLane 1 2 false 0x3F818000 = (0x3F82, 0) ∧
    cvtLane 1 4 false 0x3E99999A = (0x2A, 0) ∧ cvtLane 1 4 false 0x43FA0000 = (0x7E, flagSA) ∧ cvtLane 1 5 false 0x43FA0000 = (0x60, 0) ∧
    cvtLane 1 5 false 0x37C00000 = (0x02, 0) ∧ cvtLane 1 3 false 0x47800000 = (0x7C00, flagOF) ∧ cvtLane 1 3 true 0x47800000 = (0x7BFF, flagSA) ∧
    cvtLane 1 9 false 0xC3008000 = (0x80, 0) ∧ cvtLane 1 9 false 0x43200000 = (0xA0, flagOF) ∧ cvtLane 1 2 false 0xFF800001 = (0x7FC0, 0) := by
  decide +kernel

/-- 03 R72: 9 × 1.5 is exact, 15 × 1.0078125 rounds up, 15 × 1.9375 ties to the even 29. -/
theorem test_int4g : int4gDequant 7 (-2) 0x3FC0 = (0x4158, 0) ∧ int4gDequant 7 (-8) 0x3F81 = (0x4172, flagNX) ∧
    int4gDequant 7 (-8) 0x3FF8 = (0x41E8, flagNX) := by decide +kernel

/-- 03 R77: 1 − 2 + 0.5 + 3 = 2.5. -/
theorem test_mxlut : lutFloat [0x3F80, 0x4000, 0x3F00, 0xC040] 0 0xA = (0x40200000, 0) := by decide +kernel

/-- 06 R148, R151: lanes 0 to 7 are 0, 5, 0, 0, 7, 1, 0, 0. -/
theorem test_partition : partRange 0 [0, 5, 0, 0, 7, 1, 0, 0] [] = [1, 4, 5, 0, 2, 3, 6, 7] ∧
    partRange 2 [0, 5, 0, 0, 7, 1, 0, 0] [] = [1, 4, 5, 0xFFFFFFFF, 0xFFFFFFFF, 0xFFFFFFFF, 0xFFFFFFFF, 0xFFFFFFFF] ∧
    (reduceRange 9 [0, 5, 0, 0, 7, 1, 0, 0]).1 = List.replicate 8 3 := by decide +kernel

/-- A VADD issued at vc t writes at t + 4, and a VMAX at t + 1 (06 R131). -/
theorem test_latency : after (.vadd t0 4 5 6) (sCp 2 fun l => { l with vc := 300 }) (fun v => v.cur.pend.map (·.due)) = some [304] ∧
    after (.vmax t0 4 5 0xC0) (sCp 2 fun l => { l with vc := 300 }) (fun v => v.cur.pend.map (·.due)) = some [301] := by decide +kernel

/-- A row of an INT8 product in which 2 × 3 and −1 × 5 are the only products that are not zero (03 R74, R75). -/
theorem test_mxmul_column : (colSum 4 0x09 { tag := 0x09, cols := [(0, [3, 5])] } [2, 0xFF] [] 0).1.toNat = 1 := by decide +kernel

/-! ## Whole steps -/

/-- The first step after reset runs the word placed for it: `li s5, 1000` (05 R101). -/
theorem test_step_li : (match step (State.reset.withFetchWord 64 0x00002028000003E8) with | .next v => some (v.reg 5) | _ => none) =
    some 1000 := by decide +kernel

/-- With nothing placed, the clock turns (14 R339). -/
theorem test_step_clock : (match step State.reset with | .next v => some v.datum | _ => none) = some 1 := by decide +kernel

/-- 08 R194, R196: sixteen reads in a row from die 1 of a line of die 0 place a copy on die 1, read there in 48 mc and from die 0 in
56 + 40 mc; a write removes it. -/
theorem test_read_copy : let t : Tr := ⟨0, 0, 0, 127, 0⟩
    let read (s : State) : State := s.countHome 1 0 0 t .read
    let s15 := read (read (read (read (read (read (read (read (read (read (read (read (read (read (read State.reset))))))))))))))
    (s15.copyOf 0, (read s15).copyOf 0, (read s15).lineMc 1 0, (read s15).lineMc 0 0, ((read s15).countHome 2 0 0 t .write).copyOf 0) =
      (none, some 1, 48, 96, none) := by decide +kernel

/-- Memory written reads back, and writing what an unlisted byte reads as removes the entry. -/
theorem test_memory : readLe (writeLe [] 0x100 0x1234567 4) 0x100 4 = 0x1234567 ∧ writeLe (writeLe [] 0x100 0x1234567 4) 0x100 0 4 = [] := by
  decide +kernel

end Sys2Proof.Tests
end

/-! ## The words and their fields (02 R35, R42, R46, R48)

A word is the concatenation of its fields, so it is the word of a format with given field values exactly when each of its fields
has that value. Both directions of the statements about the decoder and the encoder rest on these equivalences. -/

namespace Sys2Proof.Proofs.Encoding

open Machine Claims

theorem fld_eq_append_iff {w : W64} {lo m n : Nat} {x : BitVec m} {y : BitVec n} :
    fld w lo (m + n) = x ++ y ↔ fld w (lo + n) m = x ∧ fld w lo n = y := by
  simp only [fld, ← BitVec.extractLsb'_append_extractLsb'_eq_extractLsb' (x := w) (len₂ := m) (rfl : lo + n = lo + n)]
  constructor
  · intro h
    exact ⟨by simpa [BitVec.extractLsb'_append_eq_left] using congrArg (BitVec.extractLsb' n m) h,
      by simpa [BitVec.extractLsb'_append_eq_right] using congrArg (BitVec.extractLsb' 0 n) h⟩
  · rintro ⟨rfl, rfl⟩
    rfl

theorem fld_eq_zero_iff {w : W64} {lo m n : Nat} :
    fld w lo (m + n) = 0#(m + n) ↔ fld w (lo + n) m = 0#m ∧ fld w lo n = 0#n := by
  simpa using fld_eq_append_iff (w := w) (lo := lo) (x := 0#m) (y := 0#n)

theorem fld_fld {w : W64} {lo j n k : Nat} (h : j + n ≤ k) : (fld w lo k).extractLsb' j n = fld w (lo + j) n := by
  ext x hx
  simp [fld, show j + x < k by omega, Nat.add_assoc]

theorem fld_opcode {w : W64} {n : Nat} (h : opcodeOf w = n) : fld w 40 8 = BitVec.ofNat 8 n := by
  rw [← h, opcodeOf, BitVec.ofNat_toNat, BitVec.setWidth_eq]

theorem toNat_fld (w : W64) (lo n : Nat) : (fld w lo n).toNat = w.toNat / 2 ^ lo % 2 ^ n := by
  rw [fld, BitVec.extractLsb'_toNat, Nat.shiftRight_eq_div_pow]

theorem toNat_fld_div {w : W64} {lo m n : Nat} : (fld w lo (m + n)).toNat / 2 ^ n = (fld w (lo + n) m).toNat := by
  rw [toNat_fld, toNat_fld, Nat.pow_add 2 lo, ← Nat.div_div_eq_div_mul, Nat.add_comm, Nat.pow_add, Nat.mod_mul_right_div_self]

theorem toNat_fld_mod {w : W64} {lo m n : Nat} : (fld w lo (m + n)).toNat % 2 ^ n = (fld w lo n).toNat := by
  rw [toNat_fld, toNat_fld, Nat.pow_add, Nat.mod_mul_left_mod]

@[simp] theorem enc_eq_iff {t : Tok} {op : BitVec 8} {x : BitVec 40} {w : W64} :
    enc t op x = w ↔ tokOf w = t ∧ fld w 40 8 = op ∧ fld w 0 40 = x := by
  have whole : fld w 0 (8 + 8 + 8 + 40) = w := BitVec.extractLsb'_eq_self
  obtain ⟨wait, sig⟩ := t
  conv_lhs => rw [← whole, eq_comm, enc]
  simp only [fld_eq_append_iff (n := 40), fld_eq_append_iff (n := 8), tokOf, Tok.mk.injEq, and_assoc, Nat.reduceAdd]

@[simp] theorem encCx_eq_iff {t op d a b c m imm} {w : W64} : encCx t op d a b c m imm = w ↔
    tokOf w = t ∧ fld w 40 8 = op ∧ fld w 35 5 = d ∧ fld w 30 5 = a ∧ fld w 25 5 = b ∧ fld w 20 5 = c ∧ fld w 16 4 = m ∧
      fld w 0 16 = imm := by
  simp only [encCx, enc_eq_iff, fld_eq_append_iff (n := 16), fld_eq_append_iff (n := 4),
    fld_eq_append_iff (n := 5), and_assoc, Nat.reduceAdd]

@[simp] theorem encCi_eq_iff {t op d a imm} {w : W64} : encCi t op d a imm = w ↔
    tokOf w = t ∧ fld w 40 8 = op ∧ fld w 35 5 = d ∧ fld w 30 5 = a ∧ fld w 0 30 = imm := by
  simp only [encCi, enc_eq_iff, fld_eq_append_iff (n := 30), fld_eq_append_iff (n := 5), and_assoc, Nat.reduceAdd]

@[simp] theorem encCl_eq_iff {t op d hi imm} {w : W64} : encCl t op d hi imm = w ↔
    tokOf w = t ∧ fld w 40 8 = op ∧ fld w 35 5 = d ∧ fld w 33 2 = 0 ∧ fld w 32 1 = hi ∧ fld w 0 32 = imm := by
  simp only [encCl, enc_eq_iff, fld_eq_append_iff (n := 32), fld_eq_append_iff (n := 1),
    fld_eq_append_iff (n := 2), and_assoc, Nat.reduceAdd]

@[simp] theorem encCs_eq_iff {t op tgt a b n} {w : W64} : encCs t op tgt a b n = w ↔
    tokOf w = t ∧ fld w 40 8 = op ∧ fld w 38 2 = tgt ∧ fld w 33 5 = a ∧ fld w 28 5 = b ∧ fld w 12 16 = 0 ∧ fld w 0 12 = n := by
  simp only [encCs, enc_eq_iff, fld_eq_append_iff (n := 12), fld_eq_append_iff (n := 16),
    fld_eq_append_iff (n := 5), and_assoc, Nat.reduceAdd]

@[simp] theorem encShape_eq_iff {t op dy dx shape ori acc} {w : W64} : encShape t op dy dx shape ori acc = w ↔
    tokOf w = t ∧ fld w 40 8 = op ∧ fld w 35 5 = 0 ∧ fld w 30 5 = 0 ∧ fld w 25 5 = 0 ∧ fld w 20 5 = 0 ∧ fld w 16 4 = 0 ∧
      fld w 13 3 = dy ∧ fld w 10 3 = dx ∧ fld w 6 4 = shape ∧ fld w 5 1 = ori ∧ fld w 2 3 = acc ∧ fld w 0 2 = 0 := by
  simp only [encShape, encCx_eq_iff, fld_eq_append_iff (n := 2), fld_eq_append_iff (n := 3),
    fld_eq_append_iff (n := 1), fld_eq_append_iff (n := 4), and_assoc, Nat.reduceAdd]

@[simp] theorem encLm_eq_iff {t op dh sh xh xv dq sc m imm} {w : W64} : encLm t op dh sh xh xv dq sc m imm = w ↔
    tokOf w = t ∧ fld w 40 8 = op ∧ fld w 36 4 = dh ∧ fld w 32 4 = sh ∧ fld w 28 4 = xh ∧ fld w 27 1 = xv ∧
      fld w 26 1 = dq ∧ fld w 24 2 = sc ∧ fld w 20 4 = m ∧ fld w 0 20 = imm := by
  simp only [encLm, enc_eq_iff, fld_eq_append_iff (n := 20), fld_eq_append_iff (n := 4), fld_eq_append_iff (n := 2),
    fld_eq_append_iff (n := 1), and_assoc, Nat.reduceAdd]

@[simp] theorem encLr_eq_iff {t op cnt len} {w : W64} : encLr t op cnt len = w ↔
    tokOf w = t ∧ fld w 40 8 = op ∧ fld w 24 16 = cnt ∧ fld w 16 8 = len ∧ fld w 0 16 = 0 := by
  simp only [encLr, enc_eq_iff, fld_eq_append_iff (n := 16), fld_eq_append_iff (n := 8), and_assoc, Nat.reduceAdd]

@[simp] theorem encPn_eq_iff {t op imm} {w : W64} : encPn t op imm = w ↔
    tokOf w = t ∧ fld w 40 8 = op ∧ fld w 20 20 = 0 ∧ fld w 0 20 = imm := by
  simp only [encPn, enc_eq_iff, fld_eq_append_iff (n := 20), Nat.reduceAdd]

@[simp] theorem encVv_eq_iff {t op d a b c m} {w : W64} : encVv t op d a b c m = w ↔
    tokOf w = t ∧ fld w 40 8 = op ∧ fld w 32 8 = d ∧ fld w 24 8 = a ∧ fld w 16 8 = b ∧ fld w 8 8 = c ∧ fld w 0 8 = m := by
  simp only [encVv, enc_eq_iff, fld_eq_append_iff (n := 8), and_assoc, Nat.reduceAdd]

@[simp] theorem encVf_eq_iff {t op d a b fa fb sat} {w : W64} : encVf t op d a b fa fb sat = w ↔
    tokOf w = t ∧ fld w 40 8 = op ∧ fld w 32 8 = d ∧ fld w 24 8 = a ∧ fld w 16 8 = b ∧ fld w 10 6 = fa ∧ fld w 4 6 = fb ∧
      fld w 3 1 = sat ∧ fld w 0 3 = 0 := by
  simp only [encVf, enc_eq_iff, fld_eq_append_iff (n := 3), fld_eq_append_iff (n := 1), fld_eq_append_iff (n := 6),
    fld_eq_append_iff (n := 8), and_assoc, Nat.reduceAdd]

@[simp] theorem encVi_eq_iff {t op d a imm} {w : W64} : encVi t op d a imm = w ↔
    tokOf w = t ∧ fld w 40 8 = op ∧ fld w 32 8 = d ∧ fld w 24 8 = a ∧ fld w 0 24 = imm := by
  simp only [encVi, enc_eq_iff, fld_eq_append_iff (n := 24), fld_eq_append_iff (n := 8), and_assoc, Nat.reduceAdd]

@[simp] theorem encVm_eq_iff {t op d h m imm} {w : W64} : encVm t op d h m imm = w ↔
    tokOf w = t ∧ fld w 40 8 = op ∧ fld w 32 8 = d ∧ fld w 28 4 = h ∧ fld w 24 4 = m ∧ fld w 0 24 = imm := by
  simp only [encVm, enc_eq_iff, fld_eq_append_iff (n := 24), fld_eq_append_iff (n := 4), and_assoc, Nat.reduceAdd]

@[simp] theorem encMx_eq_iff {t op h g acc f imm} {w : W64} : encMx t op h g acc f imm = w ↔
    tokOf w = t ∧ fld w 40 8 = op ∧ fld w 36 4 = h ∧ fld w 32 4 = g ∧ fld w 28 4 = acc ∧ fld w 20 8 = f ∧ fld w 0 20 = imm := by
  simp only [encMx, enc_eq_iff, fld_eq_append_iff (n := 20), fld_eq_append_iff (n := 8),
    fld_eq_append_iff (n := 4), and_assoc, Nat.reduceAdd]
/-! ## Fields that must be zero -/

theorem zf_eq (w : W64) (lo n : Nat) : zf w lo n = decide (fld w lo n = 0) := rfl

theorem fld_eq_zero_iff_lt {w : W64} {lo m n : Nat} : fld w (lo + n) m = 0#m ↔ (fld w lo (m + n)).toNat < 2 ^ n := by
  rw [← Nat.div_eq_zero_iff_lt (Nat.two_pow_pos n), toNat_fld_div, ← BitVec.toNat_inj, BitVec.toNat_zero]

theorem bit_ne_zero_iff {x : BitVec 1} : ¬ x = 0#1 ↔ x = 1#1 := by
  revert x
  decide

theorem fld_bit_eq_zero_iff {w : W64} {lo j k : Nat} (h : j < k) :
    fld w (lo + j) 1 = 0#1 ↔ (fld w lo k).getLsbD j = false := by
  have bit : ∀ x : BitVec 1, x = 0#1 ↔ x.getLsbD 0 = false := by decide
  rw [← fld_fld (lo := lo) (k := k) h, bit, BitVec.getLsbD_extractLsb']
  simp

theorem zf_bit_eq {w : W64} {lo j k : Nat} (h : j < k) : zf w (lo + j) 1 = !(fld w lo k).getLsbD j := by
  simp [zf_eq, fld_bit_eq_zero_iff h]

theorem and_mask_eq_zero_iff {k j n : Nat} {x : BitVec k} (h : j + n ≤ k) :
    x &&& ((BitVec.allOnes n).setWidth k <<< j) = 0 ↔ x.extractLsb' j n = 0 := by
  constructor
  · intro e
    ext i hi
    have bit := congrArg (·.getLsbD (j + i)) e
    simpa [show j + i < k by omega, hi] using bit
  · intro e
    ext i hi
    by_cases b : j ≤ i ∧ i - j < n
    · have bit := congrArg (·.getLsbD (i - j)) e
      rw [BitVec.getLsbD_extractLsb', Nat.add_sub_cancel' b.1] at bit
      simp_all
    · simp
      omega

theorem zf_eq_mask {w : W64} {lo j n k : Nat} (h : j + n ≤ k) :
    zf w (lo + j) n = decide (fld w lo k &&& ((BitVec.allOnes n).setWidth k <<< j) = 0) := by
  rw [zf_eq, decide_eq_decide, and_mask_eq_zero_iff h, fld_fld h]

/-- A field that the instruction reads keeps its bits, another is zero. -/
theorem eq_cond {n : Nat} {read : Bool} {x : BitVec n} (h : (read || decide (x = 0)) = true) : x = bif read then x else 0 := by
  cases read <;> simp_all

/-! A word whose unused fields are zero is the word of its used fields: one lemma for each format with flags. -/

section
variable {w : W64} {op : BitVec 8} (h : fld w 40 8 = op)
include h

theorem encCx_fields {d a b c m imm : Bool} (z : zCx w d a b c m imm = true) :
    encCx (tokOf w) op (bif d then fld w 35 5 else 0) (bif a then fld w 30 5 else 0) (bif b then fld w 25 5 else 0)
      (bif c then fld w 20 5 else 0) (bif m then fld w 16 4 else 0) (bif imm then fld w 0 16 else 0) = w := by
  simp only [zCx, Bool.and_eq_true, zf_eq] at z
  obtain ⟨⟨⟨⟨⟨hd, ha⟩, hb⟩, hc⟩, hm⟩, hi⟩ := z
  exact encCx_eq_iff.2 ⟨rfl, h, eq_cond hd, eq_cond ha, eq_cond hb, eq_cond hc, eq_cond hm, eq_cond hi⟩

theorem encCi_fields : encCi (tokOf w) op (fld w 35 5) (fld w 30 5) (fld w 0 30) = w :=
  encCi_eq_iff.2 ⟨rfl, h, rfl, rfl, rfl⟩

theorem encLm_fields {dh sh dq m imm : Bool} (z : zLm w dh sh false dq m imm = true) :
    encLm (tokOf w) op (bif dh then fld w 36 4 else 0) (bif sh then fld w 32 4 else 0) 0 0 (bif dq then fld w 26 1 else 0)
      (fld w 24 2) (bif m then fld w 20 4 else 0) (bif imm then fld w 0 20 else 0) = w := by
  simp only [zLm, Bool.and_eq_true, zf_eq] at z
  obtain ⟨⟨⟨⟨⟨hd, hs⟩, hx⟩, hq⟩, hm⟩, hi⟩ := z
  obtain ⟨hx, hv⟩ := fld_eq_zero_iff.1 (of_decide_eq_true hx : fld w 27 (4 + 1) = 0)
  exact encLm_eq_iff.2 ⟨rfl, h, eq_cond hd, eq_cond hs, hx, hv, eq_cond hq, rfl, eq_cond hm, eq_cond hi⟩

theorem encLm_xv_fields {dh sh dq m imm : Bool} (hv : fld w 27 1 = 1) (z : zLm w dh sh true dq m imm = true) :
    encLm (tokOf w) op (bif dh then fld w 36 4 else 0) (bif sh then fld w 32 4 else 0) (fld w 28 4) 1
      (bif dq then fld w 26 1 else 0) (fld w 24 2) (bif m then fld w 20 4 else 0) (bif imm then fld w 0 20 else 0) = w := by
  simp only [zLm, Bool.and_eq_true, zf_eq] at z
  obtain ⟨⟨⟨⟨⟨hd, hs⟩, _⟩, hq⟩, hm⟩, hi⟩ := z
  exact encLm_eq_iff.2 ⟨rfl, h, eq_cond hd, eq_cond hs, rfl, hv, eq_cond hq, rfl, eq_cond hm, eq_cond hi⟩

theorem encVv_fields {b c m : Bool} (z : zVv w b c m = true) :
    encVv (tokOf w) op (fld w 32 8) (fld w 24 8) (bif b then fld w 16 8 else 0) (bif c then fld w 8 8 else 0)
      (bif m then fld w 0 8 else 0) = w := by
  simp only [zVv, Bool.and_eq_true, zf_eq] at z
  obtain ⟨⟨hb, hc⟩, hm⟩ := z
  exact encVv_eq_iff.2 ⟨rfl, h, rfl, rfl, eq_cond hb, eq_cond hc, eq_cond hm⟩

theorem encVv_m0_fields {b c : Bool} (hm : fld w 0 8 = 0) (z : zVv w b c true = true) :
    encVv (tokOf w) op (fld w 32 8) (fld w 24 8) (bif b then fld w 16 8 else 0) (bif c then fld w 8 8 else 0) 0 = w :=
  encVv_fields (m := false) h (by simp_all [zVv, zf_eq])

theorem encMx_fields {hd g acc f imm : Bool} (z : zMx w hd g acc f imm = true) :
    encMx (tokOf w) op (bif hd then fld w 36 4 else 0) (bif g then fld w 32 4 else 0) (bif acc then fld w 28 4 else 0)
      (bif f then fld w 20 8 else 0) (bif imm then fld w 0 20 else 0) = w := by
  simp only [zMx, Bool.and_eq_true, zf_eq] at z
  obtain ⟨⟨⟨⟨hh, hg⟩, ha⟩, hf⟩, hi⟩ := z
  exact encMx_eq_iff.2 ⟨rfl, h, eq_cond hh, eq_cond hg, eq_cond ha, eq_cond hf, eq_cond hi⟩

end

/-! ### The checks of single entries: what the decoder reads in the word is what the entry says of the instruction's fields -/

theorem dqZero_eq {st : Stream} {w : W64} : dqZero st w = queueSide st (fld w 26 1) (fld w 36 4) (fld w 32 4) := by
  cases st <;> rfl

theorem queueSide_of_dqZero {st : Stream} {w : W64} (h : dqZero st w = true) :
    queueSide st (fld w 26 1) (fld w 36 4) (fld w 32 4) = true := dqZero_eq ▸ h

/-- The fields of F and IMM20 that 07 R170 names, each as the mask that selects it. -/
theorem zf_product_fields (w : W64) :
    zf w 20 1 = decide (fld w 20 8 &&& 1 = 0) ∧ zf w 21 5 = decide (fld w 20 8 &&& 0x3E = 0) ∧
    zf w 26 1 = (!(fld w 20 8).getLsbD 6) ∧ zf w 0 17 = decide (fld w 0 20 &&& 0x1FFFF = 0) ∧
    zf w 11 6 = decide (fld w 0 20 &&& 0x1F800 = 0) ∧ zf w 17 2 = decide (fld w 0 20 &&& 0x60000 = 0) ∧
    zf w 19 1 = decide (fld w 0 20 &&& 0x80000 = 0) :=
  ⟨zf_eq_mask (lo := 20) (j := 0) (n := 1) (k := 8) (by decide), zf_eq_mask (lo := 20) (j := 1) (n := 5) (k := 8) (by decide),
    zf_bit_eq (lo := 20) (j := 6) (k := 8) (by decide), zf_eq_mask (lo := 0) (j := 0) (n := 17) (k := 20) (by decide),
    zf_eq_mask (lo := 0) (j := 11) (n := 6) (k := 20) (by decide), zf_eq_mask (lo := 0) (j := 17) (n := 2) (k := 20) (by decide),
    zf_eq_mask (lo := 0) (j := 19) (n := 1) (k := 20) (by decide)⟩

/-- DST is neither 0b01 nor 0b10 (07 R170). -/
theorem dst_eq {w : W64} : (decide (fld w 21 2 ≠ 1) && decide (fld w 21 2 ≠ 2)) =
    (decide (fld w 20 8 &&& 6 = 0) || decide (fld w 20 8 &&& 6 = 6)) := by
  rw [← fld_fld (lo := 20) (j := 1) (k := 8) (by decide)]
  generalize fld w 20 8 = f
  revert f
  decide

theorem zProduct_eq {w : W64} : zProduct w false = productFields (fld w 32 4) (fld w 20 8) (fld w 0 20) := by
  obtain ⟨h20, h21, h26, -, h11, h17, -⟩ := zf_product_fields w
  simp only [zProduct, productFields, h20, h21, h26, h11, h17, dst_eq, zf_eq w 32 4, Bool.false_or]
  cases (fld w 20 8).getLsbD 6 <;> simp

theorem zProduct_mxbs_eq {w : W64} {t : Tok} {h g acc : BitVec 4} : (zProduct w true && zf w 0 11 && zf w 19 1) =
    encodable .cp (.mxbs t h g acc (fld w 20 8) (fld w 0 20)) := by
  obtain ⟨h20, h21, h26, h0, -, h17, h19⟩ := zf_product_fields w
  have mask : (0x9FFFF : BitVec 20) = 0x1FFFF ||| 0x80000 := rfl
  have low : zf w 0 17 = (zf w 11 6 && zf w 0 11) := by simp [zf_eq, fld_eq_zero_iff (m := 6) (n := 11)]
  have imm : decide (fld w 0 20 &&& 0x9FFFF = 0) = (zf w 11 6 && zf w 0 11 && zf w 19 1) := by
    rw [← low, h0, h19, mask, BitVec.and_or_distrib_left]
    simp [BitVec.or_eq_zero_iff]
  simp only [encodable, imm, zProduct, h20, h21, h26, h17]
  cases (fld w 20 8).getLsbD 6 <;> simp [Bool.and_assoc, Bool.and_comm, Bool.and_left_comm]

theorem zCfg_eq {w : W64} {t : Tok} : zCfg w = encodable .cp (.mxcfg t (fld w 36 4) (fld w 0 20)) := by
  have item : (fld w 0 20).toNat / 2 ^ 16 = (fld w 16 4).toNat := toNat_fld_div (m := 4) (n := 16)
  have value : (fld w 0 20).toNat % 2 ^ 16 = (fld w 0 16).toNat := toNat_fld_mod (m := 4) (n := 16)
  simp only [zCfg, encodable, item, value]
  split <;> simp [zf_eq, fld_eq_zero_iff_lt (lo := 0) (m := 14) (n := 2), fld_eq_zero_iff_lt (lo := 0) (m := 9) (n := 7),
    ← BitVec.toNat_inj, *]

/-- The XOP words are those with the opcodes 0xE0 to 0xFF (02 R49). -/
theorem xop_opcode_iff {w : W64} : 0xE0 ≤ opcodeOf w ↔ fld w 40 8 = (7 : BitVec 3) ++ fld w 40 5 := by
  have high : (fld w 40 8).toNat / 32 = (fld w 45 3).toNat := toNat_fld_div (m := 3) (n := 5)
  have lt := (fld w 45 3).isLt
  rw [fld_eq_append_iff (m := 3) (n := 5), and_iff_left rfl, ← BitVec.toNat_inj, ← high, opcodeOf]
  change _ ↔ (fld w 40 8).toNat / 32 = 7
  omega

/-! ## A word that decodes is the word of its instruction -/

/-- Every instruction that the outcome `r` of a decoder on `w` gives has `w` as its word in the map `sp`, and the stream `st` has
that instruction with its required zero fields. -/
def Faithful (sp : WordSpace) (st : Stream) (w : W64) (r : Except Cause Instr) : Prop :=
  ∀ i, r = .ok i → encode i = some (sp, w) ∧ encodable st i = true

section
variable {sp : WordSpace} {st : Stream} {w v : W64} {r r' : Except Cause Instr} {i : Instr} {z z' : Bool} {c : Cause}

theorem Faithful.error : Faithful sp st w (.error c) := nofun

theorem Faithful.ok (hv : encode i = some (sp, v)) (hw : v = w) (he : encodable st i = true) : Faithful sp st w (.ok i) := by
  rintro _ ⟨⟩
  exact ⟨hw ▸ hv, he⟩

theorem Faithful.rsv (hv : encode i = some (sp, v)) (hw : z = true → v = w) (he : z = true → encodable st i = true) :
    Faithful sp st w (rsv z i) := by
  cases z
  · exact .error
  · exact .ok hv (hw rfl) (he rfl)

theorem Faithful.rsv_and (hv : encode i = some (sp, v)) (hw : z = true → v = w) (he : z' = true → encodable st i = true) :
    Faithful sp st w (Sys2Proof.rsv (z && z') i) :=
  .rsv hv (fun h => hw (Bool.and_eq_true_iff.1 h).1) fun h => he (Bool.and_eq_true_iff.1 h).2

theorem Faithful.ite {p : Prop} [Decidable p] (hr : p → Faithful sp st w r) (hr' : ¬ p → Faithful sp st w r') :
    Faithful sp st w (if p then r else r') := by
  split
  · exact hr ‹_›
  · exact hr' ‹_›

theorem Faithful.only {p : Prop} [Decidable p] (hr : p → Faithful sp st w r) : Faithful sp st w (if p then r else .error c) :=
  .ite hr fun _ => .error

theorem Faithful.needXv (h : fld w 27 1 = 1 → Faithful sp st w r) : Faithful sp st w (needXv w r) := by
  unfold Sys2Proof.needXv
  split
  · exact .error
  · exact .ite (fun _ => .error) fun x => h (bit_ne_zero_iff.1 (by simpa [zf_eq] using x))

theorem Faithful.onlyM0 (h : fld w 0 8 = 0 → Faithful sp st w r) : Faithful sp st w (onlyM0 w r) := by
  unfold Sys2Proof.onlyM0
  split
  · exact .error
  · exact .only fun m => h (of_decide_eq_true m)

end

/-- The CT map, row by row (02 R44). -/
theorem faithful_decodeCt {w : W64} : Faithful .ct .ct w (decodeCt false w) := by
  unfold decodeCt
  split
  on_goal -1 => exact .error
  all_goals
    rename_i op
    replace op := fld_opcode op
  -- NOP, the register words and the words with a 30-bit immediate
  iterate 22 exact .rsv rfl (encCx_fields op) fun _ => rfl
  iterate 10 exact .ok rfl (encCi_fields op) rfl
  -- LI, LIW
  · refine .ite (fun _ => .error) fun z => .only fun hi => .ok rfl ?_ rfl
    simp_all [zf_eq]
  · by_cases hi : fld w 32 1 = 0
    · simp only [zf_eq w 32, hi, decide_true, if_true]
      exact .rsv rfl (fun z => by simp_all [zf_eq]) fun _ => rfl
    · simp only [zf_eq w 32, hi, decide_false, Bool.false_eq_true, if_false]
      exact .rsv rfl (fun z => by simp_all [zf_eq, bit_ne_zero_iff]) fun _ => rfl
  -- the transfers, LOOP and ENDL
  iterate 6 exact .ok rfl (encCi_fields op) rfl
  · exact .rsv rfl (fun z => by simp_all [zf_eq, fld_eq_zero_iff (m := 5) (n := 5)]) fun _ => rfl
  · exact .rsv rfl (fun z => by simp_all [zf_eq]) fun _ => rfl
  · exact .ok rfl (encCi_fields op) rfl
  · exact .rsv rfl (fun z => by simp_all [zf_eq, fld_eq_append_iff (n := 30), fld_eq_append_iff (n := 7),
      fld_eq_append_iff (n := 1)]) fun _ => rfl
  · exact .ok rfl (by simp_all [fld_eq_append_iff (n := 18), fld_eq_append_iff (n := 12), fld_eq_append_iff (n := 5)]) rfl
  · exact .rsv rfl (encCx_fields op) fun _ => rfl
  -- memory words
  iterate 2 exact .rsv rfl (encCx_fields op) fun _ => rfl
  · exact .ok rfl (encCx_eq_iff.2 ⟨rfl, op, rfl, rfl, rfl, rfl, rfl, rfl⟩) rfl
  · exact .rsv rfl (encCx_fields op) fun _ => rfl
  -- handle words
  iterate 2 exact .rsv rfl (fun z => by simp_all [zCx, zf_eq, fld_eq_append_iff (n := 2)]) fun _ => rfl
  · exact .rsv rfl (encCx_fields op) fun _ => rfl
  iterate 2 exact .rsv rfl (fun z => by simp_all [zCx, zf_eq, fld_eq_append_iff (n := 2)]) fun _ => rfl
  · exact .rsv rfl (encCx_fields op) fun _ => rfl
  -- ISSUE, ISSUER, RINGSET
  · exact .rsv rfl (fun z => by simp_all [zf_eq, fld_eq_zero_iff (m := 10) (n := 16), fld_eq_zero_iff (m := 5) (n := 5)])
      fun _ => rfl
  · exact .rsv rfl (fun z => by simp_all [zf_eq, fld_eq_zero_iff (m := 21) (n := 12), fld_eq_zero_iff (m := 5) (n := 16)])
      fun _ => rfl
  · exact .rsv rfl (fun z => by simp_all [zf_eq, fld_eq_zero_iff (m := 16) (n := 12)]) fun _ => rfl
  -- ACQ, REL, FENCE, BARG, BIND, UNBIND
  iterate 3 exact .rsv rfl (fun z => by simp_all [zCx, zf_eq, fld_eq_append_iff (n := 2)]) fun _ => rfl
  · exact .rsv rfl (fun z => by simp_all [zCx, zf_eq, fld_eq_append_iff (n := 2)]) fun z => (Bool.and_eq_true_iff.1 z).2
  iterate 2 exact .rsv rfl (fun z => by simp_all [zCx, zf_eq, fld_eq_append_iff (n := 12)]) fun _ => rfl
  -- shape words
  · exact .rsv rfl (fun z => by simp_all [zCx, zf_eq, fld_eq_zero_iff (m := 3) (n := 3)]) fun _ => rfl
  iterate 3 exact .rsv rfl (fun z => by simp_all [zCx, zf_eq]) fun _ => rfl
  · exact .rsv rfl (fun z => by simp_all [zCx, zf_eq, fld_eq_zero_iff (m := 6) (n := 4), fld_eq_zero_iff (m := 3) (n := 3)])
      fun _ => rfl
  -- SPAWN, JOIN, KILL
  iterate 2 exact .rsv rfl (encCx_fields op) fun _ => rfl
  · refine .ite (fun _ => .error) fun z => .ite (fun m => .ok rfl ?_ rfl) fun _ =>
      .only fun m => .rsv rfl (fun a => ?_) fun _ => rfl
    all_goals simp_all [zCx, zf_eq]
  -- QUIES to PCRD, CLKRD, TRAP to TMARK
  iterate 10 exact .rsv rfl (encCx_fields op) fun _ => rfl
  · exact .rsv rfl (fun z => by simp_all [zCx, zf_eq, fld_eq_append_iff (n := 4)]) fun _ => rfl
  iterate 9 exact .rsv rfl (encCx_fields op) fun _ => rfl
  -- LGO, LCANCEL and LREPEAT are refused outside a prologue
  iterate 3 exact .error

/-- The map of LD and SD, row by row (02 R47). -/
theorem faithful_decodeLs {st : Stream} {w : W64} : Faithful .ls st w (decodeLs st w) := by
  unfold decodeLs
  split
  on_goal -1 => exact .error
  all_goals
    rename_i op
    replace op := fld_opcode op
  · exact .rsv rfl (fun z => by simp_all [zf_eq, fld_eq_zero_iff (m := 20) (n := 20)]) fun _ => rfl
  -- COPY with DQ = 0 and with DQ = 1, COPYP, GATH, SCAT
  · refine .ite (fun q => .rsv rfl (fun z => ?_) fun _ => rfl) fun q => ?_
    · simp_all [zLm, zf_eq, fld_eq_zero_iff (m := 4) (n := 1)]
    · have q : fld w 26 1 = 1 := bit_ne_zero_iff.1 (by simpa [zf_eq] using q)
      refine .rsv_and rfl (fun z => ?_) fun side => ?_
      · simp_all [zLm, zf_eq, fld_eq_zero_iff (m := 4) (n := 1)]
      · exact (q ▸ queueSide_of_dqZero side : queueSide st 1 (fld w 36 4) (fld w 32 4) = true)
  · exact .needXv fun x => .rsv_and rfl (encLm_xv_fields op x) queueSide_of_dqZero
  iterate 2 exact .only fun s => by subst s; exact .needXv fun x => .rsv_and rfl (encLm_xv_fields op x) queueSide_of_dqZero
  -- PREF, FLUSH, INVAL, DCMPF
  · exact .only fun s => .rsv rfl (encLm_fields op) fun _ => decide_eq_true s
  iterate 3 exact .rsv rfl (encLm_fields op) fun _ => rfl
  -- ATOMV, RREAD, RWRITE, RATOM
  iterate 2 exact .only fun s => by subst s; exact .rsv_and rfl (encLm_fields op) queueSide_of_dqZero
  · refine .only fun s => .ite (fun _ => .error) fun z => .ite (fun m => .ok rfl ?_ ?_) fun _ => .only fun m => .ok rfl ?_ ?_
    all_goals simp_all [zLm, zf_eq, fld_eq_zero_iff (m := 4) (n := 1), dqZero_eq, encodable]
  · exact .needXv fun x => .rsv rfl (fun z => by simp_all [zLm, zf_eq, fld_eq_append_iff (n := 1)]) fun z => by
      simp_all [encodable, zf_eq, bit_ne_zero_iff]
  -- KVGET, KVPUT, JOB, REP, OUTQ
  iterate 2
    exact .only fun s => .needXv fun x => .rsv rfl (fun z => by simp_all [zLm, zf_eq, fld_eq_append_iff (n := 12)])
      fun z => decide_eq_true s
  · exact .rsv_and rfl (encLm_fields op) fun n => by
      simpa [encodable, zf_eq, fld_eq_zero_iff_lt (lo := 0) (m := 13) (n := 7)] using n
  · exact .rsv rfl (fun z => by simp_all [zf_eq]) fun _ => rfl
  · exact .rsv_and rfl (encLm_fields op) fun z => by
      simpa [encodable, zf_eq, fld_eq_zero_iff_lt (lo := 0) (m := 19) (n := 1)] using z
  -- WLAPP, WLTAKE, WLSEAL, TMARK
  · exact .rsv rfl (encLm_fields op) fun _ => rfl
  · exact .rsv rfl (fun z => by simp_all [zLm, zf_eq, fld_eq_append_iff (n := 12), fld_eq_zero_iff (m := 4) (n := 1)])
      fun _ => rfl
  · exact .rsv rfl (fun z => by simp_all [zLm, zf_eq, fld_eq_append_iff (n := 2), fld_eq_zero_iff (m := 4) (n := 1)])
      fun _ => rfl
  · exact .rsv rfl (fun z => by simp_all [zf_eq]) fun _ => rfl

/-- The CP map, row by row (02 R49). -/
theorem faithful_decodeCp {w : W64} : Faithful .cp .cp w (decodeCp w) := by
  unfold decodeCp
  split
  -- XOP has the opcodes from 0xE0
  on_goal -1 => exact .only fun x => .ok rfl (encVv_eq_iff.2 ⟨rfl, xop_opcode_iff.1 x, rfl, rfl, rfl, rfl, rfl⟩) rfl
  all_goals
    rename_i op
    replace op := fld_opcode op
  -- NOP and the array words
  · exact .rsv rfl (fun z => by simp_all [zf_eq, fld_eq_zero_iff (m := 20) (n := 20)]) fun _ => rfl
  · exact .rsv rfl (fun z => by simp_all [zMx, zf_eq, fld_eq_append_iff (n := 1)]) fun _ => rfl
  · exact .rsv rfl (fun z => by simp_all [zf_eq, fld_eq_zero_iff (m := 20) (n := 20), fld_eq_zero_iff (m := 12) (n := 8),
      fld_eq_zero_iff (m := 8) (n := 4), fld_eq_zero_iff (m := 4) (n := 4)]) fun _ => rfl
  iterate 2 exact .rsv rfl (fun _ => encMx_eq_iff.2 ⟨rfl, op, rfl, rfl, rfl, rfl, rfl⟩) fun z => zProduct_eq.symm.trans z
  · exact .rsv_and rfl (encMx_fields op) fun z => zCfg_eq.symm.trans z
  · exact .rsv rfl (fun _ => encMx_eq_iff.2 ⟨rfl, op, rfl, rfl, rfl, rfl, rfl⟩) fun z => zProduct_mxbs_eq.symm.trans z
  · exact .rsv rfl (fun z => by simp_all [zf_eq]) fun z => by
      simp_all [encodable, zProduct_eq, zf_eq, fld_eq_zero_iff_lt (lo := 0) (m := 1) (n := 19)]
  · exact .rsv rfl (encMx_fields op) fun _ => rfl
  iterate 2 exact .rsv rfl (fun z => by simp_all [zMx, zf_eq, fld_eq_append_iff (n := 9)]) fun _ => rfl
  -- AT, REP, SELK, TMARK
  · exact .ok rfl (by simp_all [fld_eq_append_iff (n := 39)]) rfl
  · exact .rsv rfl (fun z => by simp_all [zf_eq]) fun _ => rfl
  · exact .rsv rfl (fun z => by simp_all [zf_eq, fld_eq_append_iff (n := 5), fld_eq_append_iff (n := 1)]) fun _ => rfl
  · exact .rsv rfl (fun z => by simp_all [zf_eq]) fun _ => rfl
  -- float words, VTAB, VSCALE
  iterate 16 exact .rsv rfl (encVv_fields op) fun _ => rfl
  · exact .rsv rfl (fun z => by simp_all [zf_eq, fld_eq_append_iff (n := 2)]) fun _ => rfl
  · exact .rsv rfl (fun z => by simp_all [zf_eq, fld_eq_append_iff (n := 9)]) fun _ => rfl
  -- integer words, VSEL, VCLASS
  iterate 3 exact .rsv rfl (encVv_fields op) fun _ => rfl
  iterate 8 exact .onlyM0 fun m => .rsv rfl (encVv_m0_fields op m) fun _ => rfl
  iterate 2 exact .rsv rfl (encVv_fields op) fun _ => rfl
  · exact .rsv_and rfl (encVv_fields op) fun m => by
      simpa [encodable, zf_eq, fld_eq_zero_iff_lt (lo := 0) (m := 3) (n := 5)] using m
  iterate 2 exact .rsv rfl (encVv_fields op) fun _ => rfl
  -- conversions, VRED, VSCAN
  iterate 5 exact .rsv rfl (fun z => by simp_all [zf_eq]) fun _ => rfl
  · exact .rsv_and rfl (encVv_fields op) fun m => by
      simpa [encodable, zf_eq, fld_eq_zero_iff_lt (lo := 0) (m := 3) (n := 5)] using m
  · exact .rsv_and rfl (encVv_fields op) fun m => by
      simpa [encodable, zf_eq, fld_eq_zero_iff_lt (lo := 0) (m := 2) (n := 6)] using m
  -- cross-lane words, VMOV, VLI
  · exact .rsv rfl (fun z => by simp_all [zVv, zf_eq, fld_eq_append_iff (n := 4), fld_eq_append_iff (n := 1)]) fun _ => rfl
  iterate 3 exact .rsv rfl (fun z => by simp_all [zf_eq, fld_eq_append_iff (n := 12), fld_eq_append_iff (n := 11)]) fun _ => rfl
  · exact .rsv rfl (fun z => by simp_all [zf_eq, fld_eq_append_iff (n := 16), fld_eq_append_iff (n := 7)]) fun _ => rfl
  · exact .rsv rfl (fun z => by simp_all [zVv, zf_eq, fld_eq_append_iff (n := 1), fld_eq_append_iff (n := 2)]) fun z => by
      simpa [encodable, zf_eq, fld_bit_eq_zero_iff (lo := 0) (j := 0) (k := 2)] using (Bool.and_eq_true_iff.1 z).2
  · exact .rsv rfl (encVv_fields op) fun _ => rfl
  · exact .ite (fun a => .ok rfl (encVi_eq_iff.2 ⟨rfl, op, rfl, a, rfl⟩) rfl) fun _ =>
      .only fun a => .ok rfl (encVi_eq_iff.2 ⟨rfl, op, rfl, a, rfl⟩) rfl
  -- transfers
  · exact .rsv rfl (fun z => by simp_all [zf_eq, fld_eq_append_iff (n := 11)]) fun _ => rfl
  · exact .rsv rfl (fun z => by simp_all [zf_eq]) fun _ => rfl
  iterate 2
    exact .rsv rfl (fun z => by simp_all [zf_eq, fld_eq_zero_iff (m := 8) (n := 24), fld_eq_zero_iff (m := 4) (n := 4)])
      fun _ => rfl
  · exact .rsv_and rfl (fun z => by simp_all [zf_eq]) fun z => by
      simpa [encodable, zf_eq, fld_eq_zero_iff_lt (lo := 0) (m := 13) (n := 11)] using z
  iterate 3 exact .ok rfl (encVm_eq_iff.2 ⟨rfl, op, rfl, rfl, rfl, rfl⟩) rfl

/-- Settles O58: each stream decodes by one map, and each map is faithful. -/
theorem decodedWordIsTheWord : Obligations.DecodedWordIsTheWord := by
  intro st w i h
  cases st with
  | ct => exact faithful_decodeCt i h
  | ld => exact faithful_decodeLs i h
  | cp => exact faithful_decodeCp i h
  | sd => exact faithful_decodeLs i h

/-! ## The word of an instruction decodes to it

The word is kept as a variable `w` whose fields are known, so that the decoder's fields of `w` are rewritten and not computed. -/

section
variable {w : W64} {r : Except Cause Instr} {i j : Instr} {z : Bool} {c : Cause}

theorem rsv_ok (h : z = true) (e : j = i) : rsv z j = .ok i := by
  subst e h
  rfl

theorem only_ok {p : Prop} [Decidable p] (h : p) (e : r = .ok i) : (if p then r else .error c) = .ok i := (if_pos h).trans e

theorem needXv_ok (h : fld w 27 1 = 1) (e : r = .ok i) : needXv w r = .ok i := by
  simp [e, needXv, zf_eq, h]

theorem onlyM0_ok (h : fld w 0 8 = 0) (e : r = .ok i) : onlyM0 w r = .ok i := by
  simp [e, onlyM0, zf_eq, h]

end

theorem decodeCt_of_encode {i : Instr} {v w : W64} (pro : Bool) (h : encode i = some (.ct, v)) (e : v = w)
    (z : encodable .ct i = true) : decodeCt pro w = .ok i := by
  cases i <;> cases h
  all_goals
    simp only [encCx_eq_iff, encCi_eq_iff, encCl_eq_iff, encCs_eq_iff, encShape_eq_iff, enc_eq_iff, fld_eq_append_iff (n := 1),
      fld_eq_append_iff (n := 2), fld_eq_append_iff (n := 4), fld_eq_append_iff (n := 5), fld_eq_append_iff (n := 7),
      fld_eq_append_iff (n := 12), fld_eq_append_iff (n := 18), fld_eq_append_iff (n := 30), Nat.reduceAdd, and_assoc] at e
    obtain ⟨ht, op, e⟩ := e
    unfold decodeCt
    rw [opcodeOf, op]
  case lgo | lcancel | lrepeat => cases z
  -- no field must be zero
  case sext | zext | addi | andi | ori | xori | shli | shri | srai | slti | beq | bne | blt | bge | bltu | bgeu | jr |
      loop | amo =>
    exact congrArg Except.ok (by simp only [ht, e])
  -- a field selects the instruction
  case li => exact (if_neg (by simp [zf_eq, e])).trans (only_ok (by simp [zf_eq, e]) (by simp only [ht, e]))
  case liwLo | liwHi => exact rsv_ok (by simp [zf_eq, e]) (by simp [zf_eq, ht, e])
  case kill => exact (if_neg (by simp [zCx, zf_eq, e])).trans ((if_pos (by simp only [e])).trans (by simp only [ht, e]))
  case killSelf =>
    exact (if_neg (by simp [zCx, zf_eq, e])).trans
      ((if_neg (by simp [e])).trans (only_ok (by simp only [e]) (rsv_ok (by simp [e]) (by rw [ht]))))
  -- a zero field spans fields of the format
  case jmp => exact rsv_ok (by simp [zf_eq, e, fld_eq_zero_iff (m := 5) (n := 5)]) (by simp only [ht, e])
  case issue =>
    exact rsv_ok (by simp [zf_eq, e, fld_eq_zero_iff (m := 10) (n := 16), fld_eq_zero_iff (m := 5) (n := 5)])
      (by simp only [ht, e])
  case issuer =>
    exact rsv_ok (by simp [zf_eq, e, fld_eq_zero_iff (m := 21) (n := 12), fld_eq_zero_iff (m := 5) (n := 16)])
      (by simp only [ht, e])
  case ringset => exact rsv_ok (by simp [zf_eq, e, fld_eq_zero_iff (m := 16) (n := 12)]) (by simp only [ht, e])
  case split => exact rsv_ok (by simp [zCx, zf_eq, e, fld_eq_zero_iff (m := 3) (n := 3)]) (by simp only [ht, e])
  case orient =>
    exact rsv_ok (by simp [zCx, zf_eq, e, fld_eq_zero_iff (m := 6) (n := 4), fld_eq_zero_iff (m := 3) (n := 3)])
      (by simp only [ht, e])
  case barg => exact rsv_ok (by simpa [zCx, zf_eq, e, encodable] using z) (by simp only [ht, e])
  all_goals exact rsv_ok (by simp [zCx, zf_eq, e]) (by simp only [ht, e])

theorem decodeCt_true_of_encode {i : Instr} {t : Tok} {w : W64} (h : encode i = some (.ct, w))
    (hi : i = .lgo t ∨ i = .lcancel t ∨ i = .lrepeat t) : decodeCt true w = .ok i := by
  rcases hi with rfl | rfl | rfl
  all_goals
    obtain ⟨ht, op, e⟩ := encCx_eq_iff.1 (Prod.mk.inj (Option.some.inj h)).2
    unfold decodeCt
    rw [opcodeOf, op]
    exact rsv_ok (by simp [zCx, zf_eq, e]) (by rw [ht])

theorem decodeLs_of_encode {st : Stream} {i : Instr} {v w : W64} (h : encode i = some (.ls, v)) (e : v = w)
    (z : encodable st i = true) : decodeLs st w = .ok i := by
  cases i <;> cases h
  all_goals
    simp only [encLm_eq_iff, encLr_eq_iff, encPn_eq_iff, fld_eq_append_iff (n := 1), fld_eq_append_iff (n := 2),
      fld_eq_append_iff (n := 12), Nat.reduceAdd, and_assoc] at e
    obtain ⟨ht, op, e⟩ := e
    unfold decodeLs
    rw [opcodeOf, op]
  case lsNop => exact rsv_ok (by simp [zf_eq, e, fld_eq_zero_iff (m := 20) (n := 20)]) (by rw [ht])
  case copy =>
    exact (if_pos (by simp [zf_eq, e])).trans
      (rsv_ok (by simp [zLm, zf_eq, e, fld_eq_zero_iff (m := 4) (n := 1)]) (by simp only [ht, e]))
  case copyDq =>
    exact (if_neg (by simp [zf_eq, e])).trans
      (rsv_ok (by simpa [zLm, zf_eq, e, fld_eq_zero_iff (m := 4) (n := 1), dqZero_eq, encodable] using z) (by simp only [ht, e]))
  case copyp =>
    exact needXv_ok (by simp only [e]) (rsv_ok (by simpa [zLm, zf_eq, e, dqZero_eq, encodable] using z) (by simp only [ht, e]))
  case gath | scat =>
    obtain ⟨s, q⟩ := Bool.and_eq_true_iff.1 z
    exact only_ok (of_decide_eq_true s)
      (needXv_ok (by simp only [e]) (rsv_ok (by simpa [zLm, zf_eq, e, dqZero_eq] using q) (by simp only [ht, e])))
  case pref =>
    exact only_ok (of_decide_eq_true z)
      (rsv_ok (by simp [zLm, zf_eq, e, fld_eq_zero_iff (m := 4) (n := 1)]) (by simp only [ht, e]))
  case atomv | rread =>
    obtain ⟨s, q⟩ := Bool.and_eq_true_iff.1 z
    exact only_ok (of_decide_eq_true s)
      (rsv_ok (by simpa [zLm, zf_eq, e, fld_eq_zero_iff (m := 4) (n := 1), dqZero_eq] using q) (by simp only [ht, e]))
  case rwrite =>
    obtain ⟨s, q⟩ := Bool.and_eq_true_iff.1 z
    exact only_ok (of_decide_eq_true s)
      ((if_neg (by simpa [zLm, zf_eq, e, fld_eq_zero_iff (m := 4) (n := 1), dqZero_eq] using q)).trans
        ((if_pos (by simp only [e])).trans (by simp only [ht, e])))
  case rwriteWin =>
    obtain ⟨s, q⟩ := Bool.and_eq_true_iff.1 z
    exact only_ok (of_decide_eq_true s)
      ((if_neg (by simpa [zLm, zf_eq, e, fld_eq_zero_iff (m := 4) (n := 1), dqZero_eq] using q)).trans
        ((if_neg (by simp [e])).trans (only_ok (by simp only [e]) (by simp only [ht, e]))))
  case ratom =>
    exact needXv_ok (by simp only [e])
      (rsv_ok (by simpa [zLm, zf_eq, e, encodable, bit_ne_zero_iff] using z) (by simp only [ht, e]))
  case kvget | kvput =>
    exact only_ok (of_decide_eq_true z)
      (needXv_ok (by simp only [e]) (rsv_ok (by simp [zLm, zf_eq, e]) (by simp only [ht, e])))
  case job =>
    exact rsv_ok (by simpa [zLm, zf_eq, e, fld_eq_zero_iff (m := 4) (n := 1), fld_eq_zero_iff_lt (lo := 0) (m := 13) (n := 7),
      encodable] using z) (by simp only [ht, e])
  case outq =>
    exact rsv_ok (by simpa [zLm, zf_eq, e, fld_eq_zero_iff (m := 4) (n := 1), fld_eq_zero_iff_lt (lo := 0) (m := 19) (n := 1),
      encodable] using z) (by simp only [ht, e])
  all_goals exact rsv_ok (by simp [zLm, zf_eq, e, fld_eq_zero_iff (m := 4) (n := 1)]) (by simp only [ht, e])

theorem decodeCp_of_encode {i : Instr} {v w : W64} (h : encode i = some (.cp, v)) (e : v = w)
    (z : encodable .cp i = true) : decodeCp w = .ok i := by
  cases i <;> cases h
  case xop =>
    obtain ⟨ht, op, e⟩ := encVv_eq_iff.1 e
    obtain ⟨-, hs⟩ := (fld_eq_append_iff (m := 3) (n := 5)).1 op
    have x : 0xE0 ≤ opcodeOf w := xop_opcode_iff.2 (hs ▸ op)
    unfold decodeCp
    split
    on_goal -1 => exact only_ok x (by simp only [ht, hs, e])
    all_goals omega
  all_goals
    simp only [encPn_eq_iff, encMx_eq_iff, encLr_eq_iff, encVv_eq_iff, encVf_eq_iff, encVi_eq_iff, encVm_eq_iff, enc_eq_iff,
      fld_eq_append_iff (n := 1), fld_eq_append_iff (n := 2), fld_eq_append_iff (n := 4), fld_eq_append_iff (n := 5),
      fld_eq_append_iff (n := 7), fld_eq_append_iff (n := 9), fld_eq_append_iff (n := 11), fld_eq_append_iff (n := 12),
      fld_eq_append_iff (n := 16), fld_eq_append_iff (n := 39), Nat.reduceAdd, and_assoc] at e
    obtain ⟨ht, op, e⟩ := e
    unfold decodeCp
    rw [opcodeOf, op]
  case atPin | vld | vst | cpWlapp => exact congrArg Except.ok (by simp only [ht, e])
  case vli => exact (if_pos (by simp only [e])).trans (by simp only [ht, e])
  case vliHi => exact (if_neg (by simp [e])).trans (only_ok (by simp only [e]) (by simp only [ht, e]))
  case cpNop => exact rsv_ok (by simp [zf_eq, e, fld_eq_zero_iff (m := 20) (n := 20)]) (by rw [ht])
  case mxswap =>
    exact rsv_ok (by simp [zf_eq, e, fld_eq_zero_iff (m := 20) (n := 20), fld_eq_zero_iff (m := 12) (n := 8),
      fld_eq_zero_iff (m := 8) (n := 4), fld_eq_zero_iff (m := 4) (n := 4)]) (by rw [ht])
  case mxmul | mxlut => exact rsv_ok (by simpa only [zProduct_eq, e, encodable] using z) (by simp only [ht, e])
  case mxcfg t _ _ => exact rsv_ok (by simpa [zMx, zf_eq, e, zCfg_eq (t := t)] using z) (by simp only [ht, e])
  case mxbs t h g acc _ _ =>
    exact rsv_ok (by simpa only [zProduct_mxbs_eq (t := t) (h := h) (g := g) (acc := acc), e] using z) (by simp only [ht, e])
  case mxdrain =>
    exact rsv_ok (by simpa [zProduct_eq, zf_eq, e, fld_eq_zero_iff_lt (lo := 0) (m := 1) (n := 19), encodable] using z)
      (by simp only [ht, e])
  case vcmp | vred =>
    exact rsv_ok (by simpa [zVv, zf_eq, e, fld_eq_zero_iff_lt (lo := 0) (m := 3) (n := 5), encodable] using z)
      (by simp only [ht, e])
  case vscan =>
    exact rsv_ok (by simpa [zVv, zf_eq, e, fld_eq_zero_iff_lt (lo := 0) (m := 2) (n := 6), encodable] using z)
      (by simp only [ht, e])
  case vpart =>
    exact rsv_ok (by simpa [zVv, zf_eq, e, fld_bit_eq_zero_iff (lo := 0) (j := 0) (k := 2), encodable] using z)
      (by simp only [ht, e])
  case vout =>
    exact rsv_ok (by simpa [zf_eq, e, fld_eq_zero_iff_lt (lo := 0) (m := 13) (n := 11), encodable] using z)
      (by simp only [ht, e])
  case vpop | vpush =>
    exact rsv_ok (by simp [zf_eq, e, fld_eq_zero_iff (m := 8) (n := 24), fld_eq_zero_iff (m := 4) (n := 4)])
      (by simp only [ht, e])
  case vimad | vand | vor | vxor | vnot | vshl | vshr | vsra =>
    exact onlyM0_ok (by simp only [e]) (rsv_ok (by simp [zVv, zf_eq, e]) (by simp only [ht, e]))
  all_goals exact rsv_ok (by simp [zMx, zVv, zf_eq, e]) (by simp only [ht, e])

theorem decode_of_encode {st : Stream} {i : Instr} {w : W64} (h : encode i = some (spaceOf st, w)) (z : encodable st i = true) :
    decode st w = .ok i := by
  cases st with
  | ct => exact decodeCt_of_encode false h rfl z
  | ld => exact decodeLs_of_encode h rfl z
  | cp => exact decodeCp_of_encode h rfl z
  | sd => exact decodeLs_of_encode h rfl z

/-! ## The checks of the field values (02 R52, R53) -/

theorem checkValues_ok {vregs : Nat} {r : Except Cause Instr} {i : Instr} (h : r = .ok i) (hc : WellFormed.check vregs i = none) :
    checkValues vregs r = .ok i := by
  simp [h, checkValues, hc]

theorem decodeChecked_of_decode {vregs : Nat} {st : Stream} {w : W64} {i : Instr} (h : decode st w = .ok i)
    (hc : WellFormed.check vregs i = none) : decodeChecked vregs st w = .ok i := by
  simp [decodeChecked, h, checkValues_ok rfl hc]

theorem zf_of_tokOf {w : W64} (h : tokOf w = ⟨0, 0⟩) : zf w 48 16 = true := by
  obtain ⟨hw, hs⟩ := Tok.mk.inj h
  exact decide_eq_true ((fld_eq_zero_iff (m := 8) (n := 8)).2 ⟨hw, hs⟩)

theorem decodePrologue_of_decodeCt {w : W64} {i : Instr} (hp : prologueOpcode (opcodeOf w) = true) (ht : tokOf w = ⟨0, 0⟩)
    (h : decodeCt true w = .ok i) (hc : WellFormed.check 0 i = none) : decodePrologue w = .ok i := by
  simp [decodePrologue, hp, zf_of_tokOf ht, checkValues_ok h hc]

/-- Settles O57: in each map by the instruction's constructor, the word's fields being the instruction's; the checks after it
change no outcome of an instruction that passes them. -/
theorem encodeDecodeRoundTrip : Obligations.EncodeDecodeRoundTrip := by
  refine ⟨fun st i w h z => ?_, fun i w h hp ht z hc => ?_⟩
  · have hd : decode st w = .ok i := decode_of_encode h z
    exact ⟨hd, decodeChecked_of_decode hd⟩
  · have hd : decodeCt true w = .ok i := by
      obtain z | z := z
      · exact decodeCt_of_encode true h rfl z
      · exact decodeCt_true_of_encode h z
    exact decodePrologue_of_decodeCt hp ht hd hc

/-- Settles O56: the decoder evaluated on each word. -/
theorem decodedWords : Obligations.DecodedWords := by
  unfold Obligations.DecodedWords
  decide +kernel

end Sys2Proof.Proofs.Encoding

/-! ## Sums of the array and their accumulation (03 R74, R75; 07 R165, R167)

The sum of a column is one fold over its products, and a fold of words is the word of the integers' fold. A cell is a lane of a bank
row, and a bank row is an entry of a map with rising keys: what a cell reads after a write is what such a map reads. -/

namespace Sys2Proof.Proofs.ArrayArithmetic

open Machine Claims Laws

theorem padTo_eq_map (n : Nat) (v : List Nat) : padTo n v = (List.range n).map (v.getD · 0) := by
  apply List.ext_getElem
  · simp [padTo]
    omega
  · intro i h₁ h₂
    have hi : i < n := by simpa using h₂
    by_cases hv : i < v.length
    · simp [padTo, hv, hi]
    · simp [padTo, List.getElem_append, hv]

/-- Words that stand for integers add up, modulo 2^32, to the word of the integers' sum. -/
theorem foldl_add_ofInt {α : Type} (f : α → Int) (xs : List α) (z : Int) :
    xs.foldl (fun p x => p + BitVec.ofInt 32 (f x)) (BitVec.ofInt 32 z) = BitVec.ofInt 32 ((xs.map f).foldl (· + ·) z) := by
  induction xs generalizing z with
  | nil => rfl
  | cons x r ih => simp only [List.foldl_cons, List.map_cons, ← BitVec.ofInt_add, ih]

theorem colSum_int8 {k : Nat} {w : WTile} {as sa : List Nat} {j : Nat} (h : w.tag ≠ tagSgn) :
    colSum k 0x09 w as sa j = (BitVec.ofInt 32 (((List.range k).map fun i =>
      sint 8 (as.getD i 0) * sint 8 ((sget [] j w.cols).getD i 0)).foldl (· + ·) 0), 0) := by
  have hz : (padTo k as).zip (padTo k (sget [] j w.cols)) = (List.range k).map fun i => (as.getD i 0, (sget [] j w.cols).getD i 0) := by
    rw [padTo_eq_map, padTo_eq_map, List.zip_map']
  have hs := foldl_add_ofInt (fun x : Nat × Nat => sint 8 x.1 * sint 8 x.2) ((padTo k as).zip (padTo k (sget [] j w.cols))) 0
  simp only [colSum, if_neg h, if_true]
  exact congrArg (·, 0) (hs.trans (by rw [hz, List.map_map]; rfl))

/-! ### Cells of the accumulator -/

/-- A read after a write of a map with rising keys, even where an entry equals the default. -/
theorem sget_sset_of_keysRise {α : Type} [DecidableEq α] {d : α} (k a : Nat) (v : α) {m : SMap α} (h : keysRise m = true) :
    sget d a (sset d k v m) = if a = k then v else sget d a m := by
  induction m with
  | nil => grind [sset, sget]
  | cons x r ih =>
    obtain ⟨hx, hr⟩ := (keysRise_cons x.1 x.2 r).1 h
    have below : a ≤ x.1 → sget d a r = d := sget_below hx
    grind [sset, sget]

section
variable {s : State} {c : Nat × Nat} {v : W32} {int : Bool}

/-- A write of a cell writes its bank row and leaves memory and the vector registers alone. -/
theorem accSet_frame : (s.accSet c v int).accs = sset zeroLanes c.1 ((sget zeroLanes c.1 s.accs).set c.2 v) s.accs ∧
    (s.accSet c v int).mem = s.mem ∧ (s.accSet c v int).vfile = s.vfile := by
  simp only [State.accSet]
  split <;> exact ⟨rfl, rfl, rfl⟩

theorem accSet_cur_of_no_error (h : s.cur.ct.bad = []) : (s.accSet c v int).cur = s.cur := by
  simp [State.accSet, h]

/-- The errors left after a write of a cell are errors of other words (04 R96). -/
theorem mem_accSet_bad {b : RegBad} (h : b ∈ (s.accSet c v int).cur.ct.bad) :
    b ∈ s.cur.ct.bad ∧ ¬ (b.file = 6 ∧ b.reg = c.1 % 512 ∧ b.word = cellWord c) := by
  simp only [State.accSet] at h
  split at h
  next hbad => simp_all
  next => grind [State.onCt, State.onCur]

theorem accGet_accSet_same (h : keysRise s.accs = true) (hc : c.2 < (sget zeroLanes c.1 s.accs).length) :
    (s.accSet c v int).accGet c = v := by
  simp [State.accGet, accSet_frame.1, sget_sset_of_keysRise _ _ _ h, lane, hc]

theorem accGet_accSet_of_ne {d : Nat × Nat} (h : keysRise s.accs = true) (hd : d.1 ≠ c.1) :
    (s.accSet c v int).accGet d = s.accGet d := by
  simp [State.accGet, accSet_frame.1, sget_sset_of_keysRise _ _ _ h, hd]

end

/-! ### Accumulation -/

section
variable {x : RowWrite} {a : ArrCmd} {j : Nat} {s v : State}

theorem accumulate_of_clr (h : x.clr = true) :
    accumulate x a j s = (0, s.accSet (accCell s.cur a.base a.rows x.row j) (x.vals.getD j 0) x.int) := by
  simp [accumulate, h]

theorem accumulate_int (h : x.clr = false) (hi : x.int = true) (hr : s.readCells [accCell s.cur a.base a.rows x.row j] = .ok v) :
    accumulate x a j s =
      let c := accCell s.cur a.base a.rows x.row j
      let e := (v.accGet c).toInt + (x.vals.getD j 0).toInt
      (if e < -2147483648 ∨ 2147483647 < e then flagOF else 0, v.accSet c (BitVec.ofInt 32 e) true) := by
  simp [accumulate, h, hi, hr, BitVec.ofInt_add]

theorem accumulate_float (h : x.clr = false) (hi : x.int = false) (hr : s.readCells [accCell s.cur a.base a.rows x.row j] = .ok v) :
    accumulate x a j s =
      let c := accCell s.cur a.base a.rows x.row j
      let r := fadd (v.accGet c) (x.vals.getD j 0)
      (r.2, v.accSet c r.1 false) := by
  simp [accumulate, h, hi, hr]

end

/-- Settles O43: the sum of a column is the word of the integers' sum, an accumulation has one case for each way a row is written, and
a cell reads as the map of the bank rows does. -/
theorem arrayArithmetic : Obligations.ArrayArithmetic := by
  refine ⟨fun _ _ _ _ _ h => colSum_int8 h, fun x a j s => ⟨accumulate_of_clr, fun v hx hr => ⟨fun hi hl hu => ?_, fun hi ho => ?_, fun hi => ?_⟩⟩,
    fun c v int s h hc => ⟨accGet_accSet_same h hc, accSet_frame.2.1, accSet_frame.2.2, accSet_cur_of_no_error, fun _ => mem_accSet_bad,
      fun _ => accGet_accSet_of_ne h⟩⟩
  · exact (accumulate_int hx hi hr).trans (by simp only [if_neg (not_or.2 ⟨not_lt.2 hl, not_lt.2 hu⟩)])
  · exact (accumulate_int hx hi hr).trans (by simp only [if_pos ho])
  · exact accumulate_float hx hi hr

end Sys2Proof.Proofs.ArrayArithmetic

/-! ## Every step keeps memory canonical (08 R189, R192)

Two fields of a state hold bytes: `mem` and `viewOld`. Few functions write them, and each does so with `writeBytes`, `writeByte`,
`writeLe`, `rekey` or a `List.filter`, which keep rising addresses without default bytes (`Laws.wf_writeBytes`, `Laws.wf_writeLe`,
`Laws.wf_filter`). Every other function of the model only composes these. So there is one lemma for each function that returns a
state, in the order of the model's files: from a canonical state it returns canonical states. A lemma's proof follows the branches
of its function and cites the lemmas of the functions called there. A result of another type (an outcome of an access, of a word, of
an issue) has a predicate that says the states in it are canonical. Where many branches repeat the same few calls, `grind` takes the
branches with the lemmas of the functions called. -/

namespace Sys2Proof.Proofs.CanonicalMemory

open Machine Laws Config

/-! ### What it means for a result to be canonical -/

/-- Both sides of a result that may be an error satisfy their predicate. -/
def exceptOk {ε α : Type} (e : ε → Bool) (a : α → Bool) : Except ε α → Bool
  | .error x => e x
  | .ok x => a x

/-- The state an access leaves is canonical. -/
def accOk : AccRes → Bool
  | .ok _ s => s.memOk
  | .refuse _ _ _ s => s.memOk
  | .park _ _ _ s => s.memOk
  | .isolate s => s.memOk
  | .waits s => s.memOk

/-- The state a CT word leaves is canonical. -/
def ctOk : CtRes → Bool
  | .done s _ _ _ => s.memOk
  | .sent s _ _ => s.memOk
  | .wait s => s.memOk
  | .trap _ _ s => s.memOk
  | .left s => s.memOk

/-- The state after an instruction or event, where there is one, is canonical. -/
def outOk : Out → Bool
  | .next s => s.memOk
  | _ => true

/-- The state before the work, and the one kept of a bank's debugger where there is one, are canonical. -/
def workOk : Work → Bool
  | .idle s => s.memOk
  | .run _ s b => s.memOk && b.all State.memOk

/-- The state the issue of an LD or SD word leaves is canonical. -/
def lsOk : LsRes → Bool
  | .ok s => s.memOk
  | .wait s => s.memOk
  | .refuse _ _ => true
  | .refuseWith _ _ _ s => s.memOk
  | .left s => s.memOk

/-- The state the issue of a CP word leaves is canonical. -/
def cpOk : CpRes → Bool
  | .ok s => s.memOk
  | .refuse _ _ => true
  | .refuseWith _ _ s => s.memOk
  | .halts s => s.memOk
  | .refuseLoader _ => true

/-- The state the reading of a chunk leaves is canonical. -/
def gatherOk : Gather → Bool
  | .got _ s => s.memOk
  | .waits s => s.memOk
  | .stops s => s.memOk

/-- The state beside a result is canonical. -/
def pairOk {β : Type} (x : β × State) : Bool := x.2.memOk

/-- The state beside two results is canonical. -/
def tripleOk {β γ : Type} (x : β × γ × State) : Bool := x.2.2.memOk

theorem ite_ok {α : Type} (P : α → Bool) {c : Prop} [Decidable c] {a b : α} (ha : P a) (hb : P b) : P (if c then a else b) := by
  split
  · exact ha
  · exact hb

theorem ite_memOk {c : Prop} [Decidable c] {s t : State} (hs : s.memOk) (ht : t.memOk) :
    (if c then s else t).memOk := ite_ok State.memOk hs ht

theorem ite_pairOk {β : Type} {c : Prop} [Decidable c] {a b : β × State} (ha : a.2.memOk) (hb : b.2.memOk) :
    (if c then a else b).2.memOk := ite_ok pairOk ha hb

/-- What is known of a result holds of the form a match finds it in. -/
theorem ok_of_eq {α : Type} (P : α → Bool) {a b : α} (e : a = b) (h : P a) : P b := e ▸ h

theorem getD_memOk {o : Option State} {s : State} (ho : o.all State.memOk) (h : s.memOk) : (o.getD s).memOk := by
  cases o with
  | none => exact h
  | some t => exact ho

theorem getD_snd_memOk {β : Type} {o : Option (β × State)} {s : State} (ho : o.all (·.2.memOk)) (h : s.memOk) :
    ((o.map (·.2)).getD s).memOk := by
  cases o with
  | none => exact h
  | some t => exact ho

theorem getD_pair_memOk {β : Type} {o : Option (β × State)} {s : State} {b : β} (ho : o.all (·.2.memOk)) (h : s.memOk) :
    (o.getD (b, s)).2.memOk := by
  cases o with
  | none => exact h
  | some t => exact ho

theorem foldl_snd_memOk {β γ : Type} {f : β × State → γ → β × State} (hf : ∀ x y, x.2.memOk → (f x y).2.memOk) (ys : List γ) {x : β × State}
    (h : x.2.memOk) : (ys.foldl f x).2.memOk := by
  induction ys generalizing x with
  | nil => exact h
  | cons y r ih => exact ih (hf x y h)

/-! ### The functions that write memory -/

variable {s : State}

theorem writeBytes_memOk {a : Nat} {bs : List Byte} (h : s.memOk) : { s with mem := writeBytes s.mem a bs }.memOk := by
  obtain ⟨hm, hv⟩ := (memOk_iff s).1 h
  exact (memOk_iff _).2 ⟨wf_writeBytes _ _ hm, hv⟩

theorem writeLe_memOk {a v n : Nat} (h : s.memOk) : { s with mem := writeLe s.mem a v n }.memOk := by
  obtain ⟨hm, hv⟩ := (memOk_iff s).1 h
  exact (memOk_iff _).2 ⟨wf_writeLe _ _ _ hm, hv⟩

/-! ### Mem: leases, partitions, translation and the bytes of a tier -/

theorem onCur_memOk {f : Lease → Lease} (h : s.memOk) : (s.onCur f).memOk := h

theorem onCt_memOk {f : Ct → Ct} (h : s.memOk) : (s.onCt f).memOk := onCur_memOk h

theorem focus_memOk {l : Nat} (h : s.memOk) : (s.focus l).memOk := by
  unfold State.focus
  split
  · exact h
  · split
    · exact h
    · exact h

theorem mapLeases_memOk {f : Lease → Lease} (h : s.memOk) : (s.mapLeases f).memOk := h

theorem onLease_memOk {l : Nat} {f : State → State} (h : s.memOk) (h_f : ∀ s, s.memOk → (f s).memOk) : (onLease l s f).memOk :=
  ite_memOk (h_f _ (focus_memOk h)) h

theorem asLease_memOk {l : Nat} {f : State → State} (h : s.memOk) (h_f : ∀ s, s.memOk → (f s).memOk) : (asLease l s f).memOk :=
  focus_memOk (onLease_memOk h (fun _ h => h_f _ h))

theorem dropLease_memOk {l : Nat} (h : s.memOk) : (s.dropLease l).memOk := ite_memOk h h

theorem setPart_memOk {p : Nat} {q : Partition} (h : s.memOk) : (s.setPart p q).memOk := h

theorem onPart_memOk {p : Nat} {f : Partition → Partition} (h : s.memOk) : (s.onPart p f).memOk := setPart_memOk h

theorem vf_memOk {p : Nat} {f : State → State} (h : s.memOk) (h_f : ∀ s, s.memOk → (f s).memOk) : (s.vf p f).memOk := ite_memOk h (h_f _ h)

theorem vfRead_memOk {p : Nat} {f : State → W64 × State} (h : s.memOk) (h_f : ∀ s, s.memOk → (f s).2.memOk) : (s.vfRead p f).memOk :=
  ite_pairOk h (h_f _ h)

theorem fwWrote_memOk (h : s.memOk) : s.fwWrote.memOk := h

theorem nextFree_memOk (h : s.memOk) : s.nextFree.2.memOk := h

theorem placeCopy_memOk {die slot key : Nat} (h : s.memOk) : (s.placeCopy die slot key).memOk := by
  unfold State.placeCopy
  refine sliceRoom_memOk _ ?_
  split
  · exact ite_memOk h ((dropCopy_memOk _ _).trans h)
  · exact h

theorem tlbPut_memOk {at_ : Nat} {e : TlbEntry} (h : s.memOk) : (s.tlbPut at_ e).memOk :=
  ite_pairOk ((victim_mem _ _ _).trans h) ((victim_mem _ _ _).trans h)

theorem walkFill_memOk {p die va : Nat} (h : s.memOk) : (s.walkFill p die va).2.memOk := by
  unfold State.walkFill
  dsimp only
  split
  · exact h
  · split
    · exact foldl_memOk (fun _ _ h => fillLine_memOk _ _ h) _ h
    · exact tlbPut_memOk (tlbPut_memOk (foldl_memOk (fun _ _ h => fillLine_memOk _ _ h) _ h))

theorem lookup_memOk {p die va : Nat} (h : s.memOk) : (s.lookup p die va).2.memOk := by
  unfold State.lookup
  split
  · exact h
  · split
    · exact tlbPut_memOk h
    · exact ite_pairOk h (walkFill_memOk h)

theorem atsCheck_memOk {p pa : Nat} (h : s.memOk) : (s.atsCheck p pa).2.memOk := by
  grind [State.atsCheck, State.memOk, setPart_memOk]

theorem translate_memOk {p die va : Nat} {k : AccKind} {view : Bool} (h : s.memOk) : (s.translate p die va k view).2.memOk := by
  unfold State.translate
  split
  next _ e1 =>
    have he1 := ok_of_eq pairOk e1 (lookup_memOk h)
    exact he1
  next _ _ _ _ e1 =>
    have he1 := ok_of_eq pairOk e1 (lookup_memOk h)
    exact he1
  next _ _ _ e1 =>
    have he1 := ok_of_eq pairOk e1 (lookup_memOk h)
    dsimp only
    split
    · exact he1
    · split
      · exact he1
      · split
        · exact he1
        · split
          · exact he1
          · split
            · split
              next _ _ e2 =>
                have he2 := ok_of_eq pairOk e2 (atsCheck_memOk he1)
                exact he2
              · exact atsCheck_memOk he1
            · exact he1

theorem readTr_memOk {t : Tr} {n : Nat} {view : Bool} (h : s.memOk) : (s.readTr t n view).2.memOk :=
  ite_pairOk h (ite_memOk (fillLine_memOk _ _ h) h)

theorem setMeta_memOk {key : Nat} {m : W64} (h : s.memOk) : (s.setMeta key m).memOk := h

theorem settle_memOk {key : Nat} (h : s.memOk) : (s.settle key).memOk := setMeta_memOk h

/-! ### Units: what the device's own units write -/

theorem busReady_memOk {p : Nat} {host : Bool} {a n : Nat} (h : s.memOk) : (s.busReady p host a n).2.memOk :=
  foldl_memOk (fun _ _ h => (atsAsk_memOk _ _ _).trans h) _ h

theorem setEq_memOk {p q : Nat} {e : EventQueue} (h : s.memOk) : (s.setEq p q e).memOk := onPart_memOk h

theorem eqLose_memOk {p q : Nat} (h : s.memOk) : (s.eqLose p q).memOk := setEq_memOk h

theorem counterRoom_memOk {b1 : Bool} {k : Nat} (h : s.memOk) : (s.counterRoom b1 k).memOk := (victim_mem _ _ _).trans h

theorem haltBy_memOk {c : Cause} {st : Stream} {addr : Nat} (h : s.memOk) : (s.haltBy c st addr).memOk := (haltLine_memOk _ _ _ _).trans h

theorem thresholdPage_memOk {p va : Nat} (h : s.memOk) : (s.thresholdPage p va).memOk := by
  unfold State.thresholdPage
  split
  · exact h
  · exact ite_memOk h (ite_memOk h (countAccess_memOk _ _ _ (ite_memOk (counterRoom_memOk h) h)))

theorem fillLines_memOk {p va n : Nat} (h : s.memOk) : (s.fillLines p va n).memOk := by
  unfold State.fillLines
  split
  · exact h
  · refine foldl_memOk (fun _ _ h => ?_) _ h
    dsimp only
    split
    · exact touchLine_memOk _ _ _ h
    · exact h

theorem affPrefetch_memOk {p tab slot : Nat} (h : s.memOk) : (affPrefetch p tab slot s).memOk :=
  foldl_memOk (fun _ _ h => foldl_memOk (fun _ _ h => thresholdPage_memOk h) _ (fillLines_memOk h)) _ h

theorem affTouch_memOk {p tab slot x : Nat} (h : s.memOk) : (affTouch p tab slot x s).memOk :=
  unitWrite_memOk _ _ _ (unitWrite_memOk _ _ _ h)

theorem eqPut_memOk {p q : Nat} {entry : Nat → List Byte} (h : s.memOk) : (s.eqPut p q entry).all State.memOk := by
  simp only [Option.all_eq_true]
  exact fun t e => eqPutBy_memOk (fun _ _ _ _ _ h => busWrite_memOk _ _ _ _ h) h e

theorem eqPutOrLose_memOk {p q : Nat} {entry : Nat → List Byte} (h : s.memOk) : (s.eqPutOrLose p q entry).memOk := by
  unfold State.eqPutOrLose
  split
  next _ e1 =>
    have he1 := ok_of_eq (Option.all State.memOk) e1 (eqPut_memOk h)
    exact he1
  · exact eqLose_memOk h

/-! ### Clock: clocks, the race check and checked accesses -/

theorem setAgent_memOk {p a : Nat} {x : Agent} (h : s.memOk) : (s.setAgent p a x).memOk := onPart_memOk h

theorem acquireAs_memOk {p a : Nat} {v : Vec} (h : s.memOk) : (s.acquireAs p a v).memOk := onPart_memOk h

theorem fetchKnow_memOk {st : Stream} {a : Nat} (h : s.memOk) : (s.fetchKnow st a).memOk :=
  ite_memOk h (onCur_memOk ((victim_mem _ _ _).trans h))

theorem reportRace_memOk {a : Access} {record : Nat → List Byte} (h : s.memOk) : (s.reportRace a record).memOk :=
  ite_memOk (ite_memOk h (writeLe_memOk h)) (onCur_memOk (eqPutOrLose_memOk h))

theorem badData_memOk {a : Access} {t : Tr} (h : s.memOk) : (s.badData a t).memOk := (haltLine_memOk _ _ _ _).trans h

theorem rsupDone_memOk (h : s.memOk) : s.rsupDone.memOk := onCur_memOk h

theorem raceCheck_memOk {a : Access} {key : Nat} (h : s.memOk) : exceptOk (·.2.2.memOk) State.memOk (s.raceCheck a key) := by
  unfold State.raceCheck
  dsimp only
  split
  · exact ite_memOk h (settle_memOk h)
  · split
    · exact h
    · split
      · split
        · exact setMeta_memOk (ite_memOk h (foldl_memOk (fun _ _ h => fetchKnow_memOk h) _ h))
        · exact setAgent_memOk (setMeta_memOk (ite_memOk h (foldl_memOk (fun _ _ h => fetchKnow_memOk h) _ h)))
      · split
        · refine rsupDone_memOk ?_
          split
          · exact setMeta_memOk (ite_memOk h (foldl_memOk (fun _ _ h => fetchKnow_memOk h) _ h))
          · exact setAgent_memOk (setMeta_memOk (ite_memOk h (foldl_memOk (fun _ _ h => fetchKnow_memOk h) _ h)))
        · split
          · split
            · exact setMeta_memOk (ite_memOk h (foldl_memOk (fun _ _ h => fetchKnow_memOk h) _ h))
            · exact setAgent_memOk (setMeta_memOk (ite_memOk h (foldl_memOk (fun _ _ h => fetchKnow_memOk h) _ h)))
          · split
            · split
              · exact setMeta_memOk (reportRace_memOk (ite_memOk h (foldl_memOk (fun _ _ h => fetchKnow_memOk h) _ h)))
              · exact setAgent_memOk (setMeta_memOk (reportRace_memOk (ite_memOk h (foldl_memOk (fun _ _ h => fetchKnow_memOk h) _ h))))
            · exact ite_memOk h (foldl_memOk (fun _ _ h => fetchKnow_memOk h) _ h)

theorem accessHome_memOk {a : Access} {t : Tr} (h : s.memOk) : exceptOk (·.2.2.memOk) State.memOk (s.accessHome a t) := by
  unfold State.accessHome
  have := raceCheck_memOk (a := a) (key := t.key) h
  cases e : s.raceCheck a t.key <;> grind [Except.map, State.memOk, exceptOk, !raceCheck_memOk, countHome_memOk]

theorem accessAt_memOk {early : Bool} {a : Access} {view : Bool} (h : s.memOk) : accOk (s.accessAt early a view) := by
  unfold State.accessAt
  dsimp only
  split
  · exact h
  · split
    next _ e1 =>
      have he1 := ok_of_eq pairOk e1 (translate_memOk h)
      exact he1
    next _ _ _ e1 =>
      have he1 := ok_of_eq pairOk e1 (translate_memOk h)
      exact he1
    next _ _ _ e1 =>
      have he1 := ok_of_eq pairOk e1 (translate_memOk h)
      exact he1
    next _ _ _ _ e1 =>
      have he1 := ok_of_eq pairOk e1 (translate_memOk h)
      exact he1
    next _ _ e1 =>
      have he1 := ok_of_eq pairOk e1 (translate_memOk h)
      split
      · exact he1
      · split
        · exact badData_memOk he1
        · split
          · exact he1
          · split
            · exact he1
            · split
              next _ e2 =>
                have he2 := ok_of_eq (exceptOk tripleOk State.memOk) e2 (accessHome_memOk he1)
                exact he2
              next _ _ _ e2 =>
                have he2 := ok_of_eq (exceptOk tripleOk State.memOk) e2 (accessHome_memOk he1)
                exact he2

theorem accessGlobal_memOk {a : Access} {view : Bool} (h : s.memOk) : accOk (s.accessGlobal a view) := accessAt_memOk h

theorem accessScratch_memOk {a : Access} (h : s.memOk) : accOk (s.accessScratch a) := by
  unfold State.accessScratch
  dsimp only
  split
  · exact badData_memOk h
  · split
    next _ e1 =>
      have he1 := ok_of_eq (exceptOk tripleOk State.memOk) e1 (raceCheck_memOk h)
      exact he1
    next _ _ _ e1 =>
      have he1 := ok_of_eq (exceptOk tripleOk State.memOk) e1 (raceCheck_memOk h)
      exact he1

theorem release_memOk {st : Stream} {slot : Nat} (h : s.memOk) : (s.release st slot).2.memOk := by
  grind [State.release, State.memOk, eqPutOrLose_memOk, setAgent_memOk, nextFree_memOk, onCur_memOk]

theorem acquire_memOk {st : Stream} {v : Vec} (h : s.memOk) : (s.acquire st v).memOk := acquireAs_memOk h

/-! ### Ops: registers, tokens, completions, traps and the words of CT -/

theorem wreg_memOk {d : BitVec 5} {v : W64} {lat : Nat} (h : s.memOk) : (s.wreg d v lat).memOk := onCt_memOk h

theorem setHandle_memOk {k : Nat} {hd : Handle} (h : s.memOk) : (s.setHandle k hd).memOk := onCt_memOk h

theorem flag_memOk {f : Nat} (h : s.memOk) : (s.flag f).memOk := onCt_memOk h

theorem loadBreaks_memOk {n : Nat} (h : s.memOk) : (s.loadBreaks n).memOk := onCur_memOk h

theorem dropLines_memOk (h : s.memOk) : s.dropLines.memOk := onCur_memOk h

theorem askStop_memOk {bit : Nat} (h : s.memOk) : (s.askStop bit).memOk := onPart_memOk h

theorem replayTake_memOk {st pos len : Nat} (h : s.memOk) : (s.replayTake st pos len).2.memOk := mapLeases_memOk h

theorem input_memOk {st slot : Nat} {bs : List Byte} {other : Nat → Bool} (h : s.memOk) : (s.input st slot bs other).all (·.2.memOk) := by
  unfold State.input
  dsimp only
  split
  · split
    · exact ite_ok (Option.all pairOk) rfl (askStop_memOk h)
    · exact ite_ok (Option.all pairOk) (replayTake_memOk h) (ite_ok (Option.all pairOk) rfl (askStop_memOk h))
  · split
    · exact h
    · exact ite_ok (Option.all pairOk) (askStop_memOk h) (onPart_memOk (unitWrite_memOk _ _ _ h))

theorem inputValue_memOk {slot : Nat} {v : W64} (h : s.memOk) : (s.inputValue slot v).all (·.2.memOk) := by
  grind [State.inputValue, State.memOk, input_memOk]

theorem trace_memOk {type : Nat} {st : Stream} {slot vc tag cls : Nat} (h : s.memOk) : (s.trace type st slot vc tag cls).memOk :=
  ite_memOk h h

theorem popTokens_memOk {st : Stream} {q n : Nat} (h : s.memOk) : (s.popTokens st q n).memOk := by
  induction n with
  | zero => exact h
  | succ n ih => grind [State.popTokens, State.memOk, State.onCur, acquire_memOk]

theorem takePops_memOk {st : Stream} {w : BitVec 8} (h : s.memOk) : (s.takePops st w).memOk :=
  foldl_memOk (fun _ _ h => popTokens_memOk h) _ h

theorem addTokens_memOk {st : Stream} {sig : BitVec 8} {v : Vec} (h : s.memOk) : (s.addTokens st sig v).memOk := onCur_memOk h

theorem push_memOk {st : Stream} {slot : Nat} {sig : BitVec 8} {vec : optParam (Option Vec) none} (h : s.memOk) :
    (s.push st slot sig vec).memOk := by
  unfold State.push
  split
  · exact h
  · split
    · exact addTokens_memOk h
    · exact addTokens_memOk (release_memOk h)

theorem raiseUirq_memOk (h : s.memOk) : s.raiseUirq.memOk := onCt_memOk h

theorem signals_memOk {st : Stream} {sig : BitVec 8} {slot op vc : Nat} {vec : optParam (Option Vec) none} (h : s.memOk) :
    (s.signals st sig slot op vc vec).memOk := by
  unfold State.signals
  dsimp only
  split
  · exact raiseUirq_memOk (ite_memOk (trace_memOk (push_memOk h)) (push_memOk h))
  · exact ite_memOk (trace_memOk (push_memOk h)) (push_memOk h)

theorem grpPass_memOk {st : Stream} (h : s.memOk) : (s.grpPass st).2.memOk := by
  grind [State.grpPass, State.memOk, onCur_memOk]

theorem writeDone_memOk {p : Nat} {o : Origin} {status cause : Nat} (h : s.memOk) : (s.writeDone p o status cause).memOk :=
  ite_memOk h (onPart_memOk (unitWrite_memOk _ _ _ (unitWrite_memOk _ _ _ (unitWrite_memOk _ _ _ h))))

theorem setRing_memOk {p r : Nat} {x : HostRing} (h : s.memOk) : (s.setRing p r x).memOk := onPart_memOk h

theorem publish_memOk {p r : Nat} (h : s.memOk) : (s.publish p r).memOk := setRing_memOk (busWrite_memOk _ _ _ _ h)

theorem ringRest_memOk {p r : Nat} (h : s.memOk) : (s.ringRest p r).memOk :=
  ite_memOk (setRing_memOk (publish_memOk (setRing_memOk h))) (setRing_memOk h)

theorem packetDone_memOk {p r : Nat} {pub : Bool} (h : s.memOk) : (s.packetDone p r pub).memOk :=
  ringRest_memOk (ite_memOk (publish_memOk (setRing_memOk h)) (setRing_memOk h))

theorem prologueGone_memOk (h : s.memOk) : s.prologueGone.memOk :=
  ite_memOk (ringRest_memOk (dropLease_memOk h)) (packetDone_memOk (dropLease_memOk h))

theorem prologueFail_memOk {c : Cause} (h : s.memOk) : (s.prologueFail c).memOk := prologueGone_memOk (writeDone_memOk h)

theorem cardWrite_memOk {c : Cmd} {off : Nat} {bs : List Byte} (h : s.memOk) : (s.cardWrite c off bs).memOk :=
  ite_memOk (winWrite_memOk _ _ h) (unitWrite_memOk _ _ _ h)

theorem writeResumes_memOk (h : s.memOk) : s.writeResumes.memOk := foldl_memOk (fun _ _ h => cardWrite_memOk h) _ h

theorem park_memOk {st : Stream} {c : Cause} {flags va offset slot tier : Nat} {cmd : Option Nat} (h : s.memOk) :
    (s.park st c flags va offset slot tier cmd).memOk :=
  ite_memOk (prologueFail_memOk h) (onCur_memOk (onPart_memOk (writeResumes_memOk h)))

theorem isolation_memOk {st : Stream} {va : Nat} (h : s.memOk) : (s.isolation st va).memOk :=
  ite_memOk (prologueFail_memOk h) (haltBy_memOk (onCur_memOk h))

theorem enterTrap_memOk {sync : Bool} {c : Cause} {i : List W64} {resume : W64} (h : s.memOk) : (s.enterTrap sync c i resume).memOk := by
  unfold State.enterTrap
  dsimp only
  split
  · exact prologueFail_memOk h
  · exact ite_memOk (haltBy_memOk h) (onCt_memOk (ite_memOk (onCur_memOk (onCur_memOk h)) (onCur_memOk h)))

theorem ctTrap_memOk {c : Cause} {i : List W64} (h : s.memOk) : (s.ctTrap c i).memOk :=
  ite_memOk h (ite_memOk (enterTrap_memOk h) (onCt_memOk h))

theorem readRegs_memOk {st : Stream} {rs : List (Nat × Nat)} (h : s.memOk) : exceptOk State.memOk State.memOk (s.readRegs st rs) := by
  unfold State.readRegs
  split
  · exact h
  · split
    · exact h
    · exact haltBy_memOk h

theorem readCells_memOk {cs : List (Nat × Nat)} (h : s.memOk) : exceptOk State.memOk State.memOk (s.readCells cs) := by
  unfold State.readCells
  split
  · exact h
  · split
    · exact h
    · exact haltBy_memOk h

theorem ctAccept_memOk {t : Tok} (h : s.memOk) : exceptOk (fun _ => true) State.memOk (s.ctAccept t) := by
  unfold State.ctAccept
  dsimp only
  split
  · exact h
  · split
    · rfl
    · exact onCur_memOk h

theorem ctWaits_memOk {t : Tok} {data : State → Bool} (h : s.memOk) : (s.ctWaits t data).2.memOk := by
  unfold State.ctWaits
  dsimp only
  split
  · exact h
  · split
    · exact h
    · exact ite_pairOk (onCt_memOk (takePops_memOk (ite_pairOk (grpPass_memOk h) h))) (ite_pairOk (grpPass_memOk h) h)

theorem performed_memOk {pc next : Nat} (h : s.memOk) : (s.performed pc next).memOk := onCt_memOk (onCur_memOk h)

theorem ctFinish_memOk {t : Tok} {r : CtRes} (h_r : ctOk r) : (ctFinish t r).memOk := by
  unfold ctFinish
  split
  · exact h_r
  · exact h_r
  · exact ctTrap_memOk h_r
  · exact performed_memOk h_r
  · exact performed_memOk (ite_memOk (signals_memOk h_r) (ite_memOk h_r (onCur_memOk h_r)))

theorem ctStep5_memOk {t : Tok} {srcs : List (BitVec 5)} {f : State → CtRes} (h_f : ∀ s, s.memOk → ctOk (f s)) (h : s.memOk) :
    (ctStep5 t srcs f s).memOk := by
  unfold ctStep5
  split
  next _ e2 =>
    have he2 := ok_of_eq (exceptOk State.memOk State.memOk) e2 (readRegs_memOk h)
    exact he2
  next _ e2 =>
    have he2 := ok_of_eq (exceptOk State.memOk State.memOk) e2 (readRegs_memOk h)
    exact ctFinish_memOk (h_f _ he2)

theorem ctTrial_memOk {t : Tok} {srcs : List (BitVec 5)} {d : BitVec 5} {data : State → Bool} {f : State → CtRes} (h_f : ∀ s,
  s.memOk → ctOk (f s)) (h : s.memOk) :
    (ctTrial t srcs d data f s).memOk := by
  grind [ctTrial, State.memOk, ctOk, exceptOk, ctWaits_memOk, !ctAccept_memOk, ctTrap_memOk]

theorem ctRun_memOk {t : Tok} {srcs : List (BitVec 5)} {d : BitVec 5} {data : State → Bool} {f : State → CtRes} (h_f : ∀ s, s.memOk → ctOk
  (f s)) (h : s.memOk) :
    (ctRun t srcs d data f s).memOk := by
  unfold ctRun
  split
  · exact ite_memOk (ctTrial_memOk (fun _ h => h_f _ h) h) h
  · split
    · exact ctTrap_memOk h
    next _ e2 =>
      have he2 := ok_of_eq (exceptOk (fun _ => true) State.memOk) e2 (ctAccept_memOk h)
      split
      next _ e3 =>
        have he3 := ok_of_eq pairOk e3 (ctWaits_memOk he2)
        exact he3
      next _ e3 =>
        have he3 := ok_of_eq pairOk e3 (ctWaits_memOk he2)
        exact ite_memOk he3 (ctStep5_memOk (fun _ h => h_f _ h) he3)

theorem ctWord_memOk {t : Tok} {srcs : List (BitVec 5)} {d : BitVec 5} {f : State → CtRes} (h_f : ∀ s, s.memOk → ctOk (f s)) (h : s.memOk) :
    outOk (ctWord t srcs d f s) :=
  ctRun_memOk (fun _ h => h_f _ h) h

theorem ctResPlain_memOk (h : s.memOk) : ctOk (CtRes.plain s) := h

theorem ctResAfter_memOk {lat : Nat} (h : s.memOk) : ctOk (CtRes.after lat s) := h

theorem ctResValueIn_memOk {d : BitVec 5} {v : W64} {lat next : Nat} (h : s.memOk) : ctOk (CtRes.valueIn d v lat next s) := by
  unfold CtRes.valueIn
  split
  · exact h
  next _ _ e1 =>
    have he1 := ok_of_eq (Option.all pairOk) e1 (inputValue_memOk h)
    exact wreg_memOk he1

theorem ctResOrReplay_memOk {r : CtRes} (h : s.memOk) (h_r : ctOk r) : ctOk (CtRes.orReplay s r) := ite_ok ctOk (ctResPlain_memOk h) h_r

theorem ctResRefuse_memOk {c : Cause} (h : s.memOk) : ctOk (CtRes.refuse c s) := h

theorem ctResRefuseAt_memOk {c : Cause} {a : W64} (h : s.memOk) : ctOk (CtRes.refuseAt c a s) := h

theorem ctResOfAcc_memOk {a : Access} {r : AccRes} {k : Tr → State → CtRes} {s0 : State} (h_r : accOk r) (h_k : ∀ x0 s, s.memOk → ctOk
  (k x0 s)) :
    ctOk (CtRes.ofAcc a r k s0) := by
  unfold CtRes.ofAcc
  split
  · exact h_k _ _ h_r
  · exact h_r
  · exact h_r
  · exact park_memOk h_r
  · exact isolation_memOk h_r

theorem ctTranslate_memOk {va : Nat} {k : AccKind} {f : Tr → State → CtRes} (h : s.memOk) (h_f : ∀ x0 s, s.memOk → ctOk (f x0 s)) :
    ctOk (ctTranslate va k s f) := by
  unfold ctTranslate
  dsimp only
  split
  · exact ctResRefuseAt_memOk h
  · split
    next _ _ e2 =>
      have he2 := ok_of_eq pairOk e2 (translate_memOk h)
      exact h_f _ _ he2
    next _ e2 =>
      have he2 := ok_of_eq pairOk e2 (translate_memOk h)
      exact he2
    next _ _ _ e2 =>
      have he2 := ok_of_eq pairOk e2 (translate_memOk h)
      exact ctResRefuseAt_memOk he2
    next _ _ _ e2 =>
      have he2 := ok_of_eq pairOk e2 (translate_memOk h)
      exact ctResOfAcc_memOk he2 (fun _ _ h => h)
    next _ _ _ _ e2 =>
      have he2 := ok_of_eq pairOk e2 (translate_memOk h)
      exact ctResOfAcc_memOk he2 (fun _ _ h => h)

theorem ctReach_memOk {va : Nat} {k : AccKind} {f : State → CtRes} (h : s.memOk) (h_f : ∀ s, s.memOk → ctOk (f s)) :
    ctOk (ctReach va k s f) :=
  ctTranslate_memOk h (fun _ _ h => ite_ok ctOk (ctResRefuseAt_memOk h) (ite_ok ctOk (badData_memOk h) (h_f _ h)))

/-! ### CtArith: CT's arithmetic -/

theorem ctReg3_memOk {t : Tok} {d a b : BitVec 5} {lat : Nat} {f : W64 → W64 → W64} (h : s.memOk) : outOk (ctReg3 t d a b lat f s) :=
  ctWord_memOk (fun _ h => wreg_memOk h) h

theorem ctReg2_memOk {t : Tok} {d a : BitVec 5} {f : W64 → W64} (h : s.memOk) : outOk (ctReg2 t d a f s) :=
  ctWord_memOk (fun _ h => ctResPlain_memOk (wreg_memOk h)) h

theorem ctDivide_memOk {t : Tok} {d a b : BitVec 5} {f : W64 → W64 → W64} (h : s.memOk) : outOk (ctDivide t d a b f s) :=
  ctWord_memOk (fun _ h => ite_ok ctOk h (ite_ok ctOk h (onCt_memOk (wreg_memOk h)))) h

/-! ### CtFlow: branches and loops -/

theorem transfer_memOk {tgt : Int} {f : State → State} (h_f : ∀ s, s.memOk → (f s).memOk) (h : s.memOk) : ctOk (transfer tgt f s) := by
  unfold transfer
  split
  · exact ctResRefuseAt_memOk h
  · exact h_f _ h

theorem leaveLoops_memOk {tgt : Int} (h : s.memOk) : (leaveLoops tgt s).memOk := onCt_memOk h

theorem ctBranch_memOk {t : Tok} {a b : BitVec 5} {off : BitVec 30} {c : Cond} (h : s.memOk) : outOk (ctBranch t a b off c s) := by
  unfold ctBranch
  refine ctWord_memOk (fun _ h => ite_ok ctOk (transfer_memOk (fun _ h => leaveLoops_memOk h) h) ?_) h
  split
  · exact ctResRefuseAt_memOk h
  · exact ctResPlain_memOk h

theorem execJr_memOk {t : Tok} {d a : BitVec 5} {imm : BitVec 30} (h : s.memOk) : outOk (execJr t d a imm s) :=
  ctWord_memOk (fun _ h => transfer_memOk (fun _ h => wreg_memOk h) h) h

theorem execBrq_memOk {t : Tok} {q : BitVec 2} {sense : BitVec 1} {off : BitVec 30} (h : s.memOk) : outOk (execBrq t q sense off s) := by
  unfold execBrq
  refine ctRun_memOk (fun _ h => ?_) h
  dsimp only
  split
  · exact ctResRefuseAt_memOk h
  · exact ite_ok ctOk (leaveLoops_memOk (onCur_memOk h)) (ctResPlain_memOk (onCur_memOk h))

theorem execLoop_memOk {t : Tok} {i a : BitVec 5} {step : BitVec 12} {body : BitVec 18} (h : s.memOk) :
    outOk (execLoop t i a step body s) := by
  unfold execLoop
  exact ctWord_memOk (fun _ h => ite_ok ctOk (ctResRefuseAt_memOk h) (ite_ok ctOk h (ite_ok ctOk (ctResRefuse_memOk h)
    (ctResPlain_memOk (onCt_memOk h))))) h

theorem execEndl_memOk {t : Tok} (h : s.memOk) : outOk (execEndl t s) := by
  unfold execEndl
  refine ctWord_memOk (fun _ h => ?_) h
  split
  · exact ctResRefuse_memOk h
  · split
    · exact ctResRefuse_memOk h
    · exact ite_ok ctOk (onCt_memOk (wreg_memOk h)) (ctResPlain_memOk (onCt_memOk (wreg_memOk h)))

/-! ### CtHandle: handle instructions -/

theorem ctHandle_memOk {t : Tok} {srcs : List (BitVec 5)} {k : BitVec 5} {f : State → Except Cause Handle} (h : s.memOk) :
    outOk (ctHandle t srcs k f s) := by
  unfold ctHandle
  refine ctWord_memOk (fun _ h => ite_ok ctOk h ?_) h
  split
  · exact ctResRefuse_memOk h
  · exact ctResPlain_memOk (setHandle_memOk h)

theorem execHget_memOk {t : Tok} {d a : BitVec 5} {q : BitVec 2} (h : s.memOk) : outOk (execHget t d a q s) :=
  ctWord_memOk (fun _ h => ctResPlain_memOk (wreg_memOk h)) h

/-! ### CtIssue: placing words into the rings -/

theorem onStream_memOk {st : Stream} {f : StreamState → StreamState} (h : s.memOk) : (s.onStream st f).memOk := onCur_memOk h

theorem onRing_memOk {st : Stream} {f : Ring → Ring} (h : s.memOk) : (s.onRing st f).memOk := onStream_memOk h

theorem place_memOk {st : Stream} {w : W64} {i : Instr} (h : s.memOk) : (s.place st w i).memOk :=
  onRing_memOk (onCur_memOk (writeLe_memOk h))

theorem placeWord_memOk {st : Stream} {w : W64} {idx : Nat} (h : s.memOk) :
    (placeWord s st w idx).all (exceptOk (fun _ => true) State.memOk) := by
  unfold placeWord
  dsimp only
  split
  · rfl
  · split
    · rfl
    · exact place_memOk h

theorem pushRefused_memOk {c : Cause} {info : List W64} (h : s.memOk) : ctOk (pushRefused c info s) := ite_ok ctOk h h

theorem issueWork_memOk {tgt : BitVec 2} {n : BitVec 12} (h : s.memOk) : ctOk (issueWork tgt n s) := by
  grind [issueWork, State.memOk, ctOk, exceptOk, !placeWord_memOk, onCt_memOk, !pushRefused_memOk, !ctResRefuseAt_memOk]

theorem issuerWork_memOk {tgt : BitVec 2} {a : BitVec 5} (h : s.memOk) : ctOk (issuerWork tgt a s) := by
  grind [issuerWork, State.memOk, ctOk, exceptOk, !ctResPlain_memOk, !placeWord_memOk, !pushRefused_memOk]

theorem execRingPlacement_memOk {l : Nat} (h : s.memOk) : outOk (execRingPlacement l s) := by
  unfold execRingPlacement
  refine onLease_memOk h (fun _ h => ite_memOk h ?_)
  split
  · exact ctRun_memOk (fun _ h => issueWork_memOk h) h
  · exact ctRun_memOk (fun _ h => issuerWork_memOk h) h
  · exact h

/-! ### Fabric: requests that leave the package -/

theorem addReq_memOk {r : Req} (h : s.memOk) : (s.addReq r).memOk := h

theorem sendFabric_memOk {pkg rp aid kind n va data cmp : Nat} {bs : List Byte} (h : s.memOk) :
    (s.sendFabric pkg rp aid kind n va data cmp bs).memOk :=
  h

theorem farForget_memOk {t : Tr} (h : s.memOk) : (s.farForget t).memOk := h

theorem farAsk_memOk {st : Stream} {t : Tr} {va : Nat} (h : s.memOk) : (s.farAsk st t va).memOk :=
  ite_memOk h (sendFabric_memOk (addReq_memOk h))

theorem forgetRow_memOk {va n : Nat} (h : s.memOk) : (s.forgetRow va n).memOk := by
  unfold State.forgetRow
  refine foldl_memOk (fun _ _ h => ?_) _ h
  split
  · exact ite_memOk (farForget_memOk h) h
  · exact h

/-! ### CtMem: LDS, STS, AMO and CAS -/

theorem sendCt_memOk {t : Tok} {r : Req} {tr : Tr} {d : BitVec 5} (h : s.memOk) : ctOk (sendCt t r tr d s) := by
  unfold sendCt
  dsimp only
  split
  · refine onCt_memOk (ite_memOk (sendFabric_memOk (ite_memOk ?_ (onCt_memOk ?_))) (ite_memOk ?_ (onCt_memOk ?_)))
    · split
      · exact addReq_memOk h
      · exact onCur_memOk (ite_memOk (setAgent_memOk (addReq_memOk h)) (addReq_memOk h))
    · split
      · exact addReq_memOk h
      · exact onCur_memOk (ite_memOk (setAgent_memOk (addReq_memOk h)) (addReq_memOk h))
    · split
      · exact addReq_memOk h
      · exact onCur_memOk (ite_memOk (setAgent_memOk (addReq_memOk h)) (addReq_memOk h))
    · split
      · exact addReq_memOk h
      · exact onCur_memOk (ite_memOk (setAgent_memOk (addReq_memOk h)) (addReq_memOk h))
  · refine ite_memOk (sendFabric_memOk (ite_memOk ?_ (onCt_memOk ?_))) (ite_memOk ?_ (onCt_memOk ?_))
    · split
      · exact addReq_memOk h
      · exact onCur_memOk (ite_memOk (setAgent_memOk (addReq_memOk h)) (addReq_memOk h))
    · split
      · exact addReq_memOk h
      · exact onCur_memOk (ite_memOk (setAgent_memOk (addReq_memOk h)) (addReq_memOk h))
    · split
      · exact addReq_memOk h
      · exact onCur_memOk (ite_memOk (setAgent_memOk (addReq_memOk h)) (addReq_memOk h))
    · split
      · exact addReq_memOk h
      · exact onCur_memOk (ite_memOk (setAgent_memOk (addReq_memOk h)) (addReq_memOk h))

theorem ctWalks_memOk {va : Nat} (h : s.memOk) : (ctWalks va s).all State.memOk := by
  unfold ctWalks
  split
  · exact ite_ok (Option.all State.memOk) h rfl
  · exact ite_ok (Option.all State.memOk) rfl (ite_memOk (lookup_memOk h) (onCt_memOk (lookup_memOk h)))

theorem ctMemory_memOk {t : Tok} {srcs : List
  (BitVec 5)} {d a c : BitVec 5} {imm : BitVec 16} {k : AccKind} {kind : ReqKind} {op : Nat} {val cmp : State → Nat} (h : s.memOk) :
    outOk (ctMemory t srcs d a c imm k kind op val cmp s) := by
  unfold ctMemory
  refine ctWord_memOk (fun _ h => ite_ok ctOk (ctResRefuseAt_memOk h) (ite_ok ctOk (ctResRefuseAt_memOk h) (ite_ok ctOk h ?_))) h
  split
  next _ e1 =>
    have he1 := ok_of_eq (Option.all State.memOk) e1 (ctWalks_memOk h)
    exact he1
  · exact ctResOfAcc_memOk (accessAt_memOk h) (fun _ _ h => ite_ok ctOk (sendCt_memOk h) (ite_ok ctOk (ctResPlain_memOk h) (ite_memOk
      (addReq_memOk h) (onCt_memOk (addReq_memOk h)))))

theorem execCas_memOk {t : Tok} {d a b c : BitVec 5} {imm : BitVec 16} (h : s.memOk) : outOk (execCas t d a b c imm s) := ctMemory_memOk h

theorem hold_memOk {x : HeldInput} (h : s.memOk) : (s.hold x).memOk := h

theorem takeAnswer_memOk {r : Req} {old mc : Nat} (h : s.memOk) : (s.takeAnswer r old mc).memOk := by
  unfold State.takeAnswer
  exact asLease_memOk h (fun _ h => ite_memOk (ite_memOk (ite_pairOk h (getD_pair_memOk (inputValue_memOk h) h)) (onCt_memOk (ite_pairOk h
    (getD_pair_memOk (inputValue_memOk h) h)))) (onCur_memOk (ite_memOk (ite_pairOk h (getD_pair_memOk (inputValue_memOk h) h))
    (onCt_memOk (ite_pairOk h (getD_pair_memOk (inputValue_memOk h) h))))))

theorem answer_memOk {r : Req} {old mc : Nat} (h : s.memOk) : (s.answer r old mc).memOk := ite_memOk (hold_memOk h) (takeAnswer_memOk h)

theorem homeArrival_memOk {lease : Nat} {a : Access} {t : Tr} (h : s.memOk) :
    exceptOk (·.2.2.memOk) State.memOk (s.homeArrival lease a t) := by
  unfold State.homeArrival
  split
  · exact h
  · dsimp only
    split
    next _ e1 =>
      have he1 := ok_of_eq (exceptOk tripleOk State.memOk) e1 (accessHome_memOk (focus_memOk h))
      exact focus_memOk (ite_memOk (onCur_memOk he1) he1)
    next _ _ _ e1 =>
      have he1 := ok_of_eq (exceptOk tripleOk State.memOk) e1 (accessHome_memOk (focus_memOk h))
      exact focus_memOk he1

theorem reqArrives_memOk {r : Req} (h : s.memOk) : exceptOk (·.2.2.memOk) State.memOk (Req.arrives r s) := homeArrival_memOk h

theorem homePerform_memOk {r : Req} {z : State} (h : s.memOk) : (homePerform r z s).memOk := by
  grind [homePerform, State.memOk, answer_memOk, readTr_memOk, writeTr_memOk]

theorem reqGoesOn_memOk {r : Req} (h : s.memOk) : (Req.goesOn r s).memOk :=
  ite_memOk h (ite_memOk (hold_memOk h) (asLease_memOk h (fun _ h => performed_memOk h)))

theorem reqRefused_memOk {r : Req} {c : Cause} {i : List W64} (h : s.memOk) : (Req.refused r c i s).memOk := by
  unfold Req.refused
  exact asLease_memOk h (fun _ h => ite_memOk (hold_memOk (ite_memOk h (onCt_memOk h))) (ctTrap_memOk (ite_memOk h (onCt_memOk h))))

theorem affpHome_memOk {r : Req} (h : s.memOk) : (affpHome r s).memOk := by
  grind [affpHome, State.memOk, asLease_memOk, affTouch_memOk, ctFinish_memOk, affPrefetch_memOk, hold_memOk, ctResAfter_memOk]

theorem homeEffect_memOk {r : Req} (h : s.memOk) : (homeEffect r s).memOk := by
  unfold homeEffect
  split
  · exact asLease_memOk h (fun _ h => badData_memOk h)
  · split
    · exact affpHome_memOk h
    · split
      next _ e1 =>
        have he1 := ok_of_eq (exceptOk tripleOk State.memOk) e1 (reqArrives_memOk h)
        exact reqGoesOn_memOk (homePerform_memOk he1)
      next _ _ _ e1 =>
        have he1 := ok_of_eq (exceptOk tripleOk State.memOk) e1 (reqArrives_memOk h)
        exact reqRefused_memOk he1

theorem settleReqs_memOk (h : s.memOk) : s.settleReqs.memOk := h

theorem execHomeAccess_memOk {k : Nat} (h : s.memOk) : outOk (execHomeAccess k s) := by
  unfold execHomeAccess
  split
  · exact h
  · exact ite_memOk (homeEffect_memOk h) (answer_memOk h)

/-! ### CtSys: control registers and traps -/

theorem csrWrite_memOk {n : Nat} {v : W64} (h : s.memOk) : (s.csrWrite n v).all (exceptOk (fun _ => true) State.memOk) := by
  unfold State.csrWrite
  grind [State.memOk, exceptOk, onCt_memOk]

theorem execCsrr_memOk {t : Tok} {d : BitVec 5} {num : BitVec 16} (h : s.memOk) : outOk (execCsrr t d num s) := by
  unfold execCsrr
  refine ctWord_memOk (fun _ h => ?_) h
  split
  · exact ctResPlain_memOk (wreg_memOk h)
  · exact ctResRefuse_memOk h

theorem execCsrw_memOk {t : Tok} {a : BitVec 5} {num : BitVec 16} (h : s.memOk) : outOk (execCsrw t a num s) := by
  grind [execCsrw, State.memOk, ctOk, exceptOk, outOk, !ctResRefuse_memOk, !ctResPlain_memOk, !csrWrite_memOk, onCt_memOk, !ctWord_memOk]

theorem execTrap_memOk {t : Tok} {imm : BitVec 16} (h : s.memOk) : outOk (execTrap t imm s) :=
  ctWord_memOk (fun _ h => ite_ok ctOk h (enterTrap_memOk (onCur_memOk (signals_memOk h)))) h

theorem ctReturn_memOk {t : Tok} {f : Lease → Lease} (h : s.memOk) : ctOk (ctReturn t f s) := onCt_memOk (onCur_memOk (signals_memOk h))

theorem execEret_memOk {t : Tok} (h : s.memOk) : outOk (execEret t s) := ctWord_memOk (fun _ h => ctReturn_memOk h) h

theorem execUiret_memOk {t : Tok} (h : s.memOk) : outOk (execUiret t s) :=
  ctWord_memOk (fun _ h => ite_ok ctOk (ctResRefuse_memOk h) (ite_ok ctOk h (ctReturn_memOk h))) h

theorem execPcsel_memOk {t : Tok} {m : BitVec 4} (h : s.memOk) : outOk (execPcsel t m s) :=
  ctWord_memOk (fun _ h => ctResPlain_memOk (onCur_memOk h)) h

theorem execClkrd_memOk {t : Tok} {d a : BitVec 5} {sel : BitVec 4} (h : s.memOk) : outOk (execClkrd t d a sel s) := by
  unfold execClkrd
  refine ctWord_memOk (fun _ h => ?_) h
  dsimp only
  split
  · exact ctResValueIn_memOk h
  · exact ite_ok ctOk (ctResRefuse_memOk h) (ctResValueIn_memOk (fetchKnow_memOk h))
  · exact ctResValueIn_memOk h

theorem execTmark_memOk {t : Tok} {tag : BitVec 16} (h : s.memOk) : outOk (execTmark t tag s) :=
  ctWord_memOk (fun _ h => ctResPlain_memOk (trace_memOk h)) h

theorem takeAsyncTakeFold_memOk (h : s.memOk) : (takeAsync.takeFold s).memOk := by
  unfold takeAsync.takeFold
  split
  · exact h
  · exact enterTrap_memOk (onCur_memOk h)

theorem takeAsync_memOk (h : s.memOk) : (takeAsync s).memOk := by
  unfold takeAsync
  dsimp only
  split
  · exact h
  · split
    · exact ite_memOk (takeAsyncTakeFold_memOk h) (enterTrap_memOk (onStream_memOk h))
    · exact takeAsyncTakeFold_memOk h
    · exact h

theorem deliverUirq_memOk (h : s.memOk) : (deliverUirq s).memOk := ite_memOk h (onCt_memOk (onCur_memOk h))

/-! ### RingOps: words of the ring streams -/

theorem dropHead_memOk {st : Stream} (h : s.memOk) : (s.dropHead st).memOk := onRing_memOk (onCur_memOk h)

theorem advanceRing_memOk {st : Stream} (h : s.memOk) : (s.advanceRing st).memOk := by
  unfold State.advanceRing
  dsimp only
  split
  · exact dropHead_memOk (onStream_memOk h)
  · split
    · exact onRing_memOk (ite_memOk (dropHead_memOk (onStream_memOk h)) (onStream_memOk h))
    · split
      · exact onRing_memOk (ite_memOk (dropHead_memOk (onStream_memOk h)) (onStream_memOk h))
      · exact onCur_memOk (onRing_memOk (ite_memOk (dropHead_memOk (onStream_memOk h)) (onStream_memOk h)))

theorem passBody_memOk {st : Stream} {n : Nat} (h : s.memOk) : (s.passBody st n).memOk := by
  induction n generalizing s with
  | zero => exact h
  | succ n ih => grind [State.passBody, State.memOk, dropHead_memOk, onRing_memOk]

theorem stopStream_memOk {st : Stream} {c : Cause} {i : List W64} {late loader : Bool} (h : s.memOk) :
    (s.stopStream st c i late loader).memOk :=
  ite_memOk h (onStream_memOk (ite_memOk (getD_snd_memOk (input_memOk h) h) h))

theorem refuseIssue_memOk {st : Stream} {c : Cause} {a : Nat} (h : s.memOk) : (s.refuseIssue st c a).memOk := stopStream_memOk h

theorem takeSeq_memOk (h : s.memOk) : s.takeSeq.2.memOk := onCur_memOk h

theorem addDone_memOk {d : Done} (h : s.memOk) : (s.addDone d).memOk := onCur_memOk (ite_pairOk h (release_memOk h))

theorem sendQ_memOk {st : Stream} {q : PendQ} {bit : Option Bool} (h : s.memOk) : (s.sendQ st q bit).memOk := by
  unfold State.sendQ
  dsimp only
  split
  · refine onCur_memOk ?_
    split
    · exact h
    · exact onCur_memOk h
    · exact onCur_memOk h
    · exact onCur_memOk h
  · split
    · exact h
    · exact onCur_memOk h
    · exact onCur_memOk h
    · exact onCur_memOk h

theorem completeOne_memOk {d : Done} (h : s.memOk) : (s.completeOne d).memOk := ite_memOk (onCur_memOk h) (signals_memOk (sendQ_memOk h))

theorem completeReps_memOk (h : s.memOk) : s.completeReps.memOk := foldl_memOk (fun _ _ h => signals_memOk h) _ (onCur_memOk h)

theorem complete_memOk (h : s.memOk) : s.complete.memOk :=
  ite_memOk h (completeReps_memOk (foldl_memOk (fun _ _ h => completeOne_memOk h) _ (onCur_memOk h)))

theorem unpop_memOk {s0 : State} {st : Stream} (h : s.memOk) : (s0.unpop st s).memOk := onPart_memOk (onCur_memOk h)

theorem grpNext_memOk {st : Stream} {t : Tok} (h : s.memOk) : (s.grpNext st t).memOk := ite_memOk (onCur_memOk h) h

theorem lsIssue_memOk {f : Stream → State → LsRes} {st : Stream} (h_f : ∀ x0 s, s.memOk → lsOk (f x0 s)) (h : s.memOk) :
    lsOk (lsIssue f st s) := by
  unfold lsIssue
  split
  next _ e2 =>
    have he2 := ok_of_eq (exceptOk State.memOk State.memOk) e2 (readRegs_memOk h)
    exact he2
  next _ e2 =>
    have he2 := ok_of_eq (exceptOk State.memOk State.memOk) e2 (readRegs_memOk h)
    exact h_f _ _ he2

theorem lsRun_memOk {t : Tok} {f : Stream → State → LsRes} (h_f : ∀ x0 s, s.memOk → lsOk (f x0 s)) (h : s.memOk) : (lsRun t f s).memOk := by
  unfold lsRun
  dsimp only
  split
  · exact h
  · split
    next _ e2 =>
      have he2 := ok_of_eq lsOk e2 (lsIssue_memOk (fun _ _ h => h_f _ _ h) (onCur_memOk (takePops_memOk (grpNext_memOk h))))
      exact onStream_memOk (advanceRing_memOk he2)
    · exact h
    · exact refuseIssue_memOk (onCur_memOk h)
    next _ _ _ _ e2 =>
      have he2 := ok_of_eq lsOk e2 (lsIssue_memOk (fun _ _ h => h_f _ _ h) (onCur_memOk (takePops_memOk (grpNext_memOk h))))
      exact stopStream_memOk (onCur_memOk (unpop_memOk he2))
    next _ e2 =>
      have he2 := ok_of_eq lsOk e2 (lsIssue_memOk (fun _ _ h => h_f _ _ h) (onCur_memOk (takePops_memOk (grpNext_memOk h))))
      exact onCur_memOk (unpop_memOk he2)

theorem lsWord_memOk {t : Tok} {f : Stream → State → LsRes} (h_f : ∀ x0 s, s.memOk → lsOk (f x0 s)) (h : s.memOk) : outOk (lsWord t f s) :=
  lsRun_memOk (fun _ _ h => h_f _ _ h) h

theorem lsDone_memOk {t : Tok} {mc : Nat} {st : Stream} (h : s.memOk) : (lsDone t mc st s).memOk := addDone_memOk (takeSeq_memOk h)

theorem repWork_memOk {t : Tok} {cnt len : Nat} {st : Stream} (h : s.memOk) : (repWork t cnt len st s).memOk :=
  onRing_memOk (onStream_memOk (dropHead_memOk (onCur_memOk (takeSeq_memOk h))))

theorem execLsRep_memOk {t : Tok} {cnt : BitVec 16} {len : BitVec 8} (h : s.memOk) : outOk (execLsRep t cnt len s) :=
  ite_memOk h (onStream_memOk (passBody_memOk (repWork_memOk (takePops_memOk (grpNext_memOk h)))))

/-! ### CpOps: CP's words -/

theorem cpIssued_memOk (h : s.memOk) : s.cpIssued.memOk := onCur_memOk (advanceRing_memOk h)

theorem cpRefused_memOk {s0 : State} {k : Nat} {c : Cause} {i : List W64} {loader : Bool} (h : s.memOk) :
    (s0.cpRefused s k c i loader).memOk :=
  stopStream_memOk (onCur_memOk (unpop_memOk h))

theorem cpPerform_memOk {i : Instr} {t : Tok} {k : Nat} {f : State → CpRes} (h_f : ∀ s, s.memOk → cpOk (f s)) (h : s.memOk) :
    (cpPerform i t k f s).memOk := by
  grind [cpPerform, State.memOk, cpOk, exceptOk, cpIssued_memOk, !readRegs_memOk, takePops_memOk, cpRefused_memOk, onCur_memOk]

theorem cpRun_memOk {i : Instr} {t : Tok} {f : State → CpRes} (h_f : ∀ s, s.memOk → cpOk (f s)) (h : s.memOk) : (cpRun i t f s).memOk := by
  unfold cpRun
  split
  · exact h
  · dsimp only
    split
    · exact h
    · exact h
    · exact ite_memOk (cpPerform_memOk (fun _ h => h_f _ h) h) (cpPerform_memOk (fun _ h => h_f _ h) (grpNext_memOk h))
    · exact onCur_memOk (grpNext_memOk h)

theorem cpWord_memOk {i : Instr} {t : Tok} {f : State → CpRes} (h_f : ∀ s, s.memOk → cpOk (f s)) (h : s.memOk) : outOk (cpWord i t f s) :=
  cpRun_memOk (fun _ h => h_f _ h) h

theorem addPend_memOk {i : Instr} {t : Tok} {writes : List (Nat × Lanes)} {fl : Nat} {q : PendQ} (h : s.memOk) :
    (s.addPend i t writes fl q).memOk :=
  ite_memOk (addDone_memOk (takeSeq_memOk h)) (onCur_memOk (takeSeq_memOk h))

theorem vecResult_memOk {i : Instr} {t : Tok} {d : BitVec 8} {v : Lanes} {fl : Nat} (h : s.memOk) : (s.vecResult i t d v fl).memOk :=
  addPend_memOk h

theorem vecWord_memOk {i : Instr} {t : Tok} {d : BitVec 8} {f : State → Lanes × Nat} (h : s.memOk) : outOk (vecWord i t d f s) :=
  cpWord_memOk (fun _ h => vecResult_memOk h) h

theorem writeVecs_memOk {ws : List (Nat × Lanes)} (h : s.memOk) : (s.writeVecs ws).memOk := h

theorem vecsRewritten_memOk {ws : List (Nat × Lanes)} (h : s.memOk) : (s.vecsRewritten ws).memOk := ite_memOk h (onCt_memOk h)

theorem writeAccs_memOk {ws : List (Nat × Lanes)} {clearKind : Bool} (h : s.memOk) : (s.writeAccs ws clearKind).memOk :=
  ite_memOk h (onCt_memOk h)

theorem scratchCheckOf_memOk {ex : Bool} {cmd : Option Nat} {st : Stream} {slot scope : Nat} {xs : List (AccKind × Nat)} (h : s.memOk) :
    exceptOk (·.2.2.memOk) State.memOk (scratchCheckOf ex cmd st slot scope xs s) := by
  induction xs generalizing s with
  | nil => exact h
  | cons g r ih => grind [scratchCheckOf, State.memOk, accOk, exceptOk, !accessScratch_memOk]

theorem scratchCheck_memOk {st : Stream} {slot scope : Nat} {gs : List (AccKind × Nat)} (h : s.memOk) :
    exceptOk (·.2.2.memOk) State.memOk (scratchCheck st slot scope gs s) := by
  unfold scratchCheck
  dsimp only
  split
  next _ e1 =>
    have he1 := ok_of_eq (exceptOk tripleOk State.memOk) e1 (scratchCheckOf_memOk h)
    exact ite_memOk (rsupDone_memOk he1) he1
  next _ e1 =>
    have he1 := ok_of_eq (exceptOk tripleOk State.memOk) e1 (scratchCheckOf_memOk h)
    exact he1

theorem cmdScratchCheck_memOk {c : Cmd} {k : AccKind} {gs : List Nat} (h : s.memOk) :
    exceptOk (·.2.2.memOk) State.memOk (Cmd.scratchCheck c k gs s) :=
  scratchCheckOf_memOk h

theorem cpWrite_memOk {a : Nat} {bs : List Byte} (h : s.memOk) : (s.cpWrite a bs).memOk := winWrite_memOk _ _ (onCur_memOk h)

theorem cpStore_memOk {a : Nat} {bs : List Byte} (h : s.memOk) : (s.cpStore a bs).memOk := onCur_memOk h

theorem cpFlush_memOk {k : Nat} (h : s.memOk) : (s.cpFlush k).memOk :=
  foldl_memOk (fun _ _ h => ite_memOk (winWrite_memOk _ _ (onCur_memOk h)) (onCur_memOk h)) _ (onCur_memOk h)

theorem finishPend_memOk {p : Pend} (h : s.memOk) : (s.finishPend p).memOk := by
  unfold State.finishPend
  refine addDone_memOk (cpFlush_memOk (flag_memOk ?_))
  split
  · exact vecsRewritten_memOk (writeVecs_memOk h)
  · exact writeAccs_memOk h

/-! ### Vector: the vector pipe -/

theorem execViadd_memOk {t : Tok} {d a b m : BitVec 8} (h : s.memOk) : outOk (execViadd t d a b m s) := vecWord_memOk h

theorem execVisub_memOk {t : Tok} {d a b m : BitVec 8} (h : s.memOk) : outOk (execVisub t d a b m s) := vecWord_memOk h

theorem execVidx_memOk {t : Tok} {d a : BitVec 8} {g : BitVec 1} {step : BitVec 16} (h : s.memOk) : outOk (execVidx t d a g step s) :=
  vecWord_memOk h

theorem execVpack_memOk {t : Tok} {d a b : BitVec 8} {fa fb : BitVec 6} {sat : BitVec 1} (h : s.memOk) :
    outOk (execVpack t d a b fa fb sat s) :=
  vecWord_memOk h

theorem execVunpk_memOk {t : Tok} {d a b : BitVec 8} {fa fb : BitVec 6} {sat : BitVec 1} (h : s.memOk) :
    outOk (execVunpk t d a b fa fb sat s) :=
  vecWord_memOk h

theorem execVscan_memOk {t : Tok} {d a m : BitVec 8} (h : s.memOk) : outOk (execVscan t d a m s) := vecWord_memOk h

theorem execVbcast_memOk {t : Tok} {d a : BitVec 8} {g : BitVec 1} {n : BitVec 11} (h : s.memOk) : outOk (execVbcast t d a g n s) :=
  cpWord_memOk (fun _ h => ite_ok cpOk rfl (vecResult_memOk h)) h

theorem execVpart_memOk {t : Tok} {d a b : BitVec 8} {g : BitVec 1} {kind : BitVec 2} (h : s.memOk) : outOk (execVpart t d a b g kind s) :=
  vecWord_memOk h

theorem execVtos_memOk {t : Tok} {d : BitVec 8} {m : BitVec 4} {n : BitVec 11} (h : s.memOk) : outOk (execVtos t d m n s) :=
  cpWord_memOk (fun _ h => ite_ok cpOk rfl (addPend_memOk h)) h

theorem execVfrs_memOk {t : Tok} {d : BitVec 8} {hd : BitVec 4} {imm : BitVec 24} (h : s.memOk) : outOk (execVfrs t d hd imm s) := by
  unfold execVfrs
  refine cpWord_memOk (fun _ h => ?_) h
  dsimp only
  split
  · rfl
  · split
    · rfl
    · split
      · rfl
      · split
        next _ _ _ e1 =>
          have he1 := ok_of_eq (exceptOk tripleOk State.memOk) e1 (scratchCheck_memOk h)
          exact he1
        next _ e1 =>
          have he1 := ok_of_eq (exceptOk tripleOk State.memOk) e1 (scratchCheck_memOk h)
          exact vecResult_memOk he1

theorem execVpop_memOk {t : Tok} {d : BitVec 8} (h : s.memOk) : outOk (execVpop t d s) :=
  cpWord_memOk (fun _ h => onCur_memOk (vecResult_memOk h)) h

theorem execVout_memOk {t : Tok} {d : BitVec 8} {m : BitVec 4} {imm : BitVec 24} (h : s.memOk) : outOk (execVout t d m imm s) :=
  cpWord_memOk (fun _ h => ite_ok cpOk rfl (addPend_memOk h)) h

theorem vldChecked_memOk {hd m : BitVec 4} {imm : BitVec 24} {k : AccKind} {go : List Nat → State → State} (h : s.memOk) (h_go : ∀ x0 s,
  s.memOk → (go x0 s).memOk) :
    cpOk (vldChecked hd m imm k s go) := by
  unfold vldChecked
  dsimp only
  split
  · rfl
  · split
    · rfl
    · split
      next _ _ _ e2 =>
        have he2 := ok_of_eq (exceptOk tripleOk State.memOk) e2 (scratchCheck_memOk h)
        exact he2
      next _ e2 =>
        have he2 := ok_of_eq (exceptOk tripleOk State.memOk) e2 (scratchCheck_memOk h)
        exact h_go _ _ he2

theorem execVld_memOk {t : Tok} {d : BitVec 8} {hd m : BitVec 4} {imm : BitVec 24} (h : s.memOk) : outOk (execVld t d hd m imm s) :=
  cpWord_memOk (fun _ h => vldChecked_memOk h (fun _ _ h => vecResult_memOk h)) h

theorem storeGroups_memOk {b : Nat} {v : Lanes} {xs : List Nat} {n : Nat} (h : s.memOk) : (storeGroups b v xs n s).memOk := by
  induction xs generalizing n s with
  | nil => exact h
  | cons x r ih => exact ih (cpStore_memOk h)

theorem execVst_memOk {t : Tok} {d : BitVec 8} {hd m : BitVec 4} {imm : BitVec 24} (h : s.memOk) : outOk (execVst t d hd m imm s) :=
  cpWord_memOk (fun _ h => vldChecked_memOk h (fun _ _ h => addPend_memOk (storeGroups_memOk h))) h

theorem execCpTmark_memOk {t : Tok} {tag : BitVec 20} (h : s.memOk) : outOk (execCpTmark t tag s) :=
  cpWord_memOk (fun _ h => addPend_memOk (trace_memOk h)) h

theorem execXop_memOk {t : Tok} {slot : BitVec 5} {d a b c e : BitVec 8} (h : s.memOk) : outOk (execXop t slot d a b c e s) := by
  unfold execXop
  refine cpWord_memOk (fun _ h => ite_ok cpOk rfl ?_) h
  split
  · rfl
  · exact addPend_memOk h

theorem atPinDo_memOk {rel : BitVec 1} {target : BitVec 39} (h : s.memOk) : (atPinDo rel target s).memOk :=
  ite_memOk h (onCur_memOk (advanceRing_memOk (takeSeq_memOk h)))

theorem missPin_memOk (h : s.memOk) : (missPin s).memOk := by
  unfold missPin
  split
  · exact h
  · exact ite_memOk h (ite_memOk (askStop_memOk h) (onCur_memOk (stopStream_memOk h)))

theorem execCpRep_memOk {t : Tok} {cnt : BitVec 16} {len : BitVec 8} (h : s.memOk) : outOk (execCpRep t cnt len s) := by
  unfold execCpRep
  refine ite_memOk h ?_
  split
  · exact onCur_memOk (passBody_memOk (repWork_memOk (takePops_memOk (ite_memOk h (grpNext_memOk h)))))
  · exact onCur_memOk (grpNext_memOk h)
  · exact h

/-! ### Array: the array -/

theorem accSet_memOk {c : Nat × Nat} {v : W32} {int : Bool} (h : s.memOk) : (s.accSet c v int).memOk := ite_memOk h (onCt_memOk h)

theorem accumulate_memOk {x : RowWrite} {a : ArrCmd} {j : Nat} (h : s.memOk) : (accumulate x a j s).2.memOk := by
  unfold accumulate
  dsimp only
  split
  · exact accSet_memOk h
  · split
    next _ e1 =>
      have he1 := ok_of_eq (exceptOk State.memOk State.memOk) e1 (readCells_memOk h)
      exact he1
    next _ e1 =>
      have he1 := ok_of_eq (exceptOk State.memOk State.memOk) e1 (readCells_memOk h)
      exact ite_pairOk (accSet_memOk he1) (accSet_memOk he1)

theorem emitRow_memOk {a : ArrCmd} {e : RowEmit} (h : s.memOk) : (emitRow a e s).2.memOk := by
  unfold emitRow
  dsimp only
  split
  · exact h
  · split
    · exact cpWrite_memOk h
    · exact onCur_memOk h
    · exact onCur_memOk h

theorem onArr_memOk {seq : Nat} {f : ArrCmd → ArrCmd} (h : s.memOk) : (s.onArr seq f).memOk := onCur_memOk h

theorem writeColAt_memOk {v : Nat} {x : RowWrite} (h : s.memOk) : (writeColAt v s x).memOk := by
  unfold writeColAt
  split
  · exact h
  · exact onArr_memOk (accumulate_memOk h)

theorem writeOne_memOk {a : VcWrite} (h : s.memOk) : (writeOne s a).memOk := by
  unfold writeOne
  split
  · exact finishPend_memOk h
  · exact writeColAt_memOk h

theorem vcWrites_memOk {array : Bool} (h : s.memOk) : (vcWrites array s).memOk :=
  onCur_memOk (foldl_memOk (fun _ _ h => writeOne_memOk h) _ h)

theorem readRow_memOk {e : RowEmit} (h : s.memOk) : (readRow s e).memOk := by
  unfold readRow
  split
  · exact h
  · split
    next _ e1 =>
      have he1 := ok_of_eq (exceptOk State.memOk State.memOk) e1 (readCells_memOk h)
      exact he1
    next _ e1 =>
      have he1 := ok_of_eq (exceptOk State.memOk State.memOk) e1 (readCells_memOk h)
      exact ite_memOk (foldl_memOk (fun _ _ h => accSet_memOk h) _ (onCur_memOk he1)) (onCur_memOk he1)

theorem arrayAt_memOk {v : Nat} (h : s.memOk) : (arrayAt v s).memOk :=
  foldl_memOk (fun _ _ h => readRow_memOk h) _ (foldl_memOk (fun _ _ h => writeColAt_memOk h) _ h)

theorem finishRows_memOk (h : s.memOk) : (finishRows s).memOk := onCur_memOk (foldl_memOk (fun _ _ h => arrayAt_memOk h) _ h)

theorem emitDue_memOk {e : RowEmit} (h : s.memOk) : (emitDue s e).memOk := by
  unfold emitDue
  split
  · exact h
  · exact onArr_memOk (emitRow_memOk h)

theorem finishArr_memOk {a : ArrCmd} (h : s.memOk) : (finishArr s a).memOk :=
  addDone_memOk (ite_memOk (onCur_memOk (flag_memOk h)) (flag_memOk h))

theorem finishCfg_memOk {c : CfgCmd} (h : s.memOk) : (finishCfg s c).memOk := by
  unfold finishCfg
  refine addDone_memOk (foldl_memOk (fun _ _ h => settle_memOk (cpWrite_memOk h)) _ (cpFlush_memOk ?_))
  split
  · exact onCur_memOk h
  · exact h

theorem finishLoad_memOk {x : LoadCmd} (h : s.memOk) : (finishLoad s x).memOk := addDone_memOk (onCur_memOk (flag_memOk h))

theorem arrayStart_memOk (h : s.memOk) : (arrayStart s).memOk := by
  unfold arrayStart
  exact onCur_memOk (foldl_memOk (fun _ _ h => finishArr_memOk h) _ (onCur_memOk (foldl_memOk (fun _ _ h => emitDue_memOk h) _
    (foldl_memOk (fun _ _ h => readRow_memOk h) _ h))))

theorem emitFitting_memOk (h : s.memOk) : (emitFitting s).memOk := onCur_memOk (foldl_memOk (fun _ _ h => emitDue_memOk h) _ h)

theorem vcStart_memOk (h : s.memOk) : (vcStart s).memOk := by
  unfold vcStart
  grind +splitImp [State.memOk, finishLoad_memOk, vcWrites_memOk, arrayStart_memOk, finishCfg_memOk, emitFitting_memOk, onCur_memOk,
    !foldl_memOk]

theorem enterRow_memOk {a : ArrCmd} {row out plane : Nat} {emit : Bool} {as sa : List Nat} (h : s.memOk) :
    (enterRow a row out plane emit as sa s).memOk :=
  onArr_memOk (onCur_memOk h)

theorem popFifo_memOk (h : s.memOk) : (popFifo s).all (·.2.memOk) := by
  unfold popFifo
  split
  · rfl
  · split
    · exact ite_ok (Option.all pairOk) (asLease_memOk h (fun _ h => onCur_memOk h)) rfl
    · rfl

theorem mulIntake_memOk {a : ArrCmd} (h : s.memOk) : (mulIntake a s).memOk := by
  unfold mulIntake
  dsimp only
  split
  · exact h
  · split
    · split
      · refine onArr_memOk (ite_memOk ?_ (enterRow_memOk h))
        split
        · exact h
        next _ _ e1 =>
          have he1 := ok_of_eq (Option.all pairOk) e1 (popFifo_memOk h)
          exact enterRow_memOk he1
      · split
        · split
          · exact h
          next _ _ e1 =>
            have he1 := ok_of_eq (Option.all pairOk) e1 (popFifo_memOk h)
            exact enterRow_memOk he1
        · exact enterRow_memOk h
    · split
      · split
        · exact h
        next _ _ e1 =>
          have he1 := ok_of_eq (Option.all pairOk) e1 (popFifo_memOk h)
          exact enterRow_memOk he1
      · exact enterRow_memOk h

theorem bsIntake_memOk {a : ArrCmd} (h : s.memOk) : (bsIntake a s).memOk := by
  grind [bsIntake, State.memOk, onArr_memOk, onCur_memOk, enterRow_memOk]

theorem writeCol_memOk {x : LoadCmd} {j : Nat} {bs sc : List Byte} (h : s.memOk) : (writeCol s x j bs sc).memOk := by
  unfold writeCol
  split
  · exact onCur_memOk h

theorem globalRow_memOk {ex : Bool} {x : LoadCmd} {xs : List Nat} {n : Nat} (h : s.memOk) :
    exceptOk (accOk ·.1) (·.2.memOk) (globalRow ex x xs n s) := by
  induction xs generalizing n s with
  | nil => exact h
  | cons x r ih => grind [globalRow, State.memOk, accOk, exceptOk, farAsk_memOk, !accessGlobal_memOk]

theorem requestRow_memOk {x : LoadCmd} (h : s.memOk) : (requestRow x s).memOk := by
  grind [requestRow, State.memOk, accOk, exceptOk, rsupDone_memOk, stopStream_memOk, !globalRow_memOk, isolation_memOk, onCur_memOk,
    park_memOk]

theorem loadStep_memOk (h : s.memOk) : (loadStep s).memOk := by
  unfold loadStep
  dsimp only
  split
  · exact h
  · split
    · exact h
    · split
      · exact ite_memOk (onCur_memOk h) h
      · split
        · exact onCur_memOk h
        · exact ite_memOk (onCur_memOk (writeCol_memOk h)) (ite_memOk h (requestRow_memOk (onCur_memOk h)))

theorem execMxldRowArrival_memOk {l j : Nat} (h : s.memOk) : outOk (execMxldRowArrival l j s) := by
  unfold execMxldRowArrival
  refine onLease_memOk h (fun _ h => ?_)
  split
  · exact h
  · split
    · exact h
    · dsimp only
      split
      · exact h
      next _ _ e1 =>
        have he1 := ok_of_eq (Option.all pairOk) e1 (input_memOk h)
        exact onCur_memOk (writeCol_memOk (foldl_memOk (fun _ _ h => forgetRow_memOk h) _ he1))

theorem stopArr_memOk {a : ArrCmd} (h : s.memOk) : (stopArr a s).memOk := onCur_memOk (onArr_memOk h)

theorem intake_memOk {a : ArrCmd} (h : s.memOk) : (intake s a).memOk := by
  unfold intake
  split
  · exact h
  · split
    · exact stopArr_memOk h
    · split
      · exact bsIntake_memOk h
      · exact mulIntake_memOk h

theorem vcEnd_memOk (h : s.memOk) : (vcEnd s).memOk := by
  unfold vcEnd
  split
  · exact h
  · exact onCur_memOk (foldl_memOk (fun _ _ h => addDone_memOk (onCur_memOk h)) _ (loadStep_memOk (ite_memOk (onCur_memOk h) (foldl_memOk
      (fun _ _ h => intake_memOk h) _ h))))

theorem spansCheck_memOk {slot : Nat} {rd wr : List (Nat × Nat)} (h : s.memOk) :
    exceptOk (·.2.2.memOk) State.memOk (spansCheck slot rd wr s) :=
  scratchCheck_memOk h

theorem issueMul_memOk {kind : ArrKind} {t : Tok} {hd g acc : BitVec 4} {f : BitVec 8} {imm : BitVec 20} (h : s.memOk) :
    cpOk (issueMul kind t hd g acc f imm s) := by
  grind [issueMul, State.memOk, cpOk, exceptOk, takeSeq_memOk, !spansCheck_memOk, onCur_memOk]

theorem issueBs_memOk {t : Tok} {hd g acc : BitVec 4} {f : BitVec 8} {imm : BitVec 20} (h : s.memOk) :
    cpOk (issueBs t hd g acc f imm s) := by
  grind [issueBs, State.memOk, cpOk, exceptOk, takeSeq_memOk, !spansCheck_memOk, onCur_memOk]

theorem issueDrain_memOk {t : Tok} {g acc : BitVec 4} {f : BitVec 8} {imm : BitVec 20} (h : s.memOk) :
    cpOk (issueDrain t g acc f imm s) := by
  unfold issueDrain
  grind +splitImp [State.memOk, cpOk, exceptOk, readRow_memOk, takeSeq_memOk, !spansCheck_memOk, onCur_memOk, !foldl_memOk]

theorem issueLoad_memOk {t : Tok} {g : BitVec 4} {pro sgn : BitVec 1} (h : s.memOk) : cpOk (issueLoad t g pro sgn s) := by
  unfold issueLoad
  dsimp only
  split
  · rfl
  · split
    next _ _ _ e1 =>
      have he1 := ok_of_eq (exceptOk tripleOk State.memOk) e1 (spansCheck_memOk h)
      exact he1
    next _ e1 =>
      have he1 := ok_of_eq (exceptOk tripleOk State.memOk) e1 (spansCheck_memOk h)
      exact onCur_memOk (takeSeq_memOk he1)

theorem execMxswap_memOk {t : Tok} (h : s.memOk) : outOk (execMxswap t s) := cpWord_memOk (fun _ h => onCur_memOk (takeSeq_memOk h)) h

theorem issueCfg_memOk {t : Tok} {hd : BitVec 4} {imm : BitVec 20} (h : s.memOk) : cpOk (issueCfg t hd imm s) := by
  unfold issueCfg
  dsimp only
  split
  · rfl
  · split
    next _ _ _ e1 =>
      have he1 := ok_of_eq (exceptOk tripleOk State.memOk) e1 (spansCheck_memOk h)
      exact he1
    next _ e1 =>
      have he1 := ok_of_eq (exceptOk tripleOk State.memOk) e1 (spansCheck_memOk h)
      split
      · exact he1
      · exact onCur_memOk (takeSeq_memOk he1)

theorem addAcc_memOk {i : Instr} {t : Tok} {ws : List (Nat × Lanes)} {clr : Bool} (h : s.memOk) : (s.addAcc i t ws clr).memOk :=
  onCur_memOk (addPend_memOk h)

theorem execMxzero_memOk {t : Tok} {acc : BitVec 4} (h : s.memOk) : outOk (execMxzero t acc s) :=
  cpWord_memOk (fun _ h => ite_ok cpOk rfl (addAcc_memOk h)) h

theorem execMxrd_memOk {t : Tok} {acc : BitVec 4} {v : BitVec 8} {r : BitVec 9} (h : s.memOk) : outOk (execMxrd t acc v r s) := by
  unfold execMxrd
  refine cpWord_memOk (fun _ h => ?_) h
  dsimp only
  split
  · rfl
  · split
    next _ e1 =>
      have he1 := ok_of_eq (exceptOk State.memOk State.memOk) e1 (readRegs_memOk h)
      exact he1
    next _ e1 =>
      have he1 := ok_of_eq (exceptOk State.memOk State.memOk) e1 (readRegs_memOk h)
      exact addPend_memOk he1

theorem execMxwr_memOk {t : Tok} {acc : BitVec 4} {v : BitVec 8} {r : BitVec 9} (h : s.memOk) : outOk (execMxwr t acc v r s) := by
  unfold execMxwr
  refine cpWord_memOk (fun _ h => ?_) h
  dsimp only
  split
  · rfl
  · exact addAcc_memOk h

/-! ### LsOps: what LD and SD commands share -/

theorem onCmd_memOk {k : Nat} {f : Cmd → Cmd} (h : s.memOk) : (s.onCmd k f).memOk := onCur_memOk h

theorem releaseEdges_memOk {c : Cmd} (h : s.memOk) : (s.releaseEdges c).memOk :=
  ite_memOk h (foldl_memOk (fun _ _ h => acquire_memOk h) _ (release_memOk h))

theorem finishCmd_memOk {k : Nat} {bit : Option Bool} (h : s.memOk) : (s.finishCmd k bit).memOk := by
  unfold State.finishCmd
  split
  · exact h
  · exact addDone_memOk (onCur_memOk (releaseEdges_memOk (flag_memOk h)))

theorem finishCard_memOk {c : Cmd} (h : s.memOk) : (s.finishCard c).memOk := by
  unfold State.finishCard
  dsimp only
  split
  · split
    · exact finishCmd_memOk (onCur_memOk (releaseEdges_memOk (ite_memOk (cardWrite_memOk h) h)))
    · exact onCur_memOk (releaseEdges_memOk (ite_memOk (cardWrite_memOk h) h))
  · exact onCur_memOk (releaseEdges_memOk (ite_memOk (cardWrite_memOk h) h))

theorem lateStop_memOk {k : Nat} {cause : Cause} {i : List W64} (h : s.memOk) : (s.lateStop k cause i).memOk := by
  unfold State.lateStop
  split
  · exact h
  · exact ite_memOk h (onStream_memOk (stopStream_memOk h))

theorem parkCmd_memOk {c : Cmd} {cause : Cause} {malformed : Bool} {k : AccKind} {va tier : Nat} (h : s.memOk) :
    (s.parkCmd c cause malformed k va tier).memOk :=
  onCmd_memOk (park_memOk h)

theorem cmdStop_memOk {c : Cmd} {k : AccKind} {va : Nat} {a : AccRes} (h : s.memOk) (h_a : accOk a) : (s.cmdStop c k va a).memOk := by
  unfold State.cmdStop
  split
  · exact h_a
  · exact h_a
  · exact lateStop_memOk (ite_memOk h h_a)
  · exact parkCmd_memOk h_a
  · exact isolation_memOk h_a

theorem touchLoc_memOk {c : Cmd} {k : AccKind} {loc : Loc} {fresh : Bool} (h : s.memOk) : accOk (touchLoc c k loc fresh s) := by
  unfold touchLoc
  split
  · exact ite_ok accOk (accessScratch_memOk h) h
  · split
    · exact accessGlobal_memOk h
    · split
      next _ _ e1 =>
        have he1 := ok_of_eq pairOk e1 (translate_memOk h)
        exact he1
      next _ e1 =>
        have he1 := ok_of_eq pairOk e1 (translate_memOk h)
        exact he1
      next _ _ _ e1 =>
        have he1 := ok_of_eq pairOk e1 (translate_memOk h)
        exact he1
      next _ _ _ e1 =>
        have he1 := ok_of_eq pairOk e1 (translate_memOk h)
        exact he1
      next _ _ _ _ e1 =>
        have he1 := ok_of_eq pairOk e1 (translate_memOk h)
        exact he1
  · exact h

theorem holdBank_memOk {id a : Nat} (h : s.memOk) : (s.holdBank id a).memOk := onCur_memOk h

theorem readLoc_memOk {c : Cmd} {loc : Loc} {t : Tr} {n : Nat} (h : s.memOk) : (readLoc c loc t n s).2.memOk := by
  unfold readLoc
  split
  · exact holdBank_memOk h
  · exact readTr_memOk h
  · exact h
  · exact nextFree_memOk h
  · exact h
  · exact h

theorem writeLoc_memOk {c : Cmd} {loc : Loc} {t : Tr} {bs : List Byte} (h : s.memOk) : (writeLoc c loc t bs s).memOk := by
  unfold writeLoc
  split
  · exact holdBank_memOk (winWrite_memOk _ _ h)
  · exact writeTr_memOk _ _ _ h
  · exact h

theorem skipRows_memOk {k : Nat} (h : s.memOk) : (s.skipRows k).memOk := by
  unfold State.skipRows
  split
  · exact h
  · exact ite_memOk h (onCmd_memOk (onCur_memOk h))

theorem dqBegin_memOk {c : Cmd} (h : s.memOk) : (dqBegin c s).all State.memOk := by
  unfold dqBegin
  split
  · exact h
  · split
    · rfl
    · split
      · split
        · rfl
        · exact onCmd_memOk (onCur_memOk h)
      · exact ite_ok (Option.all State.memOk) (ite_ok (Option.all State.memOk) rfl h) h

theorem dqEnd_memOk {k : Nat} (h : s.memOk) : (dqEnd k s).memOk := by
  unfold dqEnd
  split
  · exact h
  · exact ite_memOk (onCmd_memOk (onCur_memOk h)) h

theorem askFar_memOk {c : Cmd} {to_ : Nat × Nat} {virt : Option Nat} {kind va data cmp : Nat} {bs : List Byte} (h : s.memOk) :
    (s.askFar c to_ virt kind va data cmp bs).memOk :=
  sendFabric_memOk (onCmd_memOk (addReq_memOk h))

theorem sendFar_memOk {c : Cmd} {kind va data cmp : Nat} {bs : List Byte} (h : s.memOk) : (s.sendFar c kind va data cmp bs).memOk := by
  unfold State.sendFar
  split
  · exact lateStop_memOk h
  · exact askFar_memOk h

theorem windowWrite_memOk {c : Cmd} {off : Nat} {bs : List Byte} (h : s.memOk) :
    exceptOk State.memOk State.memOk (windowWrite c off bs s) := by
  unfold windowWrite
  split
  · exact lateStop_memOk h
  · dsimp only
    split
    · exact lateStop_memOk h
    · split
      · exact h
      · split
        · exact h
        · split
          next _ _ _ e1 =>
            have he1 := ok_of_eq (exceptOk tripleOk State.memOk) e1 (raceCheck_memOk h)
            exact lateStop_memOk he1
          next _ e1 =>
            have he1 := ok_of_eq (exceptOk tripleOk State.memOk) e1 (raceCheck_memOk h)
            exact writeBytes_memOk (asLease_memOk he1 (fun _ h => holdBank_memOk (ite_memOk h (getD_snd_memOk (input_memOk h) h))))

theorem unretry_memOk {c : Cmd} (h : s.memOk) : (s.unretry c).memOk :=
  ite_memOk (onCmd_memOk (ite_memOk (onStream_memOk h) h)) (ite_memOk (onStream_memOk h) h)

theorem cmdStep_memOk {k : Nat} {f : State → State} (h_f : ∀ s, s.memOk → (f s).memOk) (h : s.memOk) : (cmdStep k f s).memOk := by
  unfold cmdStep
  dsimp only
  split
  · exact h_f _ h
  · split
    · exact ite_memOk (h_f _ h) (onCur_memOk (h_f _ h))
    · exact h_f _ h

theorem advanceCmd_memOk {k n : Nat} (h : s.memOk) : (s.advanceCmd k n).memOk := dqEnd_memOk (onCmd_memOk h)

theorem chunkIn_memOk {c : Cmd} {i : Nat} {bs : List Byte} (h : s.memOk) : (chunkIn c i bs s).all (·.2.memOk) :=
  ite_ok (Option.all pairOk) (input_memOk h) h

theorem storeBytes_memOk {c : Cmd} {i : Nat} {bs : List Byte} (h : s.memOk) : (storeBytes c i bs s).2.memOk := by
  grind [storeBytes, State.memOk, accOk, exceptOk, sendFar_memOk, writeLoc_memOk, !touchLoc_memOk, askFar_memOk, onCmd_memOk,
    advanceCmd_memOk, !windowWrite_memOk, cmdStop_memOk, lateStop_memOk]

theorem storeSpan_memOk {k n : Nat} {bs : List Byte} (h : s.memOk) : (storeSpan k n bs s).2.memOk := by
  induction n generalizing bs s with
  | zero => exact h
  | succ n ih => grind [storeSpan, State.memOk, storeBytes_memOk]

theorem gatherRun_memOk {c : Cmd} {j : Nat} (h : s.memOk) : gatherOk (gatherRun c j s) := by
  unfold gatherRun
  extract_lets sl n taken
  have ht := touchLoc_memOk (c := c) (k := .read) (loc := sl) (fresh := c.reaches cmdSrc j) h
  clear_value taken n sl
  split
  · exact h
  · split
    · grind [State.memOk, accOk, gatherOk, readLoc_memOk, farForget_memOk, farAsk_memOk, sendFar_memOk, !touchLoc_memOk, cmdStop_memOk,
        !chunkIn_memOk]
    · split
      · next e => rw [e] at ht; exact ht
      · next t s' e => 
        rw [e] at ht
        extract_lets r
        have hr : r.all (·.2.memOk) := by
          dsimp only [r]
          split
          · cases s'.farPeek t n with
            | none => rfl
            | some bs => exact farForget_memOk (t := t) ht
          · exact readLoc_memOk (c := c) (loc := sl) (t := t) (n := n) ht
        clear_value r
        grind [State.memOk, accOk, gatherOk, readLoc_memOk, farForget_memOk, farAsk_memOk, sendFar_memOk, !touchLoc_memOk, cmdStop_memOk,
          !chunkIn_memOk]
      · exact cmdStop_memOk h ht

theorem gather_memOk {c : Cmd} {j n : Nat} (h : s.memOk) : gatherOk (gather c j n s) := by
  induction n generalizing j s with
  | zero => exact gatherRun_memOk h
  | succ n ih => grind [gather, State.memOk, gatherOk, !gatherRun_memOk]

theorem moveChunk_memOk {k budget : Nat} (h : s.memOk) : (moveChunk k budget s).2.memOk := by
  unfold moveChunk
  split
  · exact h
  · next c0 _ =>
    split
    · exact h
    · have hb := dqBegin_memOk (c := c0) h
      split
      · exact h
      · next s1 e =>
        rw [e] at hb
        split
        · exact hb
        · next c _ =>
          extract_lets i buffered need put
          have hput : ∀ bs {s : State}, s.memOk → (put bs s).2.memOk := fun bs s h => storeSpan_memOk h
          have hg := gather_memOk (c := c) (j := i + buffered) (n := 64) hb
          split
          · exact hb
          · split
            · exact hput _ hb
            · split
              · next e =>
                rw [e] at hg
                extract_lets bs s2
                have hs : s2.memOk := by
                  dsimp only [s2]
                  split
                  · exact onCmd_memOk hg
                  · exact hg
                split
                · exact hput _ hs
                · exact onCmd_memOk hs
              · next e => rw [e] at hg; exact hg
              · next e =>
                rw [e] at hg
                split
                · exact hput _ hb
                · exact hg

theorem moveBytes_memOk {k n m : Nat} (h : s.memOk) : (moveBytes k n m s).memOk := by
  induction n generalizing m s with
  | zero => exact h
  | succ n ih => grind [moveBytes, State.memOk, moveChunk_memOk]

theorem walkEnd_memOk {k : Nat} (h : s.memOk) : (s.walkEnd k).memOk := by
  unfold State.walkEnd
  split
  · exact h
  · exact ite_memOk h (ite_memOk (finishCard_memOk h) (finishCmd_memOk h))

theorem acceptCmd_memOk {c : Cmd} (h : s.memOk) : lsOk (acceptCmd c s) := ite_ok lsOk h (onCur_memOk h)

theorem emptyCmd_memOk {t : Tok} {bit : Option Bool} (h : s.memOk) : lsOk (emptyCmd t bit s) := addDone_memOk (takeSeq_memOk h)

theorem checked_memOk {bad : Option Cause} {f : LsRes} (h_f : lsOk f) : lsOk (checked bad f) := by
  unfold checked
  split
  · rfl
  · exact h_f

/-! ### LsCopy: moving commands -/

theorem moveCmd_memOk {t : Tok} {c : Cmd} {total : Nat} {fp : List FpRange} (h : s.memOk) : lsOk (moveCmd t c total fp s) :=
  ite_ok lsOk (emptyCmd_memOk h) (acceptCmd_memOk h)

theorem execCopy_memOk {t : Tok} {dh sh : BitVec 4} {scope : BitVec 2} (h : s.memOk) : outOk (execCopy t dh sh scope s) :=
  lsWord_memOk (fun _ _ h => checked_memOk (moveCmd_memOk h)) h

theorem execCopyDq_memOk {t : Tok} {dh sh : BitVec 4} {scope : BitVec 2} (h : s.memOk) : outOk (execCopyDq t dh sh scope s) :=
  lsWord_memOk (fun _ _ h => checked_memOk (moveCmd_memOk h)) h

theorem issueRead_memOk {scope : BitVec 2} {a n : Nat} {k : List Byte → State → LsRes} (h : s.memOk) (h_k : ∀ x0 s, s.memOk → lsOk
  (k x0 s)) :
    lsOk (issueRead scope a n s k) := by
  unfold issueRead
  split
  · rfl
  · dsimp only
    split
    next _ _ _ e2 =>
      have he2 := ok_of_eq (exceptOk tripleOk State.memOk) e2 (scratchCheck_memOk h)
      exact he2
    next _ e2 =>
      have he2 := ok_of_eq (exceptOk tripleOk State.memOk) e2 (scratchCheck_memOk h)
      exact h_k _ _ he2

theorem execCopyp_memOk {t : Tok} {dh sh xh : BitVec 4} {dq : BitVec 1} {scope : BitVec 2} (h : s.memOk) :
    outOk (execCopyp t dh sh xh dq scope s) := by
  unfold execCopyp
  exact lsWord_memOk (fun _ _ h => checked_memOk (issueRead_memOk h (fun _ _ h => ite_ok lsOk rfl (ite_ok lsOk (emptyCmd_memOk h)
    (ite_ok lsOk rfl (ite_ok lsOk rfl (moveCmd_memOk h))))))) h

theorem execGath_memOk {t : Tok} {dh sh xh : BitVec 4} {dq : BitVec 1} {scope : BitVec 2} {m : BitVec 4} (h : s.memOk) :
    outOk (execGath t dh sh xh dq scope m s) :=
  lsWord_memOk (fun _ _ h => checked_memOk (issueRead_memOk h (fun _ _ h => moveCmd_memOk h))) h

theorem execScat_memOk {t : Tok} {dh sh xh : BitVec 4} {dq : BitVec 1} {scope : BitVec 2} (h : s.memOk) :
    outOk (execScat t dh sh xh dq scope s) := by
  unfold execScat
  exact lsWord_memOk (fun _ _ h => checked_memOk (issueRead_memOk h (fun _ _ h => ite_ok lsOk (moveCmd_memOk h) (acceptCmd_memOk h)))) h

theorem execRread_memOk {t : Tok} {dh sh : BitVec 4} {dq : BitVec 1} {scope : BitVec 2} (h : s.memOk) :
    outOk (execRread t dh sh dq scope s) :=
  lsWord_memOk (fun _ _ h => checked_memOk (moveCmd_memOk h)) h

theorem rwriteWork_memOk {t : Tok} {dh sh : BitVec 4} {dq : BitVec 1} {scope : BitVec 2} {win : Bool} {kind kindQ : CmdKind} (h : s.memOk) :
    lsOk (rwriteWork t dh sh dq scope win kind kindQ s) :=
  checked_memOk (moveCmd_memOk h)

theorem acceptCards_memOk {d n : Nat} (h : s.memOk) : (s.acceptCards d n).memOk := by
  induction n generalizing s with
  | zero => exact h
  | succ n ih =>
    have card : ∀ s : State, s.memOk → ∀ m n, (s.onCmd m n).memOk := fun s h m n => onCmd_memOk h
    unfold State.acceptCards
    dsimp only
    split
    · exact h
    · split
      · exact h
      · refine ih (asLease_memOk h fun s h => ?_)
        split
        · exact h
        · exact onCmd_memOk h

theorem globalCards_memOk {scope : BitVec 2} {st : Stream} {slot : Nat} {xs : List Nat} {bs : List Byte} {k : List Byte → State → LsRes}
  (h : s.memOk) (h_k : ∀ x0 s, s.memOk → lsOk (k x0 s)) :
    lsOk (globalCards scope st slot xs s bs k) := by
  induction xs generalizing s bs with
  | nil => exact h_k _ _ h
  | cons x r ih => grind [globalCards, State.memOk, accOk, lsOk, farAsk_memOk, readTr_memOk, isolation_memOk, !accessGlobal_memOk]

theorem execJob_memOk {t : Tok} {sh : BitVec 4} {scope : BitVec 2} {n : BitVec 20} (h : s.memOk) : outOk (execJob t sh scope n s) := by
  refine lsWord_memOk (fun st s h => ?_) h
  extract_lets l hd n accept
  have ha : ∀ bs s, s.memOk → lsOk (accept bs s) := fun bs s h => by grind [State.memOk, lsOk, outOk, !lsWord_memOk, !checked_memOk,
    acceptCards_memOk, !issueRead_memOk, !globalCards_memOk, forgetRow_memOk, !acceptCmd_memOk, !input_memOk, onCur_memOk]
  clear_value accept
  refine checked_memOk ?_
  split
  · exact issueRead_memOk h ha
  · refine globalCards_memOk h fun bs s h => ?_
    have := @input_memOk
    grind [State.memOk, lsOk, outOk, !lsWord_memOk, !checked_memOk, acceptCards_memOk, !issueRead_memOk, !globalCards_memOk,
      forgetRow_memOk, !acceptCmd_memOk, !input_memOk, onCur_memOk]

theorem copyUnit_memOk {k : Nat} (h : s.memOk) : (copyUnit k s).memOk := by
  unfold copyUnit
  refine cmdStep_memOk (fun _ h => ?_) h
  split
  · exact h
  · exact ite_memOk h (walkEnd_memOk (skipRows_memOk (moveBytes_memOk (skipRows_memOk (unretry_memOk h)))))

/-! ### LsSlice: commands of the slice operators -/

theorem maintain_memOk {t : Tok} {sh : BitVec 4} {scope : BitVec 2} {kind : CmdKind} {view : Bool} {fp : Handle → List FpRange}
  (h : s.memOk) :
    lsOk (maintain t sh scope kind view fp s) :=
  checked_memOk (moveCmd_memOk h)

theorem execDcmpf_memOk {t : Tok} {sh : BitVec 4} {scope : BitVec 2} (h : s.memOk) : outOk (execDcmpf t sh scope s) :=
  lsWord_memOk (fun _ _ h => maintain_memOk h) h

theorem execAtomv_memOk {t : Tok} {dh sh : BitVec 4} {dq : BitVec 1} {scope : BitVec 2} {m : BitVec 4} (h : s.memOk) :
    outOk (execAtomv t dh sh dq scope m s) :=
  lsWord_memOk (fun _ _ h => checked_memOk (moveCmd_memOk h)) h

theorem maintStep_memOk {c : Cmd} {n : Nat} (h : s.memOk) : (maintStep c n s).memOk :=
  ite_memOk (finishCmd_memOk (onCmd_memOk h)) (onCmd_memOk h)

theorem prefLine_memOk {c : Cmd} {n : Nat} (h : s.memOk) : (prefLine c n s).memOk := by
  unfold prefLine
  dsimp only
  split
  · exact maintStep_memOk h
  · split
    next _ _ e1 =>
      have he1 := ok_of_eq pairOk e1 (translate_memOk h)
      exact maintStep_memOk (ite_memOk he1 (touchLine_memOk _ _ _ he1))
    next _ e1 =>
      have he1 := ok_of_eq pairOk e1 (translate_memOk h)
      exact he1
    next _ _ _ e1 =>
      have he1 := ok_of_eq pairOk e1 (translate_memOk h)
      exact isolation_memOk he1
    next _ _ _ _ e1 =>
      have he1 := ok_of_eq pairOk e1 (translate_memOk h)
      exact maintStep_memOk he1

theorem flushPart_memOk {c : Cmd} {n : Nat} {drop : Bool} (h : s.memOk) : (flushPart c n drop s).memOk := by
  unfold flushPart
  dsimp only
  split
  · exact maintStep_memOk h
  · split
    next _ _ e1 =>
      have he1 := ok_of_eq pairOk e1 (translate_memOk h)
      exact maintStep_memOk (flushLine_memOk _ _ _ he1)
    next _ e1 =>
      have he1 := ok_of_eq pairOk e1 (translate_memOk h)
      exact he1
    next _ _ _ e1 =>
      have he1 := ok_of_eq pairOk e1 (translate_memOk h)
      exact isolation_memOk he1
    next _ _ _ _ e1 =>
      have he1 := ok_of_eq pairOk e1 (translate_memOk h)
      exact maintStep_memOk he1

theorem dcmpfLine_memOk {c : Cmd} {n : Nat} (h : s.memOk) : (dcmpfLine c n s).memOk := by
  unfold dcmpfLine
  dsimp only
  split
  · exact maintStep_memOk h
  · split
    · exact maintStep_memOk h
    · split
      · exact maintStep_memOk h
      · split
        next _ _ e1 =>
          have he1 := ok_of_eq pairOk e1 (translate_memOk h)
          exact maintStep_memOk (ite_memOk (reconcile_memOk _ he1) (reconcile_memOk _ (reconcile_memOk _ he1)))
        next _ e1 =>
          have he1 := ok_of_eq pairOk e1 (translate_memOk h)
          exact he1
        next _ _ _ e1 =>
          have he1 := ok_of_eq pairOk e1 (translate_memOk h)
          exact isolation_memOk he1
        next _ _ _ e1 =>
          have he1 := ok_of_eq pairOk e1 (translate_memOk h)
          exact lateStop_memOk he1
        next _ _ _ _ e1 =>
          have he1 := ok_of_eq pairOk e1 (translate_memOk h)
          exact maintStep_memOk he1

theorem globalParts_memOk {c : Cmd} {k : AccKind} {xs : List (Nat × Nat)} (h : s.memOk) :
    exceptOk State.memOk (·.2.memOk) (globalParts c k xs s) := by
  induction xs generalizing s with
  | nil => exact h
  | cons x r ih => 
    have hx := accessGlobal_memOk (a := c.access k x.1) (view := false) h
    unfold globalParts
    split
    · next t s e =>
      rw [e] at hx
      have := ih hx
      revert this
      cases globalParts c k r s <;> exact id
    · exact cmdStop_memOk h hx

theorem readParts_memOk {xs : List (Tr × Nat)} (h : s.memOk) : (readParts xs s).2.memOk := by
  induction xs generalizing s with
  | nil => exact h
  | cons x r ih => grind [readParts, State.memOk, readTr_memOk]

theorem writeParts_memOk {xs : List (Tr × Nat)} {bs : List Byte} (h : s.memOk) : (writeParts xs bs s).memOk := by
  induction xs generalizing bs s with
  | nil => exact h
  | cons x r ih => exact ih (writeTr_memOk _ _ _ h)

theorem atomvSource_memOk {c : Cmd} {w : Nat} (h : s.memOk) : (atomvSource c w s).2.memOk := by
  unfold atomvSource
  split
  · split
    · split
      · exact h
      · exact onCmd_memOk (onCur_memOk h)
    · exact h
  · dsimp only
    split
    next _ _ _ e1 =>
      have he1 := ok_of_eq (exceptOk tripleOk State.memOk) e1 (cmdScratchCheck_memOk h)
      exact lateStop_memOk he1
    next _ e1 =>
      have he1 := ok_of_eq (exceptOk tripleOk State.memOk) e1 (cmdScratchCheck_memOk h)
      exact he1

theorem farElem_memOk {c : Cmd} {parts : List (Tr × Nat)} {bs : List Byte} (h : s.memOk) : (farElem c parts bs s).memOk := by
  unfold farElem
  split
  · exact ite_memOk (lateStop_memOk h) (askFar_memOk h)
  · exact lateStop_memOk h

theorem atomvElem_memOk {c : Cmd} (h : s.memOk) : (atomvElem c s).memOk := by
  grind [atomvElem, State.memOk, exceptOk, !globalParts_memOk, finishCmd_memOk, readParts_memOk, onCmd_memOk, atomvSource_memOk,
    writeParts_memOk, farElem_memOk]

theorem sliceUnit_memOk {k : Nat} (h : s.memOk) : (sliceUnit k s).memOk := by
  unfold sliceUnit
  split
  · exact h
  · split
    · exact h
    · refine cmdStep_memOk (fun _ h => ?_) h
      dsimp only
      split
      · exact prefLine_memOk (unretry_memOk h)
      · exact flushPart_memOk (unretry_memOk h)
      · exact flushPart_memOk (unretry_memOk h)
      · exact dcmpfLine_memOk (unretry_memOk h)
      · exact atomvElem_memOk (unretry_memOk h)

/-! ### Links: the die links -/

theorem setModule_memOk {m : Nat} {x : Module} (h : s.memOk) : (s.setModule m x).memOk := h

theorem sendMsg_memOk {d : Nat} {m : List Byte} (h : s.memOk) : (s.sendMsg d m).memOk := by
  unfold State.sendMsg
  dsimp only
  split
  · exact h
  · exact setModule_memOk h

theorem takeMsg_memOk {d : Nat} {m : List Byte} (h : s.memOk) : (s.takeMsg d m).memOk := by
  unfold State.takeMsg
  split
  · exact sendMsg_memOk h
  · dsimp only
    split
    · exact h
    · exact h
    · exact h
    · split
      · exact h
      · split
        · exact h
        · exact h

theorem moduleDown_memOk {m : Nat} (h : s.memOk) : (s.moduleDown m).memOk :=
  foldl_memOk (fun _ _ h => setModule_memOk h) _ (foldl_memOk (fun _ _ h => setModule_memOk h) _ (setModule_memOk h))

theorem startRetrain_memOk {m : Nat} {wide : Bool} (h : s.memOk) : (s.startRetrain m wide).memOk := setModule_memOk h

theorem countFail_memOk {m : Nat} {toB : Bool} (h : s.memOk) : (s.countFail m toB).memOk := by
  unfold State.countFail
  dsimp only
  split
  · exact setModule_memOk h
  · exact ite_memOk (startRetrain_memOk (setModule_memOk h)) (moduleDown_memOk (setModule_memOk h))

theorem offWire_memOk {m : Nat} {toB : Bool} {hd : BitVec 32} {p : List Byte} (h : s.memOk) : (s.offWire m toB hd p).memOk := by
  unfold State.offWire
  dsimp only
  split
  · exact ite_memOk (setModule_memOk h) h
  · exact h

theorem goodFlit_memOk {m : Nat} {toB : Bool} {hd : BitVec 32} {p : List Byte} (h : s.memOk) : (goodFlit m toB hd p s).memOk := by
  unfold goodFlit
  dsimp only
  split
  · exact ite_memOk (setModule_memOk h) (foldl_memOk (fun _ _ h => takeMsg_memOk h) _ (setModule_memOk h))
  · exact setModule_memOk h
  · exact setModule_memOk h
  · exact setModule_memOk h
  · exact countFail_memOk h

theorem flitArrives_memOk {data : Bool} {m : Nat} {toB : Bool} {hd : BitVec 32} {p : List Byte} {crc : BitVec 32} (h : s.memOk) :
    (flitArrives data m toB hd p crc s).memOk := by
  unfold flitArrives
  dsimp only
  split
  · exact offWire_memOk h
  · split
    · exact goodFlit_memOk (offWire_memOk h)
    · exact countFail_memOk (ite_memOk (setModule_memOk (offWire_memOk h)) (offWire_memOk h))

theorem execReplayTimerExpiry_memOk {m : Nat} {atB : Bool} (h : s.memOk) : outOk (execReplayTimerExpiry m atB s) :=
  ite_memOk h (setModule_memOk h)

theorem execRetrainComplete_memOk {m : Nat} (h : s.memOk) : outOk (execRetrainComplete m s) := by
  unfold execRetrainComplete
  dsimp only
  split
  · exact h
  · exact ite_memOk h (setModule_memOk h)

theorem execHealthPolicyRetrain_memOk {m : Nat} (h : s.memOk) : outOk (execHealthPolicyRetrain m s) := ite_memOk h (startRetrain_memOk h)

theorem linksSend_memOk (h : s.memOk) : s.linksSend.memOk := h

theorem requeue_memOk (h : s.memOk) : s.requeue.memOk := by
  unfold State.requeue
  exact foldl_memOk (fun _ _ h => ite_memOk h (foldl_memOk (fun _ _ h => sendMsg_memOk h) _ (setModule_memOk (foldl_memOk
    (fun _ _ h => sendMsg_memOk h) _ (setModule_memOk h))))) _ h

theorem execDetourFixed_memOk {a b : Nat} {path : List Nat} (h : s.memOk) : outOk (execDetourFixed a b path s) :=
  ite_memOk h (requeue_memOk h)

/-! ### Ratom: RATOM -/

theorem execRatom_memOk {t : Tok} {dh sh xh : BitVec 4} {scope : BitVec 2} {m : BitVec 4} {same w64 fetch : BitVec 1} (h : s.memOk) :
    outOk (execRatom t dh sh xh scope m same w64 fetch s) :=
  lsWord_memOk (fun _ _ h => checked_memOk (ite_ok lsOk rfl (acceptCmd_memOk h))) h

theorem launchReq_memOk {die : Nat} {r : RatomReq} (h : s.memOk) : (s.launchReq die r).memOk := by
  unfold State.launchReq
  split
  · split
    · exact sendMsg_memOk h
    · exact h
  · exact ite_memOk (takeMsg_memOk h) h

theorem ratomOperand_memOk {c : Cmd} (h : s.memOk) : exceptOk State.memOk (·.2.2.memOk) (ratomOperand c s) := by
  unfold ratomOperand
  dsimp only
  split
  next _ _ _ e1 =>
    have he1 := ok_of_eq (exceptOk tripleOk State.memOk) e1 (cmdScratchCheck_memOk h)
    exact lateStop_memOk he1
  next _ e1 =>
    have he1 := ok_of_eq (exceptOk tripleOk State.memOk) e1 (cmdScratchCheck_memOk h)
    exact ite_ok tripleOk he1 he1

theorem replayElem_memOk {c : Cmd} (h : s.memOk) : (replayElem c s).memOk := by
  grind [replayElem, State.memOk, finishCmd_memOk, onCmd_memOk, winWrite_memOk, input_memOk]

theorem ratomSend_memOk {k : Nat} (h : s.memOk) : (ratomSend k s).memOk := by
  unfold ratomSend
  refine cmdStep_memOk (fun _ h => ?_) h
  split
  · exact h
  · dsimp only
    split
    · exact h
    · split
      · exact onCmd_memOk h
      · split
        · exact replayElem_memOk (unretry_memOk h)
        · split
          next _ e1 =>
            have he1 := ok_of_eq (exceptOk State.memOk tripleOk) e1 (ratomOperand_memOk (unretry_memOk h))
            exact he1
          next _ _ _ e1 =>
            have he1 := ok_of_eq (exceptOk State.memOk tripleOk) e1 (ratomOperand_memOk (unretry_memOk h))
            split
            · split
              · exact lateStop_memOk he1
              · exact launchReq_memOk (onCmd_memOk (onCur_memOk he1))
            · split
              next _ _ e2 =>
                have he2 := ok_of_eq accOk e2 (accessAt_memOk he1)
                exact launchReq_memOk (onCmd_memOk (onCur_memOk he2))
              · exact cmdStop_memOk he1 (accessAt_memOk he1)

theorem performAtomic_memOk {t : Tr} {op size data cmp : Nat} (h : s.memOk) : (performAtomic t op size data cmp s).2.memOk := by
  unfold performAtomic
  split
  next _ _ e1 =>
    have he1 := ok_of_eq pairOk e1 (readTr_memOk h)
    dsimp only
    split
    · exact writeTr_memOk _ _ _ he1
    · exact he1

theorem onRatom_memOk {num : Nat} {f : RatomReq → RatomReq} (h : s.memOk) : (s.onRatom num f).memOk := h

theorem onForeign_memOk {num : Nat} {f : RatomReq → RatomReq} (h : s.memOk) : (s.onForeign num f).memOk := h

theorem ratomReqPerform_memOk {r : RatomReq} (h : s.memOk) : (RatomReq.perform r s).2.memOk := by
  unfold RatomReq.perform
  dsimp only
  split
  · exact performAtomic_memOk h
  · split
    · exact asLease_memOk h (fun _ h => badData_memOk h)
    · split
      next _ e1 =>
        have he1 := ok_of_eq (exceptOk tripleOk State.memOk) e1 (homeArrival_memOk h)
        exact performAtomic_memOk he1
      next _ _ _ e1 =>
        have he1 := ok_of_eq (exceptOk tripleOk State.memOk) e1 (homeArrival_memOk h)
        exact onRatom_memOk he1

theorem ratomReqFarPerform_memOk {r : RatomReq} (h : s.memOk) : (RatomReq.farPerform r s).2.memOk := by
  unfold RatomReq.farPerform
  split
  · exact h
  · split
    · exact (haltLine_memOk _ _ _ _).trans h
    · exact settle_memOk (performAtomic_memOk (countHome_memOk _ _ _ _ _ h))

theorem windowed_memOk {slice part pkg aid req : Nat} {perform : State → Option Nat × State} (h_perform : ∀ s, s.memOk →
  (perform s).2.memOk) (h : s.memOk) :
    (windowed slice part pkg aid req perform s).2.memOk := by
  unfold windowed
  grind +splitImp [State.memOk]

theorem replyTo_memOk {r : RatomReq} {d : Nat} {old : Option Nat} (h : s.memOk) : (s.replyTo r d old).memOk := takeMsg_memOk h

theorem ratomReqAtOwnHome_memOk {r : RatomReq} (h : s.memOk) : (RatomReq.atOwnHome r s).memOk := onRatom_memOk (ratomReqPerform_memOk h)

theorem ratomReqAtHome_memOk {r : RatomReq} (h : s.memOk) : (RatomReq.atHome r s).memOk := by
  unfold RatomReq.atHome
  split
  next _ e1 =>
    have he1 := ok_of_eq pairOk e1 (windowed_memOk (fun _ h => ratomReqPerform_memOk h) h)
    exact onRatom_memOk he1
  next _ e1 =>
    have he1 := ok_of_eq pairOk e1 (windowed_memOk (fun _ h => ratomReqPerform_memOk h) h)
    exact replyTo_memOk he1
  next _ _ e1 =>
    have he1 := ok_of_eq pairOk e1 (windowed_memOk (fun _ h => ratomReqPerform_memOk h) h)
    exact replyTo_memOk he1

theorem ratomReqForeignAtHome_memOk {r : RatomReq} (h : s.memOk) : (RatomReq.foreignAtHome r s).memOk := by
  unfold RatomReq.foreignAtHome
  split
  next _ e1 =>
    have he1 := ok_of_eq pairOk e1 (windowed_memOk (fun _ h => ratomReqFarPerform_memOk h) h)
    exact onForeign_memOk he1
  next _ e1 =>
    have he1 := ok_of_eq pairOk e1 (windowed_memOk (fun _ h => ratomReqFarPerform_memOk h) h)
    exact replyTo_memOk he1
  next _ _ e1 =>
    have he1 := ok_of_eq pairOk e1 (windowed_memOk (fun _ h => ratomReqFarPerform_memOk h) h)
    exact replyTo_memOk he1

theorem ratomReqLeaves_memOk {r : RatomReq} (h : s.memOk) : (RatomReq.leaves r s).memOk := h

theorem requestArrives_memOk {k : Nat} (h : s.memOk) : (requestArrives k s).memOk := by
  unfold requestArrives
  split
  · split
    · exact ratomReqLeaves_memOk h
    · exact ite_memOk (ratomReqAtHome_memOk h) (ite_memOk h (ratomReqAtOwnHome_memOk h))
  · split
    · exact ratomReqForeignAtHome_memOk h
    · exact h

theorem closeIfIdle_memOk {die : Nat} {r : RatomReq} (h : s.memOk) : (s.closeIfIdle die r).memOk :=
  ite_memOk h (ite_memOk (ite_memOk h (takeMsg_memOk h)) (foldl_memOk (fun _ _ h => sendMsg_memOk h) _ h))

theorem forgetRatom_memOk {r : RatomReq} {die : Nat} (h : s.memOk) : (s.forgetRatom r die).memOk := closeIfIdle_memOk h

theorem dropRatoms_memOk {k : Nat} (h : s.memOk) : (s.dropRatoms k).memOk := foldl_memOk (fun _ _ h => closeIfIdle_memOk h) _ h

theorem writeResult_memOk {c : Cmd} {r : RatomReq} {old : Nat} (h : s.memOk) :
    exceptOk State.memOk State.memOk (writeResult c r old s) := by
  unfold writeResult
  split
  · exact h
  · dsimp only
    split
    next _ _ _ e1 =>
      have he1 := ok_of_eq (exceptOk tripleOk State.memOk) e1 (cmdScratchCheck_memOk h)
      exact lateStop_memOk he1
    next _ e1 =>
      have he1 := ok_of_eq (exceptOk tripleOk State.memOk) e1 (cmdScratchCheck_memOk h)
      exact winWrite_memOk _ _ he1

theorem ratomStops_memOk {r : RatomReq} (h : s.memOk) : (ratomStops r s).memOk := by
  unfold ratomStops
  split
  · exact forgetRatom_memOk h
  · dsimp only
    split
    · exact h
    · split
      · exact lateStop_memOk (onCmd_memOk (forgetRatom_memOk h))
      · exact lateStop_memOk (onCmd_memOk (forgetRatom_memOk h))

theorem resultArrives_memOk {r : RatomReq} (h : s.memOk) : (resultArrives r s).memOk := by
  have count : ∀ rest (s : State), s.memOk → (if r.sends ≤ r.answered + 1 then s.forgetRatom r s.cur.die
      else s.onRatom r.num fun x => { x with results := rest, answered := x.answered + 1, haveResult := true }).memOk := by
    intro rest s h
    split
    · exact forgetRatom_memOk h
    · exact onRatom_memOk h
  unfold resultArrives
  split
  · split
    · exact h
    · split
      · exact forgetRatom_memOk h
      · exact ratomStops_memOk h
  · next old rest _ =>
    dsimp only
    split
    · exact count rest _ h
    · split
      · exact count rest _ h
      · next c _ _ =>
        split
        · exact h
        · have hi : (if c.imm / 4 % 2 = 0 then s
            else ((s.input c.stream.index c.slot (leBytes old r.size) fun _ => false).map (·.2)).getD s).memOk := by
            split
            · exact h
            · exact getD_snd_memOk (input_memOk h) h
          have hw := writeResult_memOk (r := r) (c := c) (old := old) (unretry_memOk (c := c) hi)
          split
          · next e => rw [e] at hw; exact hw
          · next e =>
            rw [e] at hw
            have hc := count rest _ (onCmd_memOk (k := c.seq) (f := fun c => { c with idxs := c.idxs ++ [(r.elem : Int)] }) hw)
            split
            · exact finishCmd_memOk hc
            · exact hc

theorem orphanResult_memOk {r : RatomReq} (h : s.memOk) : (orphanResult r s).memOk := ite_memOk (forgetRatom_memOk h) (onRatom_memOk h)

theorem ratomReqAnswers_memOk {r : RatomReq} (h : s.memOk) : (RatomReq.answers r s).memOk := h

theorem execRatomResultArrival_memOk {k : Nat} (h : s.memOk) : outOk (execRatomResultArrival k s) := by
  unfold execRatomResultArrival
  split
  · split
    · exact ratomReqAnswers_memOk h
    · exact h
  · exact ite_memOk (onLease_memOk h (fun _ h => resultArrives_memOk h)) (orphanResult_memOk h)

theorem execRatomResendTimer_memOk {k : Nat} (h : s.memOk) : outOk (execRatomResendTimer k s) := by
  unfold execRatomResendTimer
  split
  · exact h
  · exact ite_memOk h (onLease_memOk h (fun _ h => ite_memOk (launchReq_memOk (onRatom_memOk h)) (ratomStops_memOk h)))

/-! ### WorkList: OUTQ, RINGSET and the work lists -/

theorem execOutq_memOk {t : Tok} {sh : BitVec 4} {scope : BitVec 2} {m : BitVec 4} {imm : BitVec 20} (h : s.memOk) :
    outOk (execOutq t sh scope m imm s) := by
  unfold execOutq
  exact lsWord_memOk (fun _ _ h => ite_ok lsOk (emptyCmd_memOk h) (checked_memOk (ite_ok lsOk rfl (ite_ok lsOk rfl (acceptCmd_memOk h))))) h

theorem outqRead_memOk {c : Cmd} (h : s.memOk) : (outqRead c s).memOk := by
  grind [outqRead, State.memOk, accOk, readLoc_memOk, farForget_memOk, farAsk_memOk, !touchLoc_memOk, finishCmd_memOk, !input_memOk,
    cmdStop_memOk]

theorem execRingset_memOk {t : Tok} {tgt : BitVec 2} {a b : BitVec 5} (h : s.memOk) : outOk (execRingset t tgt a b s) :=
  ctWord_memOk (fun _ h => ite_ok ctOk h (ite_ok ctOk (ctResRefuse_memOk h) (ctResPlain_memOk (onRing_memOk h)))) h

theorem handOver_memOk {desc : Nat} {m : WlMsg} (h : s.memOk) : (s.handOver desc m).memOk := h

theorem setRefOk_memOk {hd : Handle} {f : LsRes} (h_f : lsOk f) : lsOk (setRefOk hd s f) := ite_ok lsOk rfl (ite_ok lsOk rfl h_f)

theorem readSet_memOk {c : Cmd} {hd : Handle} (h : s.memOk) : (readSet c hd s).2.memOk := by
  unfold readSet
  split
  next _ _ _ e1 =>
    have he1 := ok_of_eq (exceptOk tripleOk State.memOk) e1 (cmdScratchCheck_memOk h)
    exact lateStop_memOk he1
  next _ e1 =>
    have he1 := ok_of_eq (exceptOk tripleOk State.memOk) e1 (cmdScratchCheck_memOk h)
    exact he1

theorem execWlapp_memOk {t : Tok} {dh sh : BitVec 4} {scope : BitVec 2} {m : BitVec 4} (h : s.memOk) :
    outOk (execWlapp t dh sh scope m s) :=
  lsWord_memOk (fun _ _ h => checked_memOk (setRefOk_memOk (ite_ok lsOk (emptyCmd_memOk h) (acceptCmd_memOk h)))) h

theorem wlappRows_memOk {k n : Nat} (h : s.memOk) : (wlappRows k n s).memOk := by
  induction n generalizing s with
  | zero => exact h
  | succ n ih => 
    unfold wlappRows
    split
    · exact h
    · next c _ =>
      have hc := cmdScratchCheck_memOk (c := c) (k := .read) (gs := granulesOf (hRowAt c.src 0 c.offset).toNat 12) h
      dsimp only
      split
      · exact finishCmd_memOk h
      · split
        · next e => rw [e] at hc; exact lateStop_memOk hc
        · next e =>
          rw [e] at hc
          refine ih (onCmd_memOk ?_)
          split
          · exact hc
          · exact handOver_memOk hc

theorem wlappTurn_memOk {c : Cmd} (h : s.memOk) : (wlappTurn c s).memOk := by
  unfold wlappTurn
  split
  · exact wlappRows_memOk h
  · split
    next _ e1 =>
      have he1 := ok_of_eq pairOk e1 (readSet_memOk h)
      exact he1
    next _ _ e1 =>
      have he1 := ok_of_eq pairOk e1 (readSet_memOk h)
      exact wlappRows_memOk (onCmd_memOk he1)

theorem execCpWlapp_memOk {t : Tok} {d : BitVec 8} {hd m : BitVec 4} {base : BitVec 24} (h : s.memOk) :
    outOk (execCpWlapp t d hd m base s) := by
  unfold execCpWlapp
  refine cpWord_memOk (fun _ h => ?_) h
  dsimp only
  split
  · rfl
  · split
    · rfl
    · split
      · rfl
      · split
        next _ _ _ e1 =>
          have he1 := ok_of_eq (exceptOk tripleOk State.memOk) e1 (scratchCheck_memOk h)
          exact he1
        next _ e1 =>
          have he1 := ok_of_eq (exceptOk tripleOk State.memOk) e1 (scratchCheck_memOk h)
          exact addPend_memOk (ite_memOk he1 (foldl_memOk (fun _ _ h => ite_memOk h (handOver_memOk h)) _ he1))

theorem execWltake_memOk {t : Tok} {dh sh : BitVec 4} {scope : BitVec 2} {m : BitVec 4} {max : BitVec 8} {list : BitVec 12} (h : s.memOk) :
    outOk (execWltake t dh sh scope m max list s) :=
  lsWord_memOk (fun _ _ h => checked_memOk (setRefOk_memOk (acceptCmd_memOk h))) h

theorem execWlseal_memOk {t : Tok} {sh : BitVec 4} {scope stream : BitVec 2} (h : s.memOk) : outOk (execWlseal t sh scope stream s) :=
  lsWord_memOk (fun _ _ h => checked_memOk (setRefOk_memOk (acceptCmd_memOk h))) h

theorem takeWrite_memOk {c : Cmd} (h : s.memOk) : (takeWrite c s).memOk := by
  unfold takeWrite
  dsimp only
  split
  · exact h
  next _ _ e1 =>
    have he1 := ok_of_eq (Option.all pairOk) e1 (input_memOk h)
    split
    next _ _ _ e2 =>
      have he2 := ok_of_eq (exceptOk tripleOk State.memOk) e2 (cmdScratchCheck_memOk he1)
      exact lateStop_memOk he2
    next _ e2 =>
      have he2 := ok_of_eq (exceptOk tripleOk State.memOk) e2 (cmdScratchCheck_memOk he1)
      exact finishCmd_memOk (winWrite_memOk _ _ he2)

theorem listUnit_memOk {k : Nat} (h : s.memOk) : (listUnit k s).memOk := by
  unfold listUnit
  split
  · exact h
  · dsimp only
    split
    · exact h
    · split
      · exact finishCmd_memOk h
      · split
        · exact outqRead_memOk (unretry_memOk h)
        · exact wlappTurn_memOk (unretry_memOk h)
        · split
          next _ e1 =>
            have he1 := ok_of_eq pairOk e1 (readSet_memOk (unretry_memOk h))
            exact he1
          next _ _ e1 =>
            have he1 := ok_of_eq pairOk e1 (readSet_memOk (unretry_memOk h))
            exact finishCmd_memOk (handOver_memOk he1)
        · split
          · exact takeWrite_memOk (unretry_memOk h)
          · split
            · exact h
            · split
              · split
                · exact ite_memOk (takeWrite_memOk h) (ite_memOk h (askStop_memOk h))
                · exact askStop_memOk h
              · split
                next _ e1 =>
                  have he1 := ok_of_eq pairOk e1 (readSet_memOk (unretry_memOk h))
                  exact he1
                next _ _ e1 =>
                  have he1 := ok_of_eq pairOk e1 (readSet_memOk (unretry_memOk h))
                  exact onCmd_memOk (handOver_memOk he1)
        · exact h

theorem dscSet_memOk {p desc o n v : Nat} (h : s.memOk) : (s.dscSet p desc o n v).memOk := unitWriteBy_memOk _ _ _ _ h

theorem wlFlag_memOk {p desc bit : Nat} (h : s.memOk) : (s.wlFlag p desc bit).memOk := dscSet_memOk h

theorem dscTouch_memOk {p desc : Nat} (h : s.memOk) : (s.dscTouch p desc).memOk := unitTouch_memOk _ _ _ _ h

theorem onSet_memOk {p desc : Nat} {f : State → State} (h : s.memOk) (h_f : ∀ s, s.memOk → (f s).memOk) : (onSet p desc s f).memOk :=
  ite_memOk h (ite_memOk (dscTouch_memOk h) (ite_memOk (wlFlag_memOk (dscTouch_memOk h)) (h_f _ (dscTouch_memOk h))))

theorem wlAppend_memOk {p desc aid e payload : Nat} (h : s.memOk) : (wlAppend p desc aid e payload s).memOk :=
  ite_memOk (wlFlag_memOk h) (unitWriteBy_memOk _ _ _ _ (unitWriteBy_memOk _ _ _ _ h))

theorem wlItem_memOk {p desc aid e payload sq : Nat} {top : Bool} (h : s.memOk) : (wlItem p desc aid e payload sq top s).memOk := by
  refine onSet_memOk h fun s h => ?_
  split
  · exact wlFlag_memOk h
  · split
    · exact wlFlag_memOk h
    · split
      · exact wlFlag_memOk h
      · next i found _ =>
        extract_lets q s1
        have hs : s1.memOk := by
          dsimp only [s1]
          split
          · exact h
          · exact unitWriteBy_memOk _ _ _ _ h
        split
        · exact wlFlag_memOk hs
        · split
          · exact wlFlag_memOk hs
          · split
            split
            · exact dscSet_memOk hs
            · split
              · exact dscSet_memOk hs
              · exact wlAppend_memOk (unitWriteBy_memOk _ _ _ _ hs)

theorem wlSeal_memOk {p desc aid : Nat} (h : s.memOk) : (wlSeal p desc aid s).memOk := by
  unfold wlSeal
  refine onSet_memOk h (fun _ h => ?_)
  split
  · exact wlFlag_memOk h
  · dsimp only
    split
    · exact h
    · exact ite_memOk (dscSet_memOk (unitWriteBy_memOk _ _ _ _ h)) (wlFlag_memOk (unitWriteBy_memOk _ _ _ _ h))

theorem wlTake_memOk {p desc lease cmd list max : Nat} (h : s.memOk) : (wlTake p desc lease cmd list max s).memOk := by
  unfold wlTake
  dsimp only
  split
  · exact asLease_memOk h (fun _ h => onCmd_memOk h)
  · split
    · exact dscTouch_memOk h
    · split
      · exact asLease_memOk (dscTouch_memOk h) (fun _ h => onCmd_memOk h)
      · split
        · exact asLease_memOk (wlFlag_memOk (dscTouch_memOk h)) (fun _ h => onCmd_memOk h)
        · split
          · exact asLease_memOk (wlFlag_memOk (dscTouch_memOk h)) (fun _ h => onCmd_memOk h)
          · split
            · exact asLease_memOk (dscTouch_memOk h) (fun _ h => onCmd_memOk h)
            · split
              · exact asLease_memOk (wlFlag_memOk (dscTouch_memOk h)) (fun _ h => onCmd_memOk h)
              · exact asLease_memOk (unitWriteBy_memOk _ _ _ _ (dscTouch_memOk h)) (fun _ h => onCmd_memOk h)

theorem writeTopo_memOk {n : Nat} {b : TopoBuild} (h : s.memOk) : (writeTopo n b s).2.memOk := by
  induction n generalizing b s with
  | zero => exact h
  | succ n ih => grind [writeTopo, State.memOk, wlFlag_memOk, unitWriteBy_memOk]

theorem topoStep_memOk {b : TopoBuild} (h : s.memOk) : (topoStep b s).memOk := by
  grind [topoStep, State.memOk, writeTopo_memOk, dscSet_memOk]

theorem wlQuiesce_memOk {p desc : Nat} (h : s.memOk) : (wlQuiesce p desc s).memOk := by
  unfold wlQuiesce
  refine onSet_memOk h (fun _ h => ?_)
  dsimp only
  split
  · exact topoStep_memOk h
  · exact ite_memOk h (ite_memOk (ite_memOk (dscSet_memOk h) h) (topoStep_memOk h))

theorem popWl_memOk {d rank : Nat} (h : s.memOk) : (s.popWl d rank).2.memOk := by
  unfold State.popWl
  dsimp only
  split
  · exact h
  · exact h

theorem wlApply_memOk {d rank : Nat} (h : s.memOk) : (wlApply d rank s).memOk := by
  unfold wlApply
  split
  next _ _ _ _ _ _ _ _ e1 =>
    have he1 := ok_of_eq pairOk e1 (popWl_memOk h)
    exact wlItem_memOk he1
  next _ _ _ _ e1 =>
    have he1 := ok_of_eq pairOk e1 (popWl_memOk h)
    exact wlSeal_memOk he1
  next _ _ _ _ _ _ _ e1 =>
    have he1 := ok_of_eq pairOk e1 (popWl_memOk h)
    exact wlTake_memOk he1
  next _ e1 =>
    have he1 := ok_of_eq pairOk e1 (popWl_memOk h)
    exact he1

theorem wlEvents_memOk (h : s.memOk) : s.wlEvents.2.memOk := h

theorem ctSent_memOk (h : s.memOk) : s.ctSent.memOk := onCt_memOk h

theorem ctHold_memOk {old : Ct} {r : CtRes} (h_r : ctOk r) : (ctHold old r).memOk := by
  unfold ctHold
  split
  · exact hold_memOk (onCt_memOk h_r)
  · exact hold_memOk (onCt_memOk h_r)
  · exact h_r
  · exact h_r
  · exact h_r

theorem ctEvent_memOk {op : Nat} {f : State → CtRes} (h_f : ∀ s, s.memOk → ctOk (f s)) (h : s.memOk) : (ctEvent op f s).memOk :=
  ite_memOk h (ite_memOk (ctHold_memOk (h_f _ h)) (ctFinish_memOk (h_f _ h)))

theorem execQuies_memOk {t : Tok} {d a : BitVec 5} (h : s.memOk) : outOk (execQuies t d a s) := by
  unfold execQuies
  refine ctWord_memOk (fun _ h => ite_ok ctOk (ctResValueIn_memOk h) (ite_ok ctOk ?_ (ite_ok ctOk h (ite_ok ctOk (ctResRefuseAt_memOk h)
    (ite_ok ctOk (ctResRefuseAt_memOk h) (ctReach_memOk h (fun _ h => ctSent_memOk h))))))) h
  split
  · exact h
  · exact ctResPlain_memOk (wreg_memOk (onCur_memOk h))

theorem execQuiesComplete_memOk {l : Nat} (h : s.memOk) : outOk (execQuiesComplete l s) :=
  onLease_memOk h (fun _ h => ctEvent_memOk (fun _ h => ite_ok ctOk h (ctResValueIn_memOk h)) h)

/-! ### Models: tables of the model and the batching unit -/

theorem ctGranules_memOk {scope : Nat} {xs : List (Nat × Nat)} {bs : List Byte} {k : List Byte → State → CtRes} (h : s.memOk)
  (h_k : ∀ x0 s, s.memOk → ctOk (k x0 s)) :
    ctOk (ctGranules scope xs s bs k) := by
  induction xs generalizing s bs with
  | nil => exact h_k _ _ h
  | cons x r ih =>
    unfold ctGranules
    refine ctResOfAcc_memOk (accessGlobal_memOk h) (fun t s h => ?_)
    grind [State.memOk, accOk, ctOk, farAsk_memOk, readTr_memOk, !ctResOfAcc_memOk, !accessGlobal_memOk]

theorem ctRead_memOk {scope : Nat} {x : W64} {align n : Nat} {k : List Byte → State → CtRes} (h : s.memOk) (h_k : ∀ x0 s, s.memOk → ctOk
  (k x0 s)) :
    ctOk (ctRead scope x align n s k) := by
  unfold ctRead
  split
  · exact ctResRefuseAt_memOk h
  · split
    · exact ctResRefuseAt_memOk h
    · refine ctGranules_memOk h (fun _ _ h => ?_)
      split
      · exact h
      next _ _ e2 =>
        have he2 := ok_of_eq (Option.all pairOk) e2 (input_memOk h)
        exact h_k _ _ (forgetRow_memOk he2)

theorem execCbld_memOk {t : Tok} {a : BitVec 5} {slot : BitVec 16} (h : s.memOk) : outOk (execCbld t a slot s) := by
  unfold execCbld
  exact ctWord_memOk (fun _ h => ite_ok ctOk h (ite_ok ctOk (ctResRefuseAt_memOk h) (ctRead_memOk h (fun _ _ h => ctResAfter_memOk
    (onCur_memOk h))))) h

theorem execXload_memOk {t : Tok} {a : BitVec 5} {slot : BitVec 16} (h : s.memOk) : outOk (execXload t a slot s) := by
  unfold execXload
  exact ctWord_memOk (fun _ h => ite_ok ctOk h (ctRead_memOk h (fun _ _ h => ite_ok ctOk (ctResRefuseAt_memOk h) (ctResAfter_memOk
    (onCur_memOk h))))) h

theorem execXunld_memOk {t : Tok} {slot : BitVec 16} (h : s.memOk) : outOk (execXunld t slot s) :=
  ctWord_memOk (fun _ h => ite_ok ctOk h (ctResAfter_memOk (onCur_memOk h))) h

theorem recWrite_memOk {g : Handle} {o : Nat} {bs : List Byte} (h : s.memOk) : (s.recWrite g o bs).memOk :=
  foldl_memOk (fun _ _ h => settle_memOk h) _ (winWrite_memOk _ _ h)

theorem selkAccess_memOk {hd o : Handle} {k slot : Nat} (h : s.memOk) : exceptOk (·.2.2.memOk) State.memOk (selkAccess hd o k slot s) :=
  scratchCheck_memOk h

theorem execSelk_memOk {t : Tok} {hd g : BitVec 4} {k : BitVec 5} {cnt : BitVec 1} (h : s.memOk) : outOk (execSelk t hd g k cnt s) := by
  unfold execSelk
  refine cpWord_memOk (fun _ h => ?_) h
  dsimp only
  split
  · rfl
  · split
    · rfl
    · split
      · rfl
      · split
        next _ _ _ e1 =>
          have he1 := ok_of_eq (exceptOk tripleOk State.memOk) e1 (selkAccess_memOk h)
          exact he1
        next _ e1 =>
          have he1 := ok_of_eq (exceptOk tripleOk State.memOk) e1 (selkAccess_memOk h)
          exact onCur_memOk (takeSeq_memOk (foldl_memOk (fun _ _ h => foldl_memOk (fun _ _ h => cpStore_memOk h) _ h) _ he1))

theorem bupdSnap_memOk {g : Handle} {cnt : List Nat} (h : s.memOk) : ctOk (bupdSnap g cnt s) := onCt_memOk (recWrite_memOk h)

theorem bupdCounts_memOk {g : Handle} {e : Nat} {x : W64} (h : s.memOk) : ctOk (bupdCounts g e x s) :=
  ite_ok ctOk (bupdSnap_memOk h) (ite_ok ctOk (ctResRefuseAt_memOk h) (ctRead_memOk h (fun _ _ h => onCt_memOk h)))

theorem bupdFlip_memOk {g : Handle} {gen : Nat} {cnt : List Nat} (h : s.memOk) : (bupdFlip g gen cnt s).memOk :=
  recWrite_memOk (recWrite_memOk (recWrite_memOk h))

theorem execBupd_memOk {t : Tok} {a b : BitVec 5} (h : s.memOk) : outOk (execBupd t a b s) := by
  unfold execBupd
  refine ctWord_memOk (fun _ h => ?_) h
  dsimp only
  split
  · exact ite_ok ctOk h (bupdSnap_memOk h)
  · exact ite_ok ctOk h (ctResAfter_memOk (bupdFlip_memOk h))
  · split
    · exact ctResRefuseAt_memOk h
    · exact ctResRefuse_memOk h
    · exact ite_ok ctOk (ctResRefuse_memOk h) (ite_ok ctOk h (bupdCounts_memOk h))

theorem sendAffp_memOk {table slot e pf : Nat} (h : s.memOk) : ctOk (sendAffp table slot e pf s) := by
  unfold sendAffp
  dsimp only
  split
  · exact h
  · exact onCt_memOk (addReq_memOk h)

theorem execAffp_memOk {t : Tok} {a b : BitVec 5} {pf : BitVec 16} (h : s.memOk) : outOk (execAffp t a b pf s) := by
  unfold execAffp
  exact ctWord_memOk (fun _ h => ctResOrReplay_memOk h (ite_ok ctOk h (ite_ok ctOk (ctResRefuseAt_memOk h) (ite_ok ctOk
    (ctResRefuseAt_memOk h) (ctReach_memOk h (fun _ h => ite_ok ctOk (ctResRefuse_memOk h) (ctReach_memOk h
    (fun _ h => sendAffp_memOk h)))))))) h

theorem setBatcher_memOk {p b : Nat} {x : Batcher} (h : s.memOk) : (s.setBatcher p b x).memOk := onPart_memOk h

theorem onBatcher_memOk {p b : Nat} {f : Batcher → Batcher} (h : s.memOk) : (s.onBatcher p b f).memOk := setBatcher_memOk h

theorem batchState_memOk {p b st : Nat} (h : s.memOk) : (s.batchState p b st).memOk := by
  grind [State.batchState, State.memOk, fwWrote_memOk, unitWriteBy_memOk, setBatcher_memOk]

theorem batchError_memOk {p b flag : Nat} (h : s.memOk) : (s.batchError p b flag).memOk :=
  onBatcher_memOk (batchState_memOk (unitWriteBy_memOk _ _ _ _ h))

theorem batPut_memOk {x : Bat} {va : Nat} {bs : List Byte} (h : s.memOk) : (Bat.put x s va bs).memOk := unitWriteBy_memOk _ _ _ _ h

theorem batSet_memOk {x : Bat} {o n v : Nat} (h : s.memOk) : (Bat.set x s o n v).memOk := batPut_memOk h

theorem batSset_memOk {x : Bat} {i o n v : Nat} (h : s.memOk) : (Bat.sset x s i o n v).memOk := batPut_memOk h

theorem batTakePage_memOk {x : Bat} (h : s.memOk) : (Bat.takePage x s).2.memOk := batPut_memOk h

theorem batFreePage_memOk {x : Bat} {pg : Nat} (h : s.memOk) : (Bat.freePage x pg s).memOk := batPut_memOk (batPut_memOk h)

theorem batGrowSlot_memOk {x : Bat} {i : Nat} (h : s.memOk) : (Bat.growSlot x i s).memOk :=
  batSset_memOk (batPut_memOk (batTakePage_memOk h))

theorem batAdvance_memOk {x : Bat} {e : Nat} (h : s.memOk) : (Bat.advance x s e).memOk := by
  unfold Bat.advance
  grind +splitImp [State.memOk, batPut_memOk, batFreePage_memOk, batSset_memOk, !foldl_memOk]

theorem batGrow_memOk {x : Bat} (h : s.memOk) : (Bat.grow x s).2.memOk := by
  refine foldl_snd_memOk (fun x y h => ?_) _ h
  grind [State.memOk, batGrowSlot_memOk]

theorem batTakeOffers_memOk {x : Bat} {tail n : Nat} (h : s.memOk) : (Bat.takeOffers x tail n s).memOk := by
  induction n generalizing s with
  | zero => exact h
  | succ n ih => grind +splitImp [Bat.takeOffers, State.memOk, batPut_memOk, batSet_memOk, batGrowSlot_memOk, batSset_memOk, !foldl_memOk]

theorem batShape_memOk {x : Bat} {es : List (Nat × Nat × Nat × Nat × Nat)} (h : s.memOk) : (Bat.shape x es s).memOk :=
  onBatcher_memOk (batSet_memOk (batPut_memOk (batPut_memOk (batPut_memOk h))))

theorem batClaim_memOk {x : Bat} (h : s.memOk) : (Bat.claim x s).2.memOk := by
  unfold Bat.claim
  split
  · exact h
  · exact onBatcher_memOk (busWrite_memOk _ _ _ _ h)

/-- The kernel compares two matches by reducing what they match on, and runs the whole publication: the body is unfolded as a
function, and what it matches on is generalised before the split. -/
theorem batPublish_memOk {x : Bat} (h : s.memOk) : (Bat.publish x s).2.memOk := by
  change pairOk (x.publish s) = true
  have body : Bat.publish = Bat.publish := rfl
  conv at body =>
    rhs
    delta Bat.publish
  rw [body]
  beta_reduce
  extract_lets r hh host slots
  have hr := busReady_memOk (p := x.p) (host := eBit hh.idxBlk 63) (a := nbits hh.idxBlk.toNat 56 7 * 128) (n := 128) h
  generalize s.busReady x.p (eBit hh.idxBlk 63) (nbits hh.idxBlk.toNat 56 7 * 128) 128 = y at hr
  obtain ⟨ready, t⟩ := y
  split
  next t e =>
  cases e
  split
  · exact hr
  · have hc := batClaim_memOk (x := x) hr
    generalize x.claim t = z at hc
    obtain ⟨claim, u⟩ := z
    split
    next _ u e =>
    cases e
    extract_lets
    split
    · exact hc
    · split
      · exact busWrite_memOk _ _ _ _ hc
      · exact setRing_memOk (busWrite_memOk _ _ _ _ (onBatcher_memOk (busWrite_memOk _ _ _ _ hc)))

/-- Unfolded as a function, for the same reason as `batPublish_memOk`. -/
theorem batchPublish_memOk {x : Bat} (h : s.memOk) : (batchPublish x s).memOk := by
  have hp := batPublish_memOk (x := x) h
  have body : batchPublish = batchPublish := rfl
  conv at body =>
    rhs
    delta batchPublish
  rw [body]
  beta_reduce
  generalize x.publish s = y at hp
  split
  · exact onBatcher_memOk hp
  · dsimp only
    split
    · exact onBatcher_memOk hp
    · exact batchState_memOk (onBatcher_memOk hp)

theorem batchStepDo_memOk {p b : Nat} (h : s.memOk) : (batchStepDo p b s).memOk := by
  unfold batchStepDo
  grind +splitImp [State.memOk, batchPublish_memOk, batTakeOffers_memOk, unitTouch_memOk, batAdvance_memOk, setBatcher_memOk,
    batchState_memOk, batGrow_memOk, affPrefetch_memOk, onBatcher_memOk, batShape_memOk, !foldl_memOk]

theorem batchFailDo_memOk {p b : Nat} (h : s.memOk) : (batchFailDo p b s).memOk := ite_memOk h (batchError_memOk (setBatcher_memOk h))

theorem bcdbDo_memOk {p b : Nat} (h : s.memOk) : (bcdbDo p b s).memOk := ite_memOk (setBatcher_memOk h) h

theorem bcctlEnableDo_memOk {p b : Nat} (h : s.memOk) : (bcctlEnableDo p b s).memOk := by
  unfold bcctlEnableDo
  dsimp only
  split
  · exact h
  · exact ite_memOk (batchError_memOk (setBatcher_memOk h)) (onBatcher_memOk (batchState_memOk (setBatcher_memOk h)))

theorem bcctlDisableDo_memOk {p b : Nat} (h : s.memOk) : (bcctlDisableDo p b s).memOk :=
  ite_memOk h (ite_memOk (setBatcher_memOk h) (batchState_memOk (setBatcher_memOk h)))

theorem batchDue_memOk {p : Nat} (h : s.memOk) : (batchDue p s).memOk :=
  ite_memOk h (foldl_memOk (fun _ _ h => ite_memOk (batchStepDo_memOk h) (ite_memOk (batchFailDo_memOk h) h)) _ h)

/-! ### Remote: KVGET, KVPUT and the fabric -/

theorem kvIssue_memOk {t : Tok} {xh : BitVec 4} {scope : BitVec 2} {m : BitVec 4} {peer : BitVec 12} {get : Bool} (h : s.memOk) :
    lsOk (kvIssue t xh scope m peer get s) := by
  unfold kvIssue
  refine checked_memOk ?_
  dsimp only
  split
  next _ _ _ e1 =>
    have he1 := ok_of_eq (exceptOk tripleOk State.memOk) e1 (scratchCheck_memOk h)
    exact he1
  next _ e1 =>
    have he1 := ok_of_eq (exceptOk tripleOk State.memOk) e1 (scratchCheck_memOk h)
    exact ite_ok lsOk rfl (acceptCmd_memOk he1)

theorem kvFill_memOk {k va n : Nat} (h : s.memOk) : (kvFill k va n s).memOk := by
  induction n generalizing s with
  | zero => exact h
  | succ n ih => 
    unfold kvFill
    split
    · exact h
    · next c _ =>
      have hx := accessGlobal_memOk (a := c.access .read (va + c.buf.length)) (view := false) h
      dsimp only
      split
      · exact h
      · split
        · next e =>
          rw [e] at hx
          split
          · split
            · exact farAsk_memOk hx
            · exact ih (onCmd_memOk (farForget_memOk hx))
          · exact ih (onCmd_memOk (readTr_memOk hx))
        · exact cmdStop_memOk h hx

theorem postFar_memOk {c : Cmd} {t : Tr} {va : Nat} {bs : List Byte} (h : s.memOk) : (s.postFar c t va bs).memOk :=
  sendFabric_memOk (addReq_memOk h)

theorem kvDone_memOk {k : Nat} (h : s.memOk) : (kvDone k s).memOk := by
  unfold kvDone
  split
  · exact ite_memOk (finishCmd_memOk h) h
  · exact h

theorem kvNext_memOk {k : Nat} (h : s.memOk) : (kvNext k s).memOk := kvDone_memOk (onCmd_memOk h)

theorem kvStore_memOk {k va n : Nat} (h : s.memOk) : (kvStore k va n s).memOk := by
  induction n generalizing s with
  | zero => exact h
  | succ n ih => 
    unfold kvStore
    split
    · exact h
    · next c _ =>
      have hx := accessGlobal_memOk (a := c.access .write (va + 65536 - c.buf.length)) (view := false) h
      dsimp only
      split
      · exact kvNext_memOk h
      · split
        · next e =>
          rw [e] at hx
          refine ih (onCmd_memOk ?_)
          split
          · exact postFar_memOk hx
          · exact writeTr_memOk _ _ _ hx
        · exact cmdStop_memOk h hx

theorem kvAsk_memOk {c : Cmd} {e mine theirs : Nat} {bs : List Byte} (h : s.memOk) : (kvAsk c e mine theirs bs s).memOk := by
  grind [kvAsk, State.memOk, sendFabric_memOk, onCmd_memOk, onCur_memOk, addReq_memOk]

theorem kvUnit_memOk {k : Nat} (h : s.memOk) : (kvUnit k s).memOk := by
  grind [kvUnit, State.memOk, finishCmd_memOk, kvAsk_memOk, kvFill_memOk, forgetRow_memOk, kvStore_memOk, unretry_memOk, lateStop_memOk]

theorem cmdAnswer_memOk {r : Req} {k kind v : Nat} {bs : List Byte} (h : s.memOk) : (cmdAnswer r k kind v bs s).memOk := by
  unfold cmdAnswer
  split
  · exact h
  · dsimp only
    split
    · exact lateStop_memOk (onCmd_memOk h)
    · split
      · exact kvDone_memOk (onCmd_memOk h)
      · split
        · exact ite_memOk (finishCmd_memOk (onCmd_memOk (onCmd_memOk h))) (onCmd_memOk (onCmd_memOk h))
        · split
          · split
            · exact onCmd_memOk h
            next _ _ e1 =>
              have he1 := ok_of_eq (Option.all pairOk) e1 (chunkIn_memOk (onCmd_memOk h))
              exact ite_memOk (walkEnd_memOk (storeBytes_memOk he1)) (onCmd_memOk he1)
          · exact walkEnd_memOk (advanceCmd_memOk (onCmd_memOk h))

theorem takeFarAnswer_memOk {n kind v : Nat} {bs : List Byte} (h : s.memOk) : (takeFarAnswer n kind v bs s).memOk := by
  unfold takeFarAnswer
  split
  · exact h
  · dsimp only
    split
    · exact asLease_memOk h (fun _ h => cmdAnswer_memOk h)
    · exact ite_memOk h (ite_memOk (answer_memOk (nextFree_memOk h)) (answer_memOk h))

theorem takeLanding_memOk {off : Nat} {bs : List Byte} (h : s.memOk) : (takeLanding off bs s).memOk :=
  writeBytes_memOk (getD_snd_memOk (input_memOk h) h)

theorem heldInputAct_memOk {x : HeldInput} (h : s.memOk) : (HeldInput.act x s).memOk := by
  unfold HeldInput.act
  split
  · exact takeAnswer_memOk h
  · exact takeLanding_memOk h
  · exact takeFarAnswer_memOk h
  · exact ctFinish_memOk (ctResAfter_memOk (foldl_memOk (fun _ _ h => wreg_memOk h) _ h))
  · exact performed_memOk h
  · exact ctTrap_memOk h

theorem offer_memOk {x : HeldInput} (h : s.memOk) : (s.offer x).memOk := by
  unfold State.offer
  split
  · exact h
  · split
    · exact h
    · split
      · exact hold_memOk h
      · exact ite_memOk (asLease_memOk h (fun _ h => heldInputAct_memOk h)) (hold_memOk (onPart_memOk h))

theorem offerHeld_memOk (h : s.memOk) : s.offerHeld.memOk := ite_memOk h (foldl_memOk (fun _ _ h => offer_memOk h) _ h)

theorem farAnswer_memOk {n kind v : Nat} {bs : List Byte} (h : s.memOk) : (farAnswer n kind v bs s).memOk := by
  unfold farAnswer
  split
  · exact h
  · exact ite_memOk (offer_memOk h) (takeFarAnswer_memOk h)

theorem pageAnswer_memOk {p aid req kind : Nat} {bs : List Byte} (h : s.memOk) : (pageAnswer p aid req kind bs s).memOk := by
  unfold pageAnswer
  split
  · exact h
  · refine asLease_memOk h (fun _ h => ?_)
    split
    · exact h
    · dsimp only
      split
      · exact lateStop_memOk (onCmd_memOk h)
      · exact ite_memOk (onCmd_memOk (onCmd_memOk h)) (kvNext_memOk (onCmd_memOk h))

theorem ratomAnswer_memOk {pkg p aid req kind v home : Nat} (h : s.memOk) : (ratomAnswer pkg p aid req kind v home s).memOk := by
  unfold ratomAnswer
  split
  · exact h
  · exact sendMsg_memOk h

theorem freezeSource_memOk {pkg aid : Nat} (h : s.memOk) : (s.freezeSource pkg aid).memOk := h

theorem landed_memOk {l : Lease} {off : Nat} {bs : List Byte} (h : s.memOk) : (s.landed l off bs).memOk := offer_memOk h

theorem farReach_memOk {pkg p aid : Nat} {phys : Bool} {k : AccKind} {xs : List (Nat × Nat)} (h : s.memOk) :
    (farReach pkg p aid phys k xs s).2.memOk := by
  induction xs generalizing s with
  | nil => exact h
  | cons x r ih => grind [farReach, State.memOk, haltLine_memOk, freezeSource_memOk, countHome_memOk]

theorem farRead_memOk {xs : List (Tr × Nat)} (h : s.memOk) : (farRead xs s).2.memOk := by
  induction xs generalizing s with
  | nil => exact h
  | cons x r ih => grind [farRead, State.memOk, readTr_memOk]

theorem farWrite_memOk {xs : List (Tr × Nat)} {bs : List Byte} (h : s.memOk) : (farWrite xs bs s).memOk := by
  induction xs generalizing bs s with
  | nil => exact h
  | cons x r ih => exact ih (settle_memOk (writeTr_memOk _ _ _ h))

theorem foreignRequest_memOk {pkg rpart p aid kind req va data cmp size : Nat} {t : Tr} (h : s.memOk) :
    (s.foreignRequest pkg rpart p aid kind req va data cmp size t).memOk :=
  sendMsg_memOk h

theorem farPerform_memOk {pkg rpart p aid kind req va data cmp : Nat} {bs : List Byte} (h : s.memOk) :
    (farPerform pkg rpart p aid kind req va data cmp bs s).2.memOk := by
  unfold farPerform
  grind +splitImp [State.memOk, performAtomic_memOk, freezeSource_memOk, unitWrite_memOk, foreignRequest_memOk, settle_memOk,
    farRead_memOk, landed_memOk, farReach_memOk, farWrite_memOk, sendMsg_memOk, !foldl_memOk]

theorem fabricReceive_memOk {pkg rpart p aid kind req va data cmp : Nat} {bs : List Byte} (h : s.memOk) :
    (fabricReceive pkg rpart p aid kind req va data cmp bs s).memOk := by
  grind [fabricReceive, State.memOk, ratomAnswer_memOk, freezeSource_memOk, farPerform_memOk, farAnswer_memOk, pageAnswer_memOk]

theorem execUeMessageReceive_memOk {pkg rpart p aid kind req page : Nat} {bytes : List (BitVec 8)} (h : s.memOk) :
    outOk (execUeMessageReceive pkg rpart p aid kind req page bytes s) := by
  grind [execUeMessageReceive, State.memOk, outOk, freezeSource_memOk, unitWrite_memOk, pageAnswer_memOk]

theorem execUalinkStationLoss_memOk {station : Nat} {up : Bool} (h : s.memOk) : outOk (execUalinkStationLoss station up s) := ite_memOk h h

theorem execUePortLoss_memOk {port : Nat} {up : Bool} (h : s.memOk) : outOk (execUePortLoss port up s) := h

/-! ### Sync: sync objects, fences and barriers -/

theorem newVec_memOk {p : Nat} (h : s.memOk) : (s.newVec p).2.memOk := h

theorem setVec_memOk {v : Nat} {x : Vec} (h : s.memOk) : (s.setVec v x).memOk := h

theorem vecField_memOk (h : s.memOk) : s.vecField.2.memOk := ite_pairOk h (nextFree_memOk h)

theorem releaseAll_memOk (h : s.memOk) : s.releaseAll.2.memOk := by
  grind [State.releaseAll, State.memOk, release_memOk]

theorem acquireAll_memOk {v : Vec} (h : s.memOk) : (s.acquireAll v).memOk := foldl_memOk (fun _ _ h => acquire_memOk h) _ h

theorem setEntry_memOk {p i : Nat} {b : Binding} (h : s.memOk) : (s.setEntry p i b).memOk := onPart_memOk h

theorem objSet_memOk {p va off n v : Nat} (h : s.memOk) : (s.objSet p va off n v).memOk := unitWrite_memOk _ _ _ h

theorem addHolds_memOk {p i : Nat} {up : Bool} (h : s.memOk) : (s.addHolds p i up).memOk := setEntry_memOk h

theorem addWaiter_memOk {p : Nat} {w : Waiter} (h : s.memOk) : (s.addWaiter p w).memOk := onPart_memOk h

theorem dropWaiter_memOk {p l : Nat} (h : s.memOk) : (s.dropWaiter p l).memOk := onPart_memOk h

theorem execAcq_memOk {t : Tok} {a : BitVec 5} {scope : BitVec 2} {m : BitVec 4} (h : s.memOk) : outOk (execAcq t a scope m s) := by
  unfold execAcq
  exact ctWord_memOk (fun _ h => ctResOrReplay_memOk h (ite_ok ctOk h (ite_ok ctOk (ctResRefuse_memOk h) (ite_ok ctOk
    (ctResRefuse_memOk h) (ctSent_memOk (addWaiter_memOk h)))))) h

theorem withdrawWaiter_memOk {p : Nat} {w : Waiter} (h : s.memOk) : (withdrawWaiter p w s).memOk :=
  ite_memOk (addHolds_memOk (dropWaiter_memOk h)) (dropWaiter_memOk h)

theorem unsent_memOk {p : Nat} (h : s.memOk) : (s.unsent p).memOk := onCt_memOk (dropWaiter_memOk h)

theorem waiterArrives_memOk {p : Nat} {w : Waiter} (h : s.memOk) : (waiterArrives p w s).memOk := by
  unfold waiterArrives
  refine asLease_memOk h (fun _ h => ctEvent_memOk (fun _ h => ite_ok ctOk (ctResRefuse_memOk (unsent_memOk h)) ?_) h)
  split
  next _ e1 =>
    have he1 := ok_of_eq pairOk e1 (translate_memOk h)
    exact he1
  next _ _ e1 =>
    have he1 := ok_of_eq pairOk e1 (translate_memOk h)
    exact ctTranslate_memOk (unsent_memOk he1) (fun _ _ h => ctSent_memOk (addWaiter_memOk (addHolds_memOk h)))

theorem takeGrant_memOk {w : Waiter} (h : s.memOk) : ctOk (takeGrant w s) := by
  unfold takeGrant
  exact ctResAfter_memOk (onCur_memOk (acquire_memOk (dropWaiter_memOk (ite_memOk (objSet_memOk h) (objSet_memOk (objSet_memOk h))))))

theorem grantTo_memOk {w : Waiter} (h : s.memOk) : ctOk (grantTo w s) := by
  unfold grantTo
  dsimp only
  split
  · exact takeGrant_memOk h
  · split
    · exact takeGrant_memOk (reportRace_memOk h)
    · exact ite_ok ctOk (takeGrant_memOk (rsupDone_memOk h)) (withdrawWaiter_memOk h)

theorem acqStep_memOk {p k : Nat} (h : s.memOk) : (acqStep p k s).memOk := by
  grind [acqStep, State.memOk, waiterArrives_memOk, asLease_memOk, withdrawWaiter_memOk, grantTo_memOk, ctEvent_memOk]

theorem releaseObject_memOk {i : Nat} {shared : Bool} {scope : Nat} (h : s.memOk) : (releaseObject i shared scope s).memOk := by
  grind [releaseObject, State.memOk, addHolds_memOk, setVec_memOk, objSet_memOk, onCur_memOk, release_memOk]

theorem freeObject_memOk {i : Nat} {shared : Bool} (h : s.memOk) : (freeObject i shared s).memOk :=
  onCur_memOk (addHolds_memOk (ite_memOk (objSet_memOk (objSet_memOk h)) (objSet_memOk (objSet_memOk (objSet_memOk h)))))

theorem releaseHeld_memOk (h : s.memOk) : (releaseHeld s).memOk := foldl_memOk (fun _ _ h => releaseObject_memOk h) _ h

theorem freeHeld_memOk (h : s.memOk) : (freeHeld s).memOk := foldl_memOk (fun _ _ h => freeObject_memOk h) _ h

theorem execRel_memOk {t : Tok} {a : BitVec 5} {scope : BitVec 2} {m : BitVec 4} (h : s.memOk) : outOk (execRel t a scope m s) := by
  unfold execRel
  refine ctWord_memOk (fun _ h => ctResOrReplay_memOk h ?_) h
  dsimp only
  split
  · exact ite_ok ctOk h (ctResAfter_memOk (releaseObject_memOk h))
  · exact ite_ok ctOk (ctResRefuse_memOk h) (ite_ok ctOk h (onCt_memOk h))

theorem execFence_memOk {t : Tok} {scope : BitVec 2} {m : BitVec 4} (h : s.memOk) : outOk (execFence t scope m s) :=
  ctWord_memOk (fun _ h => ite_ok ctOk h (ctResPlain_memOk h)) h

theorem arriveBefore_memOk (h : s.memOk) : (arriveBefore s).memOk := foldl_memOk (fun _ _ h => waiterArrives_memOk h) _ h

theorem bindAt_memOk {obj base len i : Nat} {init : Bool} {tr : Tr} (h : s.memOk) : ctOk (bindAt obj base len i init tr s) := by
  unfold bindAt
  dsimp only
  split
  · exact ctResRefuse_memOk h
  · split
    · exact ctResRefuse_memOk h
    · split
      · exact ctResRefuse_memOk h
      · exact ctResAfter_memOk (setEntry_memOk (ite_memOk h (unitWrite_memOk _ _ _ (vecField_memOk (newVec_memOk h)))))

theorem execBind_memOk {t : Tok} {a b c : BitVec 5} {m : BitVec 4} {idx : BitVec 12} (h : s.memOk) : outOk (execBind t a b c m idx s) := by
  unfold execBind
  refine ctWord_memOk (fun _ h => ctResOrReplay_memOk h (ite_ok ctOk (ctResRefuseAt_memOk h) (ctTranslate_memOk h (fun _ _ h => ?_)))) h
  split
  · exact ite_ok ctOk h (bindAt_memOk (arriveBefore_memOk h))
  · exact onCt_memOk h

theorem unbindAt_memOk {i : Nat} {fin : Bool} (h : s.memOk) : ctOk (unbindAt i fin s) := by
  unfold unbindAt
  dsimp only
  split
  · exact ctResRefuse_memOk h
  · refine ctResAfter_memOk (setEntry_memOk ?_)
    split
    · exact h
    · exact h

theorem execUnbind_memOk {t : Tok} {m : BitVec 4} {idx : BitVec 12} (h : s.memOk) : outOk (execUnbind t m idx s) := by
  unfold execUnbind
  refine ctWord_memOk (fun _ h => ctResOrReplay_memOk h ?_) h
  split
  · exact ite_ok ctOk h (unbindAt_memOk (arriveBefore_memOk h))
  · exact onCt_memOk h

theorem execBarg_memOk {t : Tok} {a : BitVec 5} {_scope : BitVec 2} {m : BitVec 4} (h : s.memOk) : outOk (execBarg t a _scope m s) := by
  grind [execBarg, State.memOk, ctOk, outOk, !ctResRefuse_memOk, ctSent_memOk, onPart_memOk, releaseAll_memOk, !ctResOrReplay_memOk,
    !ctWord_memOk]

theorem barrierArrives_memOk {p k : Nat} (h : s.memOk) : (barrierArrives p k s).memOk := by
  unfold barrierArrives
  dsimp only
  split
  · exact h
  · split
    · exact setPart_memOk h
    · split
      · exact asLease_memOk (setPart_memOk h) (fun _ h => ctEvent_memOk (fun _ h => ctResRefuse_memOk h) h)
      · exact setPart_memOk h

theorem nextGeneration_memOk {p : Nat} (h : s.memOk) : (nextGeneration p s).memOk := onPart_memOk h

theorem barrierNotice_memOk {b : Barrier} {k : Nat} (h : s.memOk) : (barrierNotice b k s).memOk := by
  unfold barrierNotice
  exact asLease_memOk h (fun _ h => ctEvent_memOk (fun _ h => ite_ok ctOk (ctResAfter_memOk h) (ctResAfter_memOk (acquireAll_memOk h))) h)

theorem barrierCompletes_memOk {p k : Nat} (h : s.memOk) : (barrierCompletes p k s).memOk := by
  unfold barrierCompletes
  dsimp only
  split
  · exact h
  · split
    · exact h
    · exact foldl_memOk (fun _ _ h => barrierNotice_memOk h) _ (ite_memOk (nextGeneration_memOk (setPart_memOk h)) (setPart_memOk h))

theorem sweepEnds_memOk {p : Nat} (h : s.memOk) : (sweepEnds p s).memOk := by
  unfold sweepEnds
  dsimp only
  split
  · exact h
  · exact setPart_memOk (mapLeases_memOk h)

/-! ### Regions: control blocks, grants and ends of leases -/

theorem rcbSet_memOk {p va off n v : Nat} (h : s.memOk) : (s.rcbSet p va off n v).memOk := unitWrite_memOk _ _ _ h

theorem latchRcb_memOk {p : Nat} {r : Rcb} (h : s.memOk) : (s.latchRcb p r).memOk := by
  unfold State.latchRcb
  split
  next _ _ e1 =>
    have he1 := ok_of_eq pairOk e1 (newVec_memOk h)
    split
    next _ _ e2 =>
      have he2 := ok_of_eq pairOk e2 (vecField_memOk he1)
      exact rcbSet_memOk (rcbSet_memOk (rcbSet_memOk (rcbSet_memOk (rcbSet_memOk (rcbSet_memOk (onPart_memOk he2))))))

theorem attachUp_memOk {p n m : Nat} (h : s.memOk) : (attachUp p n m s).all State.memOk := by
  induction n generalizing m s with
  | zero => rfl
  | succ n ih => grind [attachUp, State.memOk, latchRcb_memOk]

theorem attach_memOk {p va : Nat} (h : s.memOk) : (s.attach p va).all State.memOk := attachUp_memOk h

theorem attachLive_memOk {p va : Nat} (h : s.memOk) : (s.attachLive p va).all State.memOk := by
  unfold State.attachLive
  split
  · rfl
  next _ e1 =>
    have he1 := ok_of_eq (Option.all State.memOk) e1 (attach_memOk h)
    exact ite_ok (Option.all State.memOk) he1 rfl

theorem addUp_memOk {p va off n : Nat} {f : Nat → Nat} (h : s.memOk) : (s.addUp p va off n f).memOk :=
  foldl_memOk (fun _ _ h => rcbSet_memOk h) _ h

theorem retable_memOk (h : s.memOk) : s.retable.memOk := h

theorem freeAid_memOk {p g : Nat} (h : s.memOk) : (s.freeAid p g).memOk := onPart_memOk h

theorem enqueue_memOk {prio : Nat} {x : Launch} (h : s.memOk) : (s.enqueue prio x).memOk := h

theorem unqueue_memOk {f : Launch → Bool} (h : s.memOk) : (s.unqueue f).memOk := h

theorem queueTask_memOk {p rcb kernel args kid : Nat} {o : Origin} {die : Nat} {vec : Vec} (h : s.memOk) :
    (s.queueTask p rcb kernel args kid o die vec).memOk :=
  addUp_memOk (enqueue_memOk (setPart_memOk h))

theorem onTask_memOk {p t : Nat} {f : Task → Task} (h : s.memOk) : (s.onTask p t f).memOk := onPart_memOk h

theorem takeLaunch_memOk {x : Launch} (h : s.memOk) : (s.takeLaunch x).memOk := h

theorem startAgents_memOk {p g : Nat} {vec : Vec} (h : s.memOk) : (s.startAgents p g vec).memOk := onPart_memOk h

theorem addLease_memOk {l : Lease} (h : s.memOk) : (s.addLease l).memOk := h

theorem grantLease_memOk {x : Launch} {hd : Header} {shape die row col g : Nat} (h : s.memOk) :
    (grantLease x hd shape die row col g s).memOk := by
  grind [grantLease, State.memOk, onTask_memOk, clearPlots_memOk, takeLaunch_memOk, onPart_memOk, addLease_memOk, retable_memOk,
    startAgents_memOk, addUp_memOk]

theorem grantNext_memOk (h : s.memOk) : (grantNext s).memOk := by
  unfold grantNext
  split
  · exact h
  · split
    · exact h
    · split
      · exact grantLease_memOk h
      · exact h

theorem settleAbsent_memOk (h : s.memOk) : s.settleAbsent.memOk := by
  unfold State.settleAbsent
  grind +splitImp [State.memOk, !foldl_memOk]

theorem markAbsent_memOk {d plot : Nat} (h : s.memOk) : (markAbsent d plot s).memOk := settleAbsent_memOk (fwWrote_memOk h)

theorem dropTraffic_memOk (h : s.memOk) : s.dropTraffic.memOk := foldl_memOk (fun _ _ h => ite_memOk (dropRatoms_memOk h) h) _ h

theorem leaseGone_memOk (h : s.memOk) : (leaseGone s).memOk := by
  unfold leaseGone
  exact settleAbsent_memOk (retable_memOk (ite_memOk (addUp_memOk (addUp_memOk (dropLease_memOk (freeAid_memOk (onTask_memOk (onPart_memOk
    (dropTraffic_memOk h))))))) (dropLease_memOk (freeAid_memOk (onTask_memOk (onPart_memOk (dropTraffic_memOk h)))))))

theorem settleDead_memOk {p va : Nat} (h : s.memOk) : (s.settleDead p va).memOk :=
  foldl_memOk (fun _ _ h => ite_memOk (rcbSet_memOk h) h) _ h

theorem taskReport_memOk {p : Nat} {t : Task} (h : s.memOk) : (taskReport p t s).memOk :=
  ite_memOk h (ite_memOk (setRing_memOk h) (writeDone_memOk h))

theorem taskDone_memOk {p t : Nat} (h : s.memOk) : (taskDone p t s).memOk := by
  unfold taskDone
  split
  · exact h
  · exact ite_memOk h (taskReport_memOk (settleDead_memOk (addUp_memOk (addUp_memOk (onPart_memOk h)))))

theorem retireLease_memOk (h : s.memOk) : (retireLease s).memOk := by
  grind [retireLease, State.memOk, leaseGone_memOk, releaseAll_memOk, setVec_memOk, releaseHeld_memOk, taskDone_memOk]

theorem execEndTask_memOk {t : Tok} (h : s.memOk) : outOk (execEndTask t s) :=
  ctWord_memOk (fun _ h => ite_ok ctOk (ctResRefuse_memOk h) (ite_ok ctOk h h)) h

theorem retireAtEnd_memOk (h : s.memOk) : (retireAtEnd s).memOk := ite_memOk h (retireLease_memOk (signals_memOk h))

theorem killLease_memOk (h : s.memOk) : (killLease s).memOk := leaseGone_memOk (freeHeld_memOk h)

theorem abortTask_memOk {p t kind cause killer : Nat} (h : s.memOk) : (abortTask p t kind cause killer s).memOk := by
  unfold abortTask
  split
  · exact h
  · dsimp only
    split
    · exact foldl_memOk (fun _ _ h => asLease_memOk h (fun _ h => killLease_memOk h)) _ (unqueue_memOk h)
    · split
      · exact settleDead_memOk (addUp_memOk (foldl_memOk (fun _ _ h => ite_memOk (unitWrite_memOk _ _ _ h) h) _ (addUp_memOk (onPart_memOk
          (foldl_memOk (fun _ _ h => asLease_memOk h (fun _ h => killLease_memOk h)) _ (unqueue_memOk h))))))
      · exact writeDone_memOk (settleDead_memOk (addUp_memOk (foldl_memOk (fun _ _ h => ite_memOk (unitWrite_memOk _ _ _ h) h) _
          (addUp_memOk (onPart_memOk (foldl_memOk (fun _ _ h => asLease_memOk h (fun _ h => killLease_memOk h)) _ (unqueue_memOk h)))))))

theorem markKilling_memOk {p va : Nat} (h : s.memOk) : (s.markKilling p va).memOk := foldl_memOk (fun _ _ h => rcbSet_memOk h) _ h

theorem sweepTree_memOk {p va kind killer : Nat} (h : s.memOk) : (sweepTree p va kind killer s).memOk := by
  unfold sweepTree
  exact foldl_memOk (fun _ _ h => ite_memOk (settleDead_memOk h) h) _ (foldl_memOk (fun _ _ h => abortTask_memOk h) _ (markKilling_memOk h))

theorem abortTasks_memOk {p : Nat} {ts : List Nat} {kind cause killer : Nat} (h : s.memOk) :
    (abortTasks p ts kind cause killer s).memOk := by
  unfold abortTasks
  dsimp only
  split
  · exact foldl_memOk (fun _ _ h => abortTask_memOk h) _ h
  · exact foldl_memOk (fun _ _ h => sweepTree_memOk h) _ (foldl_memOk (fun _ _ h => abortTask_memOk h) _ h)

theorem abortDomain_memOk {p t kind cause killer : Nat} (h : s.memOk) : (abortDomain p t kind cause killer s).memOk := abortTasks_memOk h

theorem killTree_memOk {p va kind killer : Nat} {own : Option Nat} (h : s.memOk) : (killTree p va kind killer own s).memOk :=
  foldl_memOk (fun _ _ h => ite_memOk (settleDead_memOk h) h) _ (abortTasks_memOk (markKilling_memOk h))

theorem ctReadable_memOk {va n : Nat} {f : State → CtRes} (h : s.memOk) (h_f : ∀ s, s.memOk → ctOk (f s)) : ctOk (ctReadable va n s f) :=
  ctReach_memOk h (fun _ h => ctReach_memOk h (fun _ h => h_f _ h))

theorem spawnWork_memOk {d : BitVec 5} {rcb kernel args stride rsv n reads : Nat} (h : s.memOk) :
    ctOk (spawnWork d rcb kernel args stride rsv n reads s) := by
  unfold spawnWork
  dsimp only
  split
  · exact ctResRefuse_memOk h
  next _ e1 =>
    have he1 := ok_of_eq (Option.all State.memOk) e1 (attach_memOk h)
    split
    · exact ctResRefuse_memOk he1
    · split
      · exact ctResRefuse_memOk he1
      · split
        · exact ctResRefuseAt_memOk he1
        · split
          · exact ctSent_memOk he1
          · exact ctResValueIn_memOk (foldl_memOk (fun _ _ h => queueTask_memOk h) _ (release_memOk he1))

theorem execSpawn_memOk {t : Tok} {d a b : BitVec 5} {n : BitVec 16} (h : s.memOk) : outOk (execSpawn t d a b n s) := by
  unfold execSpawn
  exact ctWord_memOk (fun _ h => ite_ok ctOk (ctResValueIn_memOk h) (ite_ok ctOk (ctResRefuseAt_memOk h) (ite_ok ctOk
    (ctResRefuseAt_memOk h) (ctReadable_memOk h (fun _ h => ctReadable_memOk h (fun _ h => ctReadable_memOk h
    (fun _ h => spawnWork_memOk h))))))) h

theorem execJoin_memOk {t : Tok} {d a : BitVec 5} (h : s.memOk) : outOk (execJoin t d a s) := by
  unfold execJoin
  exact ctWord_memOk (fun _ h => ite_ok ctOk (ctResValueIn_memOk h) (ite_ok ctOk h (ite_ok ctOk (ctResRefuseAt_memOk h) (ite_ok ctOk
    (ctResRefuse_memOk h) (ctSent_memOk h))))) h

theorem joinWork_memOk (h : s.memOk) : ctOk (joinWork s) :=
  ite_ok ctOk h (ctResValueIn_memOk (foldl_memOk (fun _ _ h => acquire_memOk h) _ h))

theorem execKill_memOk {t : Tok} {a : BitVec 5} (h : s.memOk) : outOk (execKill t a s) := by
  grind [execKill, State.memOk, ctOk, outOk, !ctResRefuse_memOk, ctSent_memOk, killTree_memOk, !ctResOrReplay_memOk, !ctWord_memOk,
    !attach_memOk]

theorem execKillComplete_memOk {l : Nat} (h : s.memOk) : outOk (execKillComplete l s) :=
  onLease_memOk h (fun _ h => ctEvent_memOk (fun _ h => ite_ok ctOk h (ctResAfter_memOk h)) h)

theorem rcbKill_memOk {p va : Nat} (h : s.memOk) : (rcbKill p va s).memOk := ite_memOk (onPart_memOk h) (onPart_memOk (killTree_memOk h))

theorem rcbkstatDo_memOk {p : Nat} (h : s.memOk) : (rcbkstatDo p s).2.memOk := setPart_memOk h

/-! ### Swap: saving and restoring -/

theorem beginSave_memOk (h : s.memOk) : (beginSave s).memOk := ite_memOk h (onCur_memOk h)

theorem askSave_memOk {l : Nat} {p : Pre} (h : s.memOk) : (askSave l p s).memOk := by
  unfold askSave
  split
  · exact h
  · exact mapLeases_memOk h

theorem without_memOk {g : List Nat} (h : s.memOk) : (s.without g).memOk :=
  retable_memOk (mapLeases_memOk (foldl_memOk (fun _ _ h => addUp_memOk (addUp_memOk h)) _ h))

theorem onlyPlots_memOk {g : List Nat} (h : s.memOk) : (s.onlyPlots g).memOk := h

theorem savePlots_memOk (h : s.memOk) : (savePlots s).memOk := clearPlots_memOk _ (flipPlanes_memOk _ h)

theorem drainWindow_memOk (h : s.memOk) : (drainWindow s).memOk := clearShadow_memOk _ (onCur_memOk h)

theorem finishHeld_memOk (h : s.memOk) : (finishHeld s).memOk := by
  unfold finishHeld
  exact onCur_memOk (ite_memOk (foldl_memOk (fun _ _ h => finishCfg_memOk h) _ (foldl_memOk (fun _ _ h => finishPend_memOk h) _ h))
    (finishRows_memOk (foldl_memOk (fun _ _ h => finishCfg_memOk h) _ (foldl_memOk (fun _ _ h => finishPend_memOk h) _ h))))

theorem saveGroup_memOk {g : List Nat} (h : s.memOk) : (saveGroup g s).memOk := by
  unfold saveGroup
  split
  · exact h
  · exact settleAbsent_memOk (retable_memOk (ite_memOk (onPart_memOk (foldl_memOk (fun _ _ h => asLease_memOk h (fun _ h => onCur_memOk
      (savePlots_memOk (finishHeld_memOk (writeResumes_memOk (addUp_memOk (addUp_memOk h))))))) _ h)) (enqueue_memOk (onPart_memOk
      (foldl_memOk (fun _ _ h => asLease_memOk h (fun _ h => onCur_memOk (savePlots_memOk (finishHeld_memOk (writeResumes_memOk
      (addUp_memOk (addUp_memOk h))))))) _ h)))))

theorem readAll_memOk {xs : List Nat} (h : s.memOk) : exceptOk State.memOk State.memOk (readAll xs s) := by
  induction xs generalizing s with
  | nil => exact h
  | cons i r ih => grind [readAll, State.memOk, exceptOk, !readRegs_memOk, focus_memOk]

theorem contextSave_memOk (h : s.memOk) : (contextSave s).memOk := by
  unfold contextSave
  dsimp only
  split
  · exact h
  · split
    next _ e1 =>
      have he1 := ok_of_eq (exceptOk State.memOk State.memOk) e1 (readAll_memOk h)
      exact saveGroup_memOk he1
    next _ e1 =>
      have he1 := ok_of_eq (exceptOk State.memOk State.memOk) e1 (readAll_memOk h)
      exact he1

theorem freeBytes_memOk {n : Nat} (h : s.memOk) : (s.freeBytes n).2.memOk := by
  induction n generalizing s with
  | zero => exact h
  | succ n ih => exact ih (nextFree_memOk h)

theorem drainImage_memOk (h : s.memOk) : (drainImage s).memOk := by
  unfold drainImage
  grind +splitImp [State.memOk, writeSections_memOk, freeBytes_memOk, haltLine_memOk, unitWrite_memOk, onPart_memOk, asLease_memOk,
    drainWindow_memOk, mapLeases_memOk, !foldl_memOk]

theorem loadPlots_memOk (h : s.memOk) : (loadPlots s).memOk :=
  onCur_memOk (flipPlanes_memOk _ (putPlots_memOk _ (clearShadow_memOk _ (clearPlots_memOk _ h))))

theorem restoreGroup_memOk {g : List Nat} {die row col : Nat} (h : s.memOk) : (restoreGroup g die row col s).memOk := by
  unfold restoreGroup
  split
  · exact h
  · exact retable_memOk (foldl_memOk (fun _ _ h => asLease_memOk h (fun _ h => onPart_memOk (loadPlots_memOk (addUp_memOk (addUp_memOk
      (onCt_memOk (onCur_memOk (onCur_memOk (ite_memOk (onCur_memOk h) (drainWindow_memOk h)))))))))) _ h)

theorem restoreNext_memOk {l : Nat} (h : s.memOk) : (restoreNext l s).memOk := by
  unfold restoreNext
  split
  · exact h
  · split
    · exact h
    · split
      · exact ite_memOk h (restoreGroup_memOk (takeLaunch_memOk h))
      · exact h

theorem queueImage_memOk {r : Nat} {f : Lease} (h : s.memOk) : (queueImage r f s).2.memOk :=
  ite_pairOk h (ite_pairOk h (onPart_memOk (mapLeases_memOk (enqueue_memOk h))))

theorem ctxDrop_memOk {p : Nat} (h : s.memOk) : (s.ctxDrop p).memOk := onPart_memOk h

theorem restoreDo_memOk {p va : Nat} (h : s.memOk) : (restoreDo p va s).memOk :=
  ite_memOk (ctxDrop_memOk h) (onPart_memOk (foldl_snd_memOk (fun _ _ h => queueImage_memOk h) _ (onPart_memOk h)))

theorem preemptDo_memOk {p va : Nat} (h : s.memOk) : (preemptDo p va s).memOk :=
  ite_memOk (ctxDrop_memOk h) (onPart_memOk (foldl_memOk (fun _ _ h => askSave_memOk h) _ h))

theorem settleCtx_memOk {p : Nat} (h : s.memOk) : (s.settleCtx p).memOk := by
  grind [State.settleCtx, State.memOk, onPart_memOk]

/-! ### Shapes: changes of shape -/

theorem changeIn_memOk {n : Nat} (h : s.memOk) : (s.changeIn n).memOk := onCt_memOk h

theorem shapeCheck_memOk {geometry accOk : Bool} {f : State → CtRes} (h_f : ∀ s, s.memOk → ctOk (f s)) (h : s.memOk) :
    ctOk (shapeCheck geometry accOk f s) := by
  unfold shapeCheck
  split
  · exact h
  · split
    · exact ctResRefuse_memOk h
    · exact ite_ok ctOk (ctResRefuse_memOk h) (ite_ok ctOk h (ite_ok ctOk (ctResRefuse_memOk h) (h_f _ h)))

theorem clearAcc_memOk {l : Lease} (h : s.memOk) : (s.clearAcc l).memOk := h

theorem changeEvent_memOk {op : Nat} {f : State → State} (h_f : ∀ s, s.memOk → (f s).memOk) (h : s.memOk) : (changeEvent op f s).memOk := by
  unfold changeEvent
  split
  · exact ite_memOk h (ctEvent_memOk (fun _ h => ctResAfter_memOk (h_f _ h)) h)
  · exact h

theorem reserveAids_memOk {gs : List Nat} (h : s.memOk) : (s.reserveAids gs).memOk := onCur_memOk (onPart_memOk h)

theorem execSplit_memOk {t : Tok} {shape : BitVec 4} {_ori : BitVec 1} {acc : BitVec 3} (h : s.memOk) :
    outOk (execSplit t shape _ori acc s) := by
  unfold execSplit
  exact ctWord_memOk (fun _ h => shapeCheck_memOk (fun _ h => ite_ok ctOk (ctResRefuse_memOk h) (changeIn_memOk
    (reserveAids_memOk h))) h) h

theorem addPart_memOk {l : Lease} {v : Vec} {sh : Nat} {ori : Bool} {c : (Nat × Nat) × Nat} (h : s.memOk) :
    (addPart l v sh ori s c).memOk := by
  grind [addPart, State.memOk, onTask_memOk, onPart_memOk, addLease_memOk, startAgents_memOk, addUp_memOk]

theorem applySplit_memOk (h : s.memOk) : (applySplit s).memOk := by
  unfold applySplit
  grind +splitImp [State.memOk, acquireAll_memOk, releaseAll_memOk, retable_memOk, clearAcc_memOk, addPart_memOk, onCur_memOk, !foldl_memOk]

theorem applyOrient_memOk (h : s.memOk) : (applyOrient s).memOk := retable_memOk (onCur_memOk (ite_memOk (clearAcc_memOk h) h))

theorem fuseArrive_memOk {r : Rect} (h : s.memOk) : (fuseArrive r s).memOk := ite_memOk (mapLeases_memOk (ctSent_memOk h)) (ctSent_memOk h)

theorem execFuse_memOk {t : Tok} {_dy _dx : BitVec 3} {_shape : BitVec 4} {_ori : BitVec 1} {acc : BitVec 3} (h : s.memOk) :
    outOk (execFuse t _dy _dx _shape _ori acc s) := by
  unfold execFuse
  refine ctWord_memOk (fun _ h => ?_) h
  split
  · exact ite_ok ctOk h (ctResRefuse_memOk h)
  · exact shapeCheck_memOk (fun _ h => ite_ok ctOk (ctResRefuse_memOk h) (fuseArrive_memOk h)) h

theorem fuseAway_memOk (h : s.memOk) : (fuseAway s).memOk :=
  addUp_memOk (dropLease_memOk (freeAid_memOk (onTask_memOk (dropTraffic_memOk h))))

theorem releaseEach_memOk {xs : List Nat} (h : s.memOk) : (releaseEach xs s).2.memOk := by
  induction xs generalizing s with
  | nil => exact h
  | cons x r ih => grind [releaseEach, State.memOk, releaseAll_memOk, focus_memOk]

theorem applyFuse_memOk {r : Rect} (h : s.memOk) : (applyFuse r s).memOk := by
  unfold applyFuse
  grind +splitImp [State.memOk, onLease_memOk, fuseAway_memOk, acquireAll_memOk, asLease_memOk, releaseEach_memOk, retable_memOk,
    clearAcc_memOk, focus_memOk, releaseHeld_memOk, onCur_memOk, !foldl_memOk]

theorem fuseNow_memOk (h : s.memOk) : (fuseNow s).memOk := by
  unfold fuseNow
  split
  · exact h
  · exact ite_memOk (changeEvent_memOk (fun _ h => applyFuse_memOk h) h) h

theorem holdPairs_memOk (h : s.memOk) : s.holdPairs.memOk := mapLeases_memOk h

theorem linkWork_memOk {op : Nat} (h : s.memOk) : ctOk (linkWork op s) := by
  unfold linkWork
  dsimp only
  split
  · exact h
  · split
    · exact h
    · exact ite_ok ctOk (mapLeases_memOk h) h
  · exact ctResRefuse_memOk h
  · split
    · exact ctResRefuse_memOk h
    · split
      · exact ctSent_memOk h
      · split
        · exact holdPairs_memOk (ctSent_memOk h)
        · exact ctResRefuse_memOk (asLease_memOk h (fun _ h => ctEvent_memOk (fun _ h => ctResRefuse_memOk h) h))

theorem linkChange_memOk {op : Nat} {edge : Lease → Lease → State → State} (h_edge : ∀ x0 x1 s, s.memOk → (edge x0 x1 s).memOk)
  (h : s.memOk) :
    (linkChange op edge s).memOk := by
  unfold linkChange
  split
  · split
    · exact h
    · split
      · exact h
      · exact holdPairs_memOk (focus_memOk (asLease_memOk (ctEvent_memOk (fun _ h => ctResAfter_memOk h) (retable_memOk
          (h_edge _ _ _ h))) (fun _ h => ctEvent_memOk (fun _ h => ctResAfter_memOk h) h)))
  · exact h

theorem joinEdge_memOk {p q : Lease} (h : s.memOk) : (joinEdge p q s).memOk := mapLeases_memOk h

theorem cutEdge_memOk {p q : Lease} (h : s.memOk) : (cutEdge p q s).memOk := mapLeases_memOk h

/-! ### Launch: host rings and launches -/

theorem readPacket_memOk {p r n : Nat} (h : s.memOk) : (s.readPacket p r n).2.memOk :=
  ite_memOk (busReady_memOk h) (unitTouch_memOk _ _ _ _ (busReady_memOk h))

theorem touchLaunch_memOk {p : Nat} {o : Origin} (h : s.memOk) : (s.touchLaunch p o).memOk :=
  unitTouch_memOk _ _ _ _ (unitTouch_memOk _ _ _ _ h)

theorem launchTask_memOk {p : Nat} {o : Origin} {args : Nat} {again : Bool} (h : s.memOk) : (launchTask p o args again s).memOk := by
  unfold launchTask
  dsimp only
  split
  · exact touchLaunch_memOk h
  · split
    · exact writeDone_memOk (touchLaunch_memOk h)
    · split
      · exact writeDone_memOk (touchLaunch_memOk h)
      next _ e1 =>
        have he1 := ok_of_eq (Option.all State.memOk) e1 (attachLive_memOk (touchLaunch_memOk h))
        exact queueTask_memOk he1

theorem startPrologue_memOk {p : Nat} {o : Origin} {hd : Header} {pub : Bool} (h : s.memOk) : (startPrologue p o hd pub s).memOk := by
  grind [startPrologue, State.memOk, unitTouch_memOk, addLease_memOk, setRing_memOk]

theorem launchPlain_memOk {p : Nat} {o : Origin} {pub : Bool} (h : s.memOk) : (launchPlain p o pub s).memOk :=
  ite_memOk (packetDone_memOk (launchTask_memOk h)) (setRing_memOk h)

theorem takeLaunchPacket_memOk {p r : Nat} (h : s.memOk) : (takeLaunchPacket p r s).memOk := by
  unfold takeLaunchPacket
  split
  · exact h
  · split
    next _ _ e1 =>
      have he1 := ok_of_eq pairOk e1 (readPacket_memOk h)
      split
      · exact he1
      · dsimp only
        split
        · exact unitTouch_memOk _ _ _ _ (setRing_memOk he1)
        · split
          · exact packetDone_memOk (writeDone_memOk (unitTouch_memOk _ _ _ _ (setRing_memOk he1)))
          · split
            · exact launchPlain_memOk (unitTouch_memOk _ _ _ _ (setRing_memOk he1))
            · exact startPrologue_memOk (unitTouch_memOk _ _ _ _ (setRing_memOk he1))

theorem takeNopPacket_memOk {p r : Nat} (h : s.memOk) : (takeNopPacket p r s).memOk :=
  ite_memOk h (ite_memOk (readPacket_memOk h) (packetDone_memOk (setRing_memOk (readPacket_memOk h))))

theorem takeInvalidPacket_memOk {p r : Nat} (h : s.memOk) : (takeInvalidPacket p r s).memOk :=
  ite_memOk h (ite_memOk (readPacket_memOk h) (packetDone_memOk (writeDone_memOk (setRing_memOk (readPacket_memOk h)))))

theorem ringWaits_memOk {p r : Nat} (h : s.memOk) : (ringWaits p r s).memOk := setRing_memOk (ite_memOk (publish_memOk h) h)

theorem launchHeld_memOk {p r : Nat} (h : s.memOk) : (launchHeld p r s).memOk := by
  unfold launchHeld
  split
  · exact h
  · exact ite_memOk h (launchPlain_memOk (setRing_memOk h))

theorem repeatPrologue_memOk {p r : Nat} (h : s.memOk) : (repeatPrologue p r s).memOk := by
  unfold repeatPrologue
  dsimp only
  split
  · exact h
  · split
    · exact h
    · split
      · exact unitTouch_memOk _ _ _ _ (setRing_memOk h)
      · split
        · exact writeDone_memOk (unitTouch_memOk _ _ _ _ (setRing_memOk h))
        · exact startPrologue_memOk (unitTouch_memOk _ _ _ _ (setRing_memOk h))

theorem launchWord_memOk {again : Bool} (h : s.memOk) : ctOk (launchWord again s) :=
  ite_ok ctOk h (prologueGone_memOk (focus_memOk (launchTask_memOk h)))

theorem execLcancel_memOk {t : Tok} (h : s.memOk) : outOk (execLcancel t s) :=
  ctWord_memOk (fun _ h => ite_ok ctOk h (prologueGone_memOk (writeDone_memOk h))) h

theorem armRing_memOk {p r : Nat} (h : s.memOk) : (armRing p r s).memOk := ite_memOk (setRing_memOk (busReady_memOk h)) (busReady_memOk h)

theorem hrctlWrite_memOk {p r : Nat} {v : W64} (h : s.memOk) : (hrctlWrite p r v s).memOk := by
  unfold hrctlWrite
  dsimp only
  split
  · exact ite_memOk h (ite_memOk (setRing_memOk h) (ite_memOk (setRing_memOk h) (ringRest_memOk (setRing_memOk h))))
  · exact ite_memOk (armRing_memOk (setRing_memOk h)) (setRing_memOk h)

theorem hrdbDo_memOk {p r : Nat} (h : s.memOk) : (hrdbDo p r s).memOk := setRing_memOk h

theorem packetStep_memOk {u c p : Nat} (h : s.memOk) : (packetStep u c p s).all State.memOk := by
  unfold packetStep
  split
  · rfl
  · exact h
  · exact h
  · exact launchHeld_memOk h
  · exact ite_memOk (armRing_memOk h) (readPacket_memOk h)
  · exact ringWaits_memOk h

/-! ### Faults: fault queue, TLB invalidation, ATS and halt line -/

theorem writeFault_memOk {p : Nat} (h : s.memOk) : (writeFault p s).memOk := by
  unfold writeFault
  split
  · exact h
  · split
    · exact h
    · dsimp only
      split
      · exact h
      next _ e1 =>
        have he1 := ok_of_eq (Option.all State.memOk) e1 (eqPut_memOk h)
        exact onPart_memOk he1

theorem settleFaults_memOk {p l : Nat} (h : s.memOk) : (s.settleFaults p l).memOk := ite_memOk h (mapLeases_memOk (setPart_memOk h))

theorem fqresDo_memOk {p : Nat} {v : W64} (h : s.memOk) : (fqresDo p v s).memOk := by
  unfold fqresDo
  dsimp only
  split
  · exact h
  · split
    · exact h
    · split
      · split
        · exact h
        · exact abortDomain_memOk h
      · exact settleFaults_memOk (onPart_memOk (fwWrote_memOk h))

theorem eqctlWrite_memOk {p k : Nat} {v : W64} (h : s.memOk) : (eqctlWrite p k v s).memOk := ite_memOk (setEq_memOk h) (setEq_memOk h)

theorem tlbInvalidate_memOk {p : Nat} {f : TlbEntry → Bool} (h : s.memOk) : (tlbInvalidate p f s).memOk := by
  grind [tlbInvalidate, State.memOk, setPart_memOk]

theorem tlbInvPageDo_memOk {p : Nat} {v : W64} (h : s.memOk) : (tlbInvPageDo p v s).memOk := tlbInvalidate_memOk h

theorem tlbInvAllDo_memOk {p : Nat} (h : s.memOk) : (tlbInvAllDo p s).memOk := tlbInvalidate_memOk h

theorem tlbInvDoneDo_memOk {p : Nat} (h : s.memOk) : (tlbInvDoneDo p s).memOk := ite_memOk (setPart_memOk h) h

theorem tlbinvstatDo_memOk {p : Nat} (h : s.memOk) : (tlbinvstatDo p s).2.memOk := setPart_memOk h

theorem atcRoom_memOk (h : s.memOk) : s.atcRoom.memOk := by
  grind [State.atcRoom, State.memOk, onPart_memOk, victim_mem]

theorem atsAnswer_memOk {p k : Nat} {present : Bool} (h : s.memOk) : (atsAnswer p k present s).memOk := by
  grind [atsAnswer, State.memOk, setPart_memOk, onPart_memOk, atcRoom_memOk]

theorem priAnswer_memOk {p k : Nat} {success : Bool} (h : s.memOk) : (priAnswer p k success s).memOk :=
  ite_memOk h (ite_memOk (setPart_memOk h) (setPart_memOk h))

theorem atsDrop_memOk {p va : Nat} (h : s.memOk) : (atsDrop p va s).memOk := onPart_memOk h

theorem atsSettle_memOk {p : Nat} (h : s.memOk) : (atsSettle p s).memOk := by
  grind [atsSettle, State.memOk, setPart_memOk]

theorem phaltDo_memOk {p : Nat} (h : s.memOk) : (phaltDo p s).memOk := (haltLine_memOk _ _ _ _).trans h

theorem riseInfo_memOk {c : Cause} (h : s.memOk) : (s.riseInfo c).2.memOk :=
  ite_pairOk h (nextFree_memOk (nextFree_memOk (nextFree_memOk h)))

theorem haltRise_memOk {p : Nat} {c : Cause} (h : s.memOk) : (haltRise p c s).memOk :=
  ite_memOk h ((haltLine_memOk _ _ _ _).trans (riseInfo_memOk h))

theorem execHaltLineRise_memOk {p : Nat} {cause : BitVec 6} (h : s.memOk) : outOk (execHaltLineRise p cause s) := by
  unfold execHaltLineRise
  split
  · exact haltRise_memOk h
  · exact h

theorem watchdogDo_memOk (h : s.memOk) : (watchdogDo s).memOk := by
  unfold watchdogDo
  split
  · exact ite_memOk (prologueFail_memOk h) (haltBy_memOk h)
  · split
    · exact (haltLine_memOk _ _ _ _).trans h
    · exact h

theorem stopEngine_memOk {p k : Nat} (h : s.memOk) : (stopEngine p k s).memOk := by
  grind [stopEngine, State.memOk, unitWrite_memOk, onPart_memOk]

/-! ### Debug: stops, dumps and replays -/

theorem onDbg_memOk {p : Nat} {f : Debug → Debug} (h : s.memOk) : (s.onDbg p f).memOk := onPart_memOk h

theorem askFor_memOk {p l bits : Nat} (h : s.memOk) : (askFor p l bits s).memOk := onDbg_memOk h

theorem dbgCommand_memOk {p : Nat} {needStop : Bool} {f : Lease → State → State} (h_f : ∀ x0 s, s.memOk → (f x0 s).memOk) (h : s.memOk) :
    (dbgCommand p needStop f s).memOk := by
  unfold dbgCommand
  dsimp only
  split
  · exact ite_memOk (onDbg_memOk h) (h_f _ _ h)
  · exact onDbg_memOk h

theorem dbgStopDo_memOk {p : Nat} (h : s.memOk) : (dbgStopDo p s).memOk := dbgCommand_memOk (fun _ _ h => ite_memOk h (askFor_memOk h)) h

theorem bitmapSyncDo_memOk {p : Nat} (h : s.memOk) : (bitmapSyncDo p s).memOk :=
  dbgCommand_memOk (fun _ _ h => foldl_memOk (fun _ _ h => asLease_memOk h (fun _ h => dropLines_memOk h)) _ h) h

theorem dbgstatDo_memOk {p : Nat} (h : s.memOk) : (dbgstatDo p s).2.memOk := onDbg_memOk h

theorem writeDump_memOk {p reason m : Nat} {xs : List (Lease × Nat)} (h : s.memOk) : (writeDump p reason m xs s).2.memOk := by
  induction xs generalizing s with
  | nil => exact h
  | cons x r ih =>
    rw [writeDump]
    split
    extract_lets hdr z
    split
    next img s1 e1 =>
    split
    next arr s2 e2 =>
    have h1 := ok_of_eq pairOk e1 (freeBytes_memOk h)
    have h2 := ok_of_eq pairOk e2 (freeBytes_memOk h1)
    exact ih (writeSections_memOk _ _ (unitWrite_memOk _ _ _ h2))

theorem freezeGroup_memOk {p : Nat} {g : List Nat} (h : s.memOk) : (freezeGroup p g s).memOk := by
  unfold freezeGroup
  dsimp only
  split
  · exact onDbg_memOk (mapLeases_memOk h)
  · exact asLease_memOk (onDbg_memOk (mapLeases_memOk h)) (fun _ h => trace_memOk h)

theorem dumpGroup_memOk {p m : Nat} {g : List Nat} (h : s.memOk) : (dumpGroup p m g s).memOk :=
  ite_memOk h (onDbg_memOk (writeDump_memOk h))

theorem stopEdgeDo_memOk {p : Nat} (h : s.memOk) : (stopEdgeDo p s).memOk := by
  unfold stopEdgeDo
  dsimp only
  split
  · exact h
  · split
    · exact onDbg_memOk h
    · split
      · exact onDbg_memOk h
      · split
        · split
          · exact onDbg_memOk h
          · exact dumpGroup_memOk h
        · exact ite_memOk (dumpGroup_memOk (freezeGroup_memOk h)) h

theorem stopVcDo_memOk {p : Nat} (h : s.memOk) : (stopVcDo p s).memOk := by
  unfold stopVcDo
  dsimp only
  split
  · exact h
  · exact ite_memOk (onDbg_memOk (askFor_memOk h)) h

theorem spendBreak_memOk {st : Stream} (h : s.memOk) : (s.spendBreak st).memOk := ite_memOk (onCur_memOk h) (onStream_memOk h)

theorem breakStops_memOk {l : Nat} (h : s.memOk) : (breakStops l s).memOk := by
  unfold breakStops
  exact onLease_memOk h (fun _ h => ite_memOk h (foldl_memOk (fun _ _ h => ite_memOk (askFor_memOk (spendBreak_memOk h)) h) _ (ite_memOk
    (askFor_memOk (spendBreak_memOk h)) h)))

theorem ctBreakTrap_memOk (h : s.memOk) : (ctBreakTrap s).memOk := ite_memOk (ctTrap_memOk (spendBreak_memOk h)) h

theorem ringBreakTrap_memOk {st : Stream} (h : s.memOk) : (ringBreakTrap st s).memOk := refuseIssue_memOk (spendBreak_memOk h)

theorem loadPlane_memOk {changed : Bool} (h : s.memOk) : (loadPlane changed s).memOk := ite_memOk h (onCur_memOk (nextFree_memOk h))

theorem thaw_memOk {base : Nat} {x : Lease × Nat} (h : s.memOk) : (thaw base x s).memOk := by
  unfold thaw
  refine asLease_memOk h (fun _ h => ?_)
  split
  · exact onCur_memOk (loadPlane_memOk (putPlots_memOk _ (clearPlots_memOk _ (onCur_memOk h))))

theorem resumeDo_memOk {p : Nat} (h : s.memOk) : (resumeDo p s).memOk := by
  unfold resumeDo
  refine dbgCommand_memOk (fun _ _ h => ite_memOk (onDbg_memOk h) ?_) h
  dsimp only
  split
  · exact onDbg_memOk (foldl_memOk (fun _ _ h => thaw_memOk h) _ h)
  · exact asLease_memOk (onDbg_memOk (foldl_memOk (fun _ _ h => thaw_memOk h) _ h)) (fun _ h => trace_memOk h)

theorem sampleDo_memOk {p : Nat} (h : s.memOk) : (sampleDo p s).memOk := by
  unfold sampleDo
  split
  · exact h
  · exact ite_memOk h (asLease_memOk h (fun _ h => trace_memOk h))

theorem replayDo_memOk {p a : Nat} (h : s.memOk) : (replayDo p a s).memOk := by
  unfold replayDo
  dsimp only
  split
  · exact onDbg_memOk h
  · split
    · exact ite_memOk (onDbg_memOk h) (enqueue_memOk (onPart_memOk h))
    · exact onDbg_memOk h

theorem replayEndDo_memOk {p : Nat} (h : s.memOk) : (replayEndDo p s).memOk := by
  unfold replayEndDo
  split
  · exact h
  · exact ite_memOk (askFor_memOk h) h

theorem replayLandings_memOk {n : Nat} (h : s.memOk) : (replayLandings n s).memOk := by
  induction n generalizing s with
  | zero => exact h
  | succ n ih => grind [replayLandings, State.memOk, replayTake_memOk, wf_writeBytes]

theorem replayMc_memOk {l : Nat} (h : s.memOk) : (replayMc l s).memOk := by
  unfold replayMc
  refine onLease_memOk h (fun _ h => ite_memOk h ?_)
  dsimp only
  split
  · split
    · split
      · exact ite_memOk (stopStream_memOk (replayLandings_memOk h)) (replayLandings_memOk h)
      · exact replayLandings_memOk h
    · split
      · exact ite_memOk (stopStream_memOk (replayLandings_memOk h)) (replayLandings_memOk h)
      · exact replayLandings_memOk h
  · split
    · exact ite_memOk (stopStream_memOk (replayLandings_memOk h)) (replayLandings_memOk h)
    · exact replayLandings_memOk h

/-! ### Outside: firmware and the host -/

theorem putLeaf_memOk {a : Nat} {e : W64} (h : s.memOk) : (s.putLeaf a e).memOk := settle_memOk (writeLe_memOk (rekey_memOk _ _ h))

theorem dropRange_memOk {key n : Nat} (h : s.memOk) : (s.dropRange key n).memOk := by
  obtain ⟨hm, hv⟩ := (memOk_iff s).1 h
  exact (memOk_iff _).2 ⟨hm, wf_filter _ hv⟩

theorem copyRead_memOk {t : Tr} {n : Nat} {view : Bool} (h : s.memOk) : (s.copyRead t n view).2.memOk :=
  ite_pairOk (nextFree_memOk h) (readTr_memOk h)

theorem copyWrite_memOk {p : Nat} {e : W64} {t : Tr} {bs : List Byte} (h : s.memOk) : (s.copyWrite p e t bs).memOk := by
  unfold State.copyWrite
  split
  · exact writeTr_memOk _ _ _ h
  · split
    · exact h
    · exact h

theorem badMove_memOk {p : Nat} {t : Tr} (h : s.memOk) : (s.badMove p t).memOk := (haltLine_memOk _ _ _ _).trans h

theorem copyPage_memOk {p : Nat} {old new : W64} {n : Nat} (h : s.memOk) : (copyPage p old new n s).memOk := by
  induction n with
  | zero => exact h
  | succ n ih => grind [copyPage, State.memOk, badMove_memOk, putView_memOk, copyRead_memOk, copyWrite_memOk]

theorem migrateBlock_memOk {p va a : Nat} (h : s.memOk) : (migrateBlock p va a s).memOk :=
  onPart_memOk (tlbInvPageDo_memOk (putLeaf_memOk h))

theorem migrateCopy_memOk {p va size a : Nat} {new : W64} (h : s.memOk) : (migrateCopy p va size a new s).memOk :=
  onPart_memOk (copyPage_memOk (dropRange_memOk h))

theorem migrateSwitch_memOk {p va a : Nat} {new : W64} (h : s.memOk) : (migrateSwitch p va a new s).memOk :=
  onPart_memOk (tlbInvPageDo_memOk (putLeaf_memOk h))

theorem migrateEnd_memOk {p va size old : Nat} (h : s.memOk) : (migrateEnd p va size old s).memOk := by
  unfold migrateEnd
  refine foldl_memOk (fun _ _ h => ?_) _ (onPart_memOk (dropRange_memOk h))
  split
  · exact fqresDo_memOk h
  · exact h

theorem migrateDo_memOk {p va : Nat} {new : W64} (h : s.memOk) : (migrateDo p va new s).memOk := by
  unfold migrateDo
  split
  · exact h
  · dsimp only
    split
    · exact h
    · split
      · exact migrateBlock_memOk (fwWrote_memOk h)
      · exact migrateCopy_memOk (fwWrote_memOk h)
      · exact migrateSwitch_memOk (fwWrote_memOk h)
      · exact migrateEnd_memOk (fwWrote_memOk h)

theorem scrubError_memOk {key : Nat} (h : s.memOk) : (scrubError key s).memOk := by
  unfold scrubError
  split
  · exact h
  · dsimp only
    split
    · exact h
    · exact (haltLine_memOk _ _ _ _).trans h

theorem registerError_memOk {x : Nat} (h : s.memOk) : (registerError x s).memOk := mapLeases_memOk h

theorem codeError_memOk {x : Nat} (h : s.memOk) : (codeError x s).memOk := mapLeases_memOk h

theorem lineError_memOk {key : Nat} (h : s.memOk) : (lineError key s).memOk := by
  unfold lineError
  split
  · exact h
  · exact dropLine_memOk _ h
  · exact h

theorem errorDo_memOk {e : Nat} (h : s.memOk) : (errorDo e s).memOk := by
  unfold errorDo
  dsimp only
  split
  · exact scrubError_memOk h
  · exact h
  · exact h
  · exact registerError_memOk h
  · exact codeError_memOk h
  · exact lineError_memOk h
  · exact h

theorem scrubDo_memOk {errors : List Nat} (h : s.memOk) : (scrubDo errors s).memOk := foldl_memOk (fun _ _ h => errorDo_memOk h) _ h

theorem takeOver_memOk (h : s.memOk) : (takeOver s).memOk := h

theorem heartbeatDo_memOk (h : s.memOk) : (heartbeatDo s).memOk := h

theorem standbyDo_memOk (h : s.memOk) : (standbyDo s).memOk := ite_memOk h (takeOver_memOk h)

theorem updateTakes_memOk (h : s.memOk) : (updateTakes s).memOk := ite_memOk (takeOver_memOk h) h

theorem liveUpdateDo_memOk {sigOk versionOk : Bool} {image : W64} (h : s.memOk) : (liveUpdateDo sigOk versionOk image s).memOk :=
  ite_memOk (updateTakes_memOk h) h

theorem stateTableDo_memOk {n : Nat} (h : s.memOk) : (stateTableDo n s).memOk := ite_memOk h h

theorem bootDo_memOk {k : Nat} (h : s.memOk) : (bootDo k s).memOk := h

theorem packageResetDo_memOk (h : s.memOk) : (packageResetDo s).memOk := by
  obtain ⟨hm, -⟩ := (memOk_iff s).1 h
  exact bootDo_memOk ((memOk_iff _).2 ⟨wf_filter _ hm, rfl⟩)

theorem partitionResetDo_memOk {p : Nat} (h : s.memOk) : (partitionResetDo p s).memOk := by
  unfold partitionResetDo
  exact fwWrote_memOk (settleAbsent_memOk (retable_memOk (setPart_memOk (foldl_memOk (fun _ _ h => dropLease_memOk h) _
    (unqueue_memOk h)))))

theorem unfill_memOk {key : Nat} (h : s.memOk) : (s.unfill key).memOk := ite_memOk (dropLine_memOk _ h) h

theorem lostOnLink_memOk {r : Req} (h : s.memOk) : (lostOnLink s r).memOk :=
  ite_memOk (ite_memOk (unfill_memOk h) (asLease_memOk (unfill_memOk h) (fun _ h => onCt_memOk h))) h

theorem lostReads_memOk (h : s.memOk) : (lostReads s).memOk := by
  unfold lostReads
  split
  · exact onCur_memOk h
  · exact foldl_memOk (fun _ _ h => ite_memOk (unfill_memOk h) h) _ (onCur_memOk h)

theorem hotResetDo_memOk (h : s.memOk) : (hotResetDo s).memOk := by
  unfold hotResetDo
  exact foldl_memOk (fun _ _ h => asLease_memOk h (fun _ h => lostReads_memOk h)) _ (foldl_memOk (fun _ _ h => lostOnLink_memOk h) _ h)

theorem thermalEvent_memOk {tj : Nat} (h : s.memOk) : (s.thermalEvent tj).memOk := h

theorem throttleDo_memOk {powerOver : Bool} {tj : Nat} (h : s.memOk) : (throttleDo powerOver tj s).memOk :=
  ite_memOk (thermalEvent_memOk h) h

theorem thermalHaltDo_memOk {tj : Nat} (h : s.memOk) : (thermalHaltDo tj s).memOk :=
  ite_memOk h (thermalEvent_memOk (foldl_memOk (fun _ _ h => phaltDo_memOk h) _ h))

theorem ageingDo_memOk {d k : Nat} {v : W64} (h : s.memOk) : (ageingDo d k v s).memOk := by
  unfold ageingDo
  dsimp only
  split
  · exact ite_memOk (markAbsent_memOk h) h
  · exact h

theorem healthDo_memOk {d : Nat} (h : s.memOk) : (healthDo d s).memOk := h

theorem healthMc_memOk (h : s.memOk) : (healthMc s).memOk := h

theorem doeDo_memOk {req : List Byte} (h : s.memOk) : (doeDo req s).memOk := by
  unfold doeDo
  split
  next _ _ e1 =>
    have he1 := ok_of_eq pairOk e1 (nextFree_memOk h)
    dsimp only
    split
    · exact he1
    · exact he1
    · exact he1

theorem barEffect_memOk {t : Tr} {kind size data cmp : Nat} (h : s.memOk) : (barEffect t kind size data cmp s).2.memOk := by
  unfold barEffect
  split
  next _ _ e1 =>
    have he1 := ok_of_eq pairOk e1 (readTr_memOk h)
    dsimp only
    split
    · exact settle_memOk (writeTr_memOk _ _ _ he1)
    · exact he1

theorem hostBarDo_memOk {p va kind size data cmp : Nat} (h : s.memOk) : (hostBarDo p va kind size data cmp s).memOk := by
  grind [hostBarDo, State.memOk, haltLine_memOk, translate_memOk, unitWrite_memOk, onPart_memOk, barEffect_memOk, countHome_memOk]

theorem barRetry_memOk (h : s.memOk) : (barRetry s).memOk := foldl_memOk (fun _ _ h => hostBarDo_memOk h) _ h

theorem mmuWrite_memOk {p o : Nat} {v : W64} (h : s.memOk) : (mmuWrite p o v s).memOk := by
  unfold mmuWrite
  split
  · exact onPart_memOk h
  · exact onPart_memOk h
  · exact ite_memOk (tlbInvPageDo_memOk h) (ite_memOk (tlbInvAllDo_memOk h) (onPart_memOk h))
  · exact h

theorem ringWrite_memOk {p r o : Nat} {v : W64} (h : s.memOk) : (ringWrite p r o v s).memOk := by
  unfold ringWrite
  dsimp only
  split
  · exact ite_memOk h (setRing_memOk h)
  · exact hrctlWrite_memOk h
  · exact ite_memOk h (setRing_memOk h)
  · exact hrdbDo_memOk h
  · exact h

theorem eventWrite_memOk {p o : Nat} {v : W64} (h : s.memOk) : (eventWrite p o v s).memOk := by
  unfold eventWrite
  split
  · exact fqresDo_memOk h
  · split
    · exact h
    · dsimp only
      split
      · exact ite_memOk h (setEq_memOk h)
      · exact eqctlWrite_memOk h
      · exact setEq_memOk h
      · exact h

theorem batcherWrite_memOk {p b o : Nat} {v : W64} (h : s.memOk) : (batcherWrite p b o v s).memOk := by
  unfold batcherWrite
  split
  · exact ite_memOk h (onBatcher_memOk h)
  · exact ite_memOk (bcctlEnableDo_memOk h) (bcctlDisableDo_memOk h)
  · exact bcdbDo_memOk h
  · exact h

theorem debugWrite_memOk {p o : Nat} {v : W64} (h : s.memOk) : (debugWrite p o v s).memOk := by
  unfold debugWrite
  dsimp only
  split
  · exact ite_memOk h (onDbg_memOk h)
  · exact onDbg_memOk h
  · split
    · exact dbgStopDo_memOk h
    · exact resumeDo_memOk h
    · exact bitmapSyncDo_memOk h
    · exact h
  · exact onDbg_memOk h
  · exact onDbg_memOk h
  · exact ite_memOk h (onDbg_memOk h)
  · exact ite_memOk h (onDbg_memOk h)
  · exact onDbg_memOk h
  · exact replayDo_memOk h
  · exact h

theorem haltWrite_memOk {p o : Nat} {v : W64} (h : s.memOk) : (haltWrite p o v s).memOk := by
  unfold haltWrite
  dsimp only
  split
  · exact phaltDo_memOk h
  · exact ite_memOk h (onPart_memOk h)
  · exact ite_memOk h (onPart_memOk h)
  · exact ite_memOk h (onPart_memOk h)
  · exact ite_memOk h (onPart_memOk h)
  · exact preemptDo_memOk h
  · exact restoreDo_memOk h
  · exact h

theorem vfWrite_memOk {p off : Nat} {v : W64} (h : s.memOk) : (vfWrite p off v s).memOk := by
  unfold vfWrite
  split
  · exact h
  · split
    · exact rcbKill_memOk h
    · split
      · exact mmuWrite_memOk h
      · exact ite_memOk (ringWrite_memOk h) h
      · exact eventWrite_memOk h
      · exact ite_memOk (batcherWrite_memOk h) h
      · exact debugWrite_memOk h
      · exact haltWrite_memOk h
      · exact h

theorem partitionFirmware_memOk {p off : Nat} {v : W64} (h : s.memOk) : (partitionFirmware p off v s).memOk := by
  unfold partitionFirmware
  split
  · exact onPart_memOk (fwWrote_memOk h)
  · split
    · exact onPart_memOk (fwWrote_memOk h)
    · exact ite_memOk (onPart_memOk (fwWrote_memOk h)) (ite_memOk (onPart_memOk (fwWrote_memOk h)) h)

theorem slotWrite_memOk {t o : Nat} {v : W64} (h : s.memOk) : (slotWrite t o v s).memOk := fwWrote_memOk h

theorem packageFirmware_memOk {off : Nat} {v : W64} (h : s.memOk) : (packageFirmware off v s).memOk := by
  unfold packageFirmware
  split
  · exact fwWrote_memOk h
  · split
    · exact fwWrote_memOk h
    · exact ite_memOk h (ite_memOk (fwWrote_memOk h) (ite_memOk (fwWrote_memOk h) (ite_memOk (slotWrite_memOk h) h)))

theorem registerDo_memOk {p off : Nat} {v : W64} (h : s.memOk) : (registerDo p off v s).memOk := by
  unfold registerDo
  split
  · exact vf_memOk h (fun _ h => vfWrite_memOk h)
  · split
    · exact ite_memOk (ite_memOk (packageResetDo_memOk h) h) (ite_memOk (ite_memOk (partitionResetDo_memOk h) h) h)
    · exact ite_memOk (partitionFirmware_memOk h) (packageFirmware_memOk h)

/-! ### Engines: the shared engines -/

theorem swapTable_memOk {kind unit c : Nat} (h : s.memOk) : (swapTable kind unit c s).memOk := by
  unfold swapTable
  dsimp only
  split
  · exact ite_memOk h h
  · exact h

theorem beginUnits_memOk {xs : List (Nat × Nat)} (h : s.memOk) : (s.beginUnits xs).memOk := h

theorem copyCycle_memOk {d : Nat} (h : s.memOk) : (copyCycle d s).memOk := by
  grind [copyCycle, State.memOk, acceptCards_memOk, swapTable_memOk, beginUnits_memOk]

theorem sliceCycle_memOk {d : Nat} (h : s.memOk) : (sliceCycle d s).memOk := by
  unfold sliceCycle
  dsimp only
  split
  · exact beginUnits_memOk (swapTable_memOk h)
  · exact swapTable_memOk h

theorem coreCycle_memOk {u c : Nat} (h : s.memOk) : (coreCycle u c s).memOk := by
  unfold coreCycle
  refine getD_memOk ?_ (swapTable_memOk h)
  simp only [Option.all_eq_true]
  intro t ht
  obtain ⟨p, -, e⟩ := List.exists_of_findSome?_eq_some ht
  have := packetStep_memOk (u := u) (c := c) (p := p) (swapTable_memOk (kind := 2) (unit := 8 + u) (c := c) h)
  grind [State.memOk, swapTable_memOk, !packetStep_memOk]

theorem coreMc_memOk {u : Nat} (h : s.memOk) : (coreMc u s).memOk := foldl_memOk (fun _ _ h => coreCycle_memOk h) _ h

theorem engineCycle_memOk {kind unit : Nat} (h : s.memOk) : (engineCycle kind unit s).memOk := by
  unfold engineCycle
  split
  · exact copyCycle_memOk h
  · exact sliceCycle_memOk h
  · exact coreMc_memOk h
  · exact h

theorem cmdUnit_memOk {k : Nat} (h : s.memOk) : (cmdUnit k s).memOk := by
  unfold cmdUnit
  split
  · exact h
  · split
    · exact h
    · split
      · exact copyUnit_memOk h
      · split
        · exact h
        · split
          · exact sliceUnit_memOk h
          · split
            · exact cmdStep_memOk (fun _ h => listUnit_memOk h) h
            · split
              · exact ratomSend_memOk h
              · exact cmdStep_memOk (fun _ h => kvUnit_memOk h) h
              · exact cmdStep_memOk (fun _ h => kvUnit_memOk h) h
              · exact h

/-! ### Tick: the tick -/

theorem vcTrial_memOk (h : s.memOk) : s.vcTrial.memOk := foldl_memOk (fun _ _ h => asLease_memOk h (fun _ h => vcStart_memOk h)) _ h

theorem countMc_memOk (h : s.memOk) : (countMc s).memOk := ite_memOk h (onCur_memOk h)

theorem watchMc_memOk (h : s.memOk) : (watchMc s).memOk := ite_memOk h (onCur_memOk h)

theorem knowStep_memOk (h : s.memOk) : (knowStep s).memOk := by
  unfold knowStep
  split
  · exact h
  · exact onCur_memOk h
  · exact onCur_memOk h
  · exact ite_memOk h (onCur_memOk (foldl_memOk (fun _ _ h => fetchKnow_memOk h) _ h))

theorem setPauses_memOk (h : s.memOk) : (setPauses s).memOk :=
  mapLeases_memOk (foldl_memOk (fun _ _ h => asLease_memOk h (fun _ h => knowStep_memOk h)) _ (mapLeases_memOk h))

theorem advanceCounters_memOk (h : s.memOk) : (advanceCounters s).memOk := mapLeases_memOk h

theorem passAt_memOk {n : Nat} (h : s.memOk) : (passAt n s).memOk := by
  induction n generalizing s with
  | zero => exact h
  | succ n ih => grind [passAt, State.memOk, passBody_memOk, atPinDo_memOk]

theorem settleHeads_memOk {l : Nat} (h : s.memOk) : (settleHeads l s).memOk :=
  asLease_memOk h (fun _ h => passAt_memOk (passBody_memOk (passBody_memOk (passBody_memOk h))))

theorem debugMc_memOk {p : Nat} (h : s.memOk) : (debugMc p s).memOk := by
  unfold debugMc
  refine stopEdgeDo_memOk (replayEndDo_memOk (ite_memOk (sampleDo_memOk ?_) ?_))
  · split
    · exact foldl_memOk (fun _ _ h => breakStops_memOk h) _ (stopVcDo_memOk h)
    · exact stopVcDo_memOk h
  · split
    · exact foldl_memOk (fun _ _ h => breakStops_memOk h) _ (stopVcDo_memOk h)
    · exact stopVcDo_memOk h

theorem partitionMc_memOk {p : Nat} (h : s.memOk) : (partitionMc p s).memOk := by
  unfold partitionMc
  exact onPart_memOk (settleCtx_memOk (ite_memOk (ite_memOk (tlbInvDoneDo_memOk (batchDue_memOk (ite_memOk (sweepEnds_memOk h) h)))
    (batchDue_memOk (ite_memOk (sweepEnds_memOk h) h))) (atsSettle_memOk (ite_memOk (tlbInvDoneDo_memOk (batchDue_memOk (ite_memOk
    (sweepEnds_memOk h) h))) (batchDue_memOk (ite_memOk (sweepEnds_memOk h) h))))))

theorem flushTraces_memOk (h : s.memOk) : (flushTraces s).memOk := foldl_memOk (fun _ _ h => eqPutOrLose_memOk h) _ h

theorem reqWaitsBack_memOk {r : Req} (h : s.memOk) : (Req.waitsBack r s).memOk := asLease_memOk h (fun _ h => onCur_memOk h)

theorem holdBack_memOk (h : s.memOk) : s.holdBack.memOk := ite_memOk h (foldl_memOk (fun _ _ h => reqWaitsBack_memOk h) _ h)

theorem settleMc_memOk (h : s.memOk) : (settleMc s).memOk :=
  mapLeases_memOk (offerHeld_memOk (barRetry_memOk (retryHeld_memOk (settleReqs_memOk (holdBack_memOk h)))))

theorem firmwareMc_memOk (h : s.memOk) : (firmwareMc s).memOk := healthMc_memOk (updateTakes_memOk (standbyDo_memOk h))

theorem tickDo_memOk (h : s.memOk) : (tickDo s).memOk := by
  unfold tickDo
  grind +splitImp [State.memOk, linksSend_memOk, settleMc_memOk, partitionMc_memOk, wlEvents_memOk, settleHeads_memOk,
    advanceCounters_memOk, asLease_memOk, replayMc_memOk, holdPairs_memOk, debugMc_memOk, requeue_memOk, watchMc_memOk, flushTraces_memOk,
    countMc_memOk, firmwareMc_memOk, setPauses_memOk, !foldl_memOk]

/-! ### Dispatch: every instruction and event -/

/-- One line for the instructions of one shape; `delta exec` shows the function of the arm where its arguments are functions or unused. -/
theorem exec_memOk {i : Instr} (h : s.memOk) : outOk (exec i s) := by
  cases i with
  | ctNop => exact ctWord_memOk (fun _ h => h) h
  | add | sub | mul | mulh | mulhu | and | or | xor | shl | shr | sra | min | max | slt | sltu => delta exec; exact ctReg3_memOk h
  | div | divu | rem | remu => delta exec; exact ctDivide_memOk h
  | clz | popc | sext | zext | addi | andi | ori | xori | shli | shri | srai | slti | liwLo | liwHi => delta exec; exact ctReg2_memOk h
  | li | rdvc => exact ctWord_memOk (fun _ h => wreg_memOk h) h
  | beq | bne | blt | bge | bltu | bgeu => delta exec; exact ctBranch_memOk h
  | jmp => exact ctWord_memOk (fun _ h => transfer_memOk (fun _ h => leaveLoops_memOk h) h) h
  | jal => exact ctWord_memOk (fun _ h => transfer_memOk (fun _ h => wreg_memOk h) h) h
  | jr => exact execJr_memOk h
  | brq => exact execBrq_memOk h
  | loop => exact execLoop_memOk h
  | endl => exact execEndl_memOk h
  | lds | sts | amo => delta exec; exact ctMemory_memOk h
  | cas => exact execCas_memOk h
  | hset | hmov | hadv | hview | hclr => delta exec; exact ctHandle_memOk h
  | hget => exact execHget_memOk h
  | issue => exact ctWord_memOk (fun _ h => issueWork_memOk h) h
  | issuer => exact ctWord_memOk (fun _ h => issuerWork_memOk h) h
  | ringset => exact execRingset_memOk h
  | acq => exact execAcq_memOk h
  | acqGrant => exact acqStep_memOk h
  | rel => exact execRel_memOk h
  | fence => exact execFence_memOk h
  | barg => delta exec; exact execBarg_memOk h
  | bargArrival => exact barrierArrives_memOk h
  | bargComplete => exact barrierCompletes_memOk h
  | bind => exact execBind_memOk h
  | unbind => exact execUnbind_memOk h
  | split => delta exec; exact execSplit_memOk h
  | splitChange => exact onLease_memOk h fun _ h => changeEvent_memOk (fun _ h => applySplit_memOk h) h
  | fuse => delta exec; exact execFuse_memOk h
  | fuseChange => exact onLease_memOk h fun _ h => fuseNow_memOk h
  | chain | unchain => exact ctWord_memOk (fun _ h => linkWork_memOk h) h
  | chainChange => exact onLease_memOk h fun _ h => linkChange_memOk (fun _ _ _ h => joinEdge_memOk h) h
  | unchainChange => exact onLease_memOk h fun _ h => linkChange_memOk (fun _ _ _ h => cutEdge_memOk h) h
  | orient => exact ctWord_memOk (fun _ h => shapeCheck_memOk (fun _ h => changeIn_memOk h) h) h
  | orientChange => exact onLease_memOk h fun _ h => changeEvent_memOk (fun _ h => applyOrient_memOk h) h
  | spawn => exact execSpawn_memOk h
  | join => exact execJoin_memOk h
  | joinComplete => exact onLease_memOk h fun _ h => ctEvent_memOk (fun _ h => joinWork_memOk h) h
  | kill => exact execKill_memOk h
  | killSelf => exact ctWord_memOk (fun _ h => ctResOrReplay_memOk h (abortDomain_memOk h)) h
  | killComplete => exact execKillComplete_memOk h
  | quies => exact execQuies_memOk h
  | quiesComplete => exact execQuiesComplete_memOk h
  | cbld => exact execCbld_memOk h
  | xload => exact execXload_memOk h
  | xunld => exact execXunld_memOk h
  | bupd => exact execBupd_memOk h
  | affp => exact execAffp_memOk h
  | rdcyc | pcrd => exact ctWord_memOk (fun _ h => ctResValueIn_memOk h) h
  | pcsel => exact execPcsel_memOk h
  | clkrd => exact execClkrd_memOk h
  | trap => exact execTrap_memOk h
  | eret => exact execEret_memOk h
  | tren => exact ctWord_memOk (fun _ h => onCt_memOk h) h
  | uiret => exact execUiret_memOk h
  | csrr => exact execCsrr_memOk h
  | csrw => exact execCsrw_memOk h
  | yield => exact ctWord_memOk (fun _ h => ite_memOk (askSave_memOk h) h) h
  | endTask => exact execEndTask_memOk h
  | taskRetire => exact onLease_memOk h fun _ h => retireAtEnd_memOk h
  | tmark => exact execTmark_memOk h
  | lgo | lrepeat => exact ctWord_memOk (fun _ h => launchWord_memOk h) h
  | lcancel => exact execLcancel_memOk h
  | lsNop => exact lsWord_memOk (fun _ _ h => lsDone_memOk h) h
  | copy => exact execCopy_memOk h
  | copyDq => exact execCopyDq_memOk h
  | copyp => exact execCopyp_memOk h
  | gath => exact execGath_memOk h
  | scat => exact execScat_memOk h
  | pref | flush | inval => exact lsWord_memOk (fun _ _ h => maintain_memOk h) h
  | dcmpf => exact execDcmpf_memOk h
  | atomv => exact execAtomv_memOk h
  | rread => exact execRread_memOk h
  | rwrite | rwriteWin => exact lsWord_memOk (fun _ _ h => rwriteWork_memOk h) h
  | ratom => exact execRatom_memOk h
  | kvget | kvput => exact lsWord_memOk (fun _ _ h => kvIssue_memOk h) h
  | job => exact execJob_memOk h
  | lsRep => exact execLsRep_memOk h
  | outq => exact execOutq_memOk h
  | wlapp => exact execWlapp_memOk h
  | wltake => exact execWltake_memOk h
  | wlseal => exact execWlseal_memOk h
  | lsTmark => exact lsWord_memOk (fun _ _ h => lsDone_memOk (trace_memOk h)) h
  | cpNop | vpush => exact cpWord_memOk (fun _ h => addPend_memOk h) h
  | mxld => exact cpWord_memOk (fun _ h => issueLoad_memOk h) h
  | mxldRowArrival => exact execMxldRowArrival_memOk h
  | mxswap => exact execMxswap_memOk h
  | mxmul | mxlut => exact cpWord_memOk (fun _ h => issueMul_memOk h) h
  | mxcfg => exact cpWord_memOk (fun _ h => issueCfg_memOk h) h
  | mxbs => exact cpWord_memOk (fun _ h => issueBs_memOk h) h
  | mxdrain => exact cpWord_memOk (fun _ h => issueDrain_memOk h) h
  | mxzero => exact execMxzero_memOk h
  | mxrd => exact execMxrd_memOk h
  | mxwr => exact execMxwr_memOk h
  | chainRowEnter => exact onLease_memOk h fun _ h => vcEnd_memOk h
  | atPin => exact atPinDo_memOk h
  | scheduleMiss => exact onLease_memOk h fun _ h => missPin_memOk h
  | cpRep => exact execCpRep_memOk h
  | selk => exact execSelk_memOk h
  | cpTmark => exact execCpTmark_memOk h
  | vadd | vsub | vmul | vfma | vfms | vfnma | vmin | vmax | vabs | vneg | vdiv | vsqrt | vrcp | vrsq | vexp2 | vlog2 | vtab | vscale | vimul | vimad
  | vand | vor | vxor | vnot | vshl | vshr | vsra | vimin | vimax | vcmp | vsel | vclass | vcvt | vqnt | vdeq | vred | vperm | vrot | vslide | vmov
  | vli | vliHi => delta exec; exact vecWord_memOk h
  | viadd => exact execViadd_memOk h
  | visub => exact execVisub_memOk h
  | vpack => exact execVpack_memOk h
  | vunpk => exact execVunpk_memOk h
  | vscan => exact execVscan_memOk h
  | vbcast => exact execVbcast_memOk h
  | vidx => exact execVidx_memOk h
  | vpart => exact execVpart_memOk h
  | vtos => exact execVtos_memOk h
  | vfrs => exact execVfrs_memOk h
  | vpop => exact execVpop_memOk h
  | vout => exact execVout_memOk h
  | vld => exact execVld_memOk h
  | vst => exact execVst_memOk h
  | cpWlapp => exact execCpWlapp_memOk h
  | xop => exact execXop_memOk h
  | vectorWriteback => exact onLease_memOk h fun _ h => vcStart_memOk h
  | completion => exact onLease_memOk h fun _ h => complete_memOk h
  | slotTableCycle => exact engineCycle_memOk h
  | copySegment => exact onLease_memOk h fun _ h => cmdUnit_memOk h
  | homeAccess => exact execHomeAccess_memOk h
  | trapEntry => exact onLease_memOk h fun _ h => takeAsync_memOk h
  | uirqDelivery => exact onLease_memOk h fun _ h => deliverUirq_memOk h
  | faultEntryWrite => exact writeFault_memOk h
  | watchdogExpiry => exact onLease_memOk h fun _ h => watchdogDo_memOk h
  | engineHaltStop => exact stopEngine_memOk h
  | preemption => exact onLease_memOk h fun _ h => beginSave_memOk h
  | contextSave => exact onLease_memOk h fun _ h => contextSave_memOk h
  | imageDrain => exact onLease_memOk h fun _ h => drainImage_memOk h
  | imageRestore => exact restoreNext_memOk h
  | launchPacket => exact takeLaunchPacket_memOk h
  | nopPacket => exact takeNopPacket_memOk h
  | invalidPacket => exact takeInvalidPacket_memOk h
  | prologueWatchdog => exact onLease_memOk h fun _ h => ite_memOk (prologueFail_memOk h) h
  | prologueRepeat => exact repeatPrologue_memOk h
  | dataFlitReceive | nakReceive | idleFlit => exact flitArrives_memOk h
  | replayTimerExpiry => exact execReplayTimerExpiry_memOk h
  | retrainComplete => exact execRetrainComplete_memOk h
  | ratomRequestArrival => exact requestArrives_memOk h
  | ratomResultArrival => exact execRatomResultArrival_memOk h
  | ratomResendTimer => exact execRatomResendTimer_memOk h
  | windowClose | ddrChannelRemoval => exact h
  | windowRetry => exact requestArrives_memOk (onForeign_memOk (onRatom_memOk h))
  | worklistItem | worklistSealApply | worklistTakeApply => exact wlApply_memOk h
  | worklistQuiescence => exact wlQuiesce_memOk h
  | leaseGrant => exact grantNext_memOk h
  | packageReset => exact packageResetDo_memOk h
  | linkHotReset => exact hotResetDo_memOk h
  | heartbeat => exact heartbeatDo_memOk h
  | standbyTakeover => exact standbyDo_memOk h
  | mainClockTick => exact tickDo_memOk h
  | ringPlacement => exact execRingPlacement_memOk h
  | genSweep => exact sweepEnds_memOk h
  | pageMigration => exact migrateDo_memOk h
  | fqres => exact vf_memOk h fun _ h => fqresDo_memOk h
  | haltLineRise => exact execHaltLineRise_memOk h
  | hrdb => exact vf_memOk h fun _ h => hrdbDo_memOk h
  | hrctlEnable | hrctlDisable => exact vf_memOk h fun _ h => hrctlWrite_memOk h
  | eqctlEnable => exact vf_memOk h fun _ h => eqctlWrite_memOk h
  | tlbinvPage => exact vf_memOk h fun _ h => tlbInvPageDo_memOk h
  | tlbinvAll => exact vf_memOk h fun _ h => tlbInvAllDo_memOk h
  | tlbinvDone => exact tlbInvDoneDo_memOk h
  | tlbinvstatRead => exact vfRead_memOk h fun _ h => tlbinvstatDo_memOk h
  | atsResponse => exact atsAnswer_memOk h
  | priResponse => exact priAnswer_memOk h
  | detourFixed => exact execDetourFixed_memOk h
  | batchStep => exact batchStepDo_memOk h
  | batchStepFail => exact batchFailDo_memOk h
  | bcdb => exact vf_memOk h fun _ h => bcdbDo_memOk h
  | bcctlEnable => exact vf_memOk h fun _ h => bcctlEnableDo_memOk h
  | bcctlDisable => exact vf_memOk h fun _ h => bcctlDisableDo_memOk h
  | dbgcmdStop => exact vf_memOk h fun _ h => dbgStopDo_memOk h
  | dbgcmdResume => exact vf_memOk h fun _ h => resumeDo_memOk h
  | dbgcmdBitmapSync => exact vf_memOk h fun _ h => bitmapSyncDo_memOk h
  | dbgstatRead => exact vfRead_memOk h fun _ h => dbgstatDo_memOk h
  | dbgreplay => exact vf_memOk h fun _ h => replayDo_memOk h
  | stopEdge => exact stopEdgeDo_memOk h
  | stopVcReached => exact stopVcDo_memOk h
  | sampleRecord => exact sampleDo_memOk h
  | replayEnd => exact replayEndDo_memOk h
  | phalt => exact vf_memOk h fun _ h => phaltDo_memOk h
  | preemptWrite => exact vf_memOk h fun _ h => preemptDo_memOk h
  | restoreWrite => exact vf_memOk h fun _ h => restoreDo_memOk h
  | rcbkill => exact vf_memOk h fun _ h => rcbKill_memOk h
  | rcbkstatRead => exact vfRead_memOk h fun _ h => rcbkstatDo_memOk h
  | partitionReset => exact partitionResetDo_memOk h
  | liveUpdate => exact liveUpdateDo_memOk h
  | stateTableApply => exact stateTableDo_memOk h
  | thermalThrottle => exact throttleDo_memOk h
  | thermalHalt => exact thermalHaltDo_memOk h
  | ageingUpdate => exact ageingDo_memOk h
  | plotAbsentMark => exact markAbsent_memOk h
  | scrubPass => exact scrubDo_memOk h
  | healthRefresh => exact healthDo_memOk h
  | registerWrite => exact registerDo_memOk h
  | hostBarAccess => exact hostBarDo_memOk h
  | atsInvalidation => exact atsDrop_memOk h
  | doeRequest => exact doeDo_memOk h
  | fabricRequestReceive => exact fabricReceive_memOk h
  | ueMessageReceive => exact execUeMessageReceive_memOk h
  | ualinkStationLoss => exact execUalinkStationLoss_memOk h
  | uePortLoss => exact execUePortLoss_memOk h
  | healthPolicyRetrain => exact execHealthPolicyRetrain_memOk h

/-! ### Fetch: the next work -/

theorem codeRefill_memOk {va : Nat} (h : s.memOk) : (codeRefill va s).memOk := by
  unfold codeRefill
  split
  · exact h
  · exact ite_memOk (badData_memOk h) (ite_memOk (badData_memOk h) (countHome_memOk _ _ _ _ _ h))

theorem codeMiss_memOk (h : s.memOk) : (codeMiss s).memOk := by
  unfold codeMiss
  dsimp only
  split
  · exact codeRefill_memOk h
  · exact onCt_memOk (loadBreaks_memOk (onCur_memOk ((victim_mem _ _ _).trans (codeRefill_memOk h))))

theorem fetchCt_memOk (h : s.memOk) : exceptOk State.memOk (·.2.memOk) (fetchCt s) := by
  grind [fetchCt, State.memOk, exceptOk, askFor_memOk, onCt_memOk, ctBreakTrap_memOk, spendBreak_memOk, codeMiss_memOk, ctTrap_memOk]

theorem fetchRing_memOk {st : Stream} (h : s.memOk) : exceptOk State.memOk (·.2.memOk) (fetchRing st s) := by
  unfold fetchRing
  dsimp only
  split
  · exact h
  · split
    · exact refuseIssue_memOk h
    · split
      · exact h
      · exact ite_ok (exceptOk State.memOk pairOk) (ringBreakTrap_memOk h) (askFor_memOk (spendBreak_memOk h))

theorem fetchWord_memOk {st : Stream} (h : s.memOk) : exceptOk State.memOk (·.2.memOk) (fetchWord st s) :=
  ite_ok (exceptOk State.memOk pairOk) (fetchCt_memOk h) (fetchRing_memOk h)

theorem turnWork_memOk {t : Turn} (h : s.memOk) : workOk (turnWork t s) := by
  unfold turnWork
  grind [State.memOk, exceptOk, workOk, !fetchWord_memOk, focus_memOk]

theorem nextWork_memOk (h : s.memOk) : workOk s.nextWork := by
  grind [State.nextWork, State.memOk, workOk, !turnWork_memOk]

theorem settleAsk_memOk {back : Option State} (h_back : back.all State.memOk) (h : s.memOk) : (s.settleAsk back).memOk := by
  unfold State.settleAsk
  split
  · exact h
  · exact askFor_memOk (onDbg_memOk (getD_memOk h_back h))

/-! ### Step: one step -/

/-- O59, with the state before and after read off the match on the next work. -/
theorem step_memOk (h : s.memOk) : outOk (step s) := by
  have hn := nextWork_memOk h
  unfold step
  split
  next t e => rw [e] at hn; exact hn
  next i t b e =>
    simp only [e, workOk, Bool.and_eq_true] at hn
    obtain ⟨ht, hb⟩ := hn
    have hx := exec_memOk (i := i) ht
    split
    · next e2 => rw [e2] at hx; exact settleAsk_memOk hb hx
    · rfl
    · rfl

/-- Settles O59: the lemma of `step`, which follows the model function by function. -/
theorem stepKeepsMemory : Obligations.StepKeepsMemory := by
  intro s t h hs
  have ht := step_memOk h
  rw [hs] at ht
  exact ht

end Sys2Proof.Proofs.CanonicalMemory

/-! ## Registers of CT (04 R85, R86, R93, R94, R96)

A write of a scalar register changes one file, its error marks and its ready time: one equation of CT's record says so, and what
each field reads afterwards follows from it. A control register is a case of `State.csr` or of `State.csrWrite`; the words CSRR and
CSRW only carry the answer of that function to the end of the word. -/

namespace Sys2Proof.Proofs.Registers

open Machine Claims Laws

/-! ### Sparse maps whose keys rise -/

section
variable {α : Type} [DecidableEq α] {d v : α} {k a : Nat} {m : SMap α}

theorem sget_sset_of_ne (h : a ≠ k) : sget d a (sset d k v m) = sget d a m := by
  induction m with
  | nil => grind [sset, sget]
  | cons x r ih => grind [sset, sget]

theorem sget_sset_same (h : keysRise m = true) : sget d k (sset d k v m) = v :=
  (ArrayArithmetic.sget_sset_of_keysRise k k v h).trans (if_pos rfl)

theorem above_sset {b : Nat} (hb : b < k) (h : above b m) : above b (sset d k v m) := fun x hx => by
  obtain rfl | hx := mem_sset hx
  · exact hb
  · exact h x hx

theorem keysRise_sset (h : keysRise m = true) : keysRise (sset d k v m) = true := by
  induction m with
  | nil =>
    rw [sset]
    split <;> rfl
  | cons x r ih =>
    obtain ⟨hx, hr⟩ := (keysRise_cons x.1 x.2 r).1 h
    simp only [sset]
    split
    next hk =>
      split
      · exact h
      · exact (keysRise_cons ..).2 ⟨List.forall_mem_cons.2 ⟨hk, fun y hy => Nat.lt_trans hk (hx y hy)⟩, h⟩
    next hk =>
      split
      next he =>
        split
        · exact hr
        · exact (keysRise_cons ..).2 ⟨he ▸ hx, hr⟩
      next he => exact (keysRise_cons ..).2 ⟨above_sset (by omega) hx, ih hr⟩

end

/-! ### What a write of a scalar register changes -/

section
variable {c : Ct} {r : Nat} {v : W64}

/-- The files of the scalar registers are the ordinary one and the shadows, which stand in while UIACT is set (04 R86). -/
theorem fileOf_eq_shadow_iff : c.fileOf r = 3 ↔ c.trapCtl.getLsbD 2 = true ∧ 24 ≤ r := by
  simp [Ct.fileOf]

theorem reg_of_ne_zero (hr : r ≠ 0) : c.reg r = if c.fileOf r = 3 then sget 0 r c.shadow else sget 0 r c.sregs := by
  simp [Ct.reg, hr, fileOf_eq_shadow_iff]

theorem rewritten_eq (f r : Nat) : c.rewritten f r = { c with bad := c.bad.filter fun b => b.file ≠ f || b.reg ≠ r } := by
  unfold Ct.rewritten
  split
  next h =>
    cases c
    simp_all [List.isEmpty_iff]
  next => rfl

/-- A write changes the file that holds the register now and clears the register's error marks (04 R86, R96). -/
theorem setReg_of_ne_zero (hr : r ≠ 0) : c.setReg r v =
    { c with
      sregs := if c.fileOf r = 3 then c.sregs else sset 0 r v c.sregs
      shadow := if c.fileOf r = 3 then sset 0 r v c.shadow else c.shadow
      bad := c.bad.filter fun b => b.file ≠ c.fileOf r || b.reg ≠ r } := by
  simp only [Ct.setReg, Ct.fileOf, rewritten_eq, if_neg hr]
  split <;> simp

end

section
variable {s : State} {d : BitVec 5} {v : W64} {lat : Nat}

theorem toNat_ne_zero (h : d ≠ 0) : d.toNat ≠ 0 := fun e => h (BitVec.eq_of_toNat_eq e)

theorem wreg_ct (h : d ≠ 0) : (s.wreg d v lat).cur.ct =
    { s.cur.ct with
      sregs := if s.cur.ct.fileOf d.toNat = 3 then s.cur.ct.sregs else sset 0 d.toNat v s.cur.ct.sregs
      shadow := if s.cur.ct.fileOf d.toNat = 3 then sset 0 d.toNat v s.cur.ct.shadow else s.cur.ct.shadow
      bad := s.cur.ct.bad.filter fun b => b.file ≠ s.cur.ct.fileOf d.toNat || b.reg ≠ d.toNat
      ready := sset 0 d.toNat (s.datum + lat) s.cur.ct.ready } := by
  simp only [State.wreg, onCt_cur, if_neg h, setReg_of_ne_zero (toNat_ne_zero h)]

/-- Which file holds a register does not depend on a write. -/
theorem wreg_fileOf (r : Nat) : (s.wreg d v lat).cur.ct.fileOf r = s.cur.ct.fileOf r := by
  obtain rfl | h := eq_or_ne d 0
  · rfl
  · rw [wreg_ct h]
    rfl

theorem wreg_sregs_keysRise (hs : keysRise s.cur.ct.sregs = true) : keysRise (s.wreg d v lat).cur.ct.sregs = true := by
  obtain rfl | h := eq_or_ne d 0
  · exact hs
  · simp only [wreg_ct h]
    split
    · exact hs
    · exact keysRise_sset hs

theorem wreg_shadow_keysRise (hs : keysRise s.cur.ct.shadow = true) : keysRise (s.wreg d v lat).cur.ct.shadow = true := by
  obtain rfl | h := eq_or_ne d 0
  · exact hs
  · simp only [wreg_ct h]
    split
    · exact keysRise_sset hs
    · exact hs

theorem reg_wreg_same (hs : keysRise s.cur.ct.sregs = true) (hu : keysRise s.cur.ct.shadow = true) :
    (s.wreg d v lat).reg d = if d = 0 then 0 else v := by
  obtain rfl | h := eq_or_ne d 0
  · rfl
  · rw [if_neg h, State.reg, reg_of_ne_zero (toNat_ne_zero h), wreg_fileOf, wreg_ct h]
    split
    · exact sget_sset_same hu
    · exact sget_sset_same hs

theorem reg_wreg_of_ne {r : BitVec 5} (hr : r ≠ d) : (s.wreg d v lat).reg r = s.reg r := by
  obtain rfl | h := eq_or_ne d 0
  · rfl
  obtain rfl | h0 := eq_or_ne r 0
  · rfl
  have hn : r.toNat ≠ d.toNat := fun e => hr (BitVec.eq_of_toNat_eq e)
  rw [State.reg, State.reg, reg_of_ne_zero (toNat_ne_zero h0), reg_of_ne_zero (toNat_ne_zero h0), wreg_fileOf, wreg_ct h]
  simp only [apply_ite (sget _ _), sget_sset_of_ne hn, ite_self]

theorem ready_wreg (h : d ≠ 0) (hk : keysRise s.cur.ct.ready = true) :
    sget 0 d.toNat (s.wreg d v lat).cur.ct.ready = s.datum + lat := by
  rw [wreg_ct h]
  exact sget_sset_same hk

/-- A write leaves every field of CT outside the scalar registers, their ready times and the error marks. -/
theorem wreg_frame : (s.wreg d v lat).cur.ct.handles = s.cur.ct.handles ∧ (s.wreg d v lat).cur.ct.trapCtl = s.cur.ct.trapCtl ∧
    (s.wreg d v lat).cur.ct.nstat = s.cur.ct.nstat ∧ (s.wreg d v lat).cur.ct.cerr = s.cur.ct.cerr := by
  obtain rfl | h := eq_or_ne d 0
  · exact ⟨rfl, rfl, rfl, rfl⟩
  · rw [wreg_ct h]
    exact ⟨rfl, rfl, rfl, rfl⟩

/-- The error marks left after a write are the earlier ones of other registers (04 R96). -/
theorem mem_wreg_bad (h : d ≠ 0) (e : RegBad) :
    e ∈ (s.wreg d v lat).cur.ct.bad ↔ e ∈ s.cur.ct.bad ∧ ¬ (e.file = s.cur.ct.fileOf d.toNat ∧ e.reg = d.toNat) := by
  rw [wreg_ct h]
  simp [imp_iff_not_or]

theorem wreg_bad_subset (e : RegBad) (he : e ∈ (s.wreg d v lat).cur.ct.bad) : e ∈ s.cur.ct.bad := by
  obtain rfl | h := eq_or_ne d 0
  · exact he
  · exact ((mem_wreg_bad h e).1 he).1

theorem wreg_sregs_of_shadow (hf : s.cur.ct.fileOf d.toNat = 3) : (s.wreg d v lat).cur.ct.sregs = s.cur.ct.sregs := by
  obtain rfl | h := eq_or_ne d 0
  · rfl
  · rw [wreg_ct h]
    exact if_pos hf

theorem wreg_shadow_of_ordinary (hf : s.cur.ct.fileOf d.toNat ≠ 3) : (s.wreg d v lat).cur.ct.shadow = s.cur.ct.shadow := by
  obtain rfl | h := eq_or_ne d 0
  · rfl
  · rw [wreg_ct h]
    exact if_neg hf

end

/-- Settles O3: what each field reads after a write follows from the one equation of CT's record, `wreg_ct`. -/
theorem ctRegisterWrite : Obligations.CtRegisterWrite := by
  intro s d v lat
  obtain ⟨hhandles, htrapCtl, hnstat, hcerr⟩ := wreg_frame (s := s) (d := d) (v := v) (lat := lat)
  refine ⟨fun hs hu => ⟨reg_wreg_same hs hu, wreg_sregs_keysRise hs, wreg_shadow_keysRise hu⟩, fun hk h => ready_wreg h hk,
    fun r hr => reg_wreg_of_ne hr, fun k => congrArg (sget 0 k) hhandles, wreg_pc s d v lat, htrapCtl, hnstat, rfl, hcerr,
    fun h dup k hb => ((mem_wreg_bad h _).1 hb).2 ⟨rfl, rfl⟩, wreg_bad_subset,
    fun hu hd => wreg_sregs_of_shadow (fileOf_eq_shadow_iff.2 ⟨hu, hd⟩), fun ho => wreg_shadow_of_ordinary fun hf => ?_⟩
  obtain ⟨hu, hd⟩ := fileOf_eq_shadow_iff.1 hf
  exact ho.elim (fun h => Bool.noConfusion (hu.symm.trans h)) hd.not_gt

/-! ### Reading a control register -/

section
variable {t : Tok} {d : BitVec 5} {n : BitVec 16} {m : Nat} {s u : State} {v : W64} (h : CtStarts t [] d s u) (hn : n.toNat = m)
include h hn

theorem csrr_of_some (hv : u.csr m = some v) :
    exec (.csrr t d n) s = .next (ctEnd t (nextPc u) 1 1 (u.wreg d v 1)) := by
  refine (ctWord_of_starts _ h).trans ?_
  simp only [hn, hv, CtRes.plain, State.pcNext, wreg_pc, ctEnd, nextPc]

theorem csrr_of_none (hv : u.csr m = none) : exec (.csrr t d n) s = .next (ctRefused .illegalOperand u.cur.ct.ir 0 u) := by
  refine (ctWord_of_starts _ h).trans ?_
  rw [hn, hv]
  rfl

end

section
variable {s : State} {n k : Nat}

/-- Above the registers with a number of their own stand the two ranges (04 R93). -/
theorem csr_of_range (h : 0x016 ≤ n) : s.csr n =
    if 0x018 ≤ n && n < 0x01C then some (s.cur.huse (n - 0x018))
    else if 0x020 ≤ n && n < 0x030 then some (s.cur.accWin (n - 0x020)) else none := by
  unfold State.csr
  split
  on_goal -1 => rfl
  all_goals omega

theorem csr_huse (hk : k < 4) : s.csr (0x018 + k) = some (s.cur.huse k) := by
  rw [csr_of_range (by omega), if_pos (by simpa using Nat.add_lt_add_left hk 24), Nat.add_sub_cancel_left]

theorem csr_accWin (hk : k < 16) : s.csr (0x020 + k) = some (s.cur.accWin k) := by
  rw [csr_of_range (by omega), if_neg (by simp; omega), if_pos (by simpa using Nat.add_lt_add_left hk 32), Nat.add_sub_cancel_left]

theorem csr_eq_none (h : n ∉ [0, 1, 2, 4, 5, 6, 7, 8, 9, 0x10, 0x11, 0x12, 0x13, 0x14, 0x15, 0x18, 0x19, 0x1A, 0x1B])
    (hr : ¬ (0x20 ≤ n ∧ n < 0x30)) : s.csr n = none := by
  simp only [List.mem_cons, List.not_mem_nil, or_false, not_or] at h
  unfold State.csr
  split
  on_goal -1 => grind
  all_goals omega

end

/-! ### Writing a control register -/

section
variable {t : Tok} {a : BitVec 5} {n : BitVec 16} {m : Nat} {s u : State} (h : CtStarts t [a] 0 s u) (hn : n.toNat = m)
include h hn

theorem csrw_of_ok {f : Ct → Ct} (hw : u.csrWrite m (u.reg a) = some (.ok (u.onCt f))) (hpc : ∀ c, (f c).pc = c.pc) :
    exec (.csrw t a n) s = .next (ctEnd t (nextPc u) 1 1 (u.onCt fun c => (f c).rewritten 5 m)) := by
  refine (ctWord_of_starts _ h).trans ?_
  simp only [hn, hw, CtRes.plain, State.pcNext, ctEnd, nextPc, onCt_cur, rewritten_pc, hpc]
  rfl

theorem csrw_of_error {c : Cause} (hw : u.csrWrite m (u.reg a) = some (.error c)) :
    exec (.csrw t a n) s = .next (ctRefused c u.cur.ct.ir 0 u) := by
  refine (ctWord_of_starts _ h).trans ?_
  rw [hn, hw]
  rfl

theorem csrw_of_none (hw : u.csrWrite m (u.reg a) = none) : exec (.csrw t a n) s = .next u := by
  refine (ctWord_of_starts _ h).trans ?_
  rw [hn, hw]
  rfl

end

theorem cpDrained_iff {l : Lease} : l.cpDrained = true ↔ l.cp.ring.count = 0 ∨ ∃ x, l.cp.stop = some x ∧ x.late = false := by
  unfold Lease.cpDrained
  split <;> simp_all

theorem toNat_windowMask (v : W64) : (v &&& 0x7FFFF).toNat = v.toNat % 2 ^ 19 := by
  rw [BitVec.toNat_and]
  exact Nat.and_two_pow_sub_one_eq_mod v.toNat 19

/-- A window takes its base and its rows from the bits that are kept (04 R92). -/
theorem winBase_add_winRows (v : W64) : winBase (v &&& 0x7FFFF) + winRows (v &&& 0x7FFFF) = v.toNat % 512 + v.toNat / 512 % 1024 := by
  simp only [winBase, winRows, nbits, toNat_windowMask]
  omega

section
variable {s : State} {n k : Nat} {v : W64}

theorem csrWrite_vcmode : s.csrWrite 0x011 v =
    if s.cur.chin.isSome then some (.error .privileged) else if !s.cur.cpDrained then none
    else some (.ok (s.onCt fun c => { c with vcmode := v &&& 1 })) := rfl

/-- Above the registers with a number of their own stand the windows (04 R93). -/
theorem csrWrite_of_range (h : 0x013 ≤ n) : s.csrWrite n v =
    if 0x020 ≤ n && n < 0x030 then
      if s.cur.accrows < v.toNat % 512 + v.toNat / 512 % 1024 then some (.error .illegalOperand)
      else if !s.cur.cpDrained then none
      else some (.ok (s.onCt fun c => { c with accwin := sput (n - 0x020) (v &&& 0x7FFFF) c.accwin }))
    else some (.error .illegalOperand) := by
  rw [← winBase_add_winRows]
  unfold State.csrWrite
  split
  on_goal -1 => rfl
  all_goals omega

theorem csrWrite_accWin (hk : k < 16) : s.csrWrite (0x020 + k) v =
    if s.cur.accrows < v.toNat % 512 + v.toNat / 512 % 1024 then some (.error .illegalOperand)
    else if !s.cur.cpDrained then none
    else some (.ok (s.onCt fun c => { c with accwin := sput k (v &&& 0x7FFFF) c.accwin })) := by
  rw [csrWrite_of_range (by omega), if_pos (by simpa using Nat.add_lt_add_left hk 32), Nat.add_sub_cancel_left]

theorem csrWrite_eq_illegalOperand (h : n ∉ [1, 2, 8, 9, 0x11, 0x12]) (hr : ¬ (0x20 ≤ n ∧ n < 0x30)) :
    s.csrWrite n v = some (.error .illegalOperand) := by
  simp only [List.mem_cons, List.not_mem_nil, or_false, not_or] at h
  unfold State.csrWrite
  split
  on_goal -1 => simp [hr]
  all_goals omega

end

/-- The number of a register of a range, as the word carries it. -/
theorem toNat_ofNat_add {b k : Nat} (hb : b ≤ 0x020) (hk : k < 16) : (BitVec.ofNat 16 (b + k)).toNat = b + k := by
  rw [BitVec.toNat_ofNat]
  omega

/-- Settles O12: CSRR and CSRW carry the answers of `State.csr` and `State.csrWrite` to the end of the word. -/
theorem ctControlRegisters : Obligations.CtControlRegisters := by
  refine ⟨fun t d s u h => ⟨?listed, fun k hk => csrr_of_some h (toNat_ofNat_add (by decide) (by omega)) (csr_huse hk),
      fun k hk => csrr_of_some h (toNat_ofNat_add (by decide) hk) (csr_accWin hk), fun n hn hr => csrr_of_none h rfl (csr_eq_none hn hr)⟩,
    fun t a s u h => ⟨csrw_of_ok h rfl rfl fun _ => rfl, csrw_of_ok h rfl rfl fun _ => rfl, csrw_of_ok h rfl rfl fun _ => rfl,
      csrw_of_ok h rfl rfl fun _ => rfl, csrw_of_ok h rfl rfl fun _ => rfl,
      fun hc => csrw_of_error h rfl (csrWrite_vcmode.trans (if_pos hc)),
      fun hc hd => csrw_of_ok h rfl (csrWrite_vcmode.trans (by simp [hc, cpDrained_iff.2 hd])) fun _ => rfl,
      fun hc hd => csrw_of_none h rfl (csrWrite_vcmode.trans (by simp [hc, mt cpDrained_iff.1 hd])),
      fun k hk => ?window, fun n hn hr => csrw_of_error h rfl (csrWrite_eq_illegalOperand hn hr)⟩⟩
  case listed =>
    simp only [List.forall_mem_cons]
    and_intros
    on_goal -1 => exact List.forall_mem_nil _
    all_goals exact csrr_of_some h rfl rfl
  case window =>
    have hn : (BitVec.ofNat 16 (0x020 + k)).toNat = 0x020 + k := toNat_ofNat_add le_rfl hk
    exact ⟨fun hw => csrw_of_error h hn ((csrWrite_accWin hk).trans (if_pos hw)),
      fun hw hd => csrw_of_ok h hn ((csrWrite_accWin hk).trans (by rw [if_neg hw.not_gt, cpDrained_iff.2 hd]; rfl)) fun _ => rfl,
      fun hw hd => csrw_of_none h hn ((csrWrite_accWin hk).trans (by simp [hw.not_gt, mt cpDrained_iff.1 hd]))⟩

end Sys2Proof.Proofs.Registers

/-! ## The control instructions (05 R98-R128)

What CT's words do is stated from the state in which a word's work begins. The first part says what the machinery around a word leaves
alone: the units that write an event queue, the release and the signals of a word's end, and the acceptance and waits before its work.
Each of these facts is an equation: a view of the state that the operation keeps. -/

namespace Sys2Proof.Proofs.ControlFrames

open Machine Claims Laws

/-! ### What the device's units keep

A race record or a fold may write an event queue in memory, and such a write may find an uncorrectable error and raise the halt line. All
of it keeps the datum, the vector registers, the accumulator rows and the lease in focus but for its life. -/

/-- What no unit of the device changes. -/
def unitView (s : State) : Nat × SMap Lanes × SMap Lanes × Lease :=
  (s.datum, s.vfile, s.accs, { s.cur with st := .free, pre := .none })

/-- A change of other fields. -/
theorem unitView_congr {s t : State} (hdatum : t.datum = s.datum) (hvfile : t.vfile = s.vfile) (haccs : t.accs = s.accs) (hcur : t.cur = s.cur) :
    unitView t = unitView s := by
  simp only [unitView, hdatum, hvfile, haccs, hcur]

theorem foldl_unitView {β : Type} {f : State → β → State} (hf : ∀ s x, unitView (f s x) = unitView s) (xs : List β) (s : State) :
    unitView (xs.foldl f s) = unitView s := by
  induction xs generalizing s with
  | nil => rfl
  | cons x r ih => exact (ih _).trans (hf s x)

section
variable (s : State)

@[simp] theorem unitView_victim {α : Type} (n : Nat) (xs : List α) : unitView (s.victim n xs).2 = unitView s := by
  unfold State.victim
  split <;> rfl

@[simp] theorem unitView_rekey (slot key : Nat) : unitView (s.rekey slot key) = unitView s := by
  unfold State.rekey
  dsimp only
  split
  · rfl
  · exact unitView_congr rfl rfl rfl rfl

@[simp] theorem unitView_dropCopy (key : Nat) : unitView (s.dropCopy key) = unitView s := by
  unfold State.dropCopy
  split <;> rfl

@[simp] theorem unitView_breakRun (key : Nat) : unitView (s.breakRun key) = unitView s := unitView_dropCopy s key

@[simp] theorem unitView_dropLine (key : Nat) : unitView (s.dropLine key) = unitView s := unitView_dropCopy s key

/-- A dirty host line is written back under the keys of its two granules. -/
@[simp] theorem unitView_flushLine (slot key : Nat) (drop : Bool) : unitView (s.flushLine slot key drop) = unitView s := by
  have last (t : State) : unitView (if drop then t.dropLine key else t) = unitView t := by
    split
    · exact unitView_dropLine t key
    · rfl
  unfold State.flushLine
  dsimp only
  refine (last _).trans ?_
  split
  · split
    · have put (w : State) (m : Memory) : unitView { w with mem := m } = unitView w := rfl
      generalize readBytes _ _ 128 = bs
      exact (put _ _).trans ((unitView_rekey _ _ _).trans ((unitView_rekey _ _ _).trans (unitView_congr rfl rfl rfl rfl)))
    · rfl
  · rfl

@[simp] theorem unitView_sliceRoom (c : Nat) : unitView (s.sliceRoom c) = unitView s := by
  refine Eq.trans ?_ (unitView_victim s sliceLines (sget [] c s.l2))
  unfold State.sliceRoom
  generalize s.victim sliceLines (sget [] c s.l2) = r
  obtain ⟨_ | ⟨n, k⟩, w⟩ := r
  · rfl
  · dsimp only
    split
    · exact unitView_flushLine ..
    · exact unitView_dropCopy ..

@[simp] theorem unitView_fillLine (slot key : Nat) : unitView (s.fillLine slot key) = unitView s := by
  unfold State.fillLine
  split
  · rfl
  · exact unitView_sliceRoom s _

@[simp] theorem unitView_placeCopy (die slot key : Nat) : unitView (s.placeCopy die slot key) = unitView s := by
  refine (unitView_sliceRoom _ (copySlice die key)).trans ?_
  split
  · split
    · rfl
    · exact unitView_dropCopy ..
  · rfl

@[simp] theorem unitView_noteRead (p die : Nat) (t : Tr) : unitView (s.noteRead p die t) = unitView s := by
  unfold State.noteRead
  dsimp only
  split
  · rfl
  split
  · rfl
  generalize (if (sget (10, 0) (t.key / 128) s.readRuns).1 = die then _ else _ : Nat) = k
  split
  · rfl
  · exact unitView_placeCopy ..

@[simp] theorem unitView_putView (t : Tr) (bs : List Byte) : unitView (s.putView t bs) = unitView s := unitView_congr rfl rfl rfl rfl

@[simp] theorem unitView_splitViews (t : Tr) (n : Nat) : unitView (s.splitViews t n) = unitView s := by
  unfold State.splitViews
  dsimp only
  split
  · rfl
  · have put (w : State) (d : SMap Nat) : unitView { w with viewDirty := d } = unitView w := rfl
    refine (put _ _).trans ?_
    split
    · exact unitView_putView ..
    · rfl

@[simp] theorem unitView_writePlain (t : Tr) (bs : List Byte) : unitView (s.writePlain t bs) = unitView s := by
  unfold State.writePlain
  dsimp only
  split
  · exact Eq.trans (b := unitView (s.fillLine t.slot t.key)) (unitView_congr rfl rfl rfl rfl) (unitView_fillLine ..)
  · exact Eq.trans (b := unitView (s.rekey t.slot t.key)) (unitView_congr rfl rfl rfl rfl) (unitView_rekey ..)

@[simp] theorem unitView_writeTr (t : Tr) (bs : List Byte) (view : Bool) : unitView (s.writeTr t bs view) = unitView s := by
  unfold State.writeTr
  split
  · rfl
  · have fill : unitView (if t.tier = 2 then s.fillLine t.slot t.key else s) = unitView s := by
      split
      · exact unitView_fillLine ..
      · rfl
    refine Eq.trans ?_ fill
    generalize (if t.tier = 2 then s.fillLine t.slot t.key else s) = w
    cases view
    · exact (unitView_writePlain ..).trans ((unitView_splitViews ..).trans (unitView_breakRun ..))
    · have put (w : State) (m : Memory) : unitView { w with viewOld := m } = unitView w := rfl
      exact (put _ _).trans ((unitView_putView ..).trans ((unitView_splitViews ..).trans (unitView_breakRun ..)))

/-! ### Writes of units, counters and event queues -/

@[simp] theorem unitView_atsAsk (p pa : Nat) : unitView (s.atsAsk p pa) = unitView s := by
  unfold State.atsAsk
  dsimp only
  split <;> rfl

@[simp] theorem unitView_unitPut (p va : Nat) (bs : List Byte) : unitView (s.unitPut p va bs) = unitView s := by
  unfold State.unitPut
  split
  · rfl
  next t _ =>
    split
    · have held (w : State) (x : List (Nat × Nat × List Byte)) : unitView { w with heldW := x } = unitView w := rfl
      refine (held _ _).trans ?_
      split
      · exact unitView_atsAsk ..
      · rfl
    · exact unitView_writeTr ..

@[simp] theorem unitView_hostPut (p a : Nat) (bs : List Byte) : unitView (s.hostPut p a bs) = unitView s := by
  unfold State.hostPut
  split
  · exact unitView_rekey ..
  · exact unitView_atsAsk ..

@[simp] theorem unitView_busStore (p : Nat) (host : Bool) (a : Nat) (bs : List Byte) : unitView (s.busStore p host a bs) = unitView s := by
  unfold State.busStore
  split
  · exact foldl_unitView (fun s _ => unitView_hostPut s _ _ _) _ s
  · exact foldl_unitView (fun s _ => unitView_unitPut s _ _ _) _ s

/-- An entry is put by `put`, or there is no room and it is lost. -/
theorem unitView_eqPutBy {put : State → Nat → Bool → Nat → List Byte → State}
    (hput : ∀ s p h a bs, unitView (put s p h a bs) = unitView s) (p q : Nat) (entry : Nat → List Byte) : unitView ((s.eqPutBy put p q entry).getD (s.eqLose p q)) = unitView s := by
  unfold State.eqPutBy
  dsimp only
  split
  · rfl
  · rw [Option.getD_some]
    split <;> exact hput s _ _ _ _

@[simp] theorem unitView_counterRoom (b1 : Bool) (k : Nat) : unitView (s.counterRoom b1 k) = unitView s := by
  unfold State.counterRoom
  dsimp only
  exact (unitView_congr rfl rfl rfl rfl).trans (unitView_victim s 4 _)

@[simp] theorem unitView_countAccess (p va : Nat) (t : Tr) : unitView (s.countAccess p va t) = unitView s := by
  have room (c k : Nat) (b : Bool) : unitView (if c = 0 then s.counterRoom b k else s) = unitView s := by
    split
    · exact unitView_counterRoom ..
    · rfl
  unfold State.countAccess
  dsimp only
  split
  · rfl
  split
  · rfl
  split
  · exact (unitView_eqPutBy _ (fun s => unitView_busStore s) _ _ _).trans (room _ _ _)
  · exact room _ _ _

@[simp] theorem unitView_touchLine (p va : Nat) (t : Tr) : unitView (s.touchLine p va t) = unitView s := by
  unfold State.touchLine
  split
  · rfl
  · exact (unitView_fillLine ..).trans (unitView_countAccess ..)

@[simp] theorem unitView_countHome (die p va : Nat) (t : Tr) (k : AccKind) : unitView (s.countHome die p va t k) = unitView s := by
  unfold State.countHome
  dsimp only
  split
  · exact (unitView_noteRead ..).trans (unitView_touchLine ..)
  · exact (unitView_countAccess ..).trans ((unitView_breakRun ..).trans (unitView_touchLine ..))

/-- The halt line ends the life of the leases of its partition, and changes no other field of them (16 R375). -/
@[simp] theorem unitView_haltLine (p : Nat) (c : Cause) (x : StopInfo) : unitView (s.haltLine p c x) = unitView s := by
  unfold State.haltLine
  dsimp only
  split
  · rfl
  · have life (c : Prop) [Decidable c] (l : Lease) :
        ({ (if c then { l with st := .halted, pre := .none } else l) with st := .free, pre := .none } : Lease) =
          { l with st := .free, pre := .none } := by
      split <;> rfl
    exact congrArg (fun l => (s.datum, s.vfile, s.accs, l)) (life _ s.cur)

@[simp] theorem unitView_unitArrive (u : UnitId) (p va : Nat) (k : AccKind) : unitView (s.unitArrive u p va k) = unitView s := by
  unfold State.unitArrive
  split
  · rfl
  split
  · rfl
  split
  · exact unitView_haltLine ..
  · exact unitView_countHome ..

@[simp] theorem unitView_unitWrite (p va : Nat) (bs : List Byte) : unitView (s.unitWrite p va bs) = unitView s :=
  foldl_unitView (fun s _ => (unitView_unitPut _ _ _ _).trans (unitView_unitArrive s _ _ _ _)) _ s

@[simp] theorem unitView_busWrite (p : Nat) (host : Bool) (a : Nat) (bs : List Byte) : unitView (s.busWrite p host a bs) = unitView s := by
  unfold State.busWrite
  split
  · exact unitView_busStore ..
  · exact unitView_unitWrite ..

@[simp] theorem unitView_eqPutOrLose (p q : Nat) (entry : Nat → List Byte) : unitView (s.eqPutOrLose p q entry) = unitView s := by
  refine Eq.trans (congrArg unitView ?_) (unitView_eqPutBy s (fun s => unitView_busWrite s) p q entry)
  unfold State.eqPutOrLose State.eqPut
  split <;> simp_all

end

end Sys2Proof.Proofs.ControlFrames

/-! ### The end of a CT word (01 R18, 02 R36, 05 R98) -/

namespace Sys2Proof.Proofs.ControlFrames

open Machine Claims Laws

/-- What the signals of a word leave alone: all but the life of the lease, its folds, tokens and completions, and UIP of TRAPCTL. -/
def signalView (s : State) : Nat × SMap Lanes × SMap Lanes × Lease :=
  (s.datum, s.vfile, s.accs,
    { s.cur with st := .free, pre := .none, folds := [], tq := [], doneQ := [], ct := { s.cur.ct with trapCtl := s.cur.ct.trapCtl &&& ~~~8#64 } })

theorem signalView_of_unitView {s t : State} (h : unitView s = unitView t) : signalView s = signalView t :=
  congrArg (fun v => (v.1, v.2.1, v.2.2.1,
    { v.2.2.2 with folds := [], tq := [], doneQ := [], ct := { v.2.2.2.ct with trapCtl := v.2.2.2.ct.trapCtl &&& ~~~8#64 } })) h

section
variable (s : State) (st : Stream) (slot : Nat)

theorem signalView_release : signalView (s.release st slot).2 = signalView s := by
  unfold State.release
  dsimp only
  split
  · rfl
  dsimp only
  split
  · exact signalView_of_unitView (unitView_eqPutOrLose _ _ _ _)
  · rfl

/-- Only a fold that is reported writes memory at a release (10 R256, R259). -/
theorem release_mem (h : ((s.part s.cur.part).agent (s.cur.aidOf st)).release.2.2 = false ∨ s.cur.race ≠ 1) :
    (s.release st slot).2.mem = s.mem := by
  unfold State.release
  dsimp only
  split
  · rfl
  next hf =>
    dsimp only
    split
    next hr => simp_all
    · rfl

theorem signalView_push (sig : BitVec 8) : signalView (s.push st slot sig) = signalView s := by
  unfold State.push
  split
  · rfl
  · exact signalView_release s st slot

theorem push_mem (sig : BitVec 8) (h : sig.toNat % 64 = 0 ∨ (s.release st slot).2.mem = s.mem) : (s.push st slot sig).mem = s.mem := by
  unfold State.push
  split
  · rfl
  next hs => exact h.resolve_left hs

theorem signalView_trace (type vc tag cls : Nat) : signalView (s.trace type st slot vc tag cls) = signalView s := by
  unfold State.trace
  dsimp only
  split <;> rfl

theorem trace_mem (type vc tag cls : Nat) : (s.trace type st slot vc tag cls).mem = s.mem := by
  unfold State.trace
  dsimp only
  split <;> rfl

theorem signalView_raiseUirq : signalView s.raiseUirq = signalView s := by
  have hbit : (s.cur.ct.trapCtl ||| 8) &&& ~~~8#64 = s.cur.ct.trapCtl &&& ~~~8#64 := by
    rw [BitVec.and_or_distrib_right]
    exact (congrArg _ (by decide)).trans BitVec.or_zero
  simp only [signalView, State.raiseUirq, onCt_cur, hbit]
  rfl

theorem signalView_signals (sig : BitVec 8) (op vc : Nat) : signalView (s.signals st sig slot op vc) = signalView s := by
  unfold State.signals
  dsimp only
  have mark : signalView (if sigMark sig then (s.push st slot sig).trace 1 st slot vc op 0 else s.push st slot sig) = signalView s := by
    split
    · exact (signalView_trace ..).trans (signalView_push ..)
    · exact signalView_push ..
  split
  · exact (signalView_raiseUirq _).trans mark
  · exact mark

theorem signals_mem (sig : BitVec 8) (op vc : Nat) : (s.signals st sig slot op vc).mem = (s.push st slot sig).mem := by
  unfold State.signals
  dsimp only
  have mark : (if sigMark sig then (s.push st slot sig).trace 1 st slot vc op 0 else s.push st slot sig).mem = (s.push st slot sig).mem := by
    split
    · exact trace_mem ..
    · rfl
  split <;> exact mark

end

/-- A performed word with its signals made, or, where it completes later, with its completion noted. -/
def ctSignalled (t : Tok) (lat : Nat) (u : State) : State :=
  if lat ≤ 1 then u.signals .ct t.sig (u.cur.ct.pc / 8) (opcodeOf u.cur.ct.ir) u.cur.vc
  else if t.sig = 0 then u
  else u.onCur fun l => { l with doneQ := l.doneQ ++
    [{ stream := .ct, sig := t.sig, slot := u.cur.ct.pc / 8, op := opcodeOf u.cur.ct.ir, vc := u.cur.vc, due := u.datum + lat }] }

theorem ctEnd_eq (t : Tok) (pc next lat : Nat) (u : State) : ctEnd t pc next lat u = (ctSignalled t lat u).performed pc next := rfl

theorem signalView_ctSignalled (t : Tok) (lat : Nat) (u : State) : signalView (ctSignalled t lat u) = signalView u := by
  unfold ctSignalled
  split
  · exact signalView_signals ..
  split <;> rfl

theorem ctSignalled_mem {t : Tok} {lat : Nat} {u : State} (h : t.sig.toNat % 64 = 0 ∨ ¬ ctFoldReported u) :
    (ctSignalled t lat u).mem = u.mem := by
  unfold ctSignalled
  split
  · rw [signals_mem]
    refine push_mem _ _ _ _ (h.imp_right fun hf => release_mem _ _ _ ?_)
    simpa [ctFoldReported, imp_iff_not_or] using hf
  split <;> rfl

/-! What follows from the view, field by field. -/

section
variable {s t : State} (h : signalView s = signalView t)
include h

theorem datum_of_signalView : s.datum = t.datum := congrArg (·.1) h
theorem vfile_of_signalView : s.vfile = t.vfile := congrArg (·.2.1) h
theorem accs_of_signalView : s.accs = t.accs := congrArg (·.2.2.1) h

/-- CT's record but for UIP of TRAPCTL. -/
theorem ct_of_signalView : { s.cur.ct with trapCtl := s.cur.ct.trapCtl &&& ~~~8#64 } = { t.cur.ct with trapCtl := t.cur.ct.trapCtl &&& ~~~8#64 } :=
  congrArg (·.2.2.2.ct) h

theorem trapCtl_of_signalView {k : Nat} (hk : k ≠ 3) : s.cur.ct.trapCtl.getLsbD k = t.cur.ct.trapCtl.getLsbD k := by
  have hb : (s.cur.ct.trapCtl &&& ~~~8#64).getLsbD k = (t.cur.ct.trapCtl &&& ~~~8#64).getLsbD k :=
    congrArg (fun c => c.trapCtl.getLsbD k) (ct_of_signalView h)
  by_cases hl : k < 64
  · have h8 : (~~~8#64).getLsbD k = true := by
      rw [show 8#64 = BitVec.twoPow 64 3 from rfl, BitVec.getLsbD_not, BitVec.getLsbD_twoPow]
      simp [hl, hk.symm]
    simpa only [BitVec.getLsbD_and, h8, Bool.and_true] using hb
  · rw [BitVec.getLsbD_of_ge _ _ (by omega), BitVec.getLsbD_of_ge _ _ (by omega)]

end

end Sys2Proof.Proofs.ControlFrames

/-! ### What comes before the work of a word (05 R98, 04 R96) -/

namespace Sys2Proof.Proofs.ControlFrames

open Machine Claims Laws

/-- What acceptance and the waits of a word leave alone: CT's record but for ACCD and WDONE, the large stores and memory. -/
def waitView (s : State) : Nat × Memory × SMap Lanes × SMap Lanes × Ct :=
  (s.datum, s.mem, s.vfile, s.accs, { s.cur.ct with accd := false, wdone := false })

/-- What the repairs of registers leave alone too: all of that but the marks of the errors and CERR. -/
def workView (s : State) : Nat × Memory × SMap Lanes × SMap Lanes × Ct :=
  (s.datum, s.mem, s.vfile, s.accs, { s.cur.ct with accd := false, wdone := false, bad := [], cerr := 0 })

theorem workView_of_waitView {s t : State} (h : waitView s = waitView t) : workView s = workView t :=
  congrArg (fun v => (v.1, v.2.1, v.2.2.1, v.2.2.2.1, { v.2.2.2.2 with bad := [], cerr := 0 })) h

section
variable (s : State) (st : Stream)

theorem waitView_onCur {f : Lease → Lease} (h : ({ (f s.cur).ct with accd := false, wdone := false } : Ct) =
    { s.cur.ct with accd := false, wdone := false }) : waitView (s.onCur f) = waitView s :=
  congrArg (fun c => (s.datum, s.mem, s.vfile, s.accs, c)) h

theorem waitView_popTokens (q n : Nat) : waitView (s.popTokens st q n) = waitView s := by
  induction n with
  | zero => rfl
  | succ n ih =>
    refine Eq.trans ?_ ih
    rw [State.popTokens]
    split <;> rfl

theorem waitView_takePops (w : BitVec 8) : waitView (s.takePops st w) = waitView s := by
  unfold State.takePops
  generalize List.range 3 = ks
  induction ks generalizing s with
  | nil => rfl
  | cons k r ih => exact (ih _).trans (waitView_popTokens ..)

theorem waitView_grpPass : waitView (s.grpPass .ct).2 = waitView s := by
  unfold State.grpPass
  dsimp only
  split <;> rfl

theorem waitView_ctAccept {t : Tok} {v : State} (h : s.ctAccept t = .ok v) : waitView v = waitView s := by
  unfold State.ctAccept at h
  dsimp only at h
  split at h
  · cases h; rfl
  split at h
  · cases h
  · cases h
    exact waitView_onCur s rfl

theorem waitView_ctWaits (t : Tok) (data : State → Bool) : waitView (s.ctWaits t data).2 = waitView s := by
  have grp : waitView (if waitGrp t.wait then s.grpPass .ct else (true, s)).2 = waitView s := by
    split
    · exact waitView_grpPass s
    · rfl
  have done (v : State) : waitView (v.onCt fun c => { c with wdone := true }) = waitView v := rfl
  unfold State.ctWaits
  dsimp only
  split
  · rfl
  split
  · rfl
  generalize (if waitGrp t.wait then s.grpPass .ct else (true, s)) = r at grp ⊢
  split
  · exact (done _).trans ((waitView_takePops _ .ct t.wait).trans grp)
  · exact grp

end

/-! ### Repairs of registers -/

/-- Steps that each keep a view of the lease, one after another. -/
theorem foldl_bind_eq {β γ : Type} {P : Lease → γ} {f : Lease → β → Option Lease}
    (hf : ∀ l b l', f l b = some l' → P l' = P l) (xs : List β) {l l' : Lease} (h : xs.foldl (fun l b => l.bind fun l => f l b) (some l) = some l') : P l' = P l := by
  induction xs generalizing l with
  | nil => cases h; rfl
  | cons x r ih =>
    rw [List.foldl_cons, Option.bind_some] at h
    cases hx : f l x with
    | none =>
      rw [hx] at h
      have hn : r.foldl (fun l b => l.bind fun l => f l b) none = none := by
        clear ih h hx
        induction r with
        | nil => rfl
        | cons y r ih => exact ih
      exact absurd (hn.symm.trans h) nofun
    | some m =>
      rw [hx] at h
      exact (ih h).trans (hf l x m hx)

/-- CT's record but for the marks of the errors and CERR. -/
def soundCt (l : Lease) : Ct := { l.ct with bad := [], cerr := 0 }

theorem soundCt_repair {l l' : Lease} {b : RegBad} (h : l.repair b = some l') : soundCt l' = soundCt l := by
  unfold Lease.repair at h
  dsimp only at h
  split at h
  · split at h
    · cases h
    · cases h; rfl
  split at h
  · cases h
  · cases h; rfl

theorem soundCt_readReg {l l' : Lease} {file reg : Nat} (h : l.readReg file reg = some l') : soundCt l' = soundCt l :=
  foldl_bind_eq (fun _ _ _ => soundCt_repair) _ h

/-- A read of registers repairs faulty copies of them, and does nothing else (04 R96). -/
theorem workView_readRegs {s u : State} {st : Stream} {rs : List (Nat × Nat)} (h : s.readRegs st rs = .ok u) :
    workView u = workView s := by
  unfold State.readRegs at h
  split at h
  · cases h; rfl
  split at h
  next l hl =>
    cases h
    have hc : soundCt l = soundCt s.cur := foldl_bind_eq (fun _ _ _ => soundCt_readReg) _ hl
    exact congrArg (fun c => (s.datum, s.mem, s.vfile, s.accs, { c with accd := false, wdone := false })) hc
  · cases h

theorem readRegs_of_no_error {s u : State} {st : Stream} {rs : List (Nat × Nat)} (hb : s.cur.ct.bad = [])
    (h : s.readRegs st rs = .ok u) : u = s := by
  unfold State.readRegs at h
  rw [hb] at h
  cases h
  rfl

/-! What follows from the view, field by field. -/

/-- What two states with one view have in common. -/
theorem same_of_workView {s u : State} (h : workView u = workView s) :
    (∀ r, u.reg r = s.reg r) ∧ (∀ k, u.handle k = s.handle k) ∧ u.cur.ct.pc = s.cur.ct.pc ∧ u.cur.ct.ir = s.cur.ct.ir ∧
    u.cur.ct.trapCtl = s.cur.ct.trapCtl ∧ u.cur.ct.nstat = s.cur.ct.nstat ∧ u.cur.ct.trapPc = s.cur.ct.trapPc ∧
    u.cur.ct.trapCause = s.cur.ct.trapCause ∧ u.cur.ct.loops = s.cur.ct.loops ∧ u.vfile = s.vfile ∧ u.accs = s.accs ∧
    u.datum = s.datum ∧ u.mem = s.mem :=
  have ct : { u.cur.ct with accd := false, wdone := false, bad := [], cerr := 0 } =
      { s.cur.ct with accd := false, wdone := false, bad := [], cerr := 0 } := congrArg (·.2.2.2.2) h
  ⟨fun r => (congrArg (Ct.reg · r.toNat) ct :), fun k => (congrArg (Ct.handle · k) ct :), (congrArg Ct.pc ct :), (congrArg Ct.ir ct :),
    (congrArg Ct.trapCtl ct :), (congrArg Ct.nstat ct :), (congrArg Ct.trapPc ct :), (congrArg Ct.trapCause ct :), (congrArg Ct.loops ct :),
    congrArg (·.2.2.1) h, congrArg (·.2.2.2.1) h, congrArg (·.1) h, congrArg (·.2.1) h⟩

/-- Settles O1: acceptance, the waits and the repairs keep one view of the state. -/
theorem ctBeginFrame : Obligations.CtBeginFrame := by
  intro t data rs s v w u hv hw hu
  have hwait : waitView w = waitView s := by
    have hvw := waitView_ctWaits v t data
    rw [hw] at hvw
    exact hvw.trans (waitView_ctAccept s hv)
  obtain ⟨hreg, hhandle, hpc, hir, htrapCtl, hnstat, htrapPc, htrapCause, hloops, hvfile, haccs, hdatum, hmem⟩ :=
    same_of_workView ((workView_readRegs hu).trans (workView_of_waitView hwait))
  refine ⟨hreg, hhandle, hpc, hir, htrapCtl, hnstat, htrapPc, htrapCause, hloops, hvfile, haccs, hdatum, fun hbad => ?_,
    fun k => congrArg (readByte · k) hmem⟩
  have hwbad : w.cur.ct.bad = [] := (congrArg (fun v => v.2.2.2.2.bad) hwait).trans hbad
  rw [readRegs_of_no_error hwbad hu]
  exact congrArg (fun v => v.2.2.2.2.cerr) hwait

end Sys2Proof.Proofs.ControlFrames

namespace Sys2Proof.Proofs.ControlFrames

open Machine Claims Laws

/-- Which file holds a register hangs on UIACT alone, bit 2 of TRAPCTL (04 R86). -/
theorem reg_congr {c d : Ct} (hs : c.sregs = d.sregs) (hu : c.shadow = d.shadow) (h2 : c.trapCtl.getLsbD 2 = d.trapCtl.getLsbD 2) (r : Nat) :
    c.reg r = d.reg r := by
  simp only [Ct.reg, hs, hu, h2]

theorem reg_of_signalView {s t : State} (h : signalView s = signalView t) (r : BitVec 5) : s.reg r = t.reg r :=
  reg_congr (c := s.cur.ct) (d := t.cur.ct) (congrArg Ct.sregs (ct_of_signalView h) :) (congrArg Ct.shadow (ct_of_signalView h) :)
    (trapCtl_of_signalView h (by decide)) _

theorem performed_ct (s : State) (pc next : Nat) :
    (s.performed pc next).cur.ct = { s.cur.ct.goOn pc (s.datum + next) with did := s.datum + 1 } := by
  simp only [State.performed, onCt_cur, onCur_cur, Lease.spent, Lease.countWord]
  split <;> rfl

/-- Settles O2: the signals keep one view of the state, and the step to the next word sets the fields that it names. -/
theorem ctEndFrame : Obligations.CtEndFrame := by
  intro t pc next lat u
  have h := signalView_ctSignalled t lat u
  have ct := ct_of_signalView h
  have hv : (ctSignalled t lat u).vfile = u.vfile := vfile_of_signalView h
  have ha : (ctSignalled t lat u).accs = u.accs := accs_of_signalView h
  have hd : (ctSignalled t lat u).datum = u.datum := datum_of_signalView h
  have hm (he : t.sig.toNat % 64 = 0 ∨ ¬ ctFoldReported u) : (ctSignalled t lat u).mem = u.mem := ctSignalled_mem he
  simp only [ctEnd_eq, State.reg, State.handle, performed_ct]
  exact ⟨reg_of_signalView h, fun k => (congrArg (Ct.handle · k) ct :), rfl, rfl, rfl, rfl, congrArg (· + next) (datum_of_signalView h),
    (congrArg Ct.nstat ct :),
    (congrArg Ct.trapPc ct :), (congrArg Ct.trapCause ct :), (congrArg Ct.loops ct :), fun k hk => trapCtl_of_signalView h hk, hv, ha,
    hd, fun he k => congrArg (readByte · k) (hm he)⟩

end Sys2Proof.Proofs.ControlFrames

/-! ### Results of CT's arithmetic (05 R100-R104) -/

namespace Sys2Proof.Proofs.ControlArithmetic

open Machine Claims Laws

/-! Each word of one shape ends with its function's value in s[D]; the table then says that value in the spec's terms. -/

section
variable {t : Tok} {d a b : BitVec 5} {s u : State} {v : W64}

theorem ctReg3_of_starts {lat : Nat} {f : W64 → W64 → W64} (h : CtStarts t [a, b] d s u) (hv : f (u.reg a) (u.reg b) = v) :
    ctReg3 t d a b lat f s = .next (ctEnd t (nextPc u) 1 lat (u.wreg d v lat)) := hv ▸ ctWord_of_starts _ h

theorem ctReg2_of_starts {f : W64 → W64} (h : CtStarts t [a] d s u) (hv : f (u.reg a) = v) :
    ctReg2 t d a f s = .next (ctEnd t (nextPc u) 1 1 (u.wreg d v 1)) := hv ▸ ctWord_plain _ h (wreg_pc ..)

section
variable {f : W64 → W64 → W64} (h : CtStarts t [a, b] d s u) (hfree : u.cur.ct.divFree ≤ u.datum)
include h hfree

theorem ctDivide_of_ne_zero (hb : u.reg b ≠ 0) (hv : f (u.reg a) (u.reg b) = v) :
    ctDivide t d a b f s = .next (ctEnd t (nextPc u) 1 36 ((u.wreg d v 36).onCt fun c => { c with divFree := u.datum + 36 })) := by
  refine (ctWord_of_starts _ h).trans ?_
  dsimp only
  rw [if_neg (Nat.not_lt.2 hfree), if_neg hb, hv]
  rfl

theorem ctDivide_of_zero (hb : u.reg b = 0) :
    ctDivide t d a b f s = .next (u.ctTrap .divideByZero [u.cur.ct.ir, trapInfo1 0 0 .ct 0, u.reg a, 0]) := by
  refine (ctWord_of_starts _ h).trans ?_
  dsimp only
  rw [if_neg (Nat.not_lt.2 hfree), if_pos hb]
  rfl

end

end

/-! The values of the table. -/

theorem min_value (x y : W64) : (if sLt y x then y else x) = if x.toInt ≤ y.toInt then x else y := by
  simp only [sLt, decide_eq_true_eq, ← not_lt, ite_not]

theorem max_value (x y : W64) : (if sLt x y then y else x) = if y.toInt ≤ x.toInt then x else y := by
  simp only [sLt, decide_eq_true_eq, ← not_lt, ite_not]

theorem boolWord_decide (p : Prop) [Decidable p] : boolWord (decide p) = if p then 1 else 0 := by
  simp [boolWord]

theorem sdiv_value (x y : W64) : x.sdiv y = BitVec.ofInt 64 (x.toInt.tdiv y.toInt) :=
  BitVec.eq_of_toInt_eq (by rw [BitVec.toInt_sdiv, BitVec.toInt_ofInt])

theorem srem_value (x y : W64) : x.srem y = BitVec.ofInt 64 (x.toInt.tmod y.toInt) := by
  rw [← BitVec.toInt_srem, BitVec.ofInt_toInt]

theorem udiv_value (x y : W64) : x.udiv y = BitVec.ofNat 64 (x.toNat / y.toNat) := by
  rw [← BitVec.toNat_udiv, BitVec.ofNat_toNat, BitVec.setWidth_eq]
  rfl

theorem umod_value (x y : W64) : x.umod y = BitVec.ofNat 64 (x.toNat % y.toNat) := by
  rw [← BitVec.toNat_umod, BitVec.ofNat_toNat, BitVec.setWidth_eq]
  rfl

theorem bitLen_eq_size (n : Nat) : bitLen n = Nat.size n := by
  obtain rfl | hn := eq_or_ne n 0
  · rfl
  · rw [bitLen, if_neg hn]
    exact eq_of_forall_lt_iff fun m => by rw [Nat.lt_succ_iff, Nat.le_log2 hn, Nat.lt_size]

theorem toInt_eq_sint (w : Nat) (x : W64) : (x.setWidth w).toInt = sint w x.toNat := by
  obtain _ | w := w
  · simp [sint, Nat.mod_one]
  · rw [BitVec.toInt_eq_toNat_cond, BitVec.toNat_setWidth, sint, Nat.add_sub_cancel]
    have hpow : 2 ^ (w + 1) = 2 * 2 ^ w := Nat.pow_succ'
    exact if_congr (by omega) rfl rfl

theorem sext_value (w : Nat) (x : W64) : sextW w x = (x.setWidth w).signExtend 64 :=
  congrArg (BitVec.ofInt 64) (toInt_eq_sint w x).symm

theorem zext_value (w : Nat) (x : W64) : zextW w x = (x.setWidth w).setWidth 64 := by
  rw [zextW, ← BitVec.toNat_setWidth, BitVec.ofNat_toNat]

theorem slti_value (x : W64) (i : BitVec 30) : boolWord (sLt x (imm30 i)) = if x.toInt < i.toInt then 1 else 0 := by
  rw [sLt, imm30, BitVec.toInt_signExtend_of_le (by decide), boolWord_decide]

theorem liwLo_value (x : W64) (m : BitVec 32) : x.extractLsb' 32 32 ++ m = BitVec.ofNat 64 (x.toNat / 2 ^ 32 * 2 ^ 32 + m.toNat) := by
  refine BitVec.eq_of_toNat_eq ?_
  have hx := x.isLt
  have hm := m.isLt
  rw [BitVec.toNat_append, ← Nat.shiftLeft_add_eq_or_of_lt hm, BitVec.extractLsb'_toNat, BitVec.toNat_ofNat, Nat.shiftLeft_eq,
    Nat.shiftRight_eq_div_pow]
  omega

theorem liwHi_value (x : W64) (m : BitVec 32) : m ++ x.extractLsb' 0 32 = BitVec.ofNat 64 (m.toNat * 2 ^ 32 + x.toNat % 2 ^ 32) := by
  refine BitVec.eq_of_toNat_eq ?_
  have hm := m.isLt
  rw [BitVec.toNat_append, ← Nat.shiftLeft_add_eq_or_of_lt (BitVec.isLt _), BitVec.extractLsb'_toNat, BitVec.toNat_ofNat,
    Nat.shiftLeft_eq, Nat.shiftRight_zero]
  omega

/-- Settles O4: each word is `ctReg3` of a function whose value is the table's. -/
theorem ctTwoRegisterResults : Obligations.CtTwoRegisterResults := by
  intro t d a b s u h
  dsimp only [exec]
  exact ⟨ctReg3_of_starts h rfl, ctReg3_of_starts h rfl, ctReg3_of_starts h rfl, ctReg3_of_starts h rfl, ctReg3_of_starts h rfl,
    ctReg3_of_starts h rfl, ctReg3_of_starts h rfl, ctReg3_of_starts h rfl, ctReg3_of_starts h rfl, ctReg3_of_starts h rfl,
    ctReg3_of_starts h rfl, ctReg3_of_starts h (min_value ..), ctReg3_of_starts h (max_value ..),
    ctReg3_of_starts h (boolWord_decide _), ctReg3_of_starts h (boolWord_decide _)⟩

/-- Settles O5: each word is `ctDivide` of a function whose value is the table's. -/
theorem ctDivision : Obligations.CtDivision := by
  intro t d a b s u h hf
  dsimp only [exec]
  exact ⟨fun hb => ⟨ctDivide_of_ne_zero h hf hb (sdiv_value ..), ctDivide_of_ne_zero h hf hb (udiv_value ..),
      ctDivide_of_ne_zero h hf hb (srem_value ..), ctDivide_of_ne_zero h hf hb (umod_value ..)⟩,
    fun hb => ⟨ctDivide_of_zero h hf hb, ctDivide_of_zero h hf hb, ctDivide_of_zero h hf hb, ctDivide_of_zero h hf hb⟩⟩

/-- Settles O6: each word but LI is `ctReg2` of a function whose value is the table's. -/
theorem ctOneRegisterResults : Obligations.CtOneRegisterResults := by
  intro t d a i m s u
  dsimp only [exec]
  exact ⟨fun h => ⟨ctReg2_of_starts h (by rw [clzW, bitLen_eq_size]), ctReg2_of_starts h (by rw [popcW, List.countP_eq_length_filter]),
      fun _ _ => ⟨ctReg2_of_starts h (sext_value ..), ctReg2_of_starts h (zext_value ..)⟩, ctReg2_of_starts h rfl, ctReg2_of_starts h rfl,
      ctReg2_of_starts h rfl, ctReg2_of_starts h rfl, fun _ => ⟨ctReg2_of_starts h rfl, ctReg2_of_starts h rfl, ctReg2_of_starts h rfl⟩,
      ctReg2_of_starts h (slti_value ..)⟩,
    fun h => ctWord_plain _ h (wreg_pc ..),
    fun h => ⟨ctReg2_of_starts h (liwLo_value ..), ctReg2_of_starts h (liwHi_value ..)⟩⟩

end Sys2Proof.Proofs.ControlArithmetic

/-! ### Branches, NOP and the status words (05 R105-R107, R121-R123, R128; 14 R351, 15 R363) -/

namespace Sys2Proof.Proofs.ControlFlow

open Machine Claims Laws

/-! The check of a transfer's target (05 R105). -/

section
variable {u : State} {x : Int}

theorem targetBad_of_ok (h : targetOk u x) : targetBad u.cur x = none := by
  obtain ⟨h8, h0, hsize⟩ := h
  simp [targetBad, h8, h0, hsize]

theorem targetBad_of_not (h : ¬ targetOk u x) : targetBad u.cur x = some (if x % 8 ≠ 0 then .misaligned else .fetchBound) := by
  unfold targetBad
  split
  · rfl
  next h8 =>
    refine if_pos ?_
    simp only [Bool.or_eq_true, decide_eq_true_eq]
    exact by_contra fun hn => h ⟨not_not.1 h8, by omega, by omega⟩

/-- Where a transfer with a bad target goes. -/
def targetRefused (u : State) (x : Int) : State := ctRefused (if x % 8 ≠ 0 then .misaligned else .fetchBound) (BitVec.ofInt 64 x) 0 u

section
variable {t : Tok} {srcs : List (BitVec 5)} {d : BitVec 5} {s : State} {g : State → CtRes} {f : State → State} (h : CtStarts t srcs d s u)
  (hg : g u = transfer x f u)
include h hg

theorem transfer_of_ok (hx : targetOk u x) : ctWord t srcs d g s = .next (ctEnd t x.toNat 3 1 (f u)) := by
  refine (ctWord_of_starts _ h).trans ?_
  rw [hg, transfer, targetBad_of_ok hx]
  rfl

theorem transfer_of_not (hx : ¬ targetOk u x) : ctWord t srcs d g s = .next (targetRefused u x) := by
  refine (ctWord_of_starts _ h).trans ?_
  rw [hg, transfer, targetBad_of_not hx]
  rfl

end

section
variable {t : Tok} {a b : BitVec 5} {off : BitVec 30} {c : Cond} {s : State} (h : CtStarts t [a, b] 0 s u)
include h

theorem ctBranch_of_ok {p : Prop} [Decidable p] (hp : c.holds (u.reg a) (u.reg b) = decide p) (hx : targetOk u (relTo u off)) :
    ctBranch t a b off c s = if p then .next (ctEnd t (relTo u off).toNat 3 1 (leaveLoops (relTo u off) u))
      else .next (ctEnd t (nextPc u) 1 1 u) := by
  have hx' : targetBad u.cur (relTarget u off) = none := targetBad_of_ok hx
  refine (ctWord_of_starts _ h).trans ?_
  simp only [hp, decide_eq_true_eq, transfer, hx']
  split <;> rfl

theorem ctBranch_of_not (hx : ¬ targetOk u (relTo u off)) : ctBranch t a b off c s = .next (targetRefused u (relTo u off)) := by
  have hx' := targetBad_of_not hx
  refine (ctWord_of_starts _ h).trans ?_
  simp only [transfer, show relTarget u off = relTo u off from rfl, hx', ite_self]
  rfl

end

end

/-- A register's value as an integer is that register's value again. -/
theorem ofInt_toNat (v : W64) : BitVec.ofInt 64 (v.toNat : Int) = v := by
  rw [BitVec.ofInt_natCast, BitVec.ofNat_toNat, BitVec.setWidth_eq]

/-- Settles O7: each word is a branch or a transfer whose target passes its check or does not. -/
theorem ctBranches : Obligations.CtBranches := by
  intro t d a b off s u
  dsimp only [exec]
  refine ⟨fun h => ⟨fun hx => ⟨ctBranch_of_ok h rfl hx, ctBranch_of_ok h rfl hx, ctBranch_of_ok h rfl hx, ctBranch_of_ok h ?_ hx,
      ctBranch_of_ok h rfl hx, ctBranch_of_ok h ?_ hx⟩, fun hx => ?_⟩,
    fun h => transfer_of_ok (f := leaveLoops (relTo u off)) h rfl, fun h => transfer_of_not (f := leaveLoops (relTo u off)) h rfl,
    fun h => transfer_of_ok (f := (·.wreg d (BitVec.ofNat 64 (nextPc u)) 1)) h rfl,
    fun h => transfer_of_not (f := (·.wreg d (BitVec.ofNat 64 (nextPc u)) 1)) h rfl,
    fun h => ⟨transfer_of_ok (f := (·.wreg d (BitVec.ofNat 64 (nextPc u)) 1)) h rfl,
      fun hx => ?_⟩⟩
  · simp [Cond.holds, sLt, ← decide_not]
  · simp [Cond.holds, uLt, ← decide_not]
  · intro i hi
    simp only [List.mem_cons, List.not_mem_nil, or_false] at hi
    obtain rfl | rfl | rfl | rfl | rfl | rfl := hi
    all_goals exact ctBranch_of_not h hx
  · have hjr : execJr t d a off s = _ := transfer_of_not (f := (·.wreg d (BitVec.ofNat 64 (nextPc u)) 1)) h rfl hx
    rw [hjr, targetRefused, ofInt_toNat]
    rfl

/-! The encodings of NOP and TRAP: format CX with the unused fields zero. -/

theorem zCx_none_used (w : W64) : zCx w false false false false false false = decide (fld w 0 40 = 0) := by
  simp [zCx, Encoding.zf_eq, Encoding.fld_eq_zero_iff (m := 24) (n := 16), Encoding.fld_eq_zero_iff (m := 20) (n := 4),
    Encoding.fld_eq_zero_iff (m := 15) (n := 5), Encoding.fld_eq_zero_iff (m := 10) (n := 5), Encoding.fld_eq_zero_iff (m := 5) (n := 5),
    Bool.and_assoc]

theorem zCx_imm_used (w : W64) : zCx w false false false false false true = decide (fld w 16 24 = 0) := by
  simp [zCx, Encoding.zf_eq, Encoding.fld_eq_zero_iff (m := 20) (n := 4),
    Encoding.fld_eq_zero_iff (m := 15) (n := 5), Encoding.fld_eq_zero_iff (m := 10) (n := 5), Encoding.fld_eq_zero_iff (m := 5) (n := 5),
    Bool.and_assoc]

theorem decodeCt_nop {w : W64} {t : Tok} {x : BitVec 40} (h : enc t 0x00 x = w) :
    decodeCt false w = if x = 0 then .ok (.ctNop t) else .error .reservedField := by
  obtain ⟨ht, hop, hx⟩ := Encoding.enc_eq_iff.1 h
  unfold decodeCt
  rw [opcodeOf, hop]
  refine (congrArg (rsv · _) (zCx_none_used w)).trans ?_
  simp [rsv, ht, hx]

theorem decodeCt_trap {w : W64} {t : Tok} {x : BitVec 24} {imm : BitVec 16} (h : enc t 0x54 (x ++ imm) = w) :
    decodeCt false w = if x = 0 then .ok (.trap t imm) else .error .reservedField := by
  obtain ⟨ht, hop, hx⟩ := Encoding.enc_eq_iff.1 h
  obtain ⟨hx, himm⟩ := (Encoding.fld_eq_append_iff (m := 24) (n := 16)).1 hx
  unfold decodeCt
  rw [opcodeOf, hop]
  refine (congrArg (rsv · _) (zCx_imm_used w)).trans ?_
  simp [rsv, ht, show fld w 16 24 = x from hx, himm]

/-- Settles O9: NOP's work is empty, and its word is the opcode with no operand. -/
theorem ctNop : Obligations.CtNop :=
  ⟨fun _ _ _ h => ctWord_plain id h rfl, fun _ _ => decodeCt_nop rfl⟩

/-- A trace record leaves the lease in focus as it is. -/
theorem trace_cur (s : State) (type : Nat) (st : Stream) (slot vc tag cls : Nat) : (s.trace type st slot vc tag cls).cur = s.cur := by
  unfold State.trace
  dsimp only
  split <;> rfl

/-- Settles O10: each word completes in one mc with its own change of the state. -/
theorem ctStatusWords : Obligations.CtStatusWords := by
  intro t tag m s u h
  refine ⟨ctWord_plain _ h rfl, ctWord_plain _ h (congrArg (·.ct.pc) (trace_cur ..)), fun hm => ?_, fun hm => ?_⟩
  all_goals
    subst hm
    exact ctWord_plain _ h rfl

end Sys2Proof.Proofs.ControlFlow

/-! ### The rings: placing a word and issuing one (05 R118, 04 R89, 03 R19, 11 R262) -/

namespace Sys2Proof.Proofs.ControlRings

open Machine Claims Laws ControlFrames

/-! Little-endian values in memory. -/

theorem leBytes_length (v n : Nat) : (leBytes v n).length = n := by
  induction n generalizing v with
  | zero => rfl
  | succ n ih => exact congrArg (· + 1) (ih _)

theorem leNat_leBytes (v n : Nat) : leNat (leBytes v n) = v % 256 ^ n := by
  induction n generalizing v with
  | zero => simp [leBytes, leNat, Nat.mod_one]
  | succ n ih =>
    rw [leBytes, leNat, ih, BitVec.toNat_ofNat, show 256 ^ (n + 1) = 2 ^ 8 * 256 ^ n from Nat.pow_succ', Nat.mod_mul]
    rfl

theorem readLe_writeLe {m : Memory} (k v n : Nat) (h : Memory.wf m = true) : readLe (writeLe m k v n) k n = v % 256 ^ n := by
  have := readBytes_writeBytes k (leBytes v n) h
  rw [leBytes_length] at this
  rw [readLe, writeLe, this, leNat_leBytes]

/-- A write leaves the bytes outside it alone in any memory, canonical or not. -/
theorem readByte_writeBytes_of_outside (m : Memory) {k a : Nat} {bs : List Byte} (h : a < k ∨ k + bs.length ≤ a) :
    readByte (writeBytes m k bs) a = readByte m a := by
  induction bs generalizing m k with
  | nil => rfl
  | cons b r ih =>
    rw [List.length_cons] at h
    exact (ih _ (by omega)).trans (Registers.sget_sset_of_ne (by omega))

/-! A stream's state after a write of one. -/

section
variable (l : Lease) {st a : Stream} (x : StreamState)

theorem setStream_stream_same (h : st ≠ .ct) : (l.setStream st x).stream st = x := by
  cases st
  · exact absurd rfl h
  all_goals rfl

theorem setStream_stream_of_ne (h : a ≠ st) : (l.setStream st x).stream a = l.stream a := by
  cases st <;> cases a <;> simp_all [Lease.setStream, Lease.stream]

theorem useHandles_accept_stream (t : Tok) (hs : List Nat) : ((l.accept st t).useHandles hs).stream a = l.stream a := by
  cases a <;> rfl

end

/-- The body words that a ring still awaits behind an instruction (09 R234). -/
def bodyLeftAfter (i : Instr) (left : Nat) : Nat := match isRep i with | some n => n | none => left - 1

section
variable (s : State) {st : Stream} (w : W64) (i : Instr)

theorem place_cur : (s.place st w i).cur = ((s.cur.accept st (tokOf w)).useHandles (namedHandles st i)).setStream st
    { s.cur.stream st with ring := { (s.cur.stream st).ring with
        tail := ((s.cur.stream st).ring.tail + 1) % (s.cur.stream st).ring.slots, count := (s.cur.stream st).ring.count + 1,
        brk := sset false (s.cur.stream st).ring.tail s.placedBreak (s.cur.stream st).ring.brk,
        bodyLeft := bodyLeftAfter i (s.cur.stream st).ring.bodyLeft } } := by
  simp only [State.place, onRing_cur, onCur_cur, useHandles_accept_stream]
  rfl

/-- The word stands in its slot and no other byte of memory changes. -/
theorem place_mem : (s.place st w i).mem =
    writeLe s.mem (s.cur.winKey ((s.cur.stream st).ring.base + 8 * (s.cur.stream st).ring.tail)) w.toNat 8 := rfl

end

/-! An LD or SD word at the issue slot. -/

section
variable (s : State) (st : Stream)

theorem waitView_grpNext (t : Tok) : waitView (s.grpNext st t) = waitView s := by
  unfold State.grpNext
  split
  · cases st <;> rfl
  · rfl

theorem waitView_headTried (k : Nat) : waitView (s.onCur fun l => (l.noRaces k).headTried st) = waitView s := waitView_onCur s rfl

theorem workView_of_lsStarts {t : Tok} {u : State} (h : LsStarts t s u) : workView u = workView s := by
  obtain ⟨-, v, rfl, hu⟩ := h
  refine (workView_readRegs hu).trans (workView_of_waitView ?_)
  exact (waitView_headTried ..).trans ((waitView_takePops ..).trans (waitView_grpNext ..))

theorem workView_onStream (f : StreamState → StreamState) : workView (s.onStream st f) = workView s := by
  cases st <;> rfl

theorem workView_onRing (f : Ring → Ring) : workView (s.onRing st f) = workView s := workView_onStream ..

theorem workView_dropHead : workView (s.dropHead st) = workView s := (workView_onRing ..).trans rfl

theorem workView_advanceRing : workView (s.advanceRing st) = workView s := by
  unfold State.advanceRing
  dsimp only
  split
  · exact (workView_dropHead ..).trans (workView_onStream ..)
  next p _ =>
    have drop : workView (if p.left ≤ 1 then (s.onStream st fun x => { x with broken := false }).dropHead st
        else s.onStream st fun x => { x with broken := false }) = workView s := by
      split
      · exact (workView_dropHead ..).trans (workView_onStream ..)
      · exact workView_onStream ..
    split
    · exact (workView_onRing ..).trans drop
    split
    · exact (workView_onRing ..).trans drop
    · exact (workView_of_waitView (waitView_onCur _ rfl)).trans ((workView_onRing ..).trans drop)

theorem workView_lsAccepted (c : Cmd) : workView (lsAccepted c s) = workView s := workView_of_waitView (waitView_onCur s rfl)

theorem workView_lsIssued (v : State) : workView (lsIssued s v) = workView v :=
  (workView_onStream ..).trans (workView_advanceRing ..)

/-! The ring of a word that issues outside a REP. -/

variable {s st}

theorem advanceRing_of_no_rep (h : (s.cur.stream st).ring.rep = none) :
    s.advanceRing st = (s.onStream st fun x => { x with broken := false }).dropHead st := by
  have hr : ((s.onStream st fun x => { x with broken := false }).cur.stream st).ring.rep = none := by cases st <;> exact h
  unfold State.advanceRing
  dsimp only
  rw [hr]

theorem dropHead_stream_same (h : st ≠ .ct) : (s.dropHead st).cur.stream st = { s.cur.stream st with
    ring := { (s.cur.stream st).ring with
      head := ((s.cur.stream st).ring.head + 1) % (s.cur.stream st).ring.slots, count := (s.cur.stream st).ring.count - 1 } } := by
  rw [State.dropHead, onRing_cur, setStream_stream_same _ _ h]
  cases st <;> rfl

theorem dropHead_stream_of_ne {a : Stream} (h : a ≠ st) : (s.dropHead st).cur.stream a = s.cur.stream a := by
  rw [State.dropHead, onRing_cur, setStream_stream_of_ne _ _ h]
  cases a <;> rfl

theorem lsIssued_stream_same {v : State} (hr : (v.cur.stream s.curStream).ring.rep = none) (h : s.curStream ≠ .ct) :
    ((lsIssued s v).cur.stream s.curStream).ring.count = (v.cur.stream s.curStream).ring.count - 1 ∧
    ((lsIssued s v).cur.stream s.curStream).ring.head =
      ((v.cur.stream s.curStream).ring.head + 1) % (v.cur.stream s.curStream).ring.slots := by
  simp only [lsIssued, advanceRing_of_no_rep hr, onStream_cur, setStream_stream_same _ _ h, dropHead_stream_same h, and_self]

theorem lsIssued_stream_of_ne {v : State} (hr : (v.cur.stream s.curStream).ring.rep = none) {a : Stream} (h : a ≠ s.curStream) :
    (lsIssued s v).cur.stream a = v.cur.stream a := by
  simp only [lsIssued, advanceRing_of_no_rep hr, onStream_cur, setStream_stream_of_ne _ _ h, dropHead_stream_of_ne h]

end

/-- What the statement calls the same in two states follows from their common view. -/
theorem frame_of_workView {s u : State} (h : workView u = workView s) :
    (∀ r, u.reg r = s.reg r) ∧ (∀ k, u.handle k = s.handle k) ∧ u.cur.ct.pc = s.cur.ct.pc ∧
    u.cur.ct.nstat = s.cur.ct.nstat ∧ u.cur.ct.trapCtl = s.cur.ct.trapCtl ∧ u.cur.ct.trapPc = s.cur.ct.trapPc ∧
    u.cur.ct.trapCause = s.cur.ct.trapCause ∧ u.vfile = s.vfile ∧ u.accs = s.accs ∧ u.mem = s.mem ∧ u.datum = s.datum :=
  have ⟨hreg, hhandle, hpc, _, htrapCtl, hnstat, htrapPc, htrapCause, _, hvfile, haccs, hdatum, hmem⟩ := same_of_workView h
  ⟨hreg, hhandle, hpc, hnstat, htrapCtl, htrapPc, htrapCause, hvfile, haccs, hmem, hdatum⟩

/-- What placing a word changes and what it leaves. -/
theorem place_frame {s : State} {st : Stream} {w : W64} {i : Instr} :
    (s.place st w i).cur.ct = s.cur.ct ∧ (s.place st w i).vfile = s.vfile ∧ (s.place st w i).accs = s.accs ∧
    (s.place st w i).rest = s.rest ∧ (s.place st w i).parts = s.parts :=
  ⟨by rw [place_cur]; exact setStream_ct .., by simp only [State.place, onRing_vfile, onCur_vfile],
    by simp only [State.place, onRing_accs, onCur_accs], by simp only [State.place, onRing_rest, onCur_rest],
    by simp only [State.place, onRing_parts, onCur_parts]⟩

/-- Settles O17: placing writes one slot and the ring's counters, and issuing keeps the view of a word's beginning. -/
theorem ringAndIssueFrames : Obligations.RingAndIssueFrames := by
  constructor
  · intro s st w i hst
    dsimp only
    refine ⟨?_, ?_, ?_, ?_, ?_, ?_, ?_, fun hm => ⟨?_, wf_writeLe _ _ _ hm⟩, fun a ha => ?_, place_frame⟩
    iterate 5 · rw [place_cur, setStream_stream_same _ _ hst]
    · rw [place_cur, setStream_credit]
      rfl
    · rw [place_cur, setStream_inUse]
      rfl
    · rw [place_mem, readLe_writeLe _ _ _ hm]
      exact Nat.mod_eq_of_lt w.isLt
    · exact readByte_writeBytes_of_outside _ (by rwa [leBytes_length])
  · intro t c s u v
    exact ⟨fun h => frame_of_workView (workView_of_lsStarts s h), frame_of_workView (workView_lsAccepted u c),
      frame_of_workView (workView_lsIssued s v), lsIssued_stream_same, fun hr a ha => lsIssued_stream_of_ne hr ha⟩

end Sys2Proof.Proofs.ControlRings

/-! ### Handle words (05 R115-R117, 04 R87, R89) -/

namespace Sys2Proof.Proofs.ControlHandles

open Machine Claims Laws

theorem setHandle_ct (s : State) (k : Nat) (h : Handle) : (s.setHandle k h).cur.ct =
    { s.cur.ct with handles := sset 0 k (hMask h) s.cur.ct.handles, bad := s.cur.ct.bad.filter fun b => b.file ≠ 4 || b.reg ≠ k } := by
  simp only [State.setHandle, onCt_cur, Registers.rewritten_eq]

/-! A handle word waits while ring words name its handle, and then writes the handle or is refused. -/

section
variable {t : Tok} {srcs : List (BitVec 5)} {d : BitVec 5} {f : State → Except Cause Handle} {s u : State} (h : CtStarts t srcs 0 s u)
include h

theorem ctHandle_of_inUse (hu : sget 0 d.toNat u.cur.inUse ≠ 0) : ctHandle t srcs d f s = .next u := by
  refine (ctWord_of_starts _ h).trans ?_
  rw [if_pos hu]
  rfl

section
variable (hu : sget 0 d.toNat u.cur.inUse = 0)
include hu

theorem ctHandle_of_ok {x : Handle} (hf : f u = .ok x) : ctHandle t srcs d f s = .next (ctEnd t (nextPc u) 1 1 (u.setHandle d.toNat x)) := by
  refine (ctWord_of_starts _ h).trans ?_
  simp only [hu, hf, ne_eq, not_true_eq_false, if_false, CtRes.plain, State.pcNext, setHandle_ct]
  rfl

theorem ctHandle_of_error {c : Cause} (hf : f u = .error c) : ctHandle t srcs d f s = .next (ctRefused c u.cur.ct.ir 0 u) := by
  refine (ctWord_of_starts _ h).trans ?_
  simp only [hu, hf, ne_eq, not_true_eq_false, if_false]
  rfl

end

end

/-! What HADV and HVIEW compute. -/

section
variable (h : Handle) (k : Int) (b : W64)

/-- The handle with BASE moved by x, and SCALEOFF by y where the format has a scale plane. -/
def moved (x y : Int) : Handle :=
  let base := hPut h 120 64 (((hBase h : Int) + x) % 2 ^ 57).toNat
  if hFmt h = 0x06 ∨ hFmt h = 0x07 ∨ hFmt h = 0x0A then hPut base 223 192 (((hScaleOff h : Int) + y) % 2 ^ 32).toNat else base

theorem fmtScaled_iff (f : Nat) : fmtScaled f = true ↔ f = 0x06 ∨ f = 0x07 ∨ f = 0x0A := by
  simp [fmtScaled, or_assoc]

theorem hAdvance_elements : hAdvance h k 0 = moved h k (-k) := if_congr (fmtScaled_iff _) rfl rfl

theorem hAdvance_rows : hAdvance h k 1 = moved h (k * hStride1 h) (k * ((hScaleRow h : Int) - hStride1 h)) :=
  if_congr (fmtScaled_iff _) rfl rfl

theorem hAdvance_planes : hAdvance h k 2 = moved h (k * hStride2 h) (k * ((hDim1 h : Int) * hScaleRow h - hStride2 h)) :=
  if_congr (fmtScaled_iff _) rfl rfl

theorem nbits_zero (x hi : Nat) : nbits x hi 0 = x % 2 ^ (hi + 1) := by
  rw [nbits, pow_zero, Nat.div_one, Nat.sub_zero]

theorem hView_dims : hView h b 0 = .ok (hPut (hPut (hPut h 175 160 (b.toNat % 2 ^ 16)) 191 176 (b.toNat / 2 ^ 16 % 2 ^ 16)) 63 48
    (b.toNat / 2 ^ 32 % 2 ^ 16)) := by
  simp only [hView, nbits_zero]
  rfl

theorem hView_strides : hView h b 1 = .ok (hPut (hPut h 159 128 (b.toNat % 2 ^ 32)) 47 16 (b.toNat / 2 ^ 32 % 2 ^ 32)) := by
  simp only [hView, nbits_zero]
  rfl

theorem hView_format : hView h b 3 = .ok (hPut (hPut (hPut (hPut h 255 250 (b.toNat % 2 ^ 6)) 227 226 (b.toNat / 2 ^ 6 % 4))
    232 228 (b.toNat / 2 ^ 8 % 32)) 223 192 (b.toNat / 2 ^ 32 % 2 ^ 32)) := by
  simp only [hView, nbits_zero]
  rfl

variable {h}

theorem hView_of_global (hs : hSpace h = 1) : hView h b 2 = .ok (hPut h 249 248 3) := if_pos hs

theorem hView_of_view (hs : hSpace h = 3) : hView h b 2 = .ok (hPut h 249 248 1) := by
  rw [hView, hs]
  rfl

theorem hView_of_local (hs : hSpace h = 0 ∨ hSpace h = 2) : hView h b 2 = .error .illegalOperand := by
  rw [hView]
  obtain hs | hs := hs
  · rw [hs]
    rfl
  · rw [hs]
    rfl

end

theorem quarter_value (h : Handle) (q : Nat) : hField h (64 * q + 63) (64 * q) = h.toNat / 2 ^ (64 * q) % 2 ^ 64 := by
  rw [hField, nbits, show 64 * q + 63 + 1 - 64 * q = 64 by omega]

/-- What a handle and its neighbours hold after a write. -/
theorem handle_setHandle {s : State} (k : Nat) (h : Handle) (hk : keysRise s.cur.ct.handles = true) :
    (s.setHandle k h).handle k = hMask h ∧ keysRise (s.setHandle k h).cur.ct.handles = true ∧
    ∀ j, j ≠ k → (s.setHandle k h).handle j = s.handle j := by
  simp only [State.handle, setHandle_ct]
  exact ⟨Registers.sget_sset_same hk, Registers.keysRise_sset hk, fun j hj => Registers.sget_sset_of_ne hj⟩

/-- Settles O15: each word is a handle word with its function, but HGET, which writes a register. -/
theorem handleWords : Obligations.HandleWords := by
  refine ⟨fun t d a b q s u => ?_, fun s k h hk => handle_setHandle k h hk⟩
  dsimp only [exec]
  refine ⟨fun hu => ⟨fun h => ?_, fun h => ?_, fun h => ⟨ctHandle_of_ok h hu rfl, ctHandle_of_ok h hu rfl⟩⟩,
    fun hu => ⟨fun h => ⟨ctHandle_of_inUse h hu, ctHandle_of_inUse h hu⟩, fun h => ctHandle_of_inUse h hu,
      fun h => ⟨ctHandle_of_inUse h hu, ctHandle_of_inUse h hu⟩⟩, fun h => ?_⟩
  · exact ⟨ctHandle_of_ok h hu rfl, ctHandle_of_ok h hu (congrArg Except.ok (hAdvance_elements ..)),
      ctHandle_of_ok h hu (congrArg Except.ok (hAdvance_rows ..)), ctHandle_of_ok h hu (congrArg Except.ok (hAdvance_planes ..))⟩
  · exact ⟨ctHandle_of_ok h hu (hView_dims ..), ctHandle_of_ok h hu (hView_strides ..), fun hs => ctHandle_of_ok h hu (hView_of_global _ hs),
      fun hs => ctHandle_of_ok h hu (hView_of_view _ hs), fun hs => ctHandle_of_error h hu (hView_of_local _ hs),
      ctHandle_of_ok h hu (hView_format ..)⟩
  · rw [← quarter_value]
    exact ctWord_plain _ h (Laws.wreg_pc ..)

end Sys2Proof.Proofs.ControlHandles

/-! ### Traps, their returns and user-level interrupts (05 R121-R124, R99; 16 R366-R370, R381) -/

namespace Sys2Proof.Proofs.ControlTraps

open Machine Claims Laws ControlFrames ControlFlow

/-! What the pieces of a trap's entry do. -/

theorem rewrittenIn_eq (c : Ct) (file : Nat) (regs : List Nat) :
    c.rewrittenIn file regs = { c with bad := c.bad.filter fun b => decide (¬ (b.file = file ∧ b.reg ∈ regs)) } := by
  have hp : (fun b : RegBad => b.file ≠ file || !regs.contains b.reg) = fun b => decide (¬ (b.file = file ∧ b.reg ∈ regs)) := by
    funext b
    simp [imp_iff_not_or, Bool.decide_or]
  unfold Ct.rewrittenIn
  rw [← hp]
  split
  next h =>
    cases c
    simp_all [List.isEmpty_iff]
  next => rfl

theorem handler_eq (l : Lease) (c : Cause) : l.handler c = if c = .xopUnloaded ∧ l.loader ≠ 0 then l.loader else l.traph := by
  simp [Lease.handler]

theorem notes_race_iff (c : Cause) :
    (c.isRace && c ≠ .clockFold) = true ↔ c ∈ [Cause.raceWW, .raceRW, .raceWR, .raceScope, .raceReadOverflow] := by
  cases c <;> decide

/-- A race trap notes the access that RSUP may exempt (16 R370). -/
def raceNoted (c : Cause) (i1 i3 : W64) (s : State) : State :=
  if c ∈ [Cause.raceWW, .raceRW, .raceWR, .raceScope, .raceReadOverflow]
  then s.onCur fun l => { l with rsupAcc := some (i3.toNat % 2 ^ 32, i1.toNat / 64), rsupOn := false } else s

/-- CT's record behind the entry of a trap. -/
def trapEntered (ct : Ct) (c : Cause) (i0 i1 i2 i3 resume : W64) (handler mc : Nat) : Ct :=
  { ct with trapPc := resume, trapCause := BitVec.ofNat 64 c.code, info0 := i0, info1 := i1, info2 := i2, info3 := i3,
            bad := ct.bad.filter fun b => decide (¬ (b.file = 5 ∧ b.reg ∈ [0, 1, 2, 4, 5, 6, 7])),
            trapCtl := ct.trapCtl &&& ~~~1#64, pc := handler, accd := false, wdone := false, idx := 0, wait := .none,
            begun := false, trapDue := none, nextMc := mc }

theorem trapEntered_reg (ct : Ct) (c : Cause) (i0 i1 i2 i3 resume : W64) (handler mc r : Nat) :
    (trapEntered ct c i0 i1 i2 i3 resume handler mc).reg r = ct.reg r :=
  reg_congr (c := trapEntered ct c i0 i1 i2 i3 resume handler mc) (d := ct) rfl rfl (by simp [trapEntered]) r

/-- A trap with a handler that may be taken is entered. -/
theorem enterTrap_of_handled {s : State} {sync : Bool} {c : Cause} {i0 i1 i2 i3 resume : W64} (hp : s.cur.prologue = false)
    (hte : sync = true → s.cur.ct.trapCtl.getLsbD 0 = true) (hh : s.cur.handler c ≠ 0) :
    s.enterTrap sync c [i0, i1, i2, i3] resume = (raceNoted c i1 i3 (s.onCur Lease.leaveGrp)).onCt fun ct =>
      trapEntered ct c i0 i1 i2 i3 resume (s.cur.handler c) (s.datum + 3) := by
  have hs : (sync && !s.cur.ct.trapCtl.getLsbD 0) = false := by
    cases sync
    · rfl
    · simp [hte rfl]
  unfold State.enterTrap raceNoted
  simp only [hp, hs, hh, notes_race_iff, rewrittenIn_eq, Bool.false_or, decide_false, Bool.false_eq_true, if_false]
  split <;> simp [nbits, trapEntered]

theorem ctTrap_of_inFlight {s : State} {c : Cause} {i : List W64} (hc : c ≠ .uncorrectable) (h : s.regsWritten = false) :
    s.ctTrap c i = s.onCt fun ct => { ct with trapDue := some (c, i) } := by
  rw [State.ctTrap, if_neg hc, h]
  rfl

theorem ctTrap_of_written {s : State} {c : Cause} {i : List W64} (hc : c ≠ .uncorrectable) (h : s.regsWritten = true) :
    s.ctTrap c i = s.enterTrap true c i s.cur.ct.resume := by
  rw [State.ctTrap, if_neg hc, h]
  rfl

/-- Settles O18: a trap with a handler takes the third branch of its entry. -/
theorem trapEntry : Obligations.TrapEntry := by
  refine ⟨fun s sync c i0 i1 i2 i3 resume hp hte h => ?_, fun s c i hc => ⟨ctTrap_of_inFlight hc, ctTrap_of_written hc⟩⟩
  rw [← handler_eq] at h ⊢
  exact enterTrap_of_handled hp hte h

/-! TRAP (05 R121). -/

theorem cur_of_signalView {s t : State} (h : signalView s = signalView t) : (signalView s).2.2.2 = (signalView t).2.2.2 :=
  congrArg (·.2.2.2) h

/-- The state that TRAP's signals leave. -/
def trapSignalled (t : Tok) (u : State) : State := u.signals .ct t.sig (u.cur.ct.pc / 8) (opcodeOf u.cur.ct.ir) u.cur.vc

theorem signalView_trapSignalled (t : Tok) (u : State) : signalView (trapSignalled t u) = signalView u := signalView_signals ..

section
variable {t : Tok} {imm : BitVec 16} {s u : State} (h : CtStarts t [] 0 s u) (hw : u.regsWritten = true)
include h hw

theorem execTrap_of_starts : execTrap t imm s = .next (((trapSignalled t u).onCur Lease.spent).enterTrap true .trapInstr
    [imm.setWidth 64, trapInfo1 0 0 .ct 0, 0, 0] (u.cur.ct.goOn (nextPc u) u.datum).resume) := by
  refine (ctWord_of_starts _ h).trans ?_
  rw [hw]
  rfl

variable (hp : u.cur.prologue = false) (hte : u.cur.ct.trapCtl.getLsbD 0 = true) (hh : u.cur.traph ≠ 0)
include hp hte hh

theorem execTrap_of_handled : execTrap t imm s = .next (((trapSignalled t u).onCur fun l => l.spent.leaveGrp).onCt fun ct =>
    trapEntered ct .trapInstr (imm.setWidth 64) (trapInfo1 0 0 .ct 0) 0 0 (u.cur.ct.goOn (nextPc u) u.datum).resume u.cur.traph
      (u.datum + 3)) := by
  have hv := signalView_trapSignalled t u
  have hcur := cur_of_signalView hv
  have hp' : ((trapSignalled t u).onCur Lease.spent).cur.prologue = false := (congrArg Lease.prologue hcur :).trans hp
  have htraph : (trapSignalled t u).cur.traph = u.cur.traph := (congrArg Lease.traph hcur :)
  have hte' : ((trapSignalled t u).onCur Lease.spent).cur.ct.trapCtl.getLsbD 0 = true := (trapCtl_of_signalView hv (by decide)).trans hte
  have hhandler : ((trapSignalled t u).onCur Lease.spent).cur.handler .trapInstr = u.cur.traph := by
    rw [handler_eq]
    exact htraph
  have hdatum : ((trapSignalled t u).onCur Lease.spent).datum = u.datum := (datum_of_signalView hv :)
  have hrace (i1 i3 : W64) (v : State) : raceNoted .trapInstr i1 i3 v = v := if_neg (by decide)
  rw [execTrap_of_starts h hw, enterTrap_of_handled hp' (fun _ => hte') (hhandler ▸ hh), hhandler, hdatum, hrace]
  rfl

end

/-- The resume point of a word not yet begun is its offset, 21 bits of it (05 R99). -/
theorem resume_of_not_begun {c : Ct} (hi : c.idx = 0) (hw : c.wdone = false) (ha : c.accd = false) :
    c.resume = BitVec.ofNat 64 (c.pc / 8 % 2 ^ 21 * 8) := by
  simp [Ct.resume, hi, hw, ha]

/-- A resume at such a point goes on at its offset, with nothing of the word done. -/
theorem resumeAt_of_offset (l : Lease) {n : Nat} {r : W64} (h : r = BitVec.ofNat 64 (n % 2 ^ 21 * 8)) :
    l.resumeAt r =
      { l with ct := { l.ct with pc := n % 2 ^ 21 * 8, accd := false, wdone := false, idx := 0, wait := .none, begun := false } } := by
  subst h
  have hlt : n % 2 ^ 21 < 2 ^ 21 := Nat.mod_lt _ (by decide)
  have hr : (BitVec.ofNat 64 (n % 2 ^ 21 * 8)).toNat = n % 2 ^ 21 * 8 := by
    rw [BitVec.toNat_ofNat]
    exact Nat.mod_eq_of_lt (by omega)
  have hpc : nbits (n % 2 ^ 21 * 8) 23 3 * 8 = n % 2 ^ 21 * 8 := by
    unfold nbits
    omega
  have hidx : nbits (n % 2 ^ 21 * 8) 63 52 = 0 := by
    unfold nbits
    omega
  have haccd : eBit (BitVec.ofNat 64 (n % 2 ^ 21 * 8)) 50 = false := by
    rw [eBit, hr]
    exact decide_eq_false (by omega)
  have hwdone : eBit (BitVec.ofNat 64 (n % 2 ^ 21 * 8)) 51 = false := by
    rw [eBit, hr]
    exact decide_eq_false (by omega)
  simp only [Lease.resumeAt, haccd, hwdone, hr, hpc, hidx, ite_self]

/-- Settles O19: the entry of the trap follows the word's signals, which keep what the statement names. -/
theorem trapInstruction : Obligations.TrapInstruction := by
  refine ⟨fun t imm s u h hp hw hte hh => ⟨_, execTrap_of_handled h hw hp hte hh, ?_⟩, fun _ _ _ => decodeCt_trap rfl⟩
  have hv := signalView_trapSignalled t u
  have hpc : (u.cur.ct.goOn (nextPc u) u.datum).resume = BitVec.ofNat 64 (nextPc u / 8 % 2 ^ 21 * 8) := resume_of_not_begun rfl rfl rfl
  refine ⟨rfl, rfl, hpc, rfl, ?_, fun r => (trapEntered_reg ..).trans (reg_of_signalView hv r), fun k => ?_,
    congrArg (·.ct.pc) (resumeAt_of_offset _ hpc),
    congrArg (·.ct.idx) (resumeAt_of_offset _ hpc), congrArg (·.ct.accd) (resumeAt_of_offset _ hpc),
    congrArg (·.ct.wdone) (resumeAt_of_offset _ hpc)⟩
  · simp [trapEntered]
  · exact (congrArg (Ct.handle · k) (ct_of_signalView hv) :)

/-! ERET, UIRET and the delivery of a user-level interrupt (05 R123, R124). -/

/-- The lease resumed at a resume point, to go on after 3 mc. -/
def resumedAt (mc : Nat) (r : W64) (l : Lease) : Lease :=
  { l.resumeAt r with ct := { (l.resumeAt r).ct with nextMc := mc + 3, did := mc + 1 } }

/-- A word that returns makes its signals and resumes. -/
theorem ctReturn_eq (t : Tok) (f : Lease → Lease) (r : Lease → W64) (u : State) :
    ctFinish t (ctReturn t (fun l => (f l).resumeAt (r (f l))) u) =
      (trapSignalled t u).onCur fun l => resumedAt u.datum (r (f l.spent)) (f l.spent) := by
  have hd : (trapSignalled t u).datum = u.datum := datum_of_signalView (signalView_trapSignalled t u)
  rw [← hd]
  rfl

/-- ERET's lease: TE is set, the streams restart and RSUP stands from here. -/
def trapLeft (l : Lease) : Lease := { l.restart with rsupOn := l.ct.trapCtl.getLsbD 1, ct := { l.ct with trapCtl := l.ct.trapCtl ||| 1 } }

/-- UIRET's lease: UIACT is clear. -/
def uirqLeft (l : Lease) : Lease := { l with ct := { l.ct with trapCtl := l.ct.trapCtl &&& ~~~4#64 } }

section
variable {t : Tok} {s u : State} (h : CtStarts t [] 0 s u)
include h

theorem execEret_of_starts : execEret t s =
    .next ((trapSignalled t u).onCur fun l => resumedAt u.datum l.ct.trapPc (trapLeft l.spent)) :=
  (ctWord_of_starts _ h).trans (congrArg _ (ctReturn_eq t trapLeft (·.ct.trapPc) u))

theorem execUiret_of_inactive (ha : u.cur.ct.trapCtl.getLsbD 2 = false) : execUiret t s = .next (ctRefused .illegalOperand u.cur.ct.ir 0 u) := by
  refine (ctWord_of_starts _ h).trans ?_
  rw [ha]
  rfl

variable (ha : u.cur.ct.trapCtl.getLsbD 2 = true)
include ha

theorem execUiret_of_inFlight (hw : u.regsWritten = false) : execUiret t s = .next u := by
  refine (ctWord_of_starts _ h).trans ?_
  rw [ha, hw]
  rfl

theorem execUiret_of_active (hw : u.regsWritten = true) : execUiret t s =
    .next ((trapSignalled t u).onCur fun l => resumedAt u.datum l.ct.uipc (uirqLeft l.spent)) := by
  refine (ctWord_of_starts _ h).trans ?_
  rw [ha, hw]
  exact congrArg _ (ctReturn_eq t uirqLeft (·.ct.uipc) u)

end

/-- When a user-level interrupt is delivered. -/
def MayDeliver (u : State) : Prop :=
  u.atBoundary = true ∧ u.cur.ct.trapCtl.getLsbD 3 = true ∧ u.cur.ct.trapCtl.getLsbD 0 = true ∧ u.cur.ct.trapCtl.getLsbD 2 = false ∧
  u.cur.ct.uivec ≠ 0 ∧ u.saveDue = false

theorem not_mayDeliver_iff (u : State) : (!u.atBoundary || !u.cur.ct.uirqDue || u.saveDue) = true ↔ ¬ MayDeliver u := by
  simp [MayDeliver, Ct.uirqDue, not_and_or, or_assoc, -not_and]

theorem deliverUirq_of_not {u : State} (h : ¬ MayDeliver u) : deliverUirq u = u := if_pos ((not_mayDeliver_iff u).2 h)

theorem deliverUirq_of_may {u : State} (h : MayDeliver u) : deliverUirq u = (u.onCur Lease.leaveGrp).onCt fun c =>
    { c with bad := c.bad.filter fun b => decide (¬ (b.file = 5 ∧ b.reg ∈ [2, 9])), uipc := c.resume,
             trapCtl := (c.trapCtl ||| 4) &&& ~~~8#64, pc := c.uivec.toNat / 8 * 8, accd := false, wdone := false, idx := 0,
             wait := .none, begun := false, nextMc := u.datum + 3 } := by
  rw [deliverUirq, if_neg (fun hn => (not_mayDeliver_iff u).1 hn h)]
  simp only [rewrittenIn_eq]
  rfl

/-- Settles O20: the returns resume behind their signals, and the delivery is one change of the lease in focus. -/
theorem trapReturns : Obligations.TrapReturns := by
  refine ⟨fun t s u h => ⟨execEret_of_starts h, execUiret_of_inactive h, execUiret_of_active h, execUiret_of_inFlight h⟩,
    fun l s hl => ?_⟩
  have hx : exec (.uirqDelivery l) s = .next (deliverUirq (s.focus l)) := congrArg _ (if_pos hl)
  exact ⟨fun h => hx.trans (congrArg _ (deliverUirq_of_may h)), fun h => hx.trans (congrArg _ (deliverUirq_of_not h))⟩

end Sys2Proof.Proofs.ControlTraps

/-! ### ISSUE and ISSUER (05 R118-R120; 02 R51) -/

namespace Sys2Proof.Proofs.ControlIssue

open Machine Claims Laws

/-! What one attempt to place a word answers. -/

section
variable {u : State} {st : Stream} {w : W64} {i : Nat}

theorem placeWord_of_full (h : (u.cur.stream st).ring.slots ≤ (u.cur.stream st).ring.count) : placeWord u st w i = none := if_pos h

section
variable (h : (u.cur.stream st).ring.count < (u.cur.stream st).ring.slots)
include h

theorem placeWord_of_ok {j : Instr} (hc : pushCheck u.cur st w = .ok j) : placeWord u st w i = some (.ok (u.place st w j)) := by
  unfold placeWord
  dsimp only
  rw [if_neg (Nat.not_le.2 h), hc]

theorem placeWord_of_error {c : Cause} {i2 : W64} (hc : pushCheck u.cur st w = .error (c, i2)) :
    placeWord u st w i = some (.error (c, [w, trapInfo1 0 1 st i, i2, 0])) := by
  unfold placeWord
  dsimp only
  rw [if_neg (Nat.not_le.2 h), hc]

end

end

/-- A refused word traps at once with TE set, and else its ISSUE waits. -/
theorem pushRefused_finish {t : Tok} {u : State} {r : CtRes} {c : Cause} {info : List W64} (hr : r = pushRefused c info u) :
    (u.cur.ct.trapCtl.getLsbD 0 = true → ctFinish t r = u.ctTrap c info) ∧
    (u.cur.ct.trapCtl.getLsbD 0 = false → ctFinish t r = u) := by
  subst hr
  exact ⟨fun h => congrArg (ctFinish t) (if_pos h),
    fun h => congrArg (ctFinish t) (if_neg (Bool.eq_false_iff.1 h))⟩

/-! ISSUE's work by its cases. -/

section
variable {tgt : BitVec 2} {n : BitVec 12} {u : State}

theorem issueWork_of_beyond (h : u.cur.codesize < u.cur.ct.pc + 8 * (n.toNat + 1)) :
    issueWork tgt n u = .refuseAt .fetchBound (BitVec.ofNat 64 (u.cur.ct.pc + 8 * (n.toNat + 1))) u := if_pos h

section
variable (h : u.cur.ct.pc + 8 * (n.toNat + 1) ≤ u.cur.codesize)
include h

theorem issueWork_of_done (hi : n.toNat ≤ u.cur.ct.idx) : issueWork tgt n u = .done u (u.cur.ct.pc + 8 * (n.toNat + 1)) 1 1 :=
  (if_neg (Nat.not_lt.2 h)).trans (if_pos hi)

/-! While words are left the work is the placement of the next one. -/

section
variable (hi : u.cur.ct.idx < n.toNat)
include hi

theorem issueWork_of_placed {v : State} (hp : placeWord u (Stream.ofIndex tgt.toNat) (sget 0 (u.cur.ct.pc / 8 + u.cur.ct.idx + 1) u.cur.code)
      u.cur.ct.idx = some (.ok v)) :
    issueWork tgt n u = .wait (v.onCt fun c => { c with idx := u.cur.ct.idx + 1, did := v.datum + 1 }) := by
  unfold issueWork
  dsimp only
  rw [if_neg (Nat.not_lt.2 h), if_neg (Nat.not_le.2 hi), hp]

theorem issueWork_of_refused {c : Cause} {info : List W64}
    (hp : placeWord u (Stream.ofIndex tgt.toNat) (sget 0 (u.cur.ct.pc / 8 + u.cur.ct.idx + 1) u.cur.code) u.cur.ct.idx = some (.error (c, info))) :
    issueWork tgt n u = pushRefused c info u := by
  unfold issueWork
  dsimp only
  rw [if_neg (Nat.not_lt.2 h), if_neg (Nat.not_le.2 hi), hp]

theorem issueWork_of_full
    (hp : placeWord u (Stream.ofIndex tgt.toNat) (sget 0 (u.cur.ct.pc / 8 + u.cur.ct.idx + 1) u.cur.code) u.cur.ct.idx = none) :
    issueWork tgt n u = .wait u := by
  unfold issueWork
  dsimp only
  rw [if_neg (Nat.not_lt.2 h), if_neg (Nat.not_le.2 hi), hp]

end

end

end

/-! A stalled placement goes on as its word does. -/

section
variable {l : Nat} {s : State} {t : Tok} {tgt : BitVec 2} (hl : (s.lease? l).isSome = true) (hw : (s.focus l).cur.ct.wdone = true)
include hl hw

theorem ringPlacement_of_issue {n : BitVec 12} (hi : decodeCt false (s.focus l).cur.ct.ir = .ok (.issue t tgt n)) :
    exec (.ringPlacement l) s = exec (.issue t tgt n) (s.focus l) := by
  refine congrArg _ ((if_pos hl).trans ?_)
  dsimp only
  rw [hw, hi]
  rfl

theorem ringPlacement_of_issuer {a : BitVec 5} (hi : decodeCt false (s.focus l).cur.ct.ir = .ok (.issuer t tgt a)) :
    exec (.ringPlacement l) s = exec (.issuer t tgt a) (s.focus l) := by
  refine congrArg _ ((if_pos hl).trans ?_)
  dsimp only
  rw [hw, hi]
  rfl

end

/-- Settles O16: the work of the two words by what stands in the ring and what the push-time checks say. -/
theorem issueAndIssuer : Obligations.IssueAndIssuer := by
  refine ⟨fun t tgt n s u h => ?_, fun t tgt a s u h => ?_, fun l s hl hw =>
    ⟨fun _ _ _ => ringPlacement_of_issue hl hw, fun _ _ _ => ringPlacement_of_issuer hl hw⟩⟩
  · have run (r : CtRes) (hr : issueWork tgt n u = r) : exec (.issue t tgt n) s = .next (ctFinish t r) :=
      hr ▸ ctWord_of_starts _ h
    refine ⟨fun hb => run _ (issueWork_of_beyond hb), fun hb => ⟨fun hi => run _ (issueWork_of_done hb hi),
      fun hi hr => run _ (issueWork_of_full hb hi (placeWord_of_full hr)),
      fun hi hr j hj => run _ (issueWork_of_placed hb hi (placeWord_of_ok hr hj)), fun hi hr c i2 hc => ?_⟩⟩
    have hf := pushRefused_finish (t := t) (issueWork_of_refused (tgt := tgt) hb hi (placeWord_of_error hr hc))
    exact hf.imp (fun hf ht => (run _ rfl).trans (congrArg _ (hf ht))) (fun hf ht => (run _ rfl).trans (congrArg _ (hf ht)))
  · have run (r : CtRes) (hr : issuerWork tgt a u = r) : exec (.issuer t tgt a) s = .next (ctFinish t r) :=
      hr ▸ ctWord_of_starts _ h
    refine ⟨fun hr => run (.wait u) ?_, fun hr j hj => run _ ?_, fun hr c i2 hc => ?_⟩
    · rw [issuerWork, placeWord_of_full hr]
    · rw [issuerWork, placeWord_of_ok hr hj]
    · have hf := pushRefused_finish (t := t) (r := issuerWork tgt a u) (by rw [issuerWork, placeWord_of_error hr hc])
      exact hf.imp (fun hf ht => (run _ rfl).trans (congrArg _ (hf ht))) (fun hf ht => (run _ rfl).trans (congrArg _ (hf ht)))

end Sys2Proof.Proofs.ControlIssue

/-! ### A step runs the decoded instruction (05 R98; 02 R51-R53) -/

namespace Sys2Proof.Proofs.ControlStep

open Machine Claims Laws

section
variable {s t u x : State} {i : Instr} {back : Option State}

/-- A step is the work that stands next, then what its asks stop. -/
theorem step_of_work (hw : s.nextWork = .run i t back) (hx : exec i t = .next x) : step s = .next (x.settleAsk back) := by
  unfold step
  rw [hw]
  dsimp only
  rw [hx]

/-- The work of a stream's turn is the word that its lease fetches. -/
theorem nextWork_of_word {l : Nat} {st : Stream} {r : List Turn} (ht : s.turn = .word l st :: r) (hl : (s.lease? l).isSome = true)
    (hf : fetchWord st (({ s with turn := r } : State).focus l) = .ok (i, u)) : s.nextWork = .run i u (some u) := by
  have hl' : (({ s with turn := r } : State).lease? l).isNone = false := Option.isNone_eq_false_iff.2 hl
  unfold State.nextWork
  rw [ht]
  dsimp only [turnWork]
  rw [hl', hf]
  rfl

end

/-! What a stream fetches that may act and whose word decodes. -/

/-- CT's state with its word taken: it is begun unless a boundary's work comes first. -/
def ctTaken (f : State) : State :=
  if f.boundaryStop then f.onCt fun c => { c with ir := f.cur.ctWordAt } else f.onCt fun c => { c with ir := f.cur.ctWordAt, begun := true }

section
variable {f : State} {i : Instr}

theorem fetchCt_of_decoded (hmay : f.ctMay = true) (hdue : f.cur.ct.trapDue = none) (hfrom : f.cur.codeFrom ≤ f.cur.ct.pc)
    (hprologue : f.cur.prologue = true → f.cur.ct.pc < f.cur.codeTo)
    (hcode : f.cur.prologue = false → f.cur.ct.pc < f.cur.codesize ∧ f.cur.codeLine ∈ f.cur.icache)
    (hi : f.cur.decodeCtWord f.cur.ctWordAt = .ok i) (hbreak : (ctTaken f).ctBroken = false) : fetchCt f = .ok (i, ctTaken f) := by
  have hbounds : (f.cur.ct.pc < f.cur.codeFrom || (if f.cur.prologue then f.cur.codeTo else f.cur.codesize) ≤ f.cur.ct.pc) = false := by
    rw [Bool.or_eq_false_iff, decide_eq_false_iff_not, decide_eq_false_iff_not, Nat.not_lt, Nat.not_le]
    refine ⟨hfrom, ?_⟩
    split
    next hp => exact hprologue hp
    next hp => exact (hcode (Bool.eq_false_iff.2 hp)).1
  have hline : (!f.cur.prologue && !f.cur.icache.contains f.cur.codeLine) = false := by
    cases hp : f.cur.prologue
    · simp [(hcode hp).2]
    · rfl
  unfold ctTaken at hbreak ⊢
  unfold fetchCt
  simp only [hmay, hdue, hbounds, hline, hi, hbreak]
  rfl

theorem fetchRing_of_decoded {st : Stream} (hruns : f.streamRuns st = true) (hhas : (f.cur.stream st).ring.has = true)
    (hbreak : ({ f with curStream := st } : State).ringBroken st = false) (hi : decodeChecked f.cur.vregs st (f.curWord st) = .ok i) :
    fetchRing st f = .ok (i, { f with curStream := st }) := by
  unfold fetchRing
  simp only [hruns, hhas, hi, hbreak]
  rfl

end

/-- Nothing is added where no partition asks. -/
theorem settleAsk_of_no_ask {s : State} {back : Option State} (h : ∀ q ∈ s.parts, q.2.dbg.ask = 0) : s.settleAsk back = s := by
  have hn : (s.parts.find? fun q => q.2.dbg.ask ≠ 0) = none := by simpa using h
  unfold State.settleAsk
  rw [hn]

/-- Settles O55: the next work of the machine by what stands at the head of its lists. -/
theorem stepRunsDecodedWord : Obligations.StepRunsDecodedWord := by
  refine ⟨fun s l r i x ht hl hmay hdue hfrom hprologue hcode hi => ?_, fun s l st r i x ht hst hl hruns hhas hbreak hi =>
      step_of_work (nextWork_of_word ht hl ((if_neg hst).trans (fetchRing_of_decoded hruns hhas hbreak hi))),
    fun s i r x ht => step_of_work ?_, fun s i r x ht hin => step_of_work ?_, fun s x ht hin => step_of_work ?_,
    fun s back => settleAsk_of_no_ask⟩
  · have run (u : State) (hu : ctTaken (({ s with turn := r } : State).focus l) = u) (hb : u.ctBroken = false) :=
      step_of_work (x := x) (nextWork_of_word ht hl (hu ▸ fetchCt_of_decoded hmay hdue hfrom hprologue hcode hi (hu ▸ hb)))
    exact ⟨fun hstop => run _ (if_neg (Bool.eq_false_iff.1 hstop)), fun hstop => run _ (if_pos hstop)⟩
  · rw [State.nextWork, ht]
    rfl
  · rw [State.nextWork, ht, hin]
  · rw [State.nextWork, ht, hin]

end Sys2Proof.Proofs.ControlStep

/-! ### LDS, STS, AMO and CAS (05 R110-R114; 10 R239, R260; 18 R406) -/

namespace Sys2Proof.Proofs.ControlMemory

open Machine Claims Laws

/-! The request that leaves CT. -/

/-- The mc in which an STS completes before its home performs it (10 R239); none for another word, or where the home is asked. -/
def toldMc (w : State) (kind : ReqKind) (scope : Nat) (tr : Tr) : Option Nat :=
  if kind ≠ .store || w.asksHome tr then none else w.storeTold scope tr

/-- The request r entered into the list, and the completion of a store that is told early. -/
def enteredReq (t : Tok) (r : Req) (tr : Tr) (told : Option Nat) (w : State) : State :=
  match told with
  | none => w.addReq r
  | some due =>
    (if tr.tracked && w.cur.race ≠ 0 && w.clockStore && !w.cur.prologue
      then (w.addReq r).setAgent w.cur.part r.aid { (w.part w.cur.part).agent r.aid with dirty := true } else w.addReq r).onCur fun l =>
      { l with doneQ := l.doneQ ++ [{ stream := .ct, sig := t.sig, slot := r.slot, op := r.opc, due := due }] }

/-- The destination is outstanding until the request answers. -/
def outstanding (x : BitVec 5) (v : State) : State :=
  if x = 0 then v else v.onCt fun ct => { ct with ready := sset 0 x.toNat never ct.ready }

/-- A request to a page of another package goes over the fabric under its number. -/
def overFabric (r : Req) (tr : Tr) (num : Nat) (v : State) : State :=
  let code := match r.kind with | .load => 32 | .store => 33 | .amo => 98 + r.op | _ => 107
  if tr.tier = 3 then v.sendFabric (v.leafPkg tr).1 (v.leafPkg tr).2 r.aid code num tr.farAddr
    (if r.kind = .load then r.size else r.data) r.cmp (if r.kind = .load then [] else leBytes r.data r.size) else v

/-- The request with what is known as it leaves. -/
def leavingReq (w : State) (r : Req) (tr : Tr) : Req :=
  { r with
    asks := w.asksHome tr, told := (toldMc w r.kind r.scope tr).isSome,
    clk := (w.part w.cur.part).gen * 2 ^ 16 + ((w.part w.cur.part).agent r.aid).count
    due := if tr.tier = 3 then never else w.homeDue (r.kind = .load) tr }

/-- The state with the request sent. -/
def requested (t : Tok) (r : Req) (tr : Tr) (x : BitVec 5) (w : State) : State :=
  overFabric r tr w.nextReq (outstanding x (enteredReq t (leavingReq w r tr) tr (toldMc w r.kind r.scope tr) w))

theorem requested_pc (t : Tok) (r : Req) (tr : Tr) (x : BitVec 5) (w : State) : (requested t r tr x w).cur.ct.pc = w.cur.ct.pc := by
  have entered (r : Req) (told : Option Nat) : (enteredReq t r tr told w).cur.ct.pc = w.cur.ct.pc := by
    unfold enteredReq
    split
    · rfl
    · split <;> rfl
  have waits (v : State) : (outstanding x v).cur.ct.pc = v.cur.ct.pc := by
    unfold outstanding
    split <;> rfl
  have sends (v : State) : (overFabric r tr w.nextReq v).cur.ct.pc = v.cur.ct.pc := by
    unfold overFabric
    dsimp only
    split <;> rfl
  exact (sends _).trans ((waits _).trans (entered _ _))

theorem toldMc_eq (w : State) (kind : ReqKind) (scope : Nat) (tr : Tr) :
    (if kind = .store && !w.asksHome tr then w.storeTold scope tr else none) = toldMc w kind scope tr := by
  by_cases hk : kind = .store <;> cases ha : w.asksHome tr <;> simp [toldMc, hk, ha]

theorem sendCt_eq (t : Tok) (r : Req) (tr : Tr) (x : BitVec 5) (w : State) : sendCt t r tr x w =
    if w.asksHome tr then .wait ((requested t r tr x w).onCt fun ct => { ct with wait := .sent })
    else .sent (requested t r tr x w) (nextPc w) 1 := by
  have hv : sendCt t r tr x w = if w.asksHome tr then .wait ((requested t r tr x w).onCt fun ct => { ct with wait := .sent })
      else .sent (requested t r tr x w) (requested t r tr x w).pcNext 1 := by
    unfold sendCt
    dsimp only
    rw [toldMc_eq]
    have hamo : 98 + r.op = 32 + (66 + r.op) := by omega
    unfold requested overFabric leavingReq
    dsimp only
    rw [hamo]
    cases r.kind <;> rfl
  rw [hv, State.pcNext, requested_pc]
  rfl

/-- A word whose race must be refused waits for its home, and any other goes on (10 R260). -/
def afterSend (t : Tok) (r : Req) (tr : Tr) (x : BitVec 5) (w : State) : State :=
  if w.asksHome tr then (requested t r tr x w).onCt fun ct => { ct with wait := .sent }
  else ctFinish t (.sent (requested t r tr x w) (nextPc w) 1)

theorem sendCt_finish (t : Tok) (r : Req) (tr : Tr) (x : BitVec 5) (w : State) : ctFinish t (sendCt t r tr x w) = afterSend t r tr x w := by
  rw [sendCt_eq, afterSend]
  split <;> rfl

/-! A memory word by the checks that it passes. -/

/-- The effective address (05 R110). -/
def memEa (u : State) (a : BitVec 5) (imm : BitVec 16) : W64 := u.reg a + imm.signExtend 64

/-- The access of a memory word. -/
def memAccess (u : State) (k : AccKind) (ea : W64) (c : BitVec 5) : Access :=
  { st := .ct, kind := k, scope := c.toNat % 4, va := ea.toNat, scr := false, slot := u.cur.ct.pc / 8 }

/-- The request of a memory word, before what is known as it leaves. -/
def memReq (u w : State) (t : Tok) (ea : W64) (c d : BitVec 5) (kind : ReqKind) (op data cmp : Nat) (tr : Tr) : Req :=
  { num := 0, lease := w.cur.id, aid := w.cur.aidOf .ct, part := w.cur.part, die := w.cur.die, kind := kind, va := ea.toNat,
    tier := tr.tier, pa := tr.pa, key := tr.key, slotKey := tr.slot, leaf := tr.leaf, size := 2 ^ (c.toNat / 8), sx := c.getLsbD 2,
    dreg := d.toNat, data := data, cmp := cmp, op := op, scope := c.toNat % 4, sig := t.sig, slot := u.cur.ct.pc / 8,
    opc := opcodeOf w.cur.ct.ir, virt := some ea.toNat, atHome := tr.tier ≠ 3 }

theorem address_out_of_range_iff (v : W64) : nbits v.toNat 63 57 ≠ 0 ↔ 2 ^ 57 ≤ v.toNat := by
  have := v.isLt
  unfold nbits
  omega

theorem in_range {v : W64} (h : v.toNat < 2 ^ 57) : ¬ nbits v.toNat 63 57 ≠ 0 :=
  (address_out_of_range_iff v).not.2 (Nat.not_le.2 h)

/-- The translation of a word stands: it misses no TLB, or its walk is over (18 R406). -/
def Stands (u : State) (va : Nat) : Prop :=
  (u.cur.ct.wait = .none ∧ u.transMc u.cur.part u.cur.die va = 0) ∨ ∃ k, u.cur.ct.wait = .walk k ∧ k ≤ u.datum

theorem ctWalks_of_stands {u : State} {va : Nat} (h : Stands u va) : ctWalks va u = none := by
  unfold ctWalks
  obtain ⟨hw, hmc⟩ | ⟨k, hw, hk⟩ := h
  · rw [hw]
    simp [hmc]
  · rw [hw]
    exact if_neg (Nat.not_lt.2 hk)

theorem ctWalks_of_walking {u : State} {va k : Nat} (hw : u.cur.ct.wait = .walk k) (hk : u.datum < k) : ctWalks va u = some u := by
  unfold ctWalks
  rw [hw]
  exact if_pos hk

theorem ctWalks_of_miss {u w : State} {va : Nat} {z : Except (Cause × Bool × Nat) (W64 × Nat)} (hw : u.cur.ct.wait = .none)
    (hmc : u.transMc u.cur.part u.cur.die va ≠ 0) (hr : u.cur.replay = none)
    (hl : u.lookup u.cur.part u.cur.die va = (some z, w)) :
    ctWalks va u = some (w.onCt fun c => { c with wait := .walk (u.datum + u.transMc u.cur.part u.cur.die va) }) := by
  unfold ctWalks
  rw [hw]
  simp [hmc, hr, hl]

theorem ctWord_of_eq {t : Tok} {srcs : List (BitVec 5)} {d : BitVec 5} {f : State → CtRes} {s u : State} (h : CtStarts t srcs d s u) (r : CtRes)
    (hf : f u = r) : ctWord t srcs d f s = .next (ctFinish t r) := hf ▸ ctWord_of_starts f h

section
variable {t : Tok} {srcs : List (BitVec 5)} {d a c : BitVec 5} {imm : BitVec 16} {k : AccKind} {kind : ReqKind} {op : Nat}
  {val cmp : State → Nat} {s u : State} (h : CtStarts t srcs d s u)
include h

theorem ctMemory_of_outside (ho : 2 ^ 57 ≤ (memEa u a imm).toNat) :
    ctMemory t srcs d a c imm k kind op val cmp s = .next (ctRefused .pagePermission (memEa u a imm) 0 u) := by
  exact ctWord_of_eq h (.refuseAt .pagePermission (memEa u a imm) u) (if_pos ((address_out_of_range_iff _).2 ho))

section
variable (hin : (memEa u a imm).toNat < 2 ^ 57)
include hin

theorem ctMemory_of_misaligned (hm : (memEa u a imm).toNat % 2 ^ (c.toNat / 8) ≠ 0) :
    ctMemory t srcs d a c imm k kind op val cmp s = .next (ctRefused .misaligned (memEa u a imm) 0 u) := by
  exact ctWord_of_eq h (.refuseAt .misaligned (memEa u a imm) u) ((if_neg (in_range hin)).trans (if_pos hm))

variable (hal : (memEa u a imm).toNat % 2 ^ (c.toNat / 8) = 0)
include hal

/-- A word whose address is good waits, or walks, or makes its access. -/
theorem ctMemory_of_full (hs : kind = .store) (hf : 8 ≤ u.storesOut) : ctMemory t srcs d a c imm k kind op val cmp s = .next u := by
  have hwait : (decide (u.cur.ct.wait = .sent) || (decide (kind = .store) && decide (8 ≤ u.storesOut))) = true := by simp [hs, hf]
  exact ctWord_of_eq h (.wait u) ((if_neg (in_range hin)).trans ((if_neg (not_not.2 hal)).trans (if_pos hwait)))

section
variable (hsent : u.cur.ct.wait ≠ .sent) (hroom : kind = .store → u.storesOut < 8)
include hsent hroom

theorem ctMemory_of_walks {v : State} (hw : ctWalks (memEa u a imm).toNat u = some v) :
    ctMemory t srcs d a c imm k kind op val cmp s = .next v := by
  have hgo : ¬ ((decide (u.cur.ct.wait = .sent) || (decide (kind = .store) && decide (8 ≤ u.storesOut))) = true) := by
    simpa [hsent] using hroom
  refine ctWord_of_eq h (.wait v) ((if_neg (in_range hin)).trans ((if_neg (not_not.2 hal)).trans ((if_neg hgo).trans ?_)))
  unfold memEa at hw
  rw [hw]

theorem ctMemory_of_ok {tr : Tr} {w : State} (hw : ctWalks (memEa u a imm).toNat u = none)
    (hacc : u.accessAt true (memAccess u k (memEa u a imm) c) false = .ok tr w) (hr : w.cur.replay = none) :
    ctMemory t srcs d a c imm k kind op val cmp s =
      .next (afterSend t (memReq u w t (memEa u a imm) c d kind op (val w) (cmp w) tr) tr d w) := by
  rw [← sendCt_finish]
  have hgo : ¬ ((decide (u.cur.ct.wait = .sent) || (decide (kind = .store) && decide (8 ≤ u.storesOut))) = true) := by
    simpa [hsent] using hroom
  refine ctWord_of_eq h (sendCt t (memReq u w t (memEa u a imm) c d kind op (val w) (cmp w) tr) tr d w)
    ((if_neg (in_range hin)).trans ((if_neg (not_not.2 hal)).trans ((if_neg hgo).trans ?_)))
  unfold memEa at hw
  rw [hw]
  refine (congrArg (CtRes.ofAcc _ · _ _) hacc).trans ?_
  refine (if_pos (Option.isNone_iff_eq_none.2 hr)).trans (congrArg (sendCt t · tr d w) ?_)
  rw [memReq, hr, Option.isNone_none, Bool.and_true]
  rfl

end

end

end

theorem not_sent_of_stands {u : State} {va : Nat} (h : Stands u va) : u.cur.ct.wait ≠ .sent := by
  obtain ⟨hw, -⟩ | ⟨k, hw, -⟩ := h
  · simp [hw]
  · simp [hw]

/-- A load, AMO or CAS never waits for room. -/
theorem room_of_not_store {kind : ReqKind} {u : State} (h : kind ≠ .store) (hk : kind = .store) : u.storesOut < 8 := absurd hk h

/-- Settles O13: the four words are one path with their kind, operands and registers. -/
theorem ctMemoryWords : Obligations.CtMemoryWords := by
  intro t d a b c m imm s u
  dsimp only [exec]
  refine ⟨?_, ?_, fun hin hal hst tr w _ hr => ⟨
      fun h hacc => ctMemory_of_ok h hin hal (not_sent_of_stands hst) (room_of_not_store (by decide)) (ctWalks_of_stands hst) hacc hr,
      fun h hroom hacc => ctMemory_of_ok h hin hal (not_sent_of_stands hst) (fun _ => hroom) (ctWalks_of_stands hst) hacc hr,
      fun h hacc => ctMemory_of_ok h hin hal (not_sent_of_stands hst) (room_of_not_store (by decide)) (ctWalks_of_stands hst) hacc hr,
      fun h hacc => ctMemory_of_ok h hin hal (not_sent_of_stands hst) (room_of_not_store (by decide)) (ctWalks_of_stands hst) hacc hr⟩,
    fun hin hal h hf => ctMemory_of_full h hin hal rfl hf⟩
  · intro i srcs x hi h
    simp only [List.mem_cons, Prod.mk.injEq, List.not_mem_nil, or_false] at hi
    obtain ⟨rfl, rfl, rfl⟩ | ⟨rfl, rfl, rfl⟩ | ⟨rfl, rfl, rfl⟩ | ⟨rfl, rfl, rfl⟩ := hi
    all_goals exact ⟨fun ho => ctMemory_of_outside h ho, fun hin hm => ctMemory_of_misaligned h hin hm⟩
  · intro i srcs x hi h hin hal hr
    simp only [List.mem_cons, Prod.mk.injEq, List.not_mem_nil, or_false] at hi
    obtain ⟨rfl, rfl, rfl⟩ | ⟨rfl, rfl, rfl⟩ | ⟨rfl, rfl, rfl⟩ := hi
    all_goals exact ⟨fun k hw hk => ctMemory_of_walks h hin hal (by simp [hw]) (room_of_not_store (by decide)) (ctWalks_of_walking hw hk),
      fun hw hmc z w hl => ctMemory_of_walks h hin hal (by simp [hw]) (room_of_not_store (by decide)) (ctWalks_of_miss hw hmc hr hl)⟩

end Sys2Proof.Proofs.ControlMemory

/-! ### A CT access at its home (05 R111-R113; 08 R196; 10 R239, R253, R260; 13 R338; 15 R355) -/

namespace Sys2Proof.Proofs.ControlHome

open Machine Claims Laws ControlRings

/-! What a request does at its home. -/

section
variable {s : State} {r : Req}

theorem homeAccess_eq (hf : s.reqs.find? (fun x => x.num = r.num && !x.back && (x.atHome || s.replays x)) = some r) (hh : r.atHome = true) :
    exec (.homeAccess r.num) s = .next (homeEffect r s) := by
  dsimp only [exec, execHomeAccess]
  rw [hf]
  exact congrArg _ (if_pos hh)

section
variable (hbad : s.badAt r.tr = false)
include hbad

theorem homeEffect_of_affp (hk : r.kind = .affp) : homeEffect r s = affpHome r s := by
  rw [homeEffect, hbad, if_neg Bool.false_ne_true, if_pos hk]

section
variable (hk : r.kind ≠ .affp)
include hk

theorem homeEffect_of_passes {s' : State} (ha : s.homeArrival r.lease r.access r.tr = .ok s') :
    homeEffect r s = r.goesOn (homePerform r s s') := by
  rw [homeEffect, hbad, if_neg Bool.false_ne_true, if_neg hk, Req.arrives, ha]

theorem homeEffect_of_race {c : Cause} {i : List W64} {x : State} (ha : s.homeArrival r.lease r.access r.tr = .error (c, i, x)) :
    homeEffect r s = r.refused c i x := by
  rw [homeEffect, hbad, if_neg Bool.false_ne_true, if_neg hk, Req.arrives, ha]

end

end

/-- CT goes on where it has waited for the check. -/
theorem goesOn_eq (v : State) : r.goesOn v = if r.asks = false then v else if v.stoppedAt r.lease then v.hold (.goOn r.lease)
    else asLease r.lease v fun v => v.performed (v.cur.ct.pc + 8) 1 := by
  unfold Req.goesOn
  cases r.asks <;> rfl

/-! The bytes that it moves. -/

/-- The mc in which the result of a request that is now at its home is back (08 R196). -/
def backMc (r : Req) (z : State) : Nat := z.datum + (r.resultMc z - arriveMc (z.hopsFor (r.kind = .load) r.die r.key))

/-- The old bytes, read with the request marked as performed. -/
def homeRead (r : Req) (z s : State) : List Byte × State :=
  ({ s with reqs := if r.kind = .store then s.reqs.filter (fun x => x.num ≠ r.num) else s.reqs.map (fun x =>
    if x.num = r.num then { x with back := true, due := backMc r z, onLink := isHostKey r.key && z.lineOf r.key = 0 } else x) } : State).readTr
    r.tr r.size false

/-- The new value written, if there is one. -/
def homeWritten (r : Req) (new : Option Nat) (s : State) : State :=
  match new with | some v => s.writeTr r.tr (leBytes v r.size) false | none => s

theorem homePerform_eq (z s : State) : homePerform r z s =
    (homeWritten r (r.newValue (leNat (homeRead r z s).1)) (homeRead r z s).2).answer r (leNat (homeRead r z s).1)
      (if r.kind = .store then (homeWritten r (r.newValue (leNat (homeRead r z s).1)) (homeRead r z s).2).datum else backMc r z) := rfl

section
variable {z : State} {new : Option Nat} (hn : r.newValue (leNat (homeRead r z s).1) = new)
include hn

/-- A request performed: its write, and its old value on the way back. -/
theorem homePerform_of_result (hk : r.kind ≠ .store) :
    homePerform r z s = (homeWritten r new (homeRead r z s).2).answer r (leNat (homeRead r z s).1) (backMc r z) := by
  rw [homePerform_eq, hn, if_neg hk]

theorem homePerform_of_store (hk : r.kind = .store) : homePerform r z s =
    (homeWritten r new (homeRead r z s).2).answer r (leNat (homeRead r z s).1) (homeWritten r new (homeRead r z s).2).datum := by
  rw [homePerform_eq, hn, if_pos hk]

end

theorem newValue_of_load (old : Nat) (h : r.kind = .load) : r.newValue old = none := by
  rw [Req.newValue, h]

theorem newValue_of_store (old : Nat) (h : r.kind = .store) : r.newValue old = some r.data := by
  rw [Req.newValue, h]

theorem newValue_of_amo (old : Nat) (h : r.kind = .amo) : r.newValue old = some (amoOp r.op r.size old r.data) := by
  rw [Req.newValue, h]

theorem newValue_of_cas (old : Nat) (h : r.kind = .cas) : r.newValue old = if old = r.cmp then some r.data else none := by
  rw [Req.newValue, h]

end

/-! What CT takes of the answer. -/

section
variable {s : State} {r : Req} (hid : s.cur.id = r.lease) (hst : s.cur.st ≠ .free)
include hid hst

theorem lease?_of_focus : s.lease? r.lease = some s.cur := if_pos (by simp [hid, hst])

/-- What is done with the lease in focus, in focus, is done and no more. -/
theorem asLease_of_focus {f : State → State} {v : State} (hv : f s = v) (hf : v.cur.id = s.cur.id) : asLease r.lease s f = v := by
  subst hv
  have hfocus {l : Nat} {v : State} (h : v.cur.id = l) : v.focus l = v := if_pos h
  rw [asLease, onLease, lease?_of_focus hid hst, if_pos Option.isSome_some, hfocus hid, hfocus hf]

theorem stoppedAt_of_focus : s.stoppedAt r.lease = s.cur.frozen := by
  rw [State.stoppedAt, lease?_of_focus hid hst]

theorem answer_of_frozen {old mc : Nat} (hf : s.cur.frozen = true) : s.answer r old mc = { s with heldIn := s.heldIn ++ [.answer r old mc] } :=
  if_pos ((stoppedAt_of_focus hid hst).trans hf)

end

/-- An input of a lease that neither logs nor replays is the value itself. -/
theorem inputValue_of_no_log {s : State} (hr : s.cur.replay = none) (hl : (s.part s.cur.part).dbg.ctl.getLsbD 3 = false) (slot : Nat) (v : W64) :
    s.inputValue slot v = some (v, s) := by
  have hi (bs : List Byte) (other : Nat → Bool) : s.input 0 slot bs other = some (bs, s) := by
    simp only [State.input, hr, hl]
    rfl
  have hv : v.toNat % 256 ^ 8 = v.toNat := Nat.mod_eq_of_lt v.isLt
  rw [State.inputValue, hi, Option.map_some, leNat_leBytes, hv, BitVec.ofNat_toNat, BitVec.setWidth_eq]

/-- The register that takes a result, readable at mc. -/
def resultTaken (r : Req) (v : W64) (mc : Nat) (s : State) : State :=
  if r.dreg = 0 then s else s.onCt fun c => { c.setReg r.dreg v with ready := sset 0 r.dreg mc c.ready }

/-- The completion of the request's word at mc. -/
def completionNoted (r : Req) (mc : Nat) (s : State) : State :=
  s.onCur fun l => { l with doneQ := l.doneQ ++ [{ stream := .ct, sig := r.sig, slot := r.slot, op := r.opc, vc := s.cur.vc, due := mc }] }

theorem resultTaken_id (r : Req) (v : W64) (mc : Nat) (s : State) : (resultTaken r v mc s).cur.id = s.cur.id := by
  unfold resultTaken
  split <;> rfl

section
variable {s : State} {r : Req} {old mc : Nat} (hid : s.cur.id = r.lease) (hst : s.cur.st ≠ .free) (hf : s.cur.frozen = false)
include hid hst hf

theorem answer_of_running : s.answer r old mc = s.takeAnswer r old mc :=
  if_neg (by simp [stoppedAt_of_focus hid hst, hf])

theorem answer_of_result (hr : s.cur.replay = none) (hl : (s.part s.cur.part).dbg.ctl.getLsbD 3 = false) (ht : r.told = false)
    (hk : r.kind ≠ .store) :
    s.answer r old mc = completionNoted r mc (resultTaken r (extendTo r.size r.sx old) mc s) := by
  rw [answer_of_running hid hst hf]
  refine asLease_of_focus hid hst ?_ (resultTaken_id ..)
  simp only [inputValue_of_no_log hr hl, Option.getD_some, hk, ht, decide_false, Bool.false_and, Bool.false_or, Bool.or_false,
    Bool.false_eq_true, if_false, decide_eq_true_eq]
  rfl

theorem answer_of_store (hk : r.kind = .store) :
    s.answer r old mc = if r.told || r.sig = 0 then s else completionNoted r mc s := by
  rw [answer_of_running hid hst hf]
  refine asLease_of_focus hid hst ?_ ?_
  · simp only [hk, decide_true, Bool.true_and, Bool.true_or, if_true]
    rfl
  · split <;> rfl

end

/-- Settles O14: a request that arrives is performed, refused or brought to its record, and its answer is taken in focus. -/
theorem homeAccess : Obligations.HomeAccess := by
  refine ⟨fun s r hfind hhome => ⟨fun hbad hk s' ha => ?_, fun hbad hk c i x ha => ?_, fun hbad hk _ hx => ?_⟩,
    fun s r old mc hid hst hr hl => ⟨answer_of_frozen hid hst, fun hf ht hk => answer_of_result hid hst hf hr hl ht hk,
      fun hf hk => answer_of_store hid hst hf hk⟩⟩
  · have run {v : State} (hv : homePerform r s s' = v) := (homeAccess_eq hfind hhome).trans
      (congrArg Host.Outcome.next ((homeEffect_of_passes hbad hk ha).trans ((congrArg r.goesOn hv).trans (goesOn_eq v))))
    refine ⟨fun h => run (homePerform_of_result (newValue_of_load _ h) (by simp [h])),
      fun h => run (homePerform_of_store (newValue_of_store _ h) h),
      fun h => run (homePerform_of_result (newValue_of_amo _ h) (by simp [h])),
      fun h hc => run (homePerform_of_result ((newValue_of_cas _ h).trans (if_pos hc)) (by simp [h])),
      fun h hc => run (homePerform_of_result ((newValue_of_cas _ h).trans (if_neg hc)) (by simp [h]))⟩
  · exact (homeAccess_eq hfind hhome).trans (congrArg _ (homeEffect_of_race hbad hk ha))
  · refine (homeAccess_eq hfind hhome).trans (congrArg _ ((homeEffect_of_affp hbad hk).trans (if_neg ?_)))
    exact Bool.eq_false_iff.1 hx

end Sys2Proof.Proofs.ControlHome

/-! ## The words of the vector pipe (06 R131-R151)

A vector word that starts issues with its function's lanes and flags, and the end of its issue puts them on its path. So each table
of words is read entry by entry: the word is `vecWord` of a function, its path and latency are the table's, and its function's value
is the table's. -/

namespace Sys2Proof.Proofs.VectorWords

open Machine Claims Laws

section
variable {i : Instr} {t : Tok} {d : BitVec 8} {s u : State} {path lat : Nat} {r : Lanes × Nat}

/-- The result of a vector word goes to its register and its path's last-result register (06 R131, R134). -/
theorem vecResult_cpIssued (hp : pathLat u.cur i = (path, lat)) (hl : 1 ≤ path ∧ path ≤ 4 ∧ lat ≠ 0) (v : Lanes) (fl : Nat) :
    (u.vecResult i t d v fl).cpIssued = vecEnd u t d path lat (v, fl) := by
  obtain ⟨h1, h4, h0⟩ := hl
  have hp' : pathLat (u.onCur fun l => { l with nextSeq := l.nextSeq + 1 }).cur i = (path, lat) := hp
  simp only [State.vecResult, State.addPend, State.takeSeq, hp, hp', h1, h4, h0, decide_true, Bool.and_self, if_true, if_false]
  rfl

theorem cpWord_of_vecResult {f : State → CpRes} (h : CpStarts i t s u) (hf : f u = .ok (u.vecResult i t d r.1 r.2))
    (hp : pathLat u.cur i = (path, lat)) (hl : 1 ≤ path ∧ path ≤ 4 ∧ lat ≠ 0) :
    cpWord i t f s = .next (vecEnd u t d path lat r) :=
  vecResult_cpIssued (t := t) (d := d) hp hl r.1 r.2 ▸ cpWord_of_starts _ h hf

/-- A word of CP that starts and whose checks refuse it. -/
theorem cpWord_of_refuse {f : State → CpRes} {c : Cause} {x : Nat} (h : CpStarts i t s u) (hf : f u = .refuse c x) :
    cpWord i t f s = .next (cpStops s t c x) := by
  obtain ⟨hruns, hgo, v, rfl, hread⟩ := h
  simp only [cpWord, cpRun, hruns, hgo, cpStops, cpStopsWith]
  cases hs : s.cur.cpStart.isSome <;> simp only [hs] at hread ⊢ <;> simp_all [cpPerform]

/-- What a table says of its entry: its word, if it starts, issues with the entry's lanes and flags through the entry's path. -/
def Answers (t : Tok) (d : BitVec 8) (s u : State) (w : Instr × Nat × Nat × (Lanes × Nat)) : Prop :=
  CpStarts w.1 t s u → exec w.1 s = .next (vecEnd u t d w.2.1 w.2.2.1 w.2.2.2)

theorem exec_of_answers {ws : List (Instr × Nat × Nat × (Lanes × Nat))} (h : ∀ w ∈ ws, Answers t d s u w) (i : Instr) (path lat : Nat)
    (r : Lanes × Nat) (hm : (i, path, lat, r) ∈ ws) : CpStarts i t s u → exec i s = .next (vecEnd u t d path lat r) := by
  simpa only [Answers] using h _ hm

/-- The same of a table whose words issue so where c holds of them. -/
theorem exec_of_answers_where {c : Instr → Prop} {ws : List (Instr × Nat × Nat × (Lanes × Nat))}
    (h : ∀ w ∈ ws, c w.1 → Answers t d s u w) (i : Instr) (path lat : Nat) (r : Lanes × Nat) (hm : (i, path, lat, r) ∈ ws)
    (hs : CpStarts i t s u) (hc : c i) : exec i s = .next (vecEnd u t d path lat r) := by
  simpa only [Answers] using h _ hm hc hs

theorem answers_of_vecWord {f : State → Lanes × Nat} (he : exec i s = vecWord i t d f s) (hp : pathLat u.cur i = (path, lat))
    (hf : f u = r) (hl : 1 ≤ path ∧ path ≤ 4 ∧ lat ≠ 0 := by decide) : Answers t d s u (i, path, lat, r) := fun h =>
  he.trans (cpWord_of_vecResult h (hf ▸ rfl) hp hl)

end

/-! ### Lane-wise forms -/

section
variable {x y z : Lanes}

theorem map2_congr {f g : W32 → W32 → W32 × Nat} (h : ∀ p q, f p q = g p q) : map2 f x y = map2 g x y :=
  congrArg (map2 · x y) (funext₂ h)

theorem laneFlags_quiet {α : Type} (f : α → W32) (xs : List α) : laneFlags (xs.map fun e => (f e, 0)) = (xs.map f, 0) := by
  simp only [laneFlags, List.map_map, List.foldl_map, Nat.or_zero, List.foldl_fixed]
  rfl

theorem map1_of_quiet {g : W32 → W32 × Nat} {f : W32 → W32} (h : ∀ p, g p = (f p, 0)) : map1 g x = (x.map f, 0) := by
  simp only [map1, funext h, laneFlags_quiet]

theorem map2_of_quiet {g : W32 → W32 → W32 × Nat} {f : W32 → W32 → W32} (h : ∀ p q, g p q = (f p q, 0)) :
    map2 g x y = ((x.zip y).map fun e => f e.1 e.2, 0) := by
  simp only [map2, h, laneFlags_quiet]

theorem map3_of_quiet {g : W32 → W32 → W32 → W32 × Nat} {f : W32 → W32 → W32 → W32} (h : ∀ p q o, g p q o = (f p q o, 0)) :
    map3 g x y z = ((x.zip (y.zip z)).map fun e => f e.1 e.2.1 e.2.2, 0) := by
  simp only [map3, h, laneFlags_quiet]

end

/-! ### The lanes of the tables -/

section
variable (p q : W32)

theorem divLane_signed : divLane 1 p q = if q = 0 then (0xFFFFFFFF, flagDZ) else (BitVec.ofInt 32 (p.toInt.tdiv q.toInt), 0) := by
  have h : p.sdiv q = BitVec.ofInt 32 (p.toInt.tdiv q.toInt) :=
    BitVec.eq_of_toInt_eq (by rw [BitVec.toInt_sdiv, BitVec.toInt_ofInt])
  rw [← h]
  rfl

theorem divLane_unsigned : divLane 2 p q = if q = 0 then (0xFFFFFFFF, flagDZ) else (BitVec.ofNat 32 (p.toNat / q.toNat), 0) := by
  have h : BitVec.ofNat 32 (p.toNat / q.toNat) = p / q := by
    rw [← BitVec.toNat_udiv, BitVec.ofNat_toNat, BitVec.setWidth_eq]
  rw [h]
  rfl

theorem satLane_wraps_add : satLane 0 (asInt 0 p + asInt 0 q) = (p + q, 0) := by
  simp [satLane, asInt, BitVec.ofInt_add]

theorem satLane_wraps_sub : satLane 0 (asInt 0 p - asInt 0 q) = (p - q, 0) := by
  have h : BitVec.ofInt 32 (p.toInt - q.toInt) = p - q := BitVec.eq_of_toInt_eq (by rw [BitVec.toInt_ofInt, BitVec.toInt_sub])
  exact congrArg (·, 0) h

/-- A saturating form clamps at its bounds and sets SA where it does (06 R140). -/
theorem clampInt_flag (v lo hi : Int) :
    (BitVec.ofInt 32 (clampInt v lo hi), if clampInt v lo hi = v then 0 else flagSA) =
      if v < lo then (BitVec.ofInt 32 lo, flagSA) else if hi < v then (BitVec.ofInt 32 hi, flagSA) else (BitVec.ofInt 32 v, 0) := by
  unfold clampInt
  split
  next hlo => rw [if_neg hlo.ne']
  next =>
    split
    next hhi => rw [if_neg hhi.ne]
    next => rw [if_pos rfl]

theorem imulLane_high_signed : imulLane 1 p q = BitVec.ofInt 32 (p.toInt * q.toInt / 2 ^ 32) := by
  generalize hz : p.toInt * q.toInt = z
  refine BitVec.eq_of_toNat_eq ?_
  simp only [imulLane, hz, BitVec.extractLsb'_toNat, BitVec.toNat_ofInt, Nat.shiftRight_eq_div_pow]
  omega

theorem imulLane_high_unsigned : imulLane 2 p q = BitVec.ofNat 32 (p.toNat * q.toNat / 2 ^ 32) := by
  generalize hz : p.toNat * q.toNat = z
  refine BitVec.eq_of_toNat_eq ?_
  simp only [imulLane, hz, BitVec.extractLsb'_toNat, BitVec.toNat_ofNat, Nat.shiftRight_eq_div_pow]
  omega

theorem imaxLane_signed : imaxLane 0 p q = if q.toInt ≤ p.toInt then p else q := by
  grind [imaxLane, BitVec.eq_of_toInt_eq]

theorem imaxLane_unsigned : imaxLane 1 p q = if q.toNat ≤ p.toNat then p else q := by
  grind [imaxLane, BitVec.eq_of_toNat_eq]

theorem liHi_lane (m : BitVec 24) : m.setWidth 32 <<< 8 = BitVec.ofNat 32 (m.toNat * 2 ^ 8) :=
  BitVec.eq_of_toNat_eq (by simp [Nat.shiftLeft_eq])

end

/-- Settles O34: each word is `vecWord` of its lane function; only the integer forms of VDIV say theirs in other words. -/
theorem vectorFloat : Obligations.VectorFloat := by
  intro t d a b c tab k s u
  refine exec_of_answers ?_
  simp only [List.forall_mem_cons, List.not_mem_nil, false_implies, implies_true, and_true]
  exact ⟨answers_of_vecWord rfl rfl rfl, answers_of_vecWord rfl rfl rfl, answers_of_vecWord rfl rfl rfl, answers_of_vecWord rfl rfl rfl,
    answers_of_vecWord rfl rfl rfl, answers_of_vecWord rfl rfl rfl, answers_of_vecWord rfl rfl rfl, answers_of_vecWord rfl rfl rfl,
    answers_of_vecWord rfl rfl rfl, answers_of_vecWord rfl rfl rfl, answers_of_vecWord rfl rfl rfl,
    answers_of_vecWord rfl rfl (map2_congr divLane_signed), answers_of_vecWord rfl rfl (map2_congr divLane_unsigned),
    answers_of_vecWord rfl rfl rfl, answers_of_vecWord rfl rfl rfl, answers_of_vecWord rfl rfl rfl, answers_of_vecWord rfl rfl rfl,
    answers_of_vecWord rfl rfl rfl, answers_of_vecWord rfl rfl rfl, answers_of_vecWord rfl rfl rfl⟩

/-- Settles O36: each word is `vecWord` of its lane function, and a form that sets no flag leaves its lanes alone. -/
theorem vectorInteger : Obligations.VectorInteger := by
  intro t d a b c m g step imm s u
  refine exec_of_answers ?_
  simp only [List.forall_mem_cons, List.not_mem_nil, false_implies, implies_true, and_true]
  exact ⟨answers_of_vecWord rfl rfl (map2_of_quiet satLane_wraps_add),
    answers_of_vecWord rfl rfl (map2_congr fun _ _ => clampInt_flag ..),
    answers_of_vecWord rfl rfl (map2_congr fun _ _ => clampInt_flag ..),
    answers_of_vecWord rfl rfl (map2_of_quiet satLane_wraps_sub),
    answers_of_vecWord rfl rfl (map2_congr fun _ _ => clampInt_flag ..),
    answers_of_vecWord rfl rfl (map2_congr fun _ _ => clampInt_flag ..),
    answers_of_vecWord rfl rfl (map2_of_quiet fun _ _ => rfl),
    answers_of_vecWord rfl rfl (map2_of_quiet fun _ _ => congrArg (·, 0) (imulLane_high_signed ..)),
    answers_of_vecWord rfl rfl (map2_of_quiet fun _ _ => congrArg (·, 0) (imulLane_high_unsigned ..)),
    answers_of_vecWord rfl rfl (map3_of_quiet fun _ _ _ => rfl),
    answers_of_vecWord rfl rfl (map2_of_quiet fun _ _ => rfl),
    answers_of_vecWord rfl rfl (map2_of_quiet fun _ _ => rfl),
    answers_of_vecWord rfl rfl (map2_of_quiet fun _ _ => rfl),
    answers_of_vecWord rfl rfl (map1_of_quiet fun _ => rfl),
    answers_of_vecWord rfl rfl (map2_of_quiet fun _ _ => rfl),
    answers_of_vecWord rfl rfl (map2_of_quiet fun _ _ => rfl),
    answers_of_vecWord rfl rfl (map2_of_quiet fun _ _ => rfl),
    answers_of_vecWord rfl rfl (map2_of_quiet fun _ _ => rfl),
    answers_of_vecWord rfl rfl (map2_of_quiet fun _ _ => rfl),
    answers_of_vecWord rfl rfl (map2_of_quiet fun _ _ => congrArg (·, 0) (imaxLane_signed ..)),
    answers_of_vecWord rfl rfl (map2_of_quiet fun _ _ => congrArg (·, 0) (imaxLane_unsigned ..)),
    answers_of_vecWord rfl rfl (map2_of_quiet fun _ _ => rfl),
    answers_of_vecWord rfl rfl (map3_of_quiet fun _ _ _ => rfl),
    answers_of_vecWord rfl rfl (map1_of_quiet fun _ => rfl),
    answers_of_vecWord rfl rfl rfl, answers_of_vecWord rfl rfl rfl,
    answers_of_vecWord rfl rfl (by rw [liHi_lane]), answers_of_vecWord rfl rfl rfl⟩

/-! ### Forms over ranges of lanes (06 R147-R151) -/

section
variable {x y : Lanes} {n : Nat}

theorem overRange_quiet (p : Prop) [Decidable p] (f : Lanes → Lanes) :
    overRange p n (fun v => (f v, 0)) x =
      if p then (f x, 0) else ((List.range n).flatMap fun e => f ((x.drop (128 * e)).take 128), 0) := by
  simp only [overRange, perGroup, decide_eq_true_eq, List.flatMap_map, List.foldl_map, Nat.or_zero, List.foldl_fixed]

theorem overRange2_quiet (p : Prop) [Decidable p] (f : Lanes → Lanes → Lanes) :
    (overRange2 p n f x y, 0) = if p then (f x y, 0) else
      ((List.range n).flatMap fun e => f ((x.drop (128 * e)).take 128) ((y.drop (128 * e)).take 128), (0 : Nat)) := by
  simp only [overRange2, decide_eq_true_eq, apply_ite (·, 0)]

theorem slideRange_eq (k : Int) : slideRange k = fun v => v.mapIdx fun j _ =>
    if 0 ≤ (j : Int) + k ∧ (j : Int) + k < v.length then lane v ((j : Int) + k).toNat else 0 := by
  funext v
  simp only [slideRange, Bool.and_eq_true, decide_eq_true_eq]

/-- The latency of VRED and VSCAN by the bit G of M (06 R131). -/
theorem latency_of_extract (m : BitVec 8) : (3, if m.extractLsb' 4 1 = 1 then 12 else 8) = (3, if m.getLsbD 4 then 12 else 8) := by
  simp only [BitVec.getLsbD_eq_extractLsb', beq_iff_eq]
  rfl

end

/-- The bounds of the cross-lane path's number and latencies. -/
theorem crossLane_bounds (p : Prop) [Decidable p] (a b : Nat) (ha : a ≠ 0 := by decide) (hb : b ≠ 0 := by decide) :
    1 ≤ 3 ∧ 3 ≤ 4 ∧ (if p then a else b) ≠ 0 :=
  ⟨by decide, by decide, by split <;> assumption⟩

/-- A VBCAST of a lane inside the parcel. -/
theorem answers_of_vbcast {t : Tok} {d a : BitVec 8} {g : BitVec 1} {n : BitVec 11} {s u : State} {r : Lanes × Nat}
    (hn : g = 1 → n.toNat < 128 * u.cur.n)
    (hr : overRange (g = 1) u.cur.n (fun v => (v.map fun _ => lane v n.toNat, 0)) (u.vec a) = r) :
    Answers t d s u (.vbcast t d a g n, 3, if g = 1 then 4 else 2, r) := fun h => by
  refine cpWord_of_vecResult h ?_ rfl ?_
  · have hg : (decide (g = 1) && decide (128 * u.cur.n ≤ n.toNat)) = false := by
      simpa using hn
    simp only [hg, hr]
    rfl
  · exact crossLane_bounds ..

/-- Settles O38: each word is `vecWord` of its function over a range, but VBCAST, which checks its lane first. -/
theorem vectorConvertAndCrossLane : Obligations.VectorConvertAndCrossLane := by
  refine ⟨fun t d a b m fa fb sat g kind k n s u => ?_, fun t d a n s u h hn => ?_⟩
  · refine exec_of_answers_where (c := fun i => i = .vbcast t d a g n → g = 1 → n.toNat < 128 * u.cur.n) ?_
    simp only [List.forall_mem_cons, List.not_mem_nil, false_implies, implies_true, and_true]
    exact ⟨fun _ => answers_of_vecWord rfl rfl rfl, fun _ => answers_of_vecWord rfl rfl rfl, fun _ => answers_of_vecWord rfl rfl rfl,
      fun _ => answers_of_vecWord rfl rfl rfl, fun _ => answers_of_vecWord rfl rfl rfl,
      fun _ => answers_of_vecWord rfl (latency_of_extract m) rfl (crossLane_bounds ..),
      fun _ => answers_of_vecWord rfl (latency_of_extract m) rfl (crossLane_bounds ..),
      fun _ => answers_of_vecWord rfl rfl (overRange2_quiet ..) (crossLane_bounds ..),
      fun _ => answers_of_vecWord rfl rfl (overRange_quiet ..) (crossLane_bounds ..),
      fun _ => answers_of_vecWord rfl rfl (slideRange_eq k.toInt ▸ overRange_quiet ..) (crossLane_bounds ..),
      fun hn => answers_of_vbcast (hn trivial) (overRange_quiet ..),
      fun _ => answers_of_vecWord rfl rfl (overRange2_quiet ..) (crossLane_bounds ..)⟩
  · refine cpWord_of_refuse h (if_pos ?_)
    simpa using hn

end Sys2Proof.Proofs.VectorWords

/-! ## The predicates of VCMP and the classes of VCLASS (06 R141, R142)

A lane comparison is the sign of an order of integers: the lanes' signed or unsigned values, or for FP32 a key in which the two
zeros are one. A predicate is a condition on that sign. -/

namespace Sys2Proof.Proofs.VectorCompare

open Machine Claims Laws

/-- The sign by which a compares with b. -/
def signOf (a b : Int) : Int := if a < b then -1 else if a = b then 0 else 1

section
variable (a b : Int)

@[simp] theorem signOf_eq_zero_iff : signOf a b = 0 ↔ a = b := by grind [signOf]
@[simp] theorem signOf_neg_iff : signOf a b < 0 ↔ a < b := by grind [signOf]
@[simp] theorem signOf_nonpos_iff : signOf a b ≤ 0 ↔ a ≤ b := by grind [signOf]
@[simp] theorem signOf_pos_iff : 0 < signOf a b ↔ b < a := by grind [signOf]
@[simp] theorem signOf_nonneg_iff : 0 ≤ signOf a b ↔ b ≤ a := by grind [signOf]

end

/-- The order key of an FP32 lane with −0 equal to +0. -/
def valueKey (x : W32) : Int := if x.toNat % 2 ^ 31 = 0 then 0 else orderKey x

section
variable (x y : W32)

theorem cmpLane_float : cmpLane 0 x y = signOf (valueKey x) (valueKey y) := rfl

theorem cmpLane_signed : cmpLane 1 x y = signOf x.toInt y.toInt := by
  simp only [cmpLane, signOf, BitVec.toInt_inj]

theorem cmpLane_unsigned : cmpLane 2 x y = signOf x.toNat y.toNat := by
  simp only [cmpLane, signOf, Nat.cast_lt, Nat.cast_inj, BitVec.toNat_inj]

theorem predLane_signed : (predLane 8 x y = true ↔ x = y) ∧ (predLane 9 x y = true ↔ x ≠ y) ∧ (predLane 10 x y = true ↔ x.toInt < y.toInt) ∧
    (predLane 11 x y = true ↔ x.toInt ≤ y.toInt) ∧ (predLane 12 x y = true ↔ y.toInt < x.toInt) ∧
    (predLane 13 x y = true ↔ y.toInt ≤ x.toInt) := by
  simp [predLane, cmpLane_signed, BitVec.toInt_inj]

theorem predLane_unsigned : (predLane 16 x y = true ↔ x = y) ∧ (predLane 17 x y = true ↔ x ≠ y) ∧
    (predLane 18 x y = true ↔ x.toNat < y.toNat) ∧ (predLane 19 x y = true ↔ x.toNat ≤ y.toNat) ∧
    (predLane 20 x y = true ↔ y.toNat < x.toNat) ∧ (predLane 21 x y = true ↔ y.toNat ≤ x.toNat) := by
  simp [predLane, cmpLane_unsigned, BitVec.toNat_inj]

theorem predLane_nan (h : isNan32 x = true ∨ isNan32 y = true) : predLane 0 x y = false ∧ predLane 1 x y = true ∧ predLane 2 x y = false ∧
    predLane 3 x y = false ∧ predLane 4 x y = false ∧ predLane 5 x y = false ∧ predLane 6 x y = true := by
  have hn : (isNan32 x || isNan32 y) = true := by simpa using h
  simp [predLane, hn]

theorem predLane_number {x y : W32} (hx : isNan32 x = false) (hy : isNan32 y = false) :
    predLane 0 x y = decide (valueKey x = valueKey y) ∧ predLane 1 x y = decide (valueKey x ≠ valueKey y) ∧
    predLane 2 x y = decide (valueKey x < valueKey y) ∧ predLane 3 x y = decide (valueKey x ≤ valueKey y) ∧
    predLane 4 x y = decide (valueKey y < valueKey x) ∧ predLane 5 x y = decide (valueKey y ≤ valueKey x) ∧ predLane 6 x y = false := by
  simp [predLane, hx, hy, cmpLane_float]

theorem classLane_oneHot : ∃ k < 9, classLane x = BitVec.ofNat 32 (2 ^ k) := by
  refine ⟨_, ?_, rfl⟩
  split
  · decide
  · split <;> decide
  · split
    · split <;> decide
    · split <;> split <;> decide

end

/-- Settles O37: each predicate is a condition on the sign of the lanes' order. -/
theorem comparePredicates : Obligations.ComparePredicates := by
  refine ⟨fun x y => ?_, predLane_nan, fun x y hx hy => ?_, by decide, classLane_oneHot, by decide⟩
  · obtain ⟨h8, h9, h10, h11, h12, h13⟩ := predLane_signed x y
    exact ⟨h8, h9, h10, h11, h12, h13, predLane_unsigned x y⟩
  · obtain ⟨h0, h1, h2, h3, h4, h5, h6⟩ := predLane_number hx hy
    obtain ⟨-, -, h2', h3', -⟩ := predLane_number hy hx
    rw [h0, h1, h2, h3, h4, h5, h6, h2', h3']
    simp only [decide_not, ← Bool.decide_or, decide_eq_true_eq, decide_eq_decide, true_and]
    omega

end Sys2Proof.Proofs.VectorCompare

/-! ## Reductions, scans, partition lists and selections (06 R148, R149, R151; 13 R327)

The tree of a reduction over a power of two lanes is the left-to-right fold, for an associative combination. A scan is the library's
`List.scanl`. A selection keeps three parts of the row apart at each bit of the keys: the columns taken, those that share the leading bits
of the last place, and those left out. -/

namespace Sys2Proof.Proofs.VectorRanges

open Machine Claims Laws

/-! ### Reductions -/

/-- The combination of R148 without its flags. -/
def combined (op : Nat) (x y : W32) : W32 := (combine op x y).1

/-- The left-to-right combination of lanes. -/
def foldLanes (op : Nat) (v : Lanes) : W32 := v.tail.foldl (combined op) (lane v 0)

section
variable {op : Nat}

theorem length_pairUp (m : Nat) {v : Lanes} (hv : v.length = 2 * m) : (pairUp op v).1.length = m := by
  induction m generalizing v with
  | zero =>
    obtain rfl := List.length_eq_zero_iff.1 hv
    rfl
  | succ m ih =>
    match v, hv with
    | x :: y :: r, hv =>
      have hr : r.length = 2 * m := by simp only [List.length_cons] at hv; omega
      simp [pairUp, ih hr]

variable (hop : ∀ x y z, combined op (combined op x y) z = combined op x (combined op y z))
include hop

theorem foldl_pairUp (m : Nat) {v : Lanes} (hv : v.length = 2 * m) (a : W32) :
    (pairUp op v).1.foldl (combined op) a = v.foldl (combined op) a := by
  induction m generalizing v a with
  | zero =>
    obtain rfl := List.length_eq_zero_iff.1 hv
    rfl
  | succ m ih =>
    match v, hv with
    | x :: y :: r, hv =>
      have hr : r.length = 2 * m := by simp only [List.length_cons] at hv; omega
      simp only [pairUp, List.foldl_cons, ih hr, hop]
      rfl

theorem foldLanes_pairUp (m : Nat) {v : Lanes} (hv : v.length = 2 * m) : foldLanes op (pairUp op v).1 = foldLanes op v := by
  match m, v, hv with
  | 0, [], _ => rfl
  | m + 1, x :: y :: r, hv =>
    have hr : r.length = 2 * m := by simp only [List.length_cons] at hv; omega
    exact foldl_pairUp hop m hr _

theorem reduceTree_eq_foldLanes (n k : Nat) (hk : k ≤ n) {v : Lanes} (hv : v.length = 2 ^ k) :
    (reduceTree op n v).1 = foldLanes op v := by
  induction n generalizing k v with
  | zero =>
    obtain rfl : k = 0 := by omega
    obtain ⟨x, rfl⟩ := List.length_eq_one_iff.1 hv
    rfl
  | succ n ih =>
    match k, hv with
    | 0, hv =>
      obtain ⟨x, rfl⟩ := List.length_eq_one_iff.1 hv
      rfl
    | k + 1, hv =>
      have hv' : v.length = 2 * 2 ^ k := hv.trans Nat.pow_succ'
      have hlong : ¬ v.length ≤ 1 := by have := Nat.two_pow_pos k; omega
      simp only [reduceTree, if_neg hlong]
      exact (ih k (by omega) (length_pairUp _ hv')).trans (foldLanes_pairUp hop _ hv')

/-- What the lanes of a reduction by an associative combination are. -/
theorem mem_reduceRange {k : Nat} (hk : k ≤ 11) {v : Lanes} (hv : v.length = 2 ^ k) (h9 : op ≠ 9) :
    ∀ x ∈ (reduceRange op v).1, x = foldLanes op v := by
  intro x hx
  simp only [reduceRange, if_neg h9, List.map_const', List.mem_replicate] at hx
  exact hx.2.trans (reduceTree_eq_foldLanes hop 11 k hk hv)

end

/-- With an identity, the fold may start there. -/
theorem foldLanes_eq_foldl {op : Nat} {e : W32} (he : ∀ x, combined op e x = x) {v : Lanes} (hv : v ≠ []) :
    foldLanes op v = v.foldl (combined op) e := by
  obtain ⟨x, r, rfl⟩ := List.exists_cons_of_ne_nil hv
  simp [foldLanes, lane, he]

/-- A fold by a choice of the one of two lanes above the other is one of the lanes, above all of them. -/
theorem foldl_choice {f : W32 → W32 → W32} {R : W32 → W32 → Prop} (hrefl : ∀ x, R x x) (htrans : ∀ {x y z}, R x y → R y z → R x z)
    (hf : ∀ x y, (f x y = x ∨ f x y = y) ∧ R x (f x y) ∧ R y (f x y)) (r : Lanes) (x : W32) :
    r.foldl f x ∈ x :: r ∧ ∀ y ∈ x :: r, R y (r.foldl f x) := by
  induction r generalizing x with
  | nil => simp [hrefl]
  | cons z r ih =>
    obtain ⟨hmem, hall⟩ := ih (f x z)
    obtain ⟨hor, hx, hz⟩ := hf x z
    have htop := hall _ List.mem_cons_self
    simp only [List.foldl_cons, List.forall_mem_cons]
    refine ⟨?_, htrans hx htop, htrans hz htop, fun y hy => hall y (List.mem_cons_of_mem _ hy)⟩
    grind

theorem toInt_imaxLane (x y : W32) : (imaxLane 0 x y).toInt = max x.toInt y.toInt := by
  grind [imaxLane]

theorem toInt_iminLane (x y : W32) : (iminLane 0 x y).toInt = min x.toInt y.toInt := by
  grind [iminLane]

theorem combined_max_assoc (x y z : W32) : combined 4 (combined 4 x y) z = combined 4 x (combined 4 y z) :=
  BitVec.eq_of_toInt_eq (by simp only [combined, combine, toInt_imaxLane, max_assoc])

theorem combined_min_assoc (x y z : W32) : combined 5 (combined 5 x y) z = combined 5 x (combined 5 y z) :=
  BitVec.eq_of_toInt_eq (by simp only [combined, combine, toInt_iminLane, min_assoc])

theorem foldLanes_max {v : Lanes} (hv : v ≠ []) : foldLanes 4 v ∈ v ∧ ∀ y ∈ v, y.toInt ≤ (foldLanes 4 v).toInt := by
  obtain ⟨x, r, rfl⟩ := List.exists_cons_of_ne_nil hv
  refine foldl_choice (R := fun p q => p.toInt ≤ q.toInt) (fun _ => le_rfl) le_trans (fun p q => ?_) r x
  grind [combined, combine, imaxLane]

theorem foldLanes_min {v : Lanes} (hv : v ≠ []) : foldLanes 5 v ∈ v ∧ ∀ y ∈ v, (foldLanes 5 v).toInt ≤ y.toInt := by
  obtain ⟨x, r, rfl⟩ := List.exists_cons_of_ne_nil hv
  refine foldl_choice (R := fun p q => q.toInt ≤ p.toInt) (fun _ => le_rfl) (fun h h' => h'.trans h) (fun p q => ?_) r x
  grind [combined, combine, iminLane]

theorem foldl_count (v : Lanes) (n : Nat) : (v.map fun y => if y ≠ 0 then (1 : W32) else 0).foldl (combined 3) (BitVec.ofNat 32 n) =
    BitVec.ofNat 32 (n + (v.filter fun y => y ≠ 0).length) := by
  induction v generalizing n with
  | nil => rfl
  | cons y r ih =>
    by_cases hy : y = 0
    · simpa [hy, combined, combine] using ih n
    · have hstep : combined 3 (BitVec.ofNat 32 n) 1 = BitVec.ofNat 32 (n + 1) := (BitVec.ofNat_add ..).symm
      rw [List.map_cons, List.foldl_cons, if_pos hy, hstep, ih, List.filter_cons_of_pos (by simpa using hy), List.length_cons,
        Nat.add_assoc, Nat.add_comm 1]

/-! ### Scans -/

section
variable {op : Nat}

/-- The partial results of a scan are those of the library's `List.scanl` (06 R149). -/
theorem scanFrom_eq_scanl (r : Lanes) (y : W32) : y :: (scanFrom op y r).map (·.1) = List.scanl (combined op) y r := by
  induction r generalizing y with
  | nil => rfl
  | cons x r ih => exact (congrArg (y :: ·) (ih (combined op y x))).trans List.scanl_cons.symm

variable (hop : 3 ≤ op)
include hop

theorem map_canonLane (v : Lanes) : v.map (canonLane op) = v :=
  (List.map_congr_left fun x _ => by simp [canonLane, hop]).trans (List.map_id v)

theorem scanRange_inclusive (x : W32) (r : Lanes) : (scanRange op false (x :: r)).1 = List.scanl (combined op) x r :=
  (map_canonLane hop _).trans (scanFrom_eq_scanl r x)

theorem scanRange_exclusive (x : W32) (r : Lanes) :
    (scanRange op true (x :: r)).1 = identity_ op :: (List.scanl (combined op) x r).take r.length :=
  (map_canonLane hop _).trans (scanFrom_eq_scanl r x ▸ rfl)

end

theorem scan_rules {v : Lanes} {op : Nat} (hop : 3 ≤ op) : (scanRange op false v).1.length = v.length ∧
    (v ≠ [] → lane (scanRange op false v).1 (v.length - 1) = foldLanes op v) ∧
    (∀ j, j + 1 < v.length → lane (scanRange op true v).1 (j + 1) = lane (scanRange op false v).1 j) ∧
    (v ≠ [] → lane (scanRange op true v).1 0 = identity_ op) := by
  match v with
  | [] => exact ⟨rfl, fun h => absurd rfl h, fun j hj => absurd hj (Nat.not_lt_zero _), fun h => absurd rfl h⟩
  | x :: r =>
    rw [scanRange_inclusive hop, scanRange_exclusive hop]
    refine ⟨by simp, fun _ => ?_, fun j hj => ?_, fun _ => rfl⟩
    · simp [lane, foldLanes]
    · have hj' : j < r.length := by simpa using hj
      simp only [lane, List.getD_eq_getElem?_getD, List.getElem?_cons_succ, List.getElem?_take_of_lt hj']

/-! ### Partition lists -/

theorem partRange_kind0 (a b : Lanes) : partRange 0 a b =
    ((List.range a.length).filter (fun j => lane a j ≠ 0) ++ (List.range a.length).filter (fun j => lane a j = 0)).map (BitVec.ofNat 32) := rfl

theorem length_partRange (a b : Lanes) : (partRange 0 a b).length = a.length := by
  have h := (List.range a.length).length_eq_length_filter_add fun j => decide (lane a j ≠ 0)
  simp only [← decide_not, not_not, List.length_range] at h
  rw [partRange_kind0, List.length_map, List.length_append, ← h]

theorem mem_partRange {a b : Lanes} {j : Nat} (hj : j < a.length) : BitVec.ofNat 32 j ∈ partRange 0 a b := by
  rw [partRange_kind0]
  refine List.mem_map_of_mem ?_
  by_cases h : lane a j = 0#32 <;> simp [hj, h]

/-! ### Selections (13 R327) -/

/-- One bit of the selection: of the columns that share the leading bits of the last place those with the bit are taken, where there is
place for them, else the others are left out. -/
def selectStep (k : Nat) (keys : List Nat) (acc : List Nat × List Nat) (b : Nat) : List Nat × List Nat :=
  let ones := acc.2.filter fun e => keys.getD e 0 / 2 ^ b % 2 = 1
  if k ≤ acc.1.length + ones.length then (acc.1, ones)
  else (acc.1 ++ ones, acc.2.filter fun e => keys.getD e 0 / 2 ^ b % 2 ≠ 1)

/-- The columns taken and those that share the leading bits of the last place, after n bits. -/
def selectAfter (k : Nat) (keys : List Nat) (n : Nat) : List Nat × List Nat :=
  (List.range n).foldl (fun acc i => selectStep k keys acc (15 - i)) ([], List.range keys.length)

/-- The columns selected, in the order in which they are taken. -/
def selected (k : Nat) (keys : List Nat) : List Nat :=
  let r := selectAfter k keys 16
  r.1 ++ r.2.take (k - r.1.length)

theorem selectTop_eq_filter (k : Nat) (keys : List Nat) :
    selectTop k keys = (List.range keys.length).filter fun e => (selected k keys).contains e := rfl

/-- Between two bits of the selection, b of them to come: the columns taken have larger leading bits than all others, and the columns that
share the leading bits of the last place are all the columns with the largest leading bits left. -/
structure Selecting (k : Nat) (keys : List Nat) (b : Nat) (acc : List Nat × List Nat) : Prop where
  fits : acc.1.length ≤ k
  enough : k ≤ acc.1.length + acc.2.length
  nodup : (acc.1 ++ acc.2).Nodup
  sorted : acc.2.Pairwise (· < ·)
  bounded : ∀ e ∈ acc.1 ++ acc.2, e < keys.length
  taken : ∀ e ∈ acc.1, ∀ f < keys.length, f ∉ acc.1 → keys.getD f 0 / 2 ^ b < keys.getD e 0 / 2 ^ b
  shared : ∀ e ∈ acc.2, ∀ f < keys.length, f ∉ acc.1 → keys.getD f 0 / 2 ^ b ≤ keys.getD e 0 / 2 ^ b ∧
    (keys.getD f 0 / 2 ^ b = keys.getD e 0 / 2 ^ b → f ∈ acc.2)

section
variable {k : Nat} {keys : List Nat}

theorem selecting_start (hkeys : ∀ x ∈ keys, x < 2 ^ 16) (hk : k ≤ keys.length) : Selecting k keys 16 ([], List.range keys.length) where
  fits := Nat.zero_le k
  enough := by simpa using hk
  nodup := List.nodup_range
  sorted := List.pairwise_lt_range
  bounded := by simp
  taken := by simp
  shared e he f hf _ := by
    have small : ∀ j < keys.length, keys.getD j 0 / 2 ^ 16 = 0 := fun j hj => by
      rw [List.getD_eq_getElem _ _ hj]
      exact Nat.div_eq_of_lt (hkeys _ (List.getElem_mem hj))
    rw [small f hf, small e (List.mem_range.1 he)]
    exact ⟨le_rfl, fun _ => List.mem_range.2 hf⟩

theorem div_pow_succ (x b : Nat) : x / 2 ^ b = 2 * (x / 2 ^ (b + 1)) + x / 2 ^ b % 2 := by
  rw [Nat.pow_succ, ← Nat.div_div_eq_div_mul]
  omega

theorem selecting_step {b : Nat} {acc : List Nat × List Nat} (h : Selecting k keys (b + 1) acc) :
    Selecting k keys b (selectStep k keys acc b) := by
  obtain ⟨taken, shared⟩ := acc
  obtain ⟨hfits, henough, hnodup, hsorted, hbounded, htaken, hshared⟩ := h
  have hdiv (x : Nat) := div_pow_succ (keys.getD x 0) b
  simp only [selectStep]
  split
  next hroom =>
    have hsub : (taken ++ shared.filter fun e => keys.getD e 0 / 2 ^ b % 2 = 1).Sublist (taken ++ shared) :=
      List.filter_sublist.append_left _
    refine ⟨hfits, hroom, hnodup.sublist hsub, hsorted.filter _, fun e he => hbounded e (hsub.subset he), fun e he f hf hn => ?_,
      fun e he f hf hn => ?_⟩
    · have := htaken e he f hf hn
      grind
    · obtain ⟨he, hbit⟩ := List.mem_filter.1 he
      obtain ⟨hle, heq⟩ := hshared e he f hf hn
      grind
  next hroom =>
    have hperm := List.filter_append_perm (fun e => decide (keys.getD e 0 / 2 ^ b % 2 = 1)) shared
    simp only [← decide_not, ← ne_eq] at hperm
    have hperm' := hperm.append_left taken
    rw [← List.append_assoc] at hperm'
    have hlen := hperm'.length_eq
    refine ⟨?_, ?_, hperm'.nodup_iff.2 hnodup, hsorted.filter _, fun e he => hbounded e (hperm'.subset he), fun e he f hf hn => ?_,
      fun e he f hf hn => ?_⟩
    · simp only [List.length_append] at hroom ⊢
      omega
    · exact henough.trans_eq ((List.length_append ..).symm.trans (hlen.symm.trans (List.length_append ..)))
    · obtain ⟨hnt, hno⟩ := not_or.1 (mt List.mem_append.2 hn)
      obtain he | he := List.mem_append.1 he
      · have := htaken e he f hf hnt
        grind
      · obtain ⟨he, hbit⟩ := List.mem_filter.1 he
        obtain ⟨hle, heq⟩ := hshared e he f hf hnt
        grind
    · obtain ⟨hnt, hno⟩ := not_or.1 (mt List.mem_append.2 hn)
      obtain ⟨he, hbit⟩ := List.mem_filter.1 he
      obtain ⟨hle, heq⟩ := hshared e he f hf hnt
      grind

theorem selecting_selectAfter (hkeys : ∀ x ∈ keys, x < 2 ^ 16) (hk : k ≤ keys.length) (n : Nat) (hn : n ≤ 16) :
    Selecting k keys (16 - n) (selectAfter k keys n) := by
  induction n with
  | zero => exact selecting_start hkeys hk
  | succ n ih =>
    have h := ih (by omega)
    rw [show 16 - n = 15 - n + 1 by omega] at h
    rw [selectAfter, List.range_succ, List.foldl_append, show 16 - (n + 1) = 15 - n by omega]
    exact selecting_step h

end

section
variable {k : Nat} {keys : List Nat} (hkeys : ∀ x ∈ keys, x < 2 ^ 16) (hk : k ≤ keys.length)
include hkeys hk

/-- The columns selected are k, and a column left out has a smaller key than each of them, or an equal one in a higher column. -/
theorem selected_rules : (selected k keys).length = k ∧ (selected k keys).Nodup ∧ (∀ e ∈ selected k keys, e < keys.length) ∧
    ∀ e ∈ selected k keys, ∀ f < keys.length, f ∉ selected k keys →
      keys.getD f 0 ≤ keys.getD e 0 ∧ (keys.getD f 0 = keys.getD e 0 → e < f) := by
  obtain ⟨hfits, henough, hnodup, hsorted, hbounded, htaken, hshared⟩ := selecting_selectAfter hkeys hk 16 le_rfl
  simp only [selected]
  generalize selectAfter k keys 16 = acc at *
  obtain ⟨taken, shared⟩ := acc
  simp only [Nat.sub_self, Nat.pow_zero, Nat.div_one] at *
  have hsub : (taken ++ shared.take (k - taken.length)).Sublist (taken ++ shared) := (List.take_sublist ..).append_left _
  refine ⟨?_, hnodup.sublist hsub, fun e he => hbounded e (hsub.subset he), fun e he f hf hn => ?_⟩
  · simp only [List.length_append, List.length_take]
    omega
  · obtain ⟨hnt, hno⟩ := not_or.1 (mt List.mem_append.2 hn)
    obtain he | he := List.mem_append.1 he
    · have := htaken e he f hf hnt
      omega
    · obtain ⟨hle, heq⟩ := hshared e (List.mem_of_mem_take he) f hf hnt
      refine ⟨hle, fun h => ?_⟩
      have hf' : f ∈ shared.drop (k - taken.length) := by
        have := heq h
        rw [← List.take_append_drop (k - taken.length) shared, List.mem_append] at this
        exact this.resolve_left hno
      rw [← List.take_append_drop (k - taken.length) shared] at hsorted
      exact (List.pairwise_append.1 hsorted).2.2 e he f hf'

theorem mem_selectTop {e : Nat} : e ∈ selectTop k keys ↔ e ∈ selected k keys := by
  obtain ⟨-, -, hbounded, -⟩ := selected_rules hkeys hk
  simpa [selectTop_eq_filter] using hbounded e

theorem selectTop_rules : (selectTop k keys).length = k ∧ (selectTop k keys).Pairwise (· < ·) ∧ (∀ e ∈ selectTop k keys, e < keys.length) ∧
    ∀ e ∈ selectTop k keys, ∀ f < keys.length, f ∉ selectTop k keys →
      keys.getD f 0 ≤ keys.getD e 0 ∧ (keys.getD f 0 = keys.getD e 0 → e < f) := by
  obtain ⟨hlen, hnodup, hbounded, hlargest⟩ := selected_rules hkeys hk
  have hsorted : (selectTop k keys).Pairwise (· < ·) := List.pairwise_lt_range.filter _
  have hperm : (selectTop k keys).Perm (selected k keys) :=
    (List.perm_ext_iff_of_nodup (hsorted.imp Nat.ne_of_lt) hnodup).2 fun _ => mem_selectTop hkeys hk
  simp only [mem_selectTop hkeys hk]
  exact ⟨hperm.length_eq.trans hlen, hsorted, hbounded, hlargest⟩

end

theorem mem_reduceRange_count {v : Lanes} {k : Nat} (hk : k ≤ 11) (hv : v.length = 2 ^ k) :
    ∀ x ∈ (reduceRange 9 v).1, x = BitVec.ofNat 32 (v.filter fun y => y ≠ 0).length := by
  intro x hx
  have hne : v.map (fun y => if y ≠ 0 then (1 : W32) else 0) ≠ [] :=
    List.ne_nil_of_length_pos (by rw [List.length_map, hv]; exact Nat.two_pow_pos k)
  simp only [reduceRange, if_true, List.map_const', List.mem_replicate] at hx
  rw [hx.2, reduceTree_eq_foldLanes (op := 9) BitVec.add_assoc 11 k hk ((List.length_map _).trans hv),
    foldLanes_eq_foldl (e := 0) BitVec.zero_add hne, ← Nat.zero_add (List.length _)]
  exact foldl_count v 0

theorem reduce_rules {v : Lanes} {k : Nat} (hk : k ≤ 11) (hv : v.length = 2 ^ k) :
    (∀ x ∈ (reduceRange 3 v).1, x = v.foldl (· + ·) 0) ∧ (∀ x ∈ (reduceRange 6 v).1, x = v.foldl (· &&& ·) 0xFFFFFFFF) ∧
    (∀ x ∈ (reduceRange 7 v).1, x = v.foldl (· ||| ·) 0) ∧ (∀ x ∈ (reduceRange 8 v).1, x = v.foldl (· ^^^ ·) 0) ∧
    (∀ x ∈ (reduceRange 9 v).1, x = BitVec.ofNat 32 (v.filter fun y => y ≠ 0).length) ∧
    (∀ x ∈ (reduceRange 4 v).1, x ∈ v ∧ ∀ y ∈ v, y.toInt ≤ x.toInt) ∧
    (∀ x ∈ (reduceRange 5 v).1, x ∈ v ∧ ∀ y ∈ v, x.toInt ≤ y.toInt) := by
  have hne : v ≠ [] := List.ne_nil_of_length_pos (hv ▸ Nat.two_pow_pos k)
  have folds {op : Nat} (e : W32) (hop : ∀ x y z, combined op (combined op x y) z = combined op x (combined op y z))
      (he : ∀ x, combined op e x = x) (h9 : op ≠ 9) : ∀ x ∈ (reduceRange op v).1, x = v.foldl (combined op) e :=
    fun x hx => (mem_reduceRange hop hk hv h9 x hx).trans (foldLanes_eq_foldl he hne)
  refine ⟨folds 0 BitVec.add_assoc BitVec.zero_add (by decide), folds (BitVec.allOnes 32) BitVec.and_assoc (fun _ => BitVec.allOnes_and) (by decide),
    folds 0 BitVec.or_assoc (fun _ => BitVec.zero_or) (by decide), folds 0 BitVec.xor_assoc (fun _ => BitVec.zero_xor) (by decide),
    mem_reduceRange_count hk hv, fun x hx => ?_, fun x hx => ?_⟩
  · exact mem_reduceRange combined_max_assoc hk hv (by decide) x hx ▸ foldLanes_max hne
  · exact mem_reduceRange combined_min_assoc hk hv (by decide) x hx ▸ foldLanes_min hne

/-- Settles O39: the reductions are folds, the scans `List.scanl`, and the selection's invariant holds at each bit of the keys. -/
theorem crossLaneAndSelectionRules : Obligations.CrossLaneAndSelectionRules := by
  refine ⟨⟨fun v k hk hv => ⟨fun op => ⟨?_, ?_⟩, reduce_rules hk hv⟩, fun v op hop _ => scan_rules hop,
    fun a b _ => ⟨partRange_kind0 a b, length_partRange a b, fun j hj => mem_partRange hj⟩⟩,
    fun keys k hkeys hk => selectTop_rules hkeys hk⟩
  · simp [reduceRange]
  · simp +contextual [reduceRange]

end Sys2Proof.Proofs.VectorRanges

/-! ## The plain words of CP (06 R159; 13 R327; 14 R343, R344, R347; 15 R363) -/

namespace Sys2Proof.Proofs.CpPlainWords

open Machine Claims Laws

/-! ### REP and AT -/

theorem cpRep_of_starts {t : Tok} {cnt : BitVec 16} {len : BitVec 8} {s u : State} (h : CpStarts (.cpRep t cnt len) t s u) :
    exec (.cpRep t cnt len) s = .next
      (((repWork t cnt.toNat len.toNat .cp ((if s.cur.cpStart.isSome then s else s.grpNext .cp t).takePops .cp t.wait)).passBody .cp 255).onCur
        fun l => { l with lastIssue := some l.vc, portFree := l.vc + 1, pin := none, cpStart := none }) := by
  obtain ⟨hruns, hgo, -⟩ := h
  simp only [exec, execCpRep, hruns, hgo, Bool.not_true, Bool.false_eq_true, if_false]

/-- What neither a stream's state, the handles in use nor the REPs bear on stays as it is when a word leaves the ring. -/
theorem advanceRing_keeps {α : Type} {g : Lease → α} (hset : ∀ l st x, g (Lease.setStream l st x) = g l)
    (hfree : ∀ l hs, g (Lease.freeHandles l hs) = g l) (hclose : ∀ l st, g (Lease.closeRep l st) = g l) (s : State) (st : Stream) :
    g (s.advanceRing st).cur = g s.cur := by
  have hdrop (s : State) : g (s.dropHead st).cur = g s.cur := by
    simp only [State.dropHead, onRing_cur, onCur_cur, hset, hfree]
  unfold State.advanceRing
  dsimp only
  split
  · simp only [hdrop, onStream_cur, hset]
  next p _ =>
    have hhead : g (if p.left ≤ 1 then (s.onStream st fun x => { x with broken := false }).dropHead st
        else s.onStream st fun x => { x with broken := false }).cur = g s.cur := by
      split <;> simp only [hdrop, onStream_cur, hset]
    split
    · simp only [onRing_cur, hset, hhead]
    · split <;> simp only [onRing_cur, onCur_cur, hset, hclose, hhead]

theorem atTarget_congr {l m : Lease} (hvc : l.vc = m.vc) (hlast : l.lastIssue = m.lastIssue) (rel : BitVec 1) (tg : Nat) :
    atTarget l rel tg = atTarget m rel tg := by
  rw [atTarget, atTarget, hvc, hlast]

theorem advanceRing_atTarget (s : State) (rel : BitVec 1) (tg : Nat) : atTarget (s.advanceRing .cp).cur rel tg = atTarget s.cur rel tg :=
  atTarget_congr (advanceRing_keeps (g := Lease.vc) setStream_vc (fun _ _ => rfl) (fun _ _ => rfl) s .cp)
    (advanceRing_keeps (g := Lease.lastIssue) setStream_lastIssue (fun _ _ => rfl) (fun _ _ => rfl) s .cp) rel tg

theorem atPinDo_of_ready {s : State} (hruns : s.streamRuns .cp = true) (hring : s.cur.cp.ring.has = true) (rel : BitVec 1)
    (target : BitVec 39) : atPinDo rel target s = (((s.onCur fun l => { l with nextSeq := l.nextSeq + 1 }).advanceRing .cp).onCur fun l =>
      { l with pin := some (atTarget s.cur rel target.toNat), pinSeq := s.cur.nextSeq }) := by
  have hgo : (!(s.streamRuns .cp && (s.cur.stream .cp).ring.has)) = false := by
    simp only [Lease.stream, hruns, hring]
    rfl
  have hkeeps := advanceRing_atTarget (s.onCur fun l => { l with nextSeq := l.nextSeq + 1 }) rel target.toNat
  simp only [atPinDo, hgo, Bool.false_eq_true, if_false, State.takeSeq, State.onCur] at hkeeps ⊢
  rw [hkeeps]
  rfl

theorem atPinDo_of_not_ready {s : State} (h : s.streamRuns .cp = false ∨ s.cur.cp.ring.has = false) (rel : BitVec 1)
    (target : BitVec 39) : atPinDo rel target s = s :=
  if_pos (by simpa [Lease.stream] using h)

theorem atTarget_absolute (l : Lease) (tg : Nat) : (atTarget l 0 tg - tg) % 2 ^ 39 = 0 ∧ (l.vc : Int) - 2 ^ 38 ≤ atTarget l 0 tg ∧
    atTarget l 0 tg < (l.vc : Int) + 2 ^ 38 := by
  simp only [atTarget, show ¬ (0 : BitVec 1) = 1 by decide, if_false]
  omega

/-! ### A missed pin -/

section
variable {s : State}

theorem onLease_of_focus (hst : s.cur.st ≠ .free) (f : State → State) : onLease s.cur.id s f = f s := by
  rw [onLease, if_pos (by simp [State.lease?, hst]), State.focus, if_pos rfl]

theorem missPin_of_no_pin (h : s.cur.pin = none) : missPin s = s := by
  rw [missPin, h]

theorem missPin_of_headIsAt (h : s.headIsAt = true) : missPin s = s := by
  unfold missPin
  split
  · rfl
  · exact if_pos (by simp [h])

theorem missPin_of_early {p : Int} (hp : s.cur.pin = some p) (h : (s.cur.vc : Int) < p) : missPin s = s := by
  rw [missPin, hp]
  exact if_pos (by simp [h])

theorem missPin_of_late {p : Int} (hp : s.cur.pin = some p) (hstands : s.cpStands = true) (hmiss : s.missMode = true)
    (hstart : s.cur.cpStart = none) (hreplay : s.cur.replay = none) (hat : s.headIsAt = false) (h : p ≤ (s.cur.vc : Int)) :
    missPin s = (s.stopStream .cp .scheduleMiss [s.curWord .cp, trapInfo1 (s.cur.curSlot .cp) 2 .cp 0, BitVec.ofInt 64 p,
      BitVec.ofNat 64 s.cur.vc] false false).onCur fun l => { l with pin := none } := by
  simp [missPin, hp, hstands, hmiss, hstart, hreplay, hat, not_lt.2 h]

end

/-! ### SELK (13 R327) -/

theorem selk_keys_pass {l : Lease} {h : Handle} (hgood : l.cpHandle h = none) (hfmt : hFmt h = 2 ∨ hFmt h = 3) :
    orElseC (l.cpHandle h) (firstBad [(hFmt h ≠ 0x02 && hFmt h ≠ 0x03, .formatInvalid)]) = none := by
  obtain hf | hf := hfmt <;> simp [orElseC, firstBad, hgood, hf]

theorem selk_sizes_pass {l : Lease} {h o : Handle} {e n : Nat} (hout : l.cpHandle o = none) (hfmt : hFmt o = 0x0B) (he0 : 0 < e)
    (he : e ≤ 256) (hdim : hDim0 h = e) (hn : n ≤ e) (hrows : hDim1 h ≤ hDim0 o) (hcols : n ≤ hDim1 o) :
    orElseC (firstBad [(e = 0 || 256 < e || hDim0 h ≠ e || hDim0 h < n, .illegalOperand)])
      (orElseC (l.cpHandle o) (firstBad [(hFmt o ≠ 0x0B, .formatInvalid), (hDim0 o < hDim1 h || hDim1 o < n, .illegalOperand)])) = none := by
  simp [orElseC, firstBad, hout, hfmt, hdim, he0.ne', not_lt.2 he, not_lt.2 hn, not_lt.2 hrows, not_lt.2 hcols]

/-- Settles O41: NOP, TMARK and SELK are words of CP whose work passes; REP and AT leave the ring by themselves; a missed pin is a branch
of `missPin`. -/
theorem cpPlainWords : Obligations.CpPlainWords := by
  refine ⟨fun t tag s u => ⟨fun h => cpWord_of_starts _ h rfl, fun h => cpWord_of_starts _ h rfl⟩, fun t cnt len s u h => cpRep_of_starts h,
    fun t rel target s => ⟨fun hruns hring => ?_, fun h => congrArg _ (atPinDo_of_not_ready h rel target)⟩, fun s hst => ?_,
    fun t h g k cnt s u v hs hgood hfmt hrec hout hofmt he0 he hdim hk hrows hcols haccess => ?_⟩
  · refine ⟨_, congrArg Host.Outcome.next (atPinDo_of_ready hruns hring rel target), rfl, _, rfl, ?_, ?_⟩
    · rintro rfl
      rfl
    · rintro rfl
      exact atTarget_absolute ..
  · have run {v : State} (hv : missPin s = v) : exec (.scheduleMiss s.cur.id) s = .next v :=
      congrArg _ ((onLease_of_focus hst _).trans hv)
    exact ⟨fun hp => run (missPin_of_no_pin hp), fun hat => run (missPin_of_headIsAt hat), fun p hp hstands hmiss hstart hreplay hat =>
      ⟨fun h => run (missPin_of_early hp h), fun h => run (missPin_of_late hp hstands hmiss hstart hreplay hat h)⟩⟩
  · refine cpWord_of_starts _ hs ?_
    dsimp only
    rw [selk_keys_pass hgood hfmt, hrec, selk_sizes_pass hout hofmt he0 he hdim hk hrows hcols, haccess]
    rfl

end Sys2Proof.Proofs.CpPlainWords

/-! ## Results, the end of a vc and completions (01 R18, R20; 06 R133, R134; 07 R169-R172, R183; 10 R251)

A completion may report a fold, and with it write an event queue. What such a write leaves alone is known as a view of the state
(`ControlFrames.unitView`); the views here extend it over releases, pushes and completions. The events of a vc are functions of the
lease in focus, and each statement follows the branch that its conditions choose. -/

namespace Sys2Proof.Proofs.VcEvents

open Machine Claims Laws ControlFrames

/-! ### What a release and a completion leave alone -/

/-- What a release of an agent's vector leaves alone: all of the lease in focus but its life and its folds. -/
def releaseView (s : State) : Nat × SMap Lanes × SMap Lanes × Lease :=
  (s.datum, s.vfile, s.accs, { s.cur with st := .free, pre := .none, folds := [] })

/-- What a completion leaves alone: CT's record but for TRAPCTL, and the completions to come. -/
def completionView (s : State) : Nat × SMap Lanes × SMap Lanes × Ct × List Done :=
  (s.datum, s.vfile, s.accs, { s.cur.ct with trapCtl := 0 }, s.cur.doneQ)

theorem releaseView_of_unitView {s t : State} (h : unitView s = unitView t) : releaseView s = releaseView t :=
  congrArg (fun v => (v.1, v.2.1, v.2.2.1, { v.2.2.2 with folds := [] })) h

theorem completionView_of_releaseView {s t : State} (h : releaseView s = releaseView t) : completionView s = completionView t :=
  congrArg (fun v => (v.1, v.2.1, v.2.2.1, { v.2.2.2.ct with trapCtl := 0 }, v.2.2.2.doneQ)) h

/-- A fold over steps that each keep a view keeps it. -/
theorem foldl_keeps {α β γ : Type} {view : α → γ} {f : α → β → α} (hf : ∀ s x, view (f s x) = view s) (xs : List β) (s : α) :
    view (xs.foldl f s) = view s := by
  induction xs generalizing s with
  | nil => rfl
  | cons x r ih => exact (ih _).trans (hf s x)

section
variable (s : State) (st : Stream) (slot : Nat)

theorem releaseView_release : releaseView (s.release st slot).2 = releaseView s := by
  unfold State.release
  dsimp only
  split
  · rfl
  dsimp only
  split
  · exact releaseView_of_unitView (unitView_eqPutOrLose _ _ _ _)
  · rfl

/-- A command's completion is noted behind the others, with the vector that it releases; nothing else of the lease changes but its
life and its folds. -/
theorem releaseView_addDone (d : Done) : ∃ x, releaseView (s.addDone d) =
    releaseView (s.onCur fun l => { l with doneQ := l.doneQ ++ [{ d with vec := x }] }) := by
  unfold State.addDone
  dsimp only
  split
  · exact ⟨none, rfl⟩
  · refine ⟨_, congrArg (fun v => (v.1, v.2.1, v.2.2.1, { v.2.2.2 with
      doneQ := v.2.2.2.doneQ ++ [{ d with vec := some (s.release d.stream d.slot).1 }] })) (releaseView_release s d.stream d.slot)⟩

theorem completionView_push (sig : BitVec 8) (vec : Option Vec) : completionView (s.push st slot sig vec) = completionView s := by
  unfold State.push
  split
  · rfl
  split
  · rfl
  · exact Eq.trans (b := completionView (s.release st slot).2) rfl (completionView_of_releaseView (releaseView_release s st slot))

theorem completionView_trace (type vc tag cls : Nat) : completionView (s.trace type st slot vc tag cls) = completionView s := by
  unfold State.trace
  dsimp only
  split <;> rfl

theorem completionView_signals (sig : BitVec 8) (op vc : Nat) (vec : Option Vec) :
    completionView (s.signals st sig slot op vc vec) = completionView s := by
  have mark : completionView (if sigMark sig then (s.push st slot sig vec).trace 1 st slot vc op 0 else s.push st slot sig vec) =
      completionView s := by
    split
    · exact (completionView_trace ..).trans (completionView_push ..)
    · exact completionView_push ..
  unfold State.signals
  dsimp only
  split
  · exact Eq.trans rfl mark
  · exact mark

theorem completionView_sendQ (q : PendQ) (bit : Option Bool) : completionView (s.sendQ st q bit) = completionView s := by
  cases q <;> cases bit <;> rfl

theorem completionView_completeOne (d : Done) : completionView (s.completeOne d) = completionView s := by
  unfold State.completeOne
  dsimp only
  split
  · rfl
  · exact (completionView_signals ..).trans (completionView_sendQ ..)

theorem completionView_completeReps : completionView s.completeReps = completionView s :=
  foldl_keeps (view := completionView) (fun s (x : RepWait) => completionView_signals s x.stream x.slot x.sig x.op _ none) _ _

end

/-! ### Completions -/

section
variable {s : State}

theorem complete_of_stopped (h : s.cur.st = .halted ∨ s.cur.frozen = true) : s.complete = s :=
  if_pos (by simpa using h)

theorem completionView_complete (hst : s.cur.st ≠ .halted) (hf : s.cur.frozen = false) :
    completionView s.complete = completionView (s.onCur fun l => { l with doneQ := l.doneQ.filter fun d => !(d.due ≤ s.datum) }) := by
  have hgo : (s.cur.st = .halted || s.cur.frozen) = false := by simp [hst, hf]
  simp only [State.complete, hgo, Bool.false_eq_true, if_false]
  exact (completionView_completeReps _).trans (foldl_keeps (view := completionView) completionView_completeOne _ _)

/-- What does nothing in the lease in focus does nothing. -/
theorem onLease_of_fixed {f : State → State} (h : f s = s) : onLease s.cur.id s f = s := by
  have hfocus : s.focus s.cur.id = s := if_pos rfl
  rw [onLease, hfocus, h, ite_self]

end

/-! ### A result that is due -/

/-- CT's record but for its NSTAT, TRAPCTL and error marks, with the large registers and the completions to come. -/
def resultView (s : State) : Nat × SMap Lanes × SMap Lanes × Ct × List Done :=
  (s.datum, s.vfile, s.accs, { s.cur.ct with trapCtl := 0, bad := [], nstatNow := 0 }, s.cur.doneQ)

theorem resultView_of_completionView {s t : State} (h : completionView s = completionView t) : resultView s = resultView t :=
  congrArg (fun v => (v.1, v.2.1, v.2.2.1, { v.2.2.2.1 with bad := [], nstatNow := 0 }, v.2.2.2.2)) h

section
variable (s : State)

theorem resultView_winWrite (a : Nat) (bs : List Byte) : resultView (s.winWrite a bs) = resultView s := by
  induction bs generalizing s a with
  | nil => rfl
  | cons b r ih => exact (ih _ _).trans rfl

theorem resultView_cpFlush (k : Nat) : resultView (s.cpFlush k) = resultView s := by
  refine Eq.trans (foldl_keeps (view := resultView) (fun s x => ?_) _ _) (rfl : resultView (s.onCur fun l => { l with stores := [] }) = _)
  split
  · exact resultView_winWrite ..
  · rfl

theorem rewritten_keeps (c : Ct) (file reg : Nat) : { c.rewritten file reg with bad := [] } = { c with bad := [] } := by
  unfold Ct.rewritten
  split <;> rfl

theorem resultView_vecsRewritten (ws : List (Nat × Lanes)) : resultView (s.vecsRewritten ws) = resultView s := by
  unfold State.vecsRewritten
  split
  · rfl
  · have h := foldl_keeps (view := fun c : Ct => { c with bad := [] })
      (fun c (w : Nat × Lanes) => rewritten_keeps c (if w.1 % 256 < 64 then 0 else 1) (w.1 % 256)) ws s.cur.ct
    exact congrArg (fun c : Ct => (s.datum, s.vfile, s.accs, { c with trapCtl := 0, nstatNow := 0 }, s.cur.doneQ)) h

/-- A result is written, its flags set and its completion noted, and nothing else of the view changes. -/
theorem resultView_finishPend {p : Pend} (h : p.accRow = none) : ∃ x, resultView (s.finishPend p) =
    resultView (((s.writeVecs p.writes).flag p.flags).onCur fun l => { l with doneQ := l.doneQ ++ [
      { stream := .cp, sig := p.sig, slot := p.slot, op := p.op, vc := p.due, seq := p.seq, q := p.q, due := s.datum, vec := x }] }) := by
  have hflush : resultView ((((s.writeVecs p.writes).vecsRewritten p.writes).flag p.flags).cpFlush p.seq) =
      resultView ((s.writeVecs p.writes).flag p.flags) :=
    (resultView_cpFlush ..).trans (congrArg (fun v => (v.1, v.2.1, v.2.2.1,
      { v.2.2.2.1 with nstat := v.2.2.2.1.nstat ||| BitVec.ofNat 64 p.flags }, v.2.2.2.2)) (resultView_vecsRewritten (s.writeVecs p.writes) p.writes))
  have hdatum : ((((s.writeVecs p.writes).vecsRewritten p.writes).flag p.flags).cpFlush p.seq).datum = s.datum := congrArg (·.1) hflush
  obtain ⟨x, hx⟩ := releaseView_addDone ((((s.writeVecs p.writes).vecsRewritten p.writes).flag p.flags).cpFlush p.seq)
    { stream := .cp, sig := p.sig, slot := p.slot, op := p.op, vc := p.due, seq := p.seq, q := p.q, due := s.datum }
  refine ⟨x, ?_⟩
  unfold State.finishPend
  simp only [h, hdatum]
  exact (resultView_of_completionView (completionView_of_releaseView hx)).trans
    (congrArg (fun v => (v.1, v.2.1, v.2.2.1, v.2.2.2.1, v.2.2.2.2 ++ [
      { stream := .cp, sig := p.sig, slot := p.slot, op := p.op, vc := p.due, seq := p.seq, q := p.q, due := s.datum, vec := x }])) hflush)

end

/-- The result's effect, field by field (06 R134; 01 R18). -/
theorem finishPend_rules (s : State) {p : Pend} (h : p.accRow = none) :
    (s.finishPend p).vfile = p.writes.foldl (fun f w => sset zeroLanes w.1 w.2 f) s.vfile ∧
    (s.finishPend p).cur.ct.nstat = s.cur.ct.nstat ||| BitVec.ofNat 64 p.flags ∧ (s.finishPend p).accs = s.accs ∧
    (s.finishPend p).cur.ct.sregs = s.cur.ct.sregs ∧ (s.finishPend p).cur.ct.handles = s.cur.ct.handles ∧
    (s.finishPend p).cur.ct.pc = s.cur.ct.pc ∧
    ∃ d, (s.finishPend p).cur.doneQ = s.cur.doneQ ++ [d] ∧ d.stream = .cp ∧ d.sig = p.sig ∧ d.slot = p.slot ∧ d.op = p.op ∧ d.vc = p.due ∧
      d.q = p.q ∧ d.due = s.datum := by
  obtain ⟨x, hview⟩ := resultView_finishPend s h
  have hct := congrArg (·.2.2.2.1) hview
  exact ⟨congrArg (·.2.1) hview, (congrArg Ct.nstat hct :), congrArg (·.2.2.1) hview, (congrArg Ct.sregs hct :), (congrArg Ct.handles hct :),
    (congrArg Ct.pc hct :), _, congrArg (·.2.2.2.2) hview, rfl, rfl, rfl, rfl, rfl, rfl, rfl⟩

/-- The completions' effect, field by field (01 R18, 09 R234). -/
theorem complete_rules (s : State) : s.complete.cur.ct.sregs = s.cur.ct.sregs ∧ s.complete.cur.ct.handles = s.cur.ct.handles ∧
    s.complete.cur.ct.pc = s.cur.ct.pc ∧ s.complete.cur.ct.nstat = s.cur.ct.nstat ∧ s.complete.vfile = s.vfile ∧ s.complete.accs = s.accs ∧
    (s.cur.st ≠ .halted → s.cur.frozen = false → ∀ d ∈ s.complete.cur.doneQ, s.datum < d.due) := by
  by_cases h : s.cur.st = .halted ∨ s.cur.frozen = true
  · rw [complete_of_stopped h]
    exact ⟨rfl, rfl, rfl, rfl, rfl, rfl, fun hst hf => (h.elim hst (by simp [hf])).elim⟩
  · obtain ⟨hst, hf⟩ := not_or.1 h
    have hview := completionView_complete hst (Bool.eq_false_iff.2 hf)
    have hct := congrArg (·.2.2.2.1) hview
    refine ⟨(congrArg Ct.sregs hct :), (congrArg Ct.handles hct :), (congrArg Ct.pc hct :), (congrArg Ct.nstat hct :), congrArg (·.2.1) hview,
      congrArg (·.2.2.1) hview, fun _ _ d hd => ?_⟩
    rw [show s.complete.cur.doneQ = _ from congrArg (·.2.2.2.2) hview] at hd
    simpa using (List.mem_filter.1 hd).2

/-! ### The start and the end of a vc -/

theorem onCur_of_fixed {s : State} {f : Lease → Lease} (h : f s.cur = s.cur) : s.onCur f = s := by
  rw [State.onCur, h]

theorem vcStart_of_pause {s : State} (h : s.cur.pause = true) (hb : s.cur.backPressure = false) : vcStart s = s := by
  simp only [vcStart, h, hb, if_true, Bool.false_eq_true, if_false]

theorem vcEnd_of_pause {s : State} (h : s.cur.pause = true) : vcEnd s = s := if_pos h

/-- The end of a vc behind an intake that leaves neither a load nor a configuration write. -/
theorem vcEnd_of_intake {s v : State} (hpause : s.cur.pause = false) (hheld : s.cur.arrHeld = false)
    (hv : (s.cur.arr.filter ArrCmd.feeding).foldl intake s = v) (hload : v.cur.load = none) (hcfg : v.cur.cfgQ = []) : vcEnd s = v := by
  have hstep : loadStep v = v := by rw [loadStep, hload]
  have hfix (q : List CfgCmd) (hq : q = v.cur.cfgQ) : { v.cur with cfgQ := q } = v.cur := by rw [hq]
  simp only [vcEnd, hpause, hheld, Bool.false_eq_true, if_false, hv, hstep, hcfg, List.filter_nil, List.foldl_nil]
  exact onCur_of_fixed (hfix _ (by rw [hcfg]; rfl))

/-- MXSWAP at the end of its vc, with no row and no load (07 R169, R174). -/
theorem vcEnd_of_swap {s : State} {c : CfgCmd} (hpause : s.cur.pause = false) (hheld : s.cur.arrHeld = false) (harr : s.cur.arr = [])
    (hload : s.cur.load = none) (hcfg : s.cur.cfgQ = [c]) (hop : c.op = 2) :
    ∃ x : Option Vec, releaseView (vcEnd s) = releaseView (s.onCur fun l => { l with
      wact := l.wshd, wshd := l.wact, cfgQ := [], doneQ := l.doneQ ++ [
        { stream := .cp, sig := c.sig, slot := c.slot, op := 2, vc := s.cur.vc, seq := c.seq, due := s.datum, vec := x }] }) := by
  have hstep : loadStep s = s := by rw [loadStep, hload]
  have hswap : [c].filter (fun c => c.op = 2) = [c] := by simp [hop]
  have hleft : s.cur.cfgQ.filter (fun c => c.op ≠ 2) = [] := by simp [hcfg, hop]
  obtain ⟨x, hx⟩ := releaseView_addDone (s.onCur fun l => { l with wact := l.wshd, wshd := l.wact })
    { stream := .cp, sig := c.sig, slot := c.slot, op := 2, vc := s.cur.vc, seq := c.seq, due := s.datum }
  refine ⟨x, ?_⟩
  simp only [vcEnd, hpause, hheld, Bool.false_eq_true, if_false, harr, List.filter_nil, List.foldl_nil, hstep, hcfg, hswap, List.foldl_cons]
  rw [← hleft]
  exact congrArg (fun v => (v.1, v.2.1, v.2.2.1, { v.2.2.2 with cfgQ := v.2.2.2.cfgQ.filter fun c => c.op ≠ 2 })) hx

/-! ### A row of weights that arrives (07 R172) -/

/-- The data of row j of a load: ones where they were lost on the host link (18 R403). -/
def rowBytes (s : State) (x : LoadCmd) (j : Nat) (q : Nat × Nat) : List Byte :=
  if j ∈ x.lost then List.replicate q.2 0xFF else s.rowData q.1 q.2

/-- The bytes of the scale row of row j. -/
def scaleBytes (s : State) (x : LoadCmd) (j : Nat) : List Byte :=
  if fmtScaled (hFmt x.g) then rowBytes s x j (hScaleAt x.g 0 j, hScaleRow x.g) else []

/-- The lease in focus, memory and the large registers. -/
def coreView (s : State) : Memory × SMap Lanes × SMap Lanes × Lease := (s.mem, s.vfile, s.accs, s.cur)

theorem coreView_forgetRow (s : State) (va n : Nat) : coreView (s.forgetRow va n) = coreView s := by
  refine foldl_keeps (view := coreView) (fun s k => ?_) _ s
  split
  · split <;> rfl
  · rfl

theorem coreView_forgetRows (s : State) (qs : List (Nat × Nat)) : coreView (qs.foldl (fun s q => s.forgetRow q.1 q.2) s) = coreView s :=
  foldl_keeps (view := coreView) (f := fun s (q : Nat × Nat) => s.forgetRow q.1 q.2) (fun s q => coreView_forgetRow s q.1 q.2) qs s

theorem input_of_noLog {s : State} (h : NoLog s) (st slot : Nat) (bs : List Byte) (other : Nat → Bool) :
    s.input st slot bs other = some (bs, s) := by
  obtain ⟨hr, hl⟩ := h
  simp only [State.input, hr, hl]
  rfl

theorem mxldRowArrival_of_not_awaited {s : State} {j : Nat} (h : ∀ x, s.cur.load = some x → ∀ o ∈ x.out, o.1 ≠ j) :
    exec (.mxldRowArrival s.cur.id j) s = .next s := by
  refine congrArg _ (onLease_of_fixed ?_)
  dsimp only
  split
  · rfl
  next x hx =>
    have hnone : x.out.any (fun o => o.1 = j) = false := by simpa using fun a b ho => h x hx (a, b) ho
    simp only [hnone, Bool.not_false, if_true]

theorem loadRanges_data (s : State) (x : LoadCmd) (j : Nat) : (loadRanges x.g j).map (rowBytes s x j) =
    rowBytes s x j ((hRowAt x.g 0 j).toNat, hRowBytes x.g) ::
      if fmtScaled (hFmt x.g) then [rowBytes s x j (hScaleAt x.g 0 j, hScaleRow x.g)] else [] := by
  unfold loadRanges
  split <;> rfl

/-- A column's writing depends on the lease in focus alone. -/
theorem coreView_writeCol {s w : State} (h : coreView w = coreView s) (x : LoadCmd) (j : Nat) (bs sc : List Byte) (f : Lease → Lease) :
    coreView ((writeCol w x j bs sc).onCur f) = coreView ((writeCol s x j bs sc).onCur f) := by
  obtain ⟨hmem, hvfile, haccs, hcur⟩ : w.mem = s.mem ∧ w.vfile = s.vfile ∧ w.accs = s.accs ∧ w.cur = s.cur := by
    simpa only [coreView, Prod.mk.injEq] using h
  simp only [coreView, writeCol, onCur_mem, onCur_vfile, onCur_accs, onCur_cur, hmem, hvfile, haccs, hcur]

theorem mxldRowArrival_of_awaited {s : State} {x : LoadCmd} {j : Nat} (hst : s.cur.st ≠ .free) (hlog : NoLog s) (hload : s.cur.load = some x)
    (hj : ∃ o ∈ x.out, o.1 = j) :
    let r := decodeCol s.cur x.g x.sgn (rowBytes s x j ((hRowAt x.g 0 j).toNat, hRowBytes x.g)) (scaleBytes s x j)
    let out := x.out.filter fun o => o.1 ≠ j
    ∃ v, exec (.mxldRowArrival s.cur.id j) s = .next v ∧ coreView v = coreView (s.onCur fun l => { l with
        wshd := s.cur.wshd.setCol j r.1 r.2.1,
        load := some { x with
          flags := x.flags ||| r.2.2, out := out, onLink := x.onLink.filter fun k => k ≠ j, lost := x.lost.filter fun k => k ≠ j,
          doneAt := if out = [] ∧ s.cur.width ≤ x.next then some (s.cur.vc + if x.pro then 12 else 8) else x.doneAt } }) := by
  have hany : x.out.any (fun o => o.1 = j) = true := by simpa using hj
  have hread : (fun q : Nat × Nat => if x.lost.contains j then List.replicate q.2 0xFF else s.rowData q.1 q.2) = rowBytes s x j :=
    funext fun q => by simp only [rowBytes, List.contains_iff_mem]
  have htake : (((loadRanges x.g j).map (rowBytes s x j)).flatten.take (((loadRanges x.g j).map (rowBytes s x j)).getD 0 []).length) =
      rowBytes s x j ((hRowAt x.g 0 j).toNat, hRowBytes x.g) := by
    simp [loadRanges_data]
  have hdrop : (((loadRanges x.g j).map (rowBytes s x j)).flatten.drop (((loadRanges x.g j).map (rowBytes s x j)).getD 0 []).length) =
      scaleBytes s x j := by
    rw [loadRanges_data, scaleBytes]
    split <;> simp
  refine ⟨_, congrArg Host.Outcome.next (CpPlainWords.onLease_of_focus hst _), ?_⟩
  simp only [hload, hany, Bool.not_true, Bool.false_eq_true, if_false, input_of_noLog hlog, hread, htake, hdrop]
  refine (coreView_writeCol (coreView_forgetRows s _) ..).trans ?_
  simp only [writeCol, coreView, onCur_mem, onCur_vfile, onCur_accs, onCur_cur, hload, Option.map_some, List.isEmpty_iff, Bool.and_eq_true,
    decide_eq_true_eq]
  rfl

/-! ### A row for the chain (07 R171, R183) -/

section
variable {l : Lease} {a : ArrCmd} {e : RowEmit}

theorem rowDst_of_chain (harr : l.arr = [a]) (hcmd : e.cmd = a.seq) (hemit : e.emit = true) (hdst : dstOf a.f = 1) :
    l.rowDst e = some 1 := by
  simp [Lease.rowDst, Lease.arrCmd?, harr, hcmd, hemit, hdst]

variable (hrow : l.rowE = [e]) (hdue : e.due ≤ l.avc) (hdst : l.rowDst e = some 1)
include hrow hdue hdst

theorem dueRows_of_room (h : l.fifo.length < 8) : l.dueRows = ([e], []) := by
  have hroom : ¬ 8 - l.fifo.length = 0 := by omega
  simp only [Lease.dueRows, hrow, List.filter_cons, hdue, decide_true, if_true, List.filter_nil, Lease.fitRows, hdst, hroom, if_false]

theorem dueRows_of_full (h : 8 ≤ l.fifo.length) : l.dueRows = ([], [e]) := by
  have hroom : 8 - l.fifo.length = 0 := by omega
  simp only [Lease.dueRows, hrow, List.filter_cons, hdue, decide_true, if_true, List.filter_nil, Lease.fitRows, hdst, hroom]

theorem fifoHeld_of_room (h : l.fifo.length < 8) : l.fifoHeld = false := by
  rw [Lease.fifoHeld, Lease.rowStuck, dueRows_of_room hrow hdue hdst h]

theorem fifoHeld_of_full (h : 8 ≤ l.fifo.length) : l.fifoHeld = true := by
  rw [Lease.fifoHeld, Lease.rowStuck, dueRows_of_full hrow hdue hdst h]
  exact decide_eq_true hdst

end

section
variable {s : State}

theorem vcWrites_of_none (hpend : s.cur.pend = []) (hrows : s.cur.rowW = []) (array : Bool) : vcWrites array s = s := by
  have hfix (ps : List Pend) (ws : List RowWrite) (hp : ps = s.cur.pend) (hw : ws = s.cur.rowW) :
      { s.cur with pend := ps, rowW := ws } = s.cur := by rw [hp, hw]
  simp only [vcWrites, hpend, hrows, List.filter_nil, List.map_nil, ite_self, List.append_nil, sortBy, List.foldl_nil]
  exact onCur_of_fixed (hfix _ _ (by simp [hpend]) (by simp [hrows]))

/-- Rows that find no place stay where they are. -/
theorem emitFitting_of_stuck {e : RowEmit} (hrow : s.cur.rowE = [e]) (hdue : e.due ≤ s.cur.avc) (h : s.cur.dueRows = ([], [e])) :
    emitFitting s = s := by
  have hfix (es : List RowEmit) (he : es = s.cur.rowE) : { s.cur with rowE := es } = s.cur := by rw [he]
  simp only [emitFitting, h, List.foldl_nil]
  exact onCur_of_fixed (hfix _ (by simp [hrow, hdue]))

/-- The end of the start of a vc, with no configuration write and no load. -/
theorem vcStart_of_array {v : State} (hpause : s.cur.pause = false) (hpend : s.cur.pend = []) (hrows : s.cur.rowW = [])
    (hv : (if s.cur.fifoHeld then (emitFitting s).onCur fun l => { l with arrHeld := true } else arrayStart s) = v)
    (hcfg : v.cur.cfgQ = []) (hload : v.cur.load = none) : vcStart s = v := by
  have hfix (q : List CfgCmd) (hq : q = v.cur.cfgQ) : { v.cur with cfgQ := q } = v.cur := by rw [hq]
  have hq : (v.onCur fun l => { l with cfgQ := l.cfgQ.filter fun c => !(c.op ≠ 2 && c.due ≤ l.vc) }) = v :=
    onCur_of_fixed (hfix _ (by rw [hcfg]; rfl))
  simp only [vcStart, hpause, Bool.false_eq_true, if_false, vcWrites_of_none hpend hrows, hv]
  rw [hcfg, List.filter_nil, List.foldl_nil, hq, hload]

/-- What the completion of an array command leaves alone. -/
def arrayView (s : State) : SMap Lanes × SMap Lanes × List Lanes × List Nat × List RowEmit × List CfgCmd × Option LoadCmd :=
  (s.vfile, s.accs, s.cur.fifo, s.cur.fifoAt, s.cur.rowE, s.cur.cfgQ, s.cur.load)

theorem arrayView_addDone (s : State) (d : Done) : arrayView (s.addDone d) = arrayView s := by
  obtain ⟨x, hx⟩ := releaseView_addDone s d
  exact congrArg (fun v => (v.2.1, v.2.2.1, v.2.2.2.fifo, v.2.2.2.fifoAt, v.2.2.2.rowE, v.2.2.2.cfgQ, v.2.2.2.load)) hx

theorem arrayView_finishArr (s : State) (a : ArrCmd) : arrayView (finishArr s a) = arrayView s := by
  refine (arrayView_addDone _ _).trans ?_
  split <;> rfl

theorem map_mapIdx {α β γ : Type} (f : β → γ) (g : Nat → α → β) (xs : List α) : (xs.mapIdx g).map f = xs.mapIdx fun i x => f (g i x) := by
  simp only [List.mapIdx_eq_zipIdx_map, List.map_map]
  rfl

/-- The array's part of a vc in which one row is due for the chain and has a place there. -/
theorem arrayStart_of_chain {a : ArrCmd} {e : RowEmit} {vs : List W32} (harr : s.cur.arr = [a]) (hrow : s.cur.rowE = [e])
    (hcmd : e.cmd = a.seq) (hemit : e.emit = true) (hvals : e.vals = some vs) (hdue : e.due ≤ s.cur.avc) (hdst : dstOf a.f = 1) :
    let codes := vs.mapIdx fun k y => (chainValue a.cfg a.f (tabOf a.imm) (e.ints.getD k false) k y).1
    arrayView (arrayStart s) = arrayView (s.onCur fun l => { l with
      rowE := [], fifo := l.fifo ++ [(bytesOf (fmtWidth a.cfg.ofmt) codes).map fun b => b.setWidth 32], fifoAt := l.fifoAt ++ [l.vc] }) := by
  have hread : [e].filter (fun e => e.vals.isNone && e.readAt ≤ s.cur.avc) = [] := by simp [hvals]
  have hnow : [e].filter (fun e => e.due ≤ s.cur.avc) = [e] := by simp [hdue]
  have hleft : [e].filter (fun e => !(e.due ≤ s.cur.avc)) = [] := by simp [hdue]
  have hfind : s.cur.arrCmd? e.cmd = some a := by simp [Lease.arrCmd?, harr, hcmd]
  simp only [arrayStart, hrow, hread, hnow, List.foldl_nil, List.foldl_cons]
  refine Eq.trans (foldl_keeps (view := arrayView) arrayView_finishArr _ _) ?_
  simp only [emitDue, hfind, emitRow, hemit, hdst, hvals, Bool.not_true, Bool.false_eq_true, if_false, State.onArr, arrayView,
    onCur_vfile, onCur_accs, onCur_cur, hrow, Option.getD_some, map_mapIdx]
  exact congrArg (fun es => (s.vfile, s.accs, _, _, es, s.cur.cfgQ, s.cur.load)) hleft

end

/-! ### A row from the chain (07 R167, R183) -/

section
variable {s : State} {k : Nat} {p : Lease}

/-- A change of another lease, done in its focus, leaves the focus where it was. -/
theorem asLease_of_other (hst : s.cur.st ≠ .free) (hk : k ≠ s.cur.id) (hp : s.lease? k = some p) (hpk : p.id = k) (hpst : p.st ≠ .free)
    {f : Lease → Lease} (hid : (f p).id = p.id) (hfst : (f p).st = p.st) :
    ∃ r, asLease k s (State.onCur · f) = { s with rest := f p :: r } := by
  have hne : ¬ s.cur.id = k := hk.symm
  have hfind : s.rest.find? (fun x => x.id = k) = some p := by simpa [State.lease?, hne] using hp
  have hfocus : s.focus k = { s with cur := p, rest := s.cur :: s.rest.filter fun y => y.id ≠ k } := by
    simp only [State.focus, if_neg hne, hfind, if_neg hst, List.singleton_append]
  have hid' : ¬ (f p).id = s.cur.id := by rw [hid, hpk]; exact hk
  have hback : (f p).st ≠ .free := hfst ▸ hpst
  refine ⟨(s.cur :: s.rest.filter fun y => y.id ≠ k).filter fun y => y.id ≠ s.cur.id, ?_⟩
  rw [asLease, onLease, hp, Option.isSome_some, if_pos rfl, hfocus, State.focus]
  simp only [onCur_cur, onCur_rest, hid', hback, if_false, List.find?_cons, decide_true, List.singleton_append]
  rfl

theorem popFifo_of_empty (hchin : s.cur.chin = some k) (hp : s.lease? k = some p) (hfifo : p.fifo = []) : popFifo s = none := by
  simp only [popFifo, hchin, Option.bind_some, hp, hfifo]

theorem popFifo_of_head {b : Lanes} {bs : List Lanes} {t : Nat} {ts : List Nat} (hchin : s.cur.chin = some k) (hp : s.lease? k = some p)
    (hpk : p.id = k) (hfifo : p.fifo = b :: bs) (hat : p.fifoAt = t :: ts) (ht : t < s.cur.vc) :
    popFifo s = some (b.map fun x => x.setWidth 8, asLease k s (State.onCur · fun l => { l with fifo := bs, fifoAt := ts })) := by
  simp only [popFifo, hchin, Option.bind_some, hp, hfifo, hat, if_pos ht, hpk]

end

section
variable {s : State} {a : ArrCmd} {k : Nat} {p : Lease}

theorem intake_of_mul (hkind : a.kind = .mul ∨ a.kind = .lut) (hstop : a.stopped = false) (hsaving : s.cur.saving = false) :
    intake s a = mulIntake a s := by
  have hnow : a.stopsNow s.cur = false := by rw [ArrCmd.stopsNow, hsaving, Bool.false_and]
  simp only [intake, hstop, hnow, Bool.false_eq_true, if_false]
  obtain h | h := hkind <;> rw [h]

theorem arrCmd?_self (harr : s.cur.arr = [a]) : s.cur.arrCmd? a.seq = some a := by
  simp [Lease.arrCmd?, harr]

theorem mulIntake_of_empty (harr : s.cur.arr = [a]) (hfin : finOf a.imm = true) (htaken : a.taken < a.mcnt) (hpop : popFifo s = none) :
    mulIntake a s = s := by
  simp only [mulIntake, hfin, hpop, if_true, arrCmd?_self harr, if_neg htaken.ne, ite_self]

/-- The lease behind the row that it takes: the sums on their way, the emission, and the command one row further. -/
def rowTaken (a : ArrCmd) (vs : Lanes) (fl : Nat) (l : Lease) : Lease :=
  let int : Bool := hFmt a.h = 0x09
  let lut := if a.kind = .lut then 4 else 0
  let at_ := l.avc + l.kLen + l.width + 2 + lut
  { l with
    rowW := l.rowW ++ [⟨a.seq, a.taken, l.avc + l.kLen + 3 + lut, vs, a.f.getLsbD 7, int⟩],
    rowE := l.rowE ++ (if a.emits then [⟨a.seq, a.taken, a.taken, 0, at_, at_ + 6, true, none, List.replicate l.width int⟩] else []),
    arr := [{ a with
      taken := a.taken + 1, lastIn := l.avc, flags := a.flags ||| fl,
      doneAt := if a.taken + 1 = a.mcnt then some (if a.emits then at_ + 6 else at_) else none }] }

/-- The same before the command's end is looked for. -/
def rowEntered (a : ArrCmd) (vs : Lanes) (fl : Nat) (l : Lease) : Lease :=
  { rowTaken a vs fl l with arr := [{ a with taken := a.taken + 1, lastIn := l.avc, flags := a.flags ||| fl }] }

theorem enterRow_of_mul (as : List Nat) (harr : s.cur.arr = [a]) :
    let r := rowSums s.cur.kLen s.cur.width (hFmt a.h) s.cur.wact as []
    enterRow a a.taken a.taken 0 true as [] s = s.onCur (rowEntered a r.1 r.2) := by
  dsimp only
  simp only [enterRow, State.onArr, State.onCur, harr, List.map_cons, List.map_nil, if_true, rowEntered, rowTaken,
    apply_ite (s.cur.rowE ++ ·), List.append_nil]

theorem rowEntered_arrCmd? (vs : Lanes) (fl : Nat) (l : Lease) : (rowEntered a vs fl l).arrCmd? a.seq =
    some { a with taken := a.taken + 1, lastIn := l.avc, flags := a.flags ||| fl } :=
  List.find?_cons_of_pos (decide_eq_true rfl)

theorem lastDone_eq (l : Lease) (a : ArrCmd) :
    let at_ := l.avc + l.kLen + l.width + 2 + if a.kind = .lut then 4 else 0
    lastDone l a = if a.emits then at_ + 6 else at_ := by
  simp only [lastDone]
  split <;> omega

theorem rowTaken_of_last (hlast : a.taken + 1 = a.mcnt) (vs : Lanes) (fl : Nat) (l : Lease) :
    rowTaken a vs fl l = { rowEntered a vs fl l with
      arr := [{ a with taken := a.taken + 1, lastIn := l.avc, flags := a.flags ||| fl, doneAt := some (lastDone l a) }] } := by
  simp only [rowTaken, rowEntered, if_pos hlast, lastDone_eq]

theorem onArr_of_single (harr : s.cur.arr = [a]) (f : ArrCmd → ArrCmd) : s.onArr a.seq f = s.onCur fun l => { l with arr := [f a] } := by
  simp only [State.onArr, State.onCur, harr, List.map_cons, List.map_nil, if_true]

/-- Behind its last row the command's end is fixed (07 R167). -/
theorem rowEntered_last (hlast : a.taken + 1 = a.mcnt) (vs : Lanes) (fl : Nat) :
    (s.onCur (rowEntered a vs fl)).onArr a.seq (fun x => { x with doneAt := some (lastDone (s.onCur (rowEntered a vs fl)).cur x) }) =
      s.onCur (rowTaken a vs fl) := by
  rw [State.onCur, State.onCur, rowTaken_of_last hlast]
  exact onArr_of_single (a := { a with taken := a.taken + 1, lastIn := s.cur.avc, flags := a.flags ||| fl }) rfl _

theorem rowEntered_not_last (hlast : a.taken + 1 ≠ a.mcnt) (hdone : a.doneAt = none) (vs : Lanes) (fl : Nat) :
    s.onCur (rowEntered a vs fl) = s.onCur (rowTaken a vs fl) := by
  simp only [State.onCur, rowEntered, rowTaken, if_neg hlast, hdone]

theorem mulIntake_of_row {b : List Byte} {w : State} (harr : s.cur.arr = [a]) (hfin : finOf a.imm = true) (hdone : a.doneAt = none)
    (hturn : a.t + a.taken ≤ s.cur.avc) (hfree : a.taken = 0 ∨ a.lastIn < s.cur.avc) (hpop : popFifo s = some (b, w)) (hcur : w.cur = s.cur) :
    let n := fmtWidth (hFmt a.h)
    let r := rowSums s.cur.kLen s.cur.width (hFmt a.h) s.cur.wact (codesOf n (b.length * 8 / n) b) []
    mulIntake a s = w.onCur fun _ => rowTaken a r.1 r.2 s.cur := by
  have hgo : (!(decide (a.t + a.taken ≤ s.cur.avc) && (decide (a.taken = 0) || decide (a.lastIn < s.cur.avc)))) = false := by
    simpa [hturn] using or_iff_not_imp_left.1 hfree
  simp only [mulIntake, hgo, hfin, hpop, if_true, Bool.false_eq_true, if_false]
  have harr' : w.cur.arr = [a] := hcur ▸ harr
  rw [← hcur]
  generalize codesOf _ _ b = as
  rw [enterRow_of_mul as harr']
  generalize rowSums w.cur.kLen w.cur.width (hFmt a.h) w.cur.wact as [] = r
  simp only [onCur_cur, rowEntered_arrCmd?]
  split
  next hlast => exact rowEntered_last hlast r.1 r.2
  next hlast => exact rowEntered_not_last hlast hdone r.1 r.2

end

/-! ### The statement's clauses -/

section
variable {s : State}

/-- A row that is due for the chain has a place in the FIFO or makes the array stand (07 R183). -/
theorem vectorWriteback_of_chain {a : ArrCmd} {e : RowEmit} {vs : List W32} (hst : s.cur.st ≠ .free) (hpause : s.cur.pause = false)
    (harr : s.cur.arr = [a]) (hrow : s.cur.rowE = [e]) (hrows : s.cur.rowW = []) (hpend : s.cur.pend = []) (hcfg : s.cur.cfgQ = [])
    (hload : s.cur.load = none) (hcmd : e.cmd = a.seq) (hemit : e.emit = true) (hvals : e.vals = some vs) (hdue : e.due ≤ s.cur.avc)
    (hdst : dstOf a.f = 1) :
    let codes := vs.mapIdx fun k y => (chainValue a.cfg a.f (tabOf a.imm) (e.ints.getD k false) k y).1
    (s.cur.fifo.length < 8 → ∃ v, exec (.vectorWriteback s.cur.id) s = .next v ∧ v.cur.rowE = [] ∧ v.accs = s.accs ∧ v.vfile = s.vfile ∧
      v.cur.fifo = s.cur.fifo ++ [(bytesOf (fmtWidth a.cfg.ofmt) codes).map fun b => b.setWidth 32] ∧
      v.cur.fifoAt = s.cur.fifoAt ++ [s.cur.vc]) ∧
    (8 ≤ s.cur.fifo.length → exec (.vectorWriteback s.cur.id) s = .next (s.onCur fun l => { l with arrHeld := true })) := by
  have hchain := rowDst_of_chain harr hcmd hemit hdst
  have hexec : exec (.vectorWriteback s.cur.id) s = .next (vcStart s) := congrArg _ (CpPlainWords.onLease_of_focus hst _)
  refine ⟨fun h => ?_, fun h => ?_⟩
  · have hview := arrayStart_of_chain harr hrow hcmd hemit hvals hdue hdst
    simp only [arrayView, Prod.mk.injEq, onCur_cur, onCur_vfile, onCur_accs] at hview
    obtain ⟨hvfile, haccs, hfifo, hat, hleft, hq, hl⟩ := hview
    have hstart := vcStart_of_array hpause hpend hrows (if_neg (by simp [fifoHeld_of_room hrow hdue hchain h]))
      (hq.trans hcfg) (hl.trans hload)
    exact ⟨_, hexec.trans (congrArg _ hstart), hleft, haccs, hvfile, hfifo, hat⟩
  · have hheld := emitFitting_of_stuck hrow hdue (dueRows_of_full hrow hdue hchain h)
    exact hexec.trans (congrArg _ (vcStart_of_array hpause hpend hrows
      ((if_pos (fifoHeld_of_full hrow hdue hchain h)).trans (by rw [hheld])) hcfg hload))

/-- The consumer at the end of a vc in which its next row may enter (07 R167, R183). -/
theorem chainRowEnter_of_mul {a : ArrCmd} {v : State} (hst : s.cur.st ≠ .free) (hpause : s.cur.pause = false)
    (hheld : s.cur.arrHeld = false) (hsaving : s.cur.saving = false) (harr : s.cur.arr = [a]) (hkind : a.kind = .mul ∨ a.kind = .lut)
    (hstop : a.stopped = false) (hdone : a.doneAt = none) (hv : mulIntake a s = v) (hload : v.cur.load = none) (hcfg : v.cur.cfgQ = []) :
    exec (.chainRowEnter s.cur.id) s = .next v := by
  have hfeeding : a.feeding = true := by
    obtain h | h := hkind <;> simp [ArrCmd.feeding, h, hdone]
  have hend : vcEnd s = v := vcEnd_of_intake hpause hheld
    (by rw [harr, List.filter_cons_of_pos hfeeding]; exact (intake_of_mul hkind hstop hsaving).trans hv) hload hcfg
  exact congrArg _ ((CpPlainWords.onLease_of_focus hst _).trans hend)

theorem lease?_of_rest {q : Lease} {r : List Lease} {k : Nat} (hk : k ≠ s.cur.id) (hrest : s.rest = q :: r) (hq : q.id = k) :
    s.lease? k = some q := by
  simp [State.lease?, hk.symm, hrest, hq]

/-- The row that a consumer takes from the parcel before it (07 R167, R183). -/
theorem chainRowEnter_of_row {a : ArrCmd} {k t : Nat} {p : Lease} {b : Lanes} {bs : List Lanes} {ts : List Nat} (hst : s.cur.st ≠ .free)
    (hpause : s.cur.pause = false) (hheld : s.cur.arrHeld = false) (hsaving : s.cur.saving = false) (hload : s.cur.load = none)
    (hcfg : s.cur.cfgQ = []) (harr : s.cur.arr = [a]) (hkind : a.kind = .mul ∨ a.kind = .lut) (hfin : finOf a.imm = true)
    (hstop : a.stopped = false) (hdone : a.doneAt = none) (hturn : a.t + a.taken ≤ s.cur.avc) (hfree : a.taken = 0 ∨ a.lastIn < s.cur.avc)
    (hchin : s.cur.chin = some k) (hp : s.lease? k = some p) (hpk : p.id = k) (hk : k ≠ s.cur.id) (hpst : p.st ≠ .free)
    (hfifo : p.fifo = b :: bs) (hat : p.fifoAt = t :: ts) (ht : t < s.cur.vc) :
    let w := fmtWidth (hFmt a.h)
    let r := rowSums s.cur.kLen s.cur.width (hFmt a.h) s.cur.wact (codesOf w (b.length * 8 / w) (b.map fun y => y.setWidth 8)) []
    ∃ v q, exec (.chainRowEnter s.cur.id) s = .next v ∧ v.lease? k = some q ∧ q.fifo = bs ∧ q.fifoAt = ts ∧ v.mem = s.mem ∧
      v.vfile = s.vfile ∧ v.accs = s.accs ∧ v.cur = rowTaken a r.1 r.2 s.cur := by
  intro w r
  obtain ⟨rest, hpop⟩ := asLease_of_other hst hk hp hpk hpst (f := fun l => { l with fifo := bs, fifoAt := ts }) rfl rfl
  have hrow := mulIntake_of_row harr hfin hdone hturn hfree ((popFifo_of_head hchin hp hpk hfifo hat ht).trans (congrArg (fun w => some (_, w)) hpop)) rfl
  rw [List.length_map] at hrow
  exact ⟨_, { p with fifo := bs, fifoAt := ts },
    chainRowEnter_of_mul hst hpause hheld hsaving harr hkind hstop hdone hrow hload hcfg, lease?_of_rest hk rfl hpk,
    rfl, rfl, rfl, rfl, rfl, rfl⟩

theorem completion_of_focus (s : State) : exec (.completion s.cur.id) s = .next s.complete ∨
    s.cur.st = .free ∧ exec (.completion s.cur.id) s = .next s := by
  by_cases hst : s.cur.st = .free
  · by_cases h : (s.lease? s.cur.id).isSome
    · refine .inl (congrArg Host.Outcome.next ?_)
      rw [onLease, if_pos h, State.focus, if_pos rfl]
    · exact .inr ⟨hst, congrArg _ (if_neg h)⟩
  · exact .inl (congrArg _ (CpPlainWords.onLease_of_focus hst _))

end

/-- Settles O44: a completion and a release keep the views of the state, and an event of a vc follows the branch that its conditions
choose. -/
theorem resultsAndCompletions : Obligations.ResultsAndCompletions := by
  unfold Obligations.ResultsAndCompletions
  refine ⟨fun s h => ⟨congrArg _ (onLease_of_fixed (vcEnd_of_pause h)), fun hb => congrArg _ (onLease_of_fixed (vcStart_of_pause h hb))⟩,
    fun s hst => ⟨congrArg _ (CpPlainWords.onLease_of_focus hst _), congrArg _ (CpPlainWords.onLease_of_focus hst _)⟩,
    fun s p h => finishPend_rules s h, ?swap, fun s j h => mxldRowArrival_of_not_awaited h, ?weights, ?chain, ?consumer,
    fun s h => congrArg _ (onLease_of_fixed (complete_of_stopped h)), fun s => ?completion⟩
  case swap =>
    intro s c hpause hheld harr hload hcfg hop hst
    obtain ⟨x, hview⟩ := vcEnd_of_swap hpause hheld harr hload hcfg hop
    have hcur := congrArg (·.2.2.2) hview
    exact ⟨vcEnd s, congrArg _ (CpPlainWords.onLease_of_focus hst _), (congrArg Lease.wact hcur :), (congrArg Lease.wshd hcur :),
      (congrArg Lease.cfgQ hcur :), (congrArg Lease.ct hcur :), congrArg (·.2.1) hview, congrArg (·.2.2.1) hview⟩
  case weights =>
    intro s x j hst hlog hload hj
    obtain ⟨v, hexec, hview⟩ := mxldRowArrival_of_awaited hst hlog hload hj
    exact ⟨v, hexec, congrArg (·.1) hview, congrArg (·.2.1) hview, congrArg (·.2.2.1) hview, congrArg (·.2.2.2) hview⟩
  case chain =>
    intro s a e vs hst hpause harr hrow hrows hpend hcfg hload hcmd hemit hvals hdue hdst
    exact vectorWriteback_of_chain hst hpause harr hrow hrows hpend hcfg hload hcmd hemit hvals hdue hdst
  case consumer =>
    intro s a k p hst hpause hheld hsaving hload hcfg harr hkind hfin hstop hdone htaken hturn hfree hchin hp hpk hother hpst
    refine ⟨fun hfifo => ?_, fun b bs t ts hfifo hat ht => ?_⟩
    · exact chainRowEnter_of_mul hst hpause hheld hsaving harr hkind hstop hdone
        (mulIntake_of_empty harr hfin htaken (popFifo_of_empty hchin hp hfifo)) hload hcfg
    · obtain ⟨v, q, hexec, hq, hfifo', hat', hmem, hvfile, haccs, hcur⟩ := chainRowEnter_of_row hst hpause hheld hsaving hload hcfg harr
        hkind hfin hstop hdone hturn hfree hchin hp hpk (hpk ▸ hother) hpst hfifo hat ht
      exact ⟨v, q, hexec, hq, hfifo', hat', hmem, hvfile, haccs, (congrArg Lease.ct hcur :), (congrArg Lease.rowW hcur :),
        (congrArg Lease.rowE hcur :), (congrArg Lease.arr hcur :)⟩
  case completion =>
    obtain h | ⟨hst, h⟩ := completion_of_focus s
    · obtain ⟨hsregs, hhandles, hpc, hnstat, hvfile, haccs, hleft⟩ := complete_rules s
      exact ⟨_, h, hsregs, hhandles, hpc, hnstat, hvfile, haccs, fun hhalt hf _ => hleft hhalt hf⟩
    · exact ⟨s, h, rfl, rfl, rfl, rfl, rfl, rfl, fun _ _ hfree => (hfree hst).elim⟩

end Sys2Proof.Proofs.VcEvents

/-! ## The words of the array (07 R167-R182)

Each issue function has one lemma: the branch that refuses the word contradicts one of its checks, and the other leaves its command
in the lease. A move of a bank row is a completion to come, which the end of its issue keeps. -/

namespace Sys2Proof.Proofs.ArrayWords

open Machine Claims Laws

/-! ### Checks that pass -/

@[simp] theorem orElseC_none (b : Option Cause) : orElseC none b = b := rfl

@[simp] theorem firstBad_nil : firstBad [] = none := rfl

@[simp] theorem firstBad_false (c : Cause) (cs : List (Bool × Cause)) : firstBad ((false, c) :: cs) = firstBad cs := rfl

@[simp] theorem firstBad_true (c : Cause) (cs : List (Bool × Cause)) : firstBad ((true, c) :: cs) = some c := rfl

/-! ### Commands of the array (07 R167, R177-R180) -/

/-- The command x of the array has entered. -/
def entered (x : ArrCmd) (v : State) : State := v.onCur fun l => { l with nextSeq := l.nextSeq + 1, arr := l.arr ++ [x] }

section
variable {t : Tok} {h g acc : BitVec 4} {f : BitVec 8} {imm : BitVec 20} {u v : State}

/-- The command of MXMUL or MXLUT that issues in u, its race checks leaving v; that of MXDRAIN but for its rows. -/
def productCmd (kind : ArrKind) (t : Tok) (h : Handle) (g acc : BitVec 4) (f : BitVec 8) (imm : BitVec 20) (u v : State) : ArrCmd :=
  { seq := v.cur.nextSeq, kind := kind, t := u.cur.avc, slot := u.cur.curSlot .cp, sig := t.sig, f := f, imm := imm,
    base := (u.cur.window acc).1, rows := (u.cur.window acc).2, h := h, g := u.handle g.toNat, cfg := u.cur.cfg, mcnt := mcntOf imm }

/-- The window holds the rows of a command, and its destination takes them. -/
structure Placed (g acc : BitVec 4) (f : BitVec 8) (imm : BitVec 20) (u : State) : Prop where
  rows : (u.cur.window acc).2 ≠ 0
  room : mcntOf imm ≤ (u.cur.window acc).2 * u.cur.accQ
  dst : dstBad u.cur f (u.handle g.toNat) (some (mcntOf imm)) = none

/-- The active weights are of the word's kind and pair with the activations' format. -/
def Pairs (kind : ArrKind) (fmt tag : Nat) : Prop :=
  (kind = .mul ∧ tag ≠ 0 ∧ tag ≠ tagSgn ∧ pairOk fmt tag = true) ∨ (kind = .lut ∧ tag = tagSgn ∧ (fmt = 0x02 ∨ fmt = 0x09))

theorem issueMul_of_checks {kind : ArrKind} (hplace : Placed g acc f imm u)
    (hpair : Pairs kind (hFmt (u.handle h.toNat)) u.cur.wact.tag)
    (hact : actBad u.cur (u.handle h.toNat) (finOf imm) (mcntOf imm) = none)
    (hspans : spansCheck (u.cur.curSlot .cp) (if finOf imm then [] else rowSpans (u.handle h.toNat) 0 (mcntOf imm))
      (outSpans f (u.handle g.toNat) (mcntOf imm)) u = .ok v) :
    issueMul kind t h g acc f imm u = .ok (entered (productCmd kind t (u.handle h.toNat) g acc f imm u v) v) := by
  obtain ⟨hrows, hroom, hdst⟩ := hplace
  unfold issueMul
  dsimp only
  split
  next hbad =>
    obtain ⟨rfl, hzero, hsgn, hok⟩ | ⟨rfl, htag, hfmt | hfmt⟩ := hpair
    · simp [hrows, not_lt.2 hroom, hdst, hact, hzero, hsgn, hok] at hbad
    all_goals simp [hrows, not_lt.2 hroom, hdst, hact, htag, hfmt] at hbad
  next =>
    rw [hspans]
    rfl

/-- The rows of MXDRAIN: row r is read at t + r and leaves at t + r + 8. -/
def drainRows (k t m : Nat) : List RowEmit := (List.range m).map fun r => RowEmit.mk k r r 0 (t + r) (t + r + 8) true none []

/-- The command of MXDRAIN, which has taken its rows and ends with the last of them. -/
def drainCmd (t : Tok) (g acc : BitVec 4) (f : BitVec 8) (imm : BitVec 20) (u v : State) : ArrCmd :=
  { productCmd .drain t 0 g acc f imm u v with taken := mcntOf imm, doneAt := some (u.cur.avc + mcntOf imm + 7) }

theorem issueDrain_of_checks (hplace : Placed g acc f imm u)
    (hspans : spansCheck (u.cur.curSlot .cp) [] (outSpans f (u.handle g.toNat) (mcntOf imm)) u = .ok v) :
    issueDrain t g acc f imm u = .ok (((drainRows v.cur.nextSeq u.cur.avc (mcntOf imm)).take 1).foldl readRow
      ((entered (drainCmd t g acc f imm u v) v).onCur fun l =>
        { l with rowE := l.rowE ++ drainRows v.cur.nextSeq u.cur.avc (mcntOf imm) })) := by
  obtain ⟨hrows, hroom, hdst⟩ := hplace
  unfold issueDrain
  dsimp only
  split
  next hbad => simp [hrows, not_lt.2 hroom, hdst] at hbad
  next =>
    rw [hspans]
    rfl

/-- The command of MXBS, in number 0: it begins at the entry that the row progress gives. -/
def walkCmd (t : Tok) (h g acc : BitVec 4) (f : BitVec 8) (imm : BitVec 20) (u : State) : ArrCmd :=
  { seq := 0, kind := .bs, t := u.cur.arrNow, slot := u.cur.curSlot .cp, sig := t.sig, f := f, imm := imm, base := (u.cur.window acc).1,
    rows := (u.cur.window acc).2, h := u.handle h.toNat, g := u.handle g.toNat, g1 := u.handle (g.toNat + 1),
    g2 := u.handle (g.toNat + 2), cfg := u.cur.cfg, mcnt := u.cur.bsStart,
    doneAt := if hDim1 (u.handle (g.toNat + 1)) ≤ u.cur.bsStart then some (u.cur.arrNow + 1) else none }

/-- The activations h, the weights w, the table e and the destination d of MXBS are as 07 R179 asks, and a block fits the window. -/
structure Walkable (acc : BitVec 4) (f : BitVec 8) (l : Lease) (h w e d : Handle) : Prop where
  rows : (l.window acc).2 ≠ 0
  room : 64 ≤ (l.window acc).2 * l.accQ
  activations : actBad l h false 0 = none
  weights : l.cpHandle w = none
  table : l.cpHandle e = none
  scale : l.scaleOk w = true
  weightFmt : weightFmt (hFmt w) = true
  not_cb4 : hFmt w ≠ 0x08
  not_int4g : hFmt w ≠ 0x0A
  pair : pairOk (hFmt h) (hFmt w) = true
  length : hDim0 w ≤ l.kLen
  width : hDim1 w ≤ l.width
  tableFmt : hFmt e = 0x0C
  entry : 16 ≤ hDim0 e
  dst : dstBad l f d none = none

theorem issueBs_of_checks (hwalk : Walkable acc f u.cur (u.handle h.toNat) (u.handle g.toNat) (u.handle (g.toNat + 1)) (u.handle (g.toNat + 2)))
    (hspans : spansCheck (u.cur.curSlot .cp) (bsSpans u (walkCmd t h g acc f imm u) u.cur.bsStart).1
      (bsSpans u (walkCmd t h g acc f imm u) u.cur.bsStart).2 u = .ok v) :
    issueBs t h g acc f imm u = .ok (entered { walkCmd t h g acc f imm u with seq := v.cur.nextSeq } v) := by
  unfold walkCmd at hspans
  unfold issueBs
  dsimp only
  split
  next hbad =>
    simp [hwalk.rows, not_lt.2 hwalk.room, hwalk.activations, hwalk.weights, hwalk.table, hwalk.scale, hwalk.weightFmt, hwalk.not_cb4,
      hwalk.not_int4g, hwalk.pair, not_lt.2 hwalk.length, not_lt.2 hwalk.width, hwalk.tableFmt, not_lt.2 hwalk.entry, hwalk.dst] at hbad
  next =>
    rw [hspans]
    rfl

end

/-! ### Weights and the configuration (07 R172, R174, R175) -/

section
variable {t : Tok} {u v : State}

/-- The handle of MXLD gives weights, or a sign table, of a size that the array holds. -/
structure Loadable (pro sgn : BitVec 1) (l : Lease) (h : Handle) : Prop where
  handle : l.handleCheck h = none
  not_remote : hSpace h ≠ spRemote
  not_view : hSpace h ≠ spView
  sgnFmt : sgn = 1 → hFmt h = 0x0C
  weightFmt : sgn = 0 → weightFmt (hFmt h) = true
  proFmt : pro = 1 ↔ hFmt h = 0x08 ∨ hFmt h = 0x0A
  width : hDim1 h ≤ l.width
  length : hDim0 h ≤ if sgn = 1 then l.kLen / 4 else l.kLen
  scale : l.scaleOk h = true

/-- The load that MXLD starts in u: from the window its end is known. -/
def loadCmd (t : Tok) (g : BitVec 4) (pro sgn : BitVec 1) (u v : State) : LoadCmd :=
  { seq := v.cur.nextSeq, t := u.cur.vc, slot := u.cur.curSlot .cp, sig := t.sig, g := u.handle g.toNat, pro := pro = 1, sgn := sgn = 1,
    doneAt := if hSpace (u.handle g.toNat) = spScratch then some (u.cur.vc + u.cur.width + (if pro = 1 then 12 else 8)) else none }

theorem loadable_fmt {pro sgn : BitVec 1} {l : Lease} {h : Handle} (hload : Loadable pro sgn l h) :
    ((sgn = 1 && hFmt h ≠ 0x0C) || (sgn = 0 && !weightFmt (hFmt h)) || (decide (pro = 1) != (hFmt h = 0x08 || hFmt h = 0x0A))) = false := by
  have hpro : decide (pro = 1) = (decide (hFmt h = 0x08) || decide (hFmt h = 0x0A)) :=
    (decide_eq_decide.2 hload.proFmt).trans (Bool.decide_or ..)
  have hsgn : (sgn = 1 && hFmt h ≠ 0x0C) = false := by simpa using hload.sgnFmt
  have hweights : (sgn = 0 && !weightFmt (hFmt h)) = false := by simpa using hload.weightFmt
  rw [hsgn, hweights, hpro, bne_self_eq_false]
  rfl

theorem loadable_size {pro sgn : BitVec 1} {l : Lease} {h : Handle} (hload : Loadable pro sgn l h) :
    (l.width < hDim1 h || (if sgn = 1 then l.kLen / 4 else l.kLen) < hDim0 h) = false := by
  rw [decide_eq_false (not_lt.2 hload.width), decide_eq_false (not_lt.2 hload.length)]
  rfl

theorem issueLoad_of_checks {g : BitVec 4} {pro sgn : BitVec 1} (hload : Loadable pro sgn u.cur (u.handle g.toNat))
    (hspans : spansCheck (u.cur.curSlot .cp)
      (if hSpace (u.handle g.toNat) = spScratch then rowSpans (u.handle g.toNat) 0 (hDim1 (u.handle g.toNat)) else []) [] u = .ok v) :
    issueLoad t g pro sgn u =
      .ok (v.onCur fun l => { l with nextSeq := l.nextSeq + 1, load := some (loadCmd t g pro sgn u v), rowprog := 0 }) := by
  unfold issueLoad
  dsimp only
  split
  next hbad =>
    rw [hload.handle, loadable_fmt hload, loadable_size hload] at hbad
    simp [hload.not_remote, hload.not_view, hload.scale] at hbad
  next =>
    rw [hspans]
    rfl

/-- A configuration of the output chain is to come. -/
def configured (c : CfgCmd) (v : State) : State := v.onCur fun l => { l with nextSeq := l.nextSeq + 1, cfgQ := l.cfgQ ++ [c] }

/-- The item of an MXCFG. -/
def cfgItemOf (imm : BitVec 20) : Nat := imm.toNat / 2 ^ 16

/-- The bytes that it reads, but for a format item: an activation table's record, or a vector over the array's columns. -/
def cfgBytes (imm : BitVec 20) (l : Lease) : Nat := if cfgItemOf imm = 2 then 528 else 4 * l.width

theorem issueCfg_of_checks {h : BitVec 4} {imm : BitVec 20} {x : OutCfg}
    (hrec : cfgItemOf imm ≠ 3 →
      cfgBad u.cur (u.handle h.toNat) (if cfgItemOf imm = 2 then 0x0C else 0x01) (cfgBytes imm u.cur) = none)
    (hspans : spansCheck (u.cur.curSlot .cp) (if cfgItemOf imm = 3 then [] else [(hBase (u.handle h.toNat), cfgBytes imm u.cur)]) [] u = .ok v)
    (hitem : cfgItem u.cur (cfgItemOf imm) (imm.toNat % 2 ^ 16)
      (if cfgItemOf imm = 3 then [] else v.cpBytes (hBase (u.handle h.toNat)) (cfgBytes imm u.cur)) = some x) :
    issueCfg t h imm u = .ok (configured
      { seq := v.cur.nextSeq, due := u.cur.vc + (if cfgItemOf imm = 3 then 1 else 16), slot := u.cur.curSlot .cp, op := 5, sig := t.sig,
        cfg := some x } v) := by
  unfold cfgBytes cfgItemOf at *
  have hbad : (if imm.toNat / 2 ^ 16 = 3 then none else cfgBad u.cur (u.handle h.toNat) (if imm.toNat / 2 ^ 16 = 2 then 0x0C else 0x01)
      (if imm.toNat / 2 ^ 16 = 2 then 528 else 4 * u.cur.width)) = none := by
    split
    · rfl
    next h3 => exact hrec h3
  unfold issueCfg
  dsimp only
  rw [hbad, hspans]
  dsimp only
  rw [hitem]
  rfl

end

/-! ### Moves of bank rows (07 R181, R182) -/

section
variable {i : Instr} {t : Tok} {acc : BitVec 4} {s u : State}

theorem accBad_of_empty {l : Lease} {r : Nat} (hempty : (l.window acc).2 = 0) : accBad l acc r = some .regBounds := by
  simp [accBad, hempty]

theorem accBad_of_beyond {l : Lease} {r : Nat} (hrows : (l.window acc).2 ≠ 0) (hbeyond : (l.window acc).2 ≤ r) :
    accBad l acc r = some .illegalOperand := by
  simp [accBad, hrows, hbeyond]

theorem accBad_of_inside {l : Lease} {r : Nat} (hinside : r < (l.window acc).2) : accBad l acc r = none := by
  simp [accBad, Nat.ne_zero_of_lt hinside, not_le.2 hinside]

@[simp] theorem cpIssued_pend : s.cpIssued.cur.pend = s.cur.pend :=
  CpPlainWords.advanceRing_keeps (g := Lease.pend) setStream_pend (fun _ _ => rfl) (fun _ _ => rfl) s .cp

@[simp] theorem cpIssued_accs : s.cpIssued.accs = s.accs := congrArg (·.2.2.2.1) (ControlRings.workView_advanceRing s .cp)

/-- The completion to come of a word that issues in u. -/
def pendOf (t : Tok) (path lat : Nat) (ws : List (Nat × Lanes)) (fl : Nat) (q : PendQ) (u : State) : Pend :=
  { seq := u.cur.nextSeq, due := u.cur.vc + lat, path := path, slot := u.cur.curSlot .cp, op := opcodeOf (u.curWord .cp), sig := t.sig,
    writes := ws, flags := fl, q := q }

/-- The same of a word that writes bank rows, 2 vc after its issue. -/
def accPend (t : Tok) (ws : List (Nat × Lanes)) (clr : Bool) (u : State) : Pend :=
  { pendOf t 0 2 ws 0 .none u with accRow := some (0, clr) }

theorem addPend_eq {path lat fl : Nat} {ws : List (Nat × Lanes)} {q : PendQ} (hp : pathLat u.cur i = (path, lat)) (hlat : lat ≠ 0) :
    u.addPend i t ws fl q = u.onCur fun l => { l with nextSeq := l.nextSeq + 1, pend := l.pend ++ [pendOf t path lat ws fl q u] } := by
  have hp' : pathLat (u.onCur fun l => { l with nextSeq := l.nextSeq + 1 }).cur i = (path, lat) := hp
  simp only [State.addPend, State.takeSeq, hp', hlat, if_false]
  rfl

theorem addAcc_eq {ws : List (Nat × Lanes)} {clr : Bool} (hp : pathLat u.cur i = (0, 2)) :
    u.addAcc i t ws clr = u.onCur fun l => { l with nextSeq := l.nextSeq + 1, pend := l.pend ++ [accPend t ws clr u] } := by
  simp only [State.addAcc, addPend_eq hp two_ne_zero, State.onCur, List.dropLast_concat, List.getLast?_concat]
  rfl

/-- A word that starts and moves rows into the banks leaves its completion last, and the banks as they are. -/
theorem cpWord_of_addAcc {f : State → CpRes} {ws : List (Nat × Lanes)} {clr : Bool} (hs : CpStarts i t s u)
    (hf : f u = .ok (u.addAcc i t ws clr)) (hp : pathLat u.cur i = (0, 2)) :
    ∃ w, cpWord i t f s = .next w ∧ w.cur.pend.getLast? = some (accPend t ws clr u) ∧ w.accs = u.accs :=
  ⟨_, cpWord_of_starts f hs (addAcc_eq hp ▸ hf), by simp, by simp⟩

/-- What MXZERO writes: zeros to every row of its window, in every bank. -/
def zeroWrites (acc : BitVec 4) (l : Lease) : List (Nat × Lanes) :=
  l.plots.flatMap fun q => (List.range (l.window acc).2).map fun r => (accKey l.die q ((l.window acc).1 + r), zeroLanes)

theorem mem_zeroWrites {l : Lease} {q k : Nat} (hq : q ∈ l.plots) (hk : k < (l.window acc).2) :
    (accKey l.die q ((l.window acc).1 + k), zeroLanes) ∈ zeroWrites acc l :=
  List.mem_flatMap.2 ⟨q, hq, List.mem_map.2 ⟨k, List.mem_range.2 hk, rfl⟩⟩

theorem mxzero_of_rows (hs : CpStarts (.mxzero t acc) t s u) (hrows : (u.cur.window acc).2 ≠ 0) :
    ∃ w, exec (.mxzero t acc) s = .next w ∧ w.cur.pend.getLast? = some (accPend t (zeroWrites acc u.cur) true u) ∧ w.accs = u.accs := by
  refine cpWord_of_addAcc hs ?_ rfl
  exact if_neg hrows

/-- What MXWR writes: the register's lanes of each plot to its bank row. -/
def rowWrites (acc : BitVec 4) (x : BitVec 8) (r : BitVec 9) (u : State) : List (Nat × Lanes) :=
  u.cur.plots.zipIdx.map fun q => (accKey u.cur.die q.1 ((u.cur.window acc).1 + r.toNat), ((u.vec x).drop (128 * q.2)).take 128)

theorem mxwr_of_inside {x : BitVec 8} {r : BitVec 9} (hs : CpStarts (.mxwr t acc x r) t s u) (hr : r.toNat < (u.cur.window acc).2) :
    ∃ w, exec (.mxwr t acc x r) s = .next w ∧ w.cur.pend.getLast? = some (accPend t (rowWrites acc x r u) false u) ∧ w.accs = u.accs := by
  refine cpWord_of_addAcc hs ?_ rfl
  simp only [accBad_of_inside hr]
  rfl

theorem mxrd_or_mxwr_of_accBad {x : BitVec 8} {r : BitVec 9} {c : Cause} (hi : i ∈ [Instr.mxrd t acc x r, .mxwr t acc x r])
    (hs : CpStarts i t s u) (hbad : accBad u.cur acc r.toNat = some c) : exec i s = .next (cpStops s t c 0) := by
  simp only [List.mem_cons, List.not_mem_nil, or_false] at hi
  obtain rfl | rfl := hi
  all_goals
    refine VectorWords.cpWord_of_refuse hs ?_
    simp only [hbad]

theorem mxrd_of_inside {v : State} {x : BitVec 8} {r : BitVec 9} (hs : CpStarts (.mxrd t acc x r) t s u) (hr : r.toNat < (u.cur.window acc).2)
    (hread : u.readRegs .cp [(6, (u.cur.window acc).1 + r.toNat)] = .ok v) :
    exec (.mxrd t acc x r) s = .next (cpEnd v t 0 4 (u.cur.vecWrites x.toNat
      (u.cur.plots.flatMap fun q => sget zeroLanes (accKey u.cur.die q ((u.cur.window acc).1 + r.toNat)) v.accs)) 0 .none) := by
  refine cpWord_of_starts _ hs ?_
  simp only [accBad_of_inside hr, hread]
  exact congrArg _ (addPend_eq rfl four_ne_zero)

end

/-- Settles O42: a word of the array whose checks pass enters its command, and a move of a bank row its completion; a window that is
too small refuses the move. -/
theorem arrayWords : Obligations.ArrayWords := by
  unfold Obligations.ArrayWords
  refine ⟨fun t h g acc f imm s u v hrows hroom hdst => ?products,
    fun t h g acc f imm s u v hs hrows hroom hact hw he hscale hfmt h8 hA hpair hk hwidth hent hlen hdst hspans =>
      cpWord_of_starts _ hs (issueBs_of_checks ⟨hrows, hroom, hact, hw, he, hscale, hfmt, h8, hA, hpair, hk, hwidth, hent, hlen, hdst⟩ hspans),
    fun t g pro sgn s u v hs hgood hremote hview hsgn hfmt hpro hwidth hk hscale hspans =>
      cpWord_of_starts _ hs (issueLoad_of_checks ⟨hgood, hremote, hview, hsgn, hfmt, hpro, hwidth, hk, hscale⟩ hspans),
    fun t s u hs => cpWord_of_starts _ hs rfl,
    fun t h imm s u v hs hrec hspans x hitem => cpWord_of_starts _ hs (issueCfg_of_checks hrec hspans hitem),
    fun t acc x r s u => ⟨fun hs hrows => ?zero, fun hs hempty => ?zeroEmpty, fun v hs hr hread => mxrd_of_inside hs hr hread,
      fun hs hr => ?write, fun i hi hs hrows hbeyond => mxrd_or_mxwr_of_accBad hi hs (accBad_of_beyond hrows hbeyond),
      fun i hi hs hempty => mxrd_or_mxwr_of_accBad hi hs (accBad_of_empty hempty)⟩⟩
  case products =>
    have hplace : Placed g acc f imm u := ⟨hrows, hroom, hdst⟩
    exact ⟨fun hact hspans =>
      ⟨fun hs hzero hsgn hok => cpWord_of_starts _ hs (issueMul_of_checks hplace (.inl ⟨rfl, hzero, hsgn, hok⟩) hact hspans),
        fun hs htag hfmt => cpWord_of_starts _ hs (issueMul_of_checks hplace (.inr ⟨rfl, htag, hfmt⟩) hact hspans)⟩,
      fun hspans hs => cpWord_of_starts _ hs (issueDrain_of_checks hplace hspans)⟩
  case zero =>
    obtain ⟨w, hexec, hlast, haccs⟩ := mxzero_of_rows hs hrows
    exact ⟨w, _, hexec, hlast, rfl, rfl, rfl, haccs, fun q hq k hk => mem_zeroWrites hq hk⟩
  case zeroEmpty => exact VectorWords.cpWord_of_refuse hs (if_pos hempty)
  case write =>
    obtain ⟨w, hexec, hlast, haccs⟩ := mxwr_of_inside hs hr
    exact ⟨w, _, hexec, hlast, rfl, rfl, haccs, rfl⟩

end Sys2Proof.Proofs.ArrayWords

/-! ## A batch step whose control block changes as it is read (13 R331, R335)

The model's step reads the place of its slot table before the lines of the control block are filled; the statement reads it after they are.
The two differ where filling those lines writes the block: in a DDR-5 page with AC = 1 the access counter posts a notification (08 R206), and
event queue 1 may stand on the block. -/

namespace Sys2Proof.Proofs.BatchStep

open Machine Laws

/-! ### What a step leaves in its batcher -/

section
variable (p b : Nat) (s : State)

theorem batcher_setBatcher (q : Batcher) : (s.setBatcher p b q).batcher p b = q := by
  rw [State.batcher, State.setBatcher, part_onPart, sput_get]

theorem batcher_onBatcher (f : Batcher → Batcher) : (s.onBatcher p b f).batcher p b = f (s.batcher p b) :=
  batcher_setBatcher ..

/-- STATE of the control block is copied into the batcher's register. -/
theorem batcher_batchState (st : Nat) : (s.batchState p b st).batcher p b = { s.batcher p b with state := st } := by
  unfold State.batchState
  dsimp only
  split <;> exact batcher_setBatcher ..

/-- A batcher that has published, or waits to, is not idle. `batchPublish` is unfolded as a function: its own equation recurses too deep. -/
theorem batchPublish_not_idle (x : Bat) : ((batchPublish x s).batcher x.p x.b).idle = false := by
  have body : batchPublish = batchPublish := rfl
  conv at body =>
    rhs
    delta batchPublish
  rw [body]
  beta_reduce
  generalize x.publish s = r
  obtain ⟨_ | _, w⟩ := r
  · dsimp only
    rw [batcher_onBatcher]
  · dsimp only
    split
    · rw [batcher_onBatcher]
    · rw [batcher_batchState, batcher_onBatcher]

/-- The first reads of a step: the control block, and the slot table that it names in the state v. -/
def firstReads (x : Bat) (v : State) : State :=
  (s.unitTouch (batchUnit x.b) x.p x.a 256).unitTouch (batchUnit x.b) x.p (x.f v 8 8) (64 * x.f v 0 2)

/-- A step whose first reads find the partition halted ends with them (08 R208). -/
theorem batchStepDo_of_halted {p b : Nat} {s : State} (hstage : (s.batcher p b).stage = 1) (hen : (s.batcher p b).en = true)
    (hstate : (s.batcher p b).state ≠ 2) (hhalt : ((firstReads s ⟨p, b, (s.batcher p b).addr.toNat⟩ s).part p).pstate ≠ 0) :
    batchStepDo p b s = firstReads s ⟨p, b, (s.batcher p b).addr.toNat⟩ s := by
  have hgoes : ¬ (!(s.batcher p b).en || (s.batcher p b).state = 2 || ((s.batcher p b).stage = 0 && (s.batcher p b).done ≠ 1)) = true := by
    simp [hstage, hen, hstate]
  exact (if_neg (by omega)).trans ((if_neg hgoes).trans (if_pos hhalt))

/-- What the statement says of a step that starts at rule 3 and whose first reads, as the statement has them, find no halt: the batcher goes
idle in STATE 0, or is not idle. -/
theorem rests_or_publishes (h : Obligations.ListsAndBatching) (hstage : (s.batcher p b).stage = 1) (hen : (s.batcher p b).en = true)
    (hstate : (s.batcher p b).state ≠ 2)
    (hruns : ((firstReads s ⟨p, b, (s.batcher p b).addr.toNat⟩
      (s.unitTouch (batchUnit b) p (s.batcher p b).addr.toNat 256)).part p).pstate = 0) :
    ∃ v, exec (.batchStep p b) s = .next v ∧ ((v.batcher p b).state = 0 ∨ (v.batcher p b).idle = false) := by
  unfold Obligations.ListsAndBatching at h
  obtain ⟨-, -, -, -, -, -, -, hstep, -⟩ := h
  obtain ⟨-, -, hstarts, -⟩ := hstep p b s
  obtain ⟨-, hidles, hpublishes⟩ := hstarts (.inl hstage) hen hstate
  refine (Classical.em _).elim (fun hnone => ⟨_, hidles hruns hnone, .inl ?_⟩) (fun hsome => ⟨_, hpublishes hruns hsome, .inr ?_⟩)
  · rw [batcher_onBatcher, batcher_batchState]
  · exact batchPublish_not_idle ..

end

/-! ### The counterexample -/

/-- A batcher in STATE 1 that starts a step at rule 3, its control block at 0x60038. -/
def startingBatcher : Batcher := { addr := 0x60038, en := true, state := 1, stage := 1 }

/-- One 1 GiB page of DDR-5 with AC = 1; a control block of one slot, whose slot table at 0x80000 has an uncorrectable error; event queue 1
where the block names that table. -/
def blockUnderQueue : State :=
  { State.reset with
    mem := writeLe (writeLe (writeLe [] 0x10000 0xE8FF000000000000 8) (ddrKey 0x60038) 1 2) (ddrKey 0x60040) 0x80000 8
    badGran := [ddrKey 0x80000 / 64]
    parts := [(0, { pxbase := 0x10000, nthresh := 1, eqs := [(1, { base := 0x60040, ctl := 0x80000006 })],
                    batchers := [(0, startingBatcher)] })] }

/-- The addresses of the batcher's tables. -/
def startingBat : Bat := ⟨0, 0, (blockUnderQueue.batcher 0 0).addr.toNat⟩

/-- The unit reads the slot table that the block named at first, and halts its partition. -/
theorem firstReads_halt : ((firstReads blockUnderQueue startingBat blockUnderQueue).part 0).pstate ≠ 0 ∧
    (firstReads blockUnderQueue startingBat blockUnderQueue).batcher 0 0 = startingBatcher := by decide +kernel

/-- The slot table that the notification names has no error. -/
theorem firstReads_after_notification :
    ((firstReads blockUnderQueue startingBat (blockUnderQueue.unitTouch (batchUnit 0) 0 startingBat.a 256)).part 0).pstate = 0 := by
  decide +kernel

/-- Refutes O50: a batch step reads where its slot table lies before the control block's lines are filled, and the statement after it.
Where event queue 1 stands on the control block in a counted DDR-5 page, the unit finds the error of the old slot table and halts its
partition; the statement's step reads the place that the notification wrote, finds no error, and goes idle or publishes. -/
theorem not_listsAndBatching : ¬ Obligations.ListsAndBatching := by
  intro h
  obtain ⟨hhalt, hkept⟩ := firstReads_halt
  obtain ⟨v, hv, hends⟩ := rests_or_publishes 0 0 blockUnderQueue h rfl rfl (by decide) firstReads_after_notification
  have hmodel : v = firstReads blockUnderQueue startingBat blockUnderQueue :=
    (Host.Outcome.next.inj hv).symm.trans (batchStepDo_of_halted rfl rfl (by decide) hhalt)
  rw [hmodel, hkept] at hends
  exact absurd hends (by decide)

end Sys2Proof.Proofs.BatchStep

/-! ## TLB invalidation, ATS, PRI and page migration (08 R203, R207; 17 R389)

TLBINV has two lemmas: what a write leaves while BUSY, and what it leaves otherwise; a migration's switch is such a write behind the write of
the leaf. The answers of ATS and PRI, and a migration's step, are chosen by what the partition holds. -/

namespace Sys2Proof.Proofs.TranslationServices

open Machine Laws

/-! ### Requests of the host function -/

section
variable {p : Nat} {s : State}

theorem vf_of_on (h : s.vfOff p = false) (f : State → State) : s.vf p f = f s := if_neg (by simp [h])

theorem vfRead_of_on (h : s.vfOff p = false) (f : State → W64 × State) :
    s.vfRead p f = { (f s).2 with out := (f s).2.out ++ [.barRead p (f s).1] } := by
  simp [State.vfRead, h]

end

/-! ### TLB invalidation (08 R203) -/

/-- A page's address as TLBINV takes it: the start of its 64 KiB. -/
def pageStart (va : Nat) : Nat := nbits va 56 16 * 65536

section
variable {p : Nat} {s : State}

theorem tlbInvalidate_of_busy (h : (s.part p).tlbBusy = true) (f : TlbEntry → Bool) :
    tlbInvalidate p f s = s.setPart p { s.part p with tlbErr := true } := if_pos h

/-- What a write to TLBINV without BUSY leaves: the entries to keep, and BUSY until the accesses `used` have been performed. -/
def invalidated (p : Nat) (used : List Nat) (s : State) (keep : TlbEntry → Bool) : State :=
  { s.setPart p { s.part p with tlbBusy := true, tlbBarrier := used } with tlb := s.tlb.filter keep }

theorem part_invalidated (used : List Nat) (keep : TlbEntry → Bool) :
    (invalidated p used s keep).part p = { s.part p with tlbBusy := true, tlbBarrier := used } := part_setPart ..

theorem tlbInvalidate_of_idle (h : (s.part p).tlbBusy = false) (f : TlbEntry → Bool) :
    ∃ used, tlbInvalidate p f s = invalidated p used s fun e => !(e.part = p && f e) := ⟨_, if_neg (by simp [h])⟩

/-- The entries that hold a page are dropped, and no other. -/
theorem tlbInvPageDo_of_idle (h : (s.part p).tlbBusy = false) (v : W64) : ∃ used, tlbInvPageDo p v s =
    invalidated p used s fun e => !(e.part = p && e.base ≤ pageStart v.toNat && pageStart v.toNat < e.base + e.size) := by
  obtain ⟨used, hused⟩ := tlbInvalidate_of_idle h fun e => e.base ≤ pageStart v.toNat && pageStart v.toNat < e.base + e.size
  exact ⟨used, hused.trans (congrArg (invalidated p used s) (funext fun e => by rw [Bool.and_assoc]))⟩

/-- Every entry of the partition is dropped, and no other. -/
theorem tlbInvAllDo_of_idle (h : (s.part p).tlbBusy = false) : ∃ used, tlbInvAllDo p s = invalidated p used s fun e => e.part ≠ p := by
  obtain ⟨used, hused⟩ := tlbInvalidate_of_idle h fun _ => true
  exact ⟨used, hused.trans (congrArg (invalidated p used s) (funext fun e => by rw [Bool.and_true, decide_not]))⟩

/-- Every access of a list has been performed at its home. -/
def Performed (s : State) (nums : List Nat) : Prop :=
  (∀ r ∈ s.reqs, r.num ∈ nums → r.back = true) ∧ ∀ r ∈ s.ratoms, 2 ^ 64 + r.num ∈ nums → r.haveResult = true

theorem waitsFor_eq_false_iff (nums : List Nat) : s.waitsFor nums = false ↔ Performed s nums := by
  simp [State.waitsFor, State.onTheWay, Performed]

theorem tlbInvDoneDo_of_performed (hb : (s.part p).tlbBusy = true) (h : Performed s (s.part p).tlbBarrier) :
    tlbInvDoneDo p s = s.setPart p { s.part p with tlbBusy := false, tlbBarrier := [] } :=
  if_pos (by simp [hb, (waitsFor_eq_false_iff _).2 h])

theorem tlbInvDoneDo_of_waits (h : (s.part p).tlbBusy = false ∨ ¬ Performed s (s.part p).tlbBarrier) : tlbInvDoneDo p s = s := by
  refine if_neg ?_
  rw [Bool.and_eq_true, Bool.not_eq_true', waitsFor_eq_false_iff]
  rintro ⟨hb, hp⟩
  exact h.elim (fun hn => by simp [hb] at hn) (fun hn => hn hp)

/-! ### ATS and PRI (17 R389) -/

theorem atsAnswer_of_unasked {k : Nat} (h : (k, 0) ∉ (s.part p).ats) (b : Bool) : atsAnswer p k b s = s := if_pos (by simp [h])

theorem atsAnswer_of_present {k : Nat} (h : (k, 0) ∈ (s.part p).ats) : atsAnswer p k true s =
    s.atcRoom.onPart p fun q => { q with ats := q.ats.filter (fun x => x.1 ≠ k), atc := q.atc ++ [k] } :=
  (if_neg (by simp [h])).trans (if_pos rfl)

theorem atsAnswer_of_absent {k : Nat} (h : (k, 0) ∈ (s.part p).ats) : atsAnswer p k false s =
    { s.setPart p { s.part p with ats := (s.part p).ats.map fun x => if x.1 = k then (k, 1) else x } with out := s.out ++ [.pri p k] } :=
  (if_neg (by simp [h])).trans (if_neg (by simp))

/-- An ATS invalidation's change of its partition: the page is forgotten, and the answer waits for the accesses `used`. -/
def forgotten (va : Nat) (used : List Nat) (q : Partition) : Partition :=
  { q with atc := q.atc.filter (fun x => x ≠ va / 4096), atsBarrier := q.atsBarrier ++ [(va / 4096, used)] }

theorem atsDrop_eq (va : Nat) : ∃ used, atsDrop p va s = s.onPart p (forgotten va used) := ⟨_, rfl⟩

theorem priAnswer_of_unasked {k : Nat} (h : (k, 1) ∉ (s.part p).ats) (b : Bool) : priAnswer p k b s = s := if_pos (by simp [h])

theorem priAnswer_of_success {k : Nat} (h : (k, 1) ∈ (s.part p).ats) : priAnswer p k true s =
    s.setPart p { s.part p with ats := (s.part p).ats.filter fun x => x.1 ≠ k } :=
  (if_neg (by simp [h])).trans (if_pos rfl)

theorem priAnswer_of_failure {k : Nat} (h : (k, 1) ∈ (s.part p).ats) : priAnswer p k false s =
    s.setPart p { s.part p with ats := (s.part p).ats.filter fun x => x.1 ≠ k, atsFail := (s.part p).atsFail ++ [k] } :=
  (if_neg (by simp [h])).trans (if_neg (by simp))

end

/-! ### Page migration (08 R207) -/

section
variable {p va a : Nat} {new : W64} {s : State}

theorem rekey_parts (slot key : Nat) : (s.rekey slot key).parts = s.parts := by
  unfold State.rekey
  dsimp only
  split <;> rfl

theorem part_putLeaf (e : W64) (q : Nat) : (s.putLeaf a e).part q = s.part q := by
  show sget {} q (s.rekey 127 (hbmKey a)).parts = _
  rw [rekey_parts]
  rfl

/-- What a key reads does not depend on the firmware's state table. -/
theorem rekey_fwWrote_mem (slot key : Nat) : (s.fwWrote.rekey slot key).mem = (s.rekey slot key).mem := by
  unfold State.rekey
  dsimp only
  rw [apply_ite State.mem, apply_ite State.mem]
  rfl

theorem putLeaf_fwWrote_mem (e : W64) : (s.fwWrote.putLeaf a e).mem = writeLe (s.rekey 127 (hbmKey a)).mem (hbmKey a) e.toNat 8 :=
  congrArg (writeLe · (hbmKey a) e.toNat 8) (rekey_fwWrote_mem 127 (hbmKey a))

/-- The bytes of a page, of a page of 64 KiB where the walk fails. -/
def pageBytes (s : State) (p va : Nat) : Nat :=
  match s.walk p va with
  | .ok (_, k) => 2 ^ k
  | .error _ => 65536

/-- How far a page's migration has come. -/
def migrStep (s : State) (p va : Nat) : Nat := sget 0 (va / 65536) (s.part p).migr

theorem migrateDo_of_waits (h : s.leafAddr p va = none ∨ (s.part p).tlbBusy = true) : migrateDo p va new s = s := by
  unfold migrateDo
  split
  · rfl
  next hleaf => exact if_pos (h.resolve_left (by simp [hleaf]))

section
variable (hleaf : s.leafAddr p va = some a) (hidle : (s.part p).tlbBusy = false)
include hleaf hidle

theorem migrateDo_of_start (h : migrStep s p va = 0) : migrateDo p va new s = migrateBlock p va a s.fwWrote := by
  simp only [migrStep] at h
  simp [migrateDo, hleaf, hidle, h]

theorem migrateDo_of_blocked (h : migrStep s p va = 1) :
    migrateDo p va new s = migrateCopy p va (pageBytes s p va) a new s.fwWrote := by
  simp only [migrStep] at h
  simp only [migrateDo, hleaf, hidle, h]
  rfl

theorem migrateDo_of_copied (h : migrStep s p va = 2) : migrateDo p va new s = migrateSwitch p va a new s.fwWrote := by
  simp only [migrStep] at h
  simp [migrateDo, hleaf, hidle, h]

theorem migrateDo_of_switched (h : 3 ≤ migrStep s p va) :
    migrateDo p va new s = migrateEnd p va (pageBytes s p va) (migrStep s p va / 4) s.fwWrote := by
  obtain ⟨k, hk⟩ := Nat.exists_eq_add_of_le' h
  rw [hk]
  simp only [migrStep] at hk
  simp only [migrateDo, hleaf, hidle, hk]
  rfl

end

/-- The switch writes the new entry with WB = 0, keeps the old place with its step, and drops the page's entries. -/
theorem migrateSwitch_of_idle (hidle : (s.part p).tlbBusy = false) :
    (migrateSwitch p va a new s).mem = (s.putLeaf a (new &&& ~~~0x1000000000000000#64)).mem ∧
    migrStep (migrateSwitch p va a new s) p va = 3 + 4 * (leafTr p (s.entryAt a) 0).key ∧
    ∀ e ∈ (migrateSwitch p va a new s).tlb, ¬ (e.part = p ∧ e.base ≤ pageStart (BitVec.ofNat 64 va).toNat ∧
      pageStart (BitVec.ofNat 64 va).toNat < e.base + e.size) := by
  have hbusy : ((s.putLeaf a (new &&& ~~~0x1000000000000000#64)).part p).tlbBusy = false := by rw [part_putLeaf, hidle]
  obtain ⟨used, hused⟩ := tlbInvPageDo_of_idle hbusy (BitVec.ofNat 64 va)
  unfold migrateSwitch migrStep
  dsimp only
  rw [hused, part_onPart, sput_get]
  refine ⟨rfl, rfl, fun e he ⟨hpart, hbase, hsize⟩ => ?_⟩
  have hkept := (List.mem_filter.1 he).2
  simp only [hpart, hbase, hsize, decide_true, Bool.and_self, Bool.not_true, Bool.false_eq_true] at hkept

/-- The last step of a page that no access waits for clears the page's counters and what is kept of its old place. -/
theorem migrateEnd_of_settled {size old : Nat} (h : (s.part p).faultOpen = []) :
    (migrateEnd p va size old s).mem = s.mem ∧
    (migrateEnd p va size old s).gmeta = s.gmeta.filter (fun m => !(old / 64 ≤ m.1 && m.1 < (old + size) / 64)) ∧
    (migrateEnd p va size old s).counters =
      s.counters.filter (fun c => !(c.1 / 2 ^ 41 = p && va / size = c.1 % 2 ^ 41 * 65536 / size)) ∧
    (migrateEnd p va size old s).counterB1 =
      s.counterB1.filter (fun c => !(c.1 / 2 ^ 41 = p && va / size = c.1 % 2 ^ 41 * 65536 / size)) := by
  have hnone {z : State} (f : Partition → Partition) (hz : z.part p = s.part p) (hf : (f (z.part p)).faultOpen = (z.part p).faultOpen) :
      ((z.onPart p f).part p).faultOpen = [] := by rw [part_onPart, hf, hz, h]
  unfold migrateEnd
  dsimp only
  rw [hnone]
  · exact ⟨rfl, rfl, rfl, rfl⟩
  · rfl
  · rfl

end

/-- Settles O48: each service by what its partition holds: BUSY and the accesses that it waits for, the request for the page, the step of the
page's migration. -/
theorem translationServices : Obligations.TranslationServices := by
  unfold Obligations.TranslationServices
  refine ⟨fun p x s hon => ?invalidations, fun p s => ⟨fun hbusy hdone => ?done, fun hwaits => ?waits⟩,
    fun p k x s => ⟨fun b hnot => ?_, fun hasked => ?_, fun hasked => ?_, fun b hnot => ?_, fun hasked => ?_, fun hasked => ?_, ?dropped⟩,
    fun p x new s => ⟨fun hwaits => congrArg _ (migrateDo_of_waits hwaits), fun a hleaf hidle => ?migration⟩⟩
  case invalidations =>
    have hpage : exec (.tlbinvPage p x) s = .next (tlbInvPageDo p x s) := congrArg Host.Outcome.next (vf_of_on hon _)
    have hall : exec (.tlbinvAll p) s = .next (tlbInvAllDo p s) := congrArg Host.Outcome.next (vf_of_on hon _)
    refine ⟨fun hbusy => ⟨?_, ?_⟩, fun hidle => ⟨?_, ?_⟩, _, congrArg Host.Outcome.next (vfRead_of_on hon (tlbinvstatDo p)), ?_⟩
    · rw [hpage]; exact congrArg _ (tlbInvalidate_of_busy hbusy _)
    · rw [hall]; exact congrArg _ (tlbInvalidate_of_busy hbusy _)
    · obtain ⟨used, hused⟩ := tlbInvPageDo_of_idle hidle x
      have hpart := part_invalidated (p := p) (s := s) used fun e =>
        !(e.part = p && e.base ≤ pageStart x.toNat && pageStart x.toNat < e.base + e.size)
      exact ⟨_, hpage.trans (congrArg Host.Outcome.next hused), rfl, by rw [hpart], by rw [hpart], rfl, rfl, rfl, rfl⟩
    · obtain ⟨used, hused⟩ := tlbInvAllDo_of_idle hidle
      have hpart := part_invalidated (p := p) (s := s) used fun e => e.part ≠ p
      exact ⟨_, hall.trans (congrArg Host.Outcome.next hused), rfl, by rw [hpart], by rw [hpart], rfl, rfl, rfl, rfl⟩
    · have hpart : ((tlbinvstatDo p s).2.part p) = { s.part p with tlbErr := false } := part_setPart ..
      exact ⟨congrArg Partition.tlbErr hpart, (congrArg Partition.tlbBusy hpart).trans rfl, rfl, rfl, rfl⟩
  case done => exact congrArg _ (tlbInvDoneDo_of_performed hbusy hdone)
  case waits => exact congrArg _ (tlbInvDoneDo_of_waits hwaits)
  · exact congrArg _ (atsAnswer_of_unasked hnot b)
  · exact congrArg _ (atsAnswer_of_present hasked)
  · exact congrArg _ (atsAnswer_of_absent hasked)
  · exact congrArg _ (priAnswer_of_unasked hnot b)
  · exact congrArg _ (priAnswer_of_success hasked)
  · exact congrArg _ (priAnswer_of_failure hasked)
  case dropped =>
    obtain ⟨used, hused⟩ := atsDrop_eq (p := p) (s := s) x.toNat
    have hpart := part_onPart s p (forgotten x.toNat used)
    exact ⟨_, congrArg Host.Outcome.next hused, congrArg Partition.atc hpart, ⟨used, congrArg Partition.atsBarrier hpart⟩, rfl, rfl⟩
  case migration =>
    refine ⟨fun hstep => ?_, fun hstep => ?_, fun hstep => ?switch, fun hstep hsettled => ?last⟩
    · exact congrArg _ (migrateDo_of_start hleaf hidle hstep)
    · exact congrArg _ (migrateDo_of_blocked hleaf hidle hstep)
    case switch =>
      obtain ⟨hmem, hplace, htlb⟩ := migrateSwitch_of_idle (va := x.toNat) (a := a) (new := new) (s := s.fwWrote) hidle
      rw [BitVec.ofNat_toNat, BitVec.setWidth_eq] at htlb
      exact ⟨_, congrArg Host.Outcome.next (migrateDo_of_copied hleaf hidle hstep), hmem.trans (putLeaf_fwWrote_mem _), hplace, htlb⟩
    case last => exact ⟨_, congrArg Host.Outcome.next (migrateDo_of_switched hleaf hidle hstep), migrateEnd_of_settled hsettled⟩

end Sys2Proof.Proofs.TranslationServices

/-! ## Resets, firmware complexes, throttling, ageing, scrubbing and health records (08 R208; 14 R352; 17 R401-R405)

Each event of firmware has one lemma for each of its outcomes. A reset is a chain of operations of which most leave the fields in question
alone: what is kept over them is said as a view of the state. -/

namespace Sys2Proof.Proofs.FirmwareAndHealth

open Machine Laws

/-! ### Sparse maps -/

section
variable {α : Type} {d : α} {k : Nat} {f : Nat × α → Bool}

theorem sget_filter_of_kept (h : ∀ v, f (k, v) = true) (m : SMap α) : sget d k (m.filter f) = sget d k m := by
  induction m with
  | nil => rfl
  | cons x r ih =>
    obtain ⟨a, v⟩ := x
    by_cases ha : a = k
    · subst ha
      rw [List.filter_cons_of_pos (h v)]
      simp [sget]
    · rw [List.filter_cons]
      split <;> simp [sget, ha, ih]

theorem sget_filter_of_dropped (h : ∀ v, f (k, v) = false) (m : SMap α) : sget d k (m.filter f) = d := by
  induction m with
  | nil => rfl
  | cons x r ih =>
    obtain ⟨a, v⟩ := x
    rw [List.filter_cons]
    split
    · next hkept =>
      have ha : a ≠ k := fun ha => by simp [ha, h v] at hkept
      simp [sget, ha, ih]
    · exact ih

end

/-! ### Package reset (17 R401, R403) -/

/-- A package that exposes physical function 0 alone has A active. -/
theorem packageResetDo_activeA {s : State} (h : (packageResetDo s).pfstat = true) : (packageResetDo s).fw.activeB = false := by
  have hbad : Config.verified s.free 2 = false := by simpa [packageResetDo, bootDo] using h
  show (Config.verified s.free 2 && Config.namesB s.free) = false
  rw [hbad, Bool.false_and]

/-- Host memory stands, every other byte is lost. -/
theorem packageResetDo_mem (s : State) : (packageResetDo s).mem = s.mem.filter fun c => 1024 * 2 ^ 57 ≤ c.1 && c.1 < 2048 * 2 ^ 57 := rfl

theorem readByte_packageResetDo_device (s : State) {k : Nat} (h : k < 1024 * 2 ^ 57) : readByte (packageResetDo s).mem k = 0 := by
  rw [packageResetDo_mem]
  exact sget_filter_of_dropped (fun v => by simp only [Bool.and_eq_false_iff, decide_eq_false_iff_not]; omega) _

theorem readByte_packageResetDo_host (s : State) {k : Nat} (h : 1024 * 2 ^ 57 ≤ k) (h' : k < 2048 * 2 ^ 57) :
    readByte (packageResetDo s).mem k = readByte s.mem k := by
  rw [packageResetDo_mem]
  exact sget_filter_of_kept (fun v => by simp only [Bool.and_eq_true, decide_eq_true_eq]; omega) _

/-! ### Partition reset (17 R403) -/

section
variable {p : Nat} {s : State}

theorem mem_insert_lease {l x : Lease} {acc : List Lease} (f : Lease → Bool) :
    x ∈ acc.takeWhile f ++ l :: acc.dropWhile f ↔ x = l ∨ x ∈ acc := by
  have hacc : x ∈ acc ↔ x ∈ acc.takeWhile f ∨ x ∈ acc.dropWhile f := by
    rw [← List.mem_append, List.takeWhile_append_dropWhile]
  rw [List.mem_append, List.mem_cons, hacc]
  exact or_left_comm

/-- The leases are those of the list that `leases` puts in order. -/
theorem mem_leases {x : Lease} : x ∈ s.leases ↔ x ∈ (if s.cur.st = .free then s.rest else s.cur :: s.rest) := by
  have hfold (ls acc : List Lease) : x ∈ ls.foldl (fun acc l => (acc.takeWhile fun x => decide (x.id < l.id)) ++
      l :: acc.dropWhile fun x => decide (x.id < l.id)) acc ↔ x ∈ ls ∨ x ∈ acc := by
    induction ls generalizing acc with
    | nil => simp
    | cons l r ih => rw [List.foldl_cons, ih, mem_insert_lease, List.mem_cons, or_left_comm, or_assoc]
  refine (hfold _ []).trans ?_
  simp

theorem cur_mem_leases (h : s.cur.st ≠ .free) : s.cur ∈ s.leases := by
  rw [mem_leases, if_neg h]
  exact List.mem_cons_self ..

/-- The memory, the partitions and the requests: what the end of leases leaves alone. -/
def resetView (s : State) : Memory × SMap Partition × List Req := (s.mem, s.parts, s.reqs)

theorem resetView_dropLease (l : Nat) : resetView (s.dropLease l) = resetView s := by
  unfold State.dropLease
  split <;> rfl

theorem dropLease_cur_of_gone (h : s.cur = {}) (l : Nat) : (s.dropLease l).cur = {} := by
  unfold State.dropLease
  split
  · rfl
  · exact h

/-- The lease in focus is gone once its number has come. -/
theorem foldl_dropLease_cur {ids : List Nat} (h : s.cur = {} ∨ s.cur.id ∈ ids) : (ids.foldl State.dropLease s).cur = {} := by
  induction ids generalizing s with
  | nil => exact h.resolve_right (List.not_mem_nil)
  | cons i r ih =>
    refine ih ?_
    rcases h with h | h
    · exact .inl (dropLease_cur_of_gone h i)
    · by_cases hi : s.cur.id = i
      · exact .inl (by rw [State.dropLease, if_pos hi])
      · refine .inr ?_
        rw [State.dropLease, if_neg hi]
        exact (List.mem_cons.1 h).resolve_left hi

/-- A pending mark changes the unit map alone. -/
theorem settleAbsent_keeps {γ : Type} {view : State → γ} (hview : ∀ s a b, view { s with absent := a, absentPend := b } = view s)
    (s : State) : view s.settleAbsent = view s :=
  VcEvents.foldl_keeps (view := view) (fun s e => VcEvents.foldl_keeps (view := view) (fun s q => by
    split
    · exact hview ..
    · rfl) _ s) _ s

/-- The numbers of a partition's leases and images. -/
def leaseNumbers (p : Nat) (s : State) : List Nat := (s.leases.filter fun l => l.part = p && l.st ≠ .free).map fun l => l.id

/-- The state in which a partition's queued launches, leases and images are gone. -/
def leasesDropped (p : Nat) (s : State) : State := (leaseNumbers p s).foldl State.dropLease (s.unqueue fun x => x.part = p)

theorem resetView_leasesDropped : resetView (leasesDropped p s) = resetView s :=
  VcEvents.foldl_keeps (view := resetView) (fun _ l => resetView_dropLease l) _ _

/-- A partition reset in steps: its leases are gone; then its requests and what else is kept of it, in z; then its record, and the tables of
the plots. -/
theorem partitionResetDo_steps : ∃ z : State, partitionResetDo p s = (z.setPart p (s.part p).afterReset).retable.settleAbsent.fwWrote ∧
    z.cur = (leasesDropped p s).cur ∧ z.mem = (leasesDropped p s).mem ∧ z.parts = (leasesDropped p s).parts ∧
    z.reqs = (leasesDropped p s).reqs.filter fun r => r.part ≠ p := ⟨_, rfl, rfl, rfl, rfl, rfl⟩

/-- What a partition reset leaves of the lease in focus, the memory, the partitions and the requests. -/
theorem partitionResetDo_frame : (partitionResetDo p s).cur = (leasesDropped p s).cur ∧ (partitionResetDo p s).mem = s.mem ∧
    (partitionResetDo p s).parts = sput p (s.part p).afterReset s.parts ∧
    (partitionResetDo p s).reqs = s.reqs.filter fun r => r.part ≠ p := by
  obtain ⟨z, hz, hcur, hmem, hparts, hreqs⟩ := partitionResetDo_steps (p := p) (s := s)
  obtain ⟨hmem', hrest⟩ := Prod.mk.inj (resetView_leasesDropped (p := p) (s := s))
  obtain ⟨hparts', hreqs'⟩ := Prod.mk.inj hrest
  have hmarks {γ : Type} (view : State → γ) (hview : ∀ s a b, view { s with absent := a, absentPend := b } = view s) :=
    settleAbsent_keeps hview (z.setPart p (s.part p).afterReset).retable
  rw [hz, ← hmem', ← hparts', ← hreqs', ← hcur, ← hmem, ← hparts, ← hreqs]
  exact ⟨hmarks State.cur fun _ _ _ => rfl, hmarks State.mem fun _ _ _ => rfl, hmarks State.parts fun _ _ _ => rfl,
    hmarks State.reqs fun _ _ _ => rfl⟩

theorem part_partitionResetDo : (partitionResetDo p s).part p = (s.part p).afterReset := by
  obtain ⟨-, -, hparts, -⟩ := partitionResetDo_frame (p := p) (s := s)
  rw [State.part, hparts, sput_get]

theorem part_partitionResetDo_ne {q : Nat} (h : q ≠ p) : (partitionResetDo p s).part q = s.part q := by
  obtain ⟨-, -, hparts, -⟩ := partitionResetDo_frame (p := p) (s := s)
  rw [State.part, hparts, sput_get_ne _ _ _ _ _ h, State.part]

/-- The lease in focus ends with its partition. -/
theorem partitionResetDo_cur (hp : s.cur.part = p) (hst : s.cur.st ≠ .free) : (partitionResetDo p s).cur = {} := by
  obtain ⟨hcur, -⟩ := partitionResetDo_frame (p := p) (s := s)
  rw [hcur]
  exact foldl_dropLease_cur (.inr (List.mem_map_of_mem (List.mem_filter.2 ⟨cur_mem_leases hst, by simp [State.unqueue, hp, hst]⟩)))

end

/-! ### Firmware complexes (17 R402) -/

section
variable {s : State}

theorem standbyDo_of_waits (h : s.fw.missed < 3 ∨ s.fw.standbyFailed = true) : standbyDo s = s := if_pos (by simpa using h)

theorem standbyDo_of_missed (h : 3 ≤ s.fw.missed) (h' : s.fw.standbyFailed = false) :
    standbyDo s = takeOver { s with fw := { s.fw with applied := s.fw.written } } := if_neg (by simp [h, h'])

theorem updateTakes_of_quiescent (hb : s.fw.booted = true) (hq : s.quiescent = true) : updateTakes s = takeOver s := if_pos (by simp [hb, hq])

theorem updateTakes_of_waits (h : s.fw.booted = false ∨ s.quiescent = false) : updateTakes s = s :=
  if_neg (by rw [Bool.and_eq_true]; rintro ⟨hb, hq⟩; rcases h with h | h <;> simp_all)

/-- The standby has booted the image x, with every entry written applied. -/
def imageBooted (x : W64) (s : State) : State := { s with fw := { s.fw with standbyImage := x, booted := true, applied := s.fw.written } }

theorem liveUpdateDo_of_refused {a b : Bool} {x : W64} (h : a = false ∨ b = false) : liveUpdateDo a b x s = s :=
  if_neg (by rcases h with rfl | rfl <;> simp)

theorem liveUpdateDo_of_signed {x : W64} : liveUpdateDo true true x s = updateTakes (imageBooted x s) := rfl

theorem stateTableDo_of_next {n : Nat} (h : n = s.fw.applied + 1) (h' : n ≤ s.fw.written) :
    stateTableDo n s = { s with fw := { s.fw with applied := n } } := if_pos (by simp [← h, h'])

theorem stateTableDo_of_other {n : Nat} (h : n ≠ s.fw.applied + 1 ∨ s.fw.written < n) : stateTableDo n s = s :=
  if_neg (by simp only [Bool.and_eq_true, decide_eq_true_eq]; omega)

/-- What firmware notes in an mc before a complex takes over: what the standby has applied, and the heartbeats missed. -/
def noted (s : State) : Firmware :=
  let f := if s.datum % (10 * s.mhz) = 0 && !s.fw.standbyFailed then { s.fw with applied := s.fw.written } else s.fw
  if s.datum % (1000 * s.mhz) = 0 then { f with missed := if f.activeFailed then f.missed + 1 else 0 } else f

theorem firmwareMc_eq : firmwareMc s = healthMc (updateTakes (standbyDo { s with fw := noted s })) := rfl

/-- Once every ms the active complex sends its heartbeat, or it is missed. -/
theorem noted_missed (h : s.datum % (1000 * s.mhz) = 0) : (noted s).missed = if s.fw.activeFailed = true then s.fw.missed + 1 else 0 := by
  unfold noted
  rw [if_pos h]
  split <;> rfl

theorem noted_booted : (noted s).booted = s.fw.booted := by
  unfold noted
  dsimp only
  split <;> split <;> rfl

theorem firmwareMc_missed (h : s.datum % (1000 * s.mhz) = 0) (hb : s.fw.booted = false) (hm : s.fw.missed < 2) :
    (firmwareMc s).fw.missed = if s.fw.activeFailed = true then s.fw.missed + 1 else 0 := by
  have hnoted : (noted s).missed < 3 := by
    rw [noted_missed h]
    split <;> omega
  rw [firmwareMc_eq, standbyDo_of_waits (.inl hnoted), updateTakes_of_waits (.inl (noted_booted.trans hb))]
  exact noted_missed h

end

/-! ### Power and cooling (17 R404) -/

section
variable {p q : Nat} {s : State}

theorem haltLine_of_halted (h : (s.part p).pstate ≠ 0) (c : Cause) (x : StopInfo) : s.haltLine p c x = s := if_pos h

@[simp] theorem haltLine_mem (c : Cause) (x : StopInfo) : (s.haltLine p c x).mem = s.mem := by
  unfold State.haltLine
  dsimp only
  split <;> rfl

/-- The partition of a halt line that has risen is halted. -/
theorem haltLine_halts (c : Cause) (x : StopInfo) : ((s.haltLine p c x).part p).pstate ≠ 0 := by
  unfold State.haltLine
  dsimp only
  split
  · assumption
  · exact ne_of_eq_of_ne (congrArg Partition.pstate (part_setPart s p _)) Nat.one_ne_zero

/-- A partition that is halted stays so while other halt lines rise. -/
theorem haltLine_keeps_halted (h : (s.part q).pstate ≠ 0) (c : Cause) (x : StopInfo) : ((s.haltLine p c x).part q).pstate ≠ 0 := by
  by_cases hq : q = p
  · rw [hq]
    exact haltLine_halts c x
  · unfold State.haltLine
    dsimp only
    split
    · exact h
    · exact ne_of_eq_of_ne (congrArg Partition.pstate (part_setPart_ne s p q _ hq)) h

/-- PHALT of the partitions below n. -/
def haltBelow (n : Nat) (s : State) : State := (List.range n).foldl (fun s p => phaltDo p s) s

theorem haltBelow_succ (n : Nat) : haltBelow (n + 1) s = phaltDo n (haltBelow n s) := by
  rw [haltBelow, List.range_succ, List.foldl_append]
  rfl

theorem haltBelow_mem (n : Nat) : (haltBelow n s).mem = s.mem :=
  VcEvents.foldl_keeps (view := State.mem) (fun _ _ => haltLine_mem ..) _ s

theorem haltBelow_halts {n : Nat} (h : p < n) : ((haltBelow n s).part p).pstate ≠ 0 := by
  induction n with
  | zero => omega
  | succ n ih =>
    rw [haltBelow_succ]
    by_cases hp : p = n
    · rw [hp]
      exact haltLine_halts _ _
    · exact haltLine_keeps_halted (ih (by omega)) _ _

theorem thermalEvent_mem (tj : Nat) : (s.thermalEvent tj).mem = s.mem := by
  rw [State.thermalEvent]

theorem thermalEvent_part (tj : Nat) : (s.thermalEvent tj).part p = s.part p := by
  rw [State.thermalEvent]
  rfl

theorem throttleDo_of_cool {o : Bool} {tj : Nat} (h : o = false) (h' : tj ≤ 100) : throttleDo o tj s = s :=
  if_neg (by simp [h, h'])

theorem throttleDo_of_hot {o : Bool} {tj : Nat} (h : o = true ∨ 100 < tj) :
    throttleDo o tj s = { s with mhz := Nat.max 600 (s.mhz - 100) }.thermalEvent tj := if_pos (by simpa using h)

theorem thermalHaltDo_of_cool {tj : Nat} (h : tj < 115) : thermalHaltDo tj s = s := if_pos h

theorem thermalHaltDo_of_hot {tj : Nat} (h : 115 ≤ tj) : thermalHaltDo tj s = (haltBelow 64 s).thermalEvent tj := if_neg (by omega)

end

/-! ### Ageing (14 R352) -/

section
variable {d k : Nat} {x : W64} {s : State}

/-- The state with the indicator of a physical plot as it is kept. -/
def aged (d k : Nat) (x : W64) (s : State) : State := { s with ageing := sset ageReset (d * 32 + k) (ageWord x) s.ageing }

/-- EOLDAYS of an indicator. -/
theorem nbits_eolDays (x : W64) : nbits x.toNat 63 48 = x.toNat / 2 ^ 48 := by
  have := x.isLt
  unfold nbits
  omega

theorem ageingDo_of_healthy (h : 30 < x.toNat / 2 ^ 48) : ageingDo d k x s = aged d k x s := by
  unfold ageingDo
  dsimp only
  split
  · exact if_neg (by rw [nbits_eolDays]; omega)
  · rfl

/-- A plot at the end of its life is marked absent. -/
theorem ageingDo_of_worn {y : Nat} (h : x.toNat / 2 ^ 48 ≤ 30) (hy : (aged d k x s).logicalPlot d k = some y) :
    ageingDo d k x s = markAbsent d y (aged d k x s) := by
  unfold ageingDo
  simp only [aged] at hy
  simp only [hy, nbits_eolDays, h, if_true]
  rfl

theorem ageWord_warn : (ageWord x).getLsbD 0 = decide (x.toNat / 2 ^ 48 < 180) := by
  unfold ageWord
  rw [nbits_eolDays]
  by_cases h : x.toNat / 2 ^ 48 < 180
  · rw [if_pos h, decide_eq_true h]
    simp
  · rw [if_neg h, decide_eq_false h]
    simp

end

/-! ### Scrubbing (08 R208)

An error of a pass is a number: its kind over 2^80, and what it is an error of (log entry 66). -/

/-- The error of kind n at k. -/
def errorOf (n k : Nat) (s : State) : State :=
  match n with
  | 0 => scrubError k s
  | 1 => { s with badGran := s.badGran ++ [k / 64] }
  | 2 => { s with corrected := sset 0 (s.correctedAt k) (sget 0 (s.correctedAt k) s.corrected + 1) s.corrected }
  | 3 => registerError k s
  | 4 => codeError k s
  | 5 => lineError k s
  | _ => { s with retiredChans := s.retiredChans ++ [(k / 256 % 8, k % 256)] }

theorem errorDo_eq {e n k : Nat} (s : State) (hn : e / 2 ^ 80 = n) (hk : e % 2 ^ 80 = k) : errorDo e s = errorOf n k s := by
  unfold errorDo
  rw [hn, hk]
  rfl

/-- A pass with one error is counted, and brings the error. -/
theorem exec_scrubPass_one {e k : Nat} (n : Nat) (he : e = n * 2 ^ 80 + k) (hk : k < 2 ^ 80) (s : State) :
    exec (.scrubPass [e]) s = .next (errorOf n k { s with scrubs := s.scrubs + 1 }) :=
  congrArg Host.Outcome.next (errorDo_eq _ (by omega) (by omega))

section
variable {k : Nat} {s : State}

/-- The state in which the page of a granule is retired. -/
def pageRetired (k : Nat) (s : State) : State := { s with retiredPages := s.retiredPages ++ [k / 65536] }

theorem scrubError_of_clean (h : isHostKey k = true ∧ s.lineOf k ≠ 2) : scrubError k s = s := if_pos (by simp [h])

/-- The stop record of an uncorrectable granule that a pass finds. -/
def scrubStop (k : Nat) : StopInfo :=
  { hostStop .uncorrectable with paddr := k % 2 ^ 48, tier := if keyTier k < 3 then keyTier k else 0xFF }

section
variable (h : ¬ (isHostKey k = true ∧ s.lineOf k ≠ 2))
include h

theorem scrubError_of_unowned (ho : (pageRetired k s).ownerOf k = none) : scrubError k s = pageRetired k s := by
  refine (if_neg (by simpa using h)).trans ?_
  simp only [pageRetired] at ho
  simp only [ho]
  rfl

theorem scrubError_of_owned {p : Nat} (ho : (pageRetired k s).ownerOf k = some p) :
    scrubError k s = (pageRetired k s).haltLine p .uncorrectable (scrubStop k) := by
  refine (if_neg (by simpa using h)).trans ?_
  simp only [pageRetired] at ho
  simp only [ho]
  rfl

end

theorem lineError_of_absent (h : s.lineOf k = 0) : lineError k s = s := by
  unfold lineError
  rw [h]
  rfl

theorem lineError_of_clean (h : s.lineOf k = 1) : lineError k s = s.dropLine k := by
  unfold lineError
  rw [h]
  rfl

theorem lineError_of_dirty (h : 1 < s.lineOf k) : lineError k s = { s with badGran := s.badGran ++ [k / 64] } := by
  unfold lineError
  split <;> first | rfl | omega

end

/-! ### Health records (17 R405) -/

section
variable {d k j : Nat} {s : State}

theorem getD_map_range {α : Type} (f : Nat → α) {n k : Nat} (h : k < n) (z : α) : ((List.range n).map f).getD k z = f k := by
  simp [List.getD, h]

/-- The indicators stand first. -/
theorem healthOf_byte_age (hk : k < 20) (hj : j < 8) :
    (s.healthOf d).byte d (8 * k + j) = (leBytes (sget ageReset (d * 32 + k) s.ageing).toNat 8).getD j 0 := by
  have hplace : (8 * k + j) / 8 = k ∧ (8 * k + j) % 8 = j := by omega
  rw [HealthRec.byte, if_pos (by omega), hplace.1, hplace.2, State.healthOf, getD_map_range _ hk]

/-- The counts of corrected errors stand behind them. -/
theorem healthOf_byte_corrected (hk : k < 5) (hj : j < 8) :
    (s.healthOf d).byte d (160 + 8 * k + j) = (leBytes (sget 0 (8 * d + k) s.corrected) 8).getD j 0 := by
  have hplace : (160 + 8 * k + j - 0xA0) / 8 = k ∧ (160 + 8 * k + j) % 8 = j := by omega
  rw [HealthRec.byte, if_neg (by omega), if_pos (by omega), hplace.1, hplace.2, State.healthOf, getD_map_range _ hk]

/-- Every record of the hour is the one of now. -/
theorem healthMc_hourly (h : s.datum % (3600 * 1000000 * s.mhz) = 0) (hd : d < 10) : sget {} d (healthMc s).health = s.healthOf d := by
  have hrefresh (n : Nat) (m : SMap HealthRec) (hn : d < n) : sget {} d ((List.range n).foldl (fun m d =>
      if decide (s.datum % (3600 * 1000000 * s.mhz) = 0) || (s.healthOf d).changed (sget {} d s.health) then sput d (s.healthOf d) m else m) m) = s.healthOf d := by
    induction n with
    | zero => omega
    | succ n ih =>
      rw [List.range_succ, List.foldl_append, List.foldl_cons, List.foldl_nil, if_pos (by simp [h])]
      by_cases hdn : d = n
      · rw [hdn, sput_get]
      · rw [sput_get_ne _ _ _ _ _ hdn, ih (by omega)]
  exact hrefresh 10 s.health hd

end

/-- Settles O52: each reset and event of firmware by its lemmas above. -/
theorem firmwareAndHealth : Obligations.FirmwareAndHealth := by
  unfold Obligations.FirmwareAndHealth
  refine ⟨fun s => ?packageReset, fun p s => ?partitionReset, fun s => ?complexes, fun n s => ⟨fun h h' => ?_, fun h => ?_⟩,
    fun o tj s => ?thermal, fun d k x s => ⟨fun h => ?_, fun y h hy => ?_, ageWord_warn⟩, fun k s hk => ?scrub, fun d s => ?health,
    fun s h d hd => healthMc_hourly h hd⟩
  case packageReset =>
    exact ⟨_, rfl, rfl, rfl, rfl, rfl, rfl, rfl, rfl, rfl, rfl, rfl, packageResetDo_activeA,
      fun k => readByte_packageResetDo_device s, fun k => readByte_packageResetDo_host s⟩
  case partitionReset =>
    obtain ⟨-, hmem, -, hreqs⟩ := partitionResetDo_frame (p := p) (s := s)
    refine ⟨_, rfl, part_partitionResetDo, fun q => part_partitionResetDo_ne, hmem, partitionResetDo_cur, fun r hr => ?_⟩
    rw [hreqs] at hr
    simpa using (List.mem_filter.1 hr).2
  case complexes =>
    refine ⟨rfl, fun h => congrArg _ (standbyDo_of_waits h),
      fun h h' => ⟨_, congrArg Host.Outcome.next (standbyDo_of_missed h h'), rfl, rfl, rfl, rfl, rfl, rfl, rfl, rfl⟩, firmwareMc_missed,
      fun a b x => ⟨fun h => ?_, fun ha hb => ?_⟩⟩
    · exact congrArg _ (liveUpdateDo_of_refused h)
    · subst ha hb
      refine ⟨_, congrArg Host.Outcome.next liveUpdateDo_of_signed, ?_⟩
      cases hq : s.quiescent
      · rw [updateTakes_of_waits (s := imageBooted x s) (.inr hq)]
        exact ⟨rfl, rfl, by simp, fun _ => ⟨rfl, rfl⟩, rfl, rfl⟩
      · rw [updateTakes_of_quiescent (s := imageBooted x s) rfl hq]
        exact ⟨rfl, rfl, fun _ => ⟨rfl, rfl⟩, by simp, rfl, rfl⟩
  · exact congrArg _ (stateTableDo_of_next h h')
  · exact congrArg _ (stateTableDo_of_other h)
  case thermal =>
    exact ⟨fun h h' => congrArg _ (throttleDo_of_cool h h'),
      fun h => ⟨_, congrArg Host.Outcome.next (throttleDo_of_hot h), rfl, rfl, rfl⟩, fun h => congrArg _ (thermalHaltDo_of_cool h),
      fun h => ⟨_, congrArg Host.Outcome.next (thermalHaltDo_of_hot h), (thermalEvent_mem tj).trans (haltBelow_mem 64),
        fun p hp => by rw [thermalEvent_part]; exact haltBelow_halts hp⟩⟩
  · exact congrArg _ (ageingDo_of_healthy h)
  · exact congrArg _ (ageingDo_of_worn h hy)
  case scrub =>
    have hpass (n : Nat) {e : Nat} (he : e = n * 2 ^ 80 + k) := exec_scrubPass_one n he hk s
    have hfound := hpass 0 (e := k) (by omega)
    have hline := hpass 5 rfl
    exact ⟨rfl, fun h => hfound.trans (congrArg _ (scrubError_of_clean h)), fun h ho => hfound.trans (congrArg _ (scrubError_of_unowned h ho)),
      fun p h ho => ⟨scrubStop k, rfl, rfl, hfound.trans (congrArg _ (scrubError_of_owned h ho))⟩, hpass 1 (by omega), hpass 2 rfl, hpass 3 rfl,
      hpass 4 rfl, fun h => hline.trans (congrArg _ (lineError_of_absent h)), fun h => hline.trans (congrArg _ (lineError_of_clean h)),
      fun h => hline.trans (congrArg _ (lineError_of_dirty h)), hpass 6 rfl⟩
  case health =>
    have hhere : sget {} d (healthDo d s).health = s.healthOf d := sput_get ..
    refine ⟨_, rfl, rfl, rfl, fun e he => sput_get_ne _ _ _ _ _ he, fun k hk j hj => ?_, fun k hk j hj => ?_⟩
    · rw [hhere, healthOf_byte_age hk hj]
    · rw [hhere, healthOf_byte_corrected hk hj]

end Sys2Proof.Proofs.FirmwareAndHealth

/-! ## The words of LD and SD (09 R209, R212, R219, R220-R235; 11 R268-R275)

Every word starts in the same way and ends in one of a few: its command enters the footprint table, it moves nothing and completes, or
its stream stops. Each end is one lemma here; the proof of a word then says which of the checks in its work pass and which fails. -/

namespace Sys2Proof.Proofs.LsWords

open Machine Claims Laws ArrayWords ControlRings

/-! ### The stream of a word that starts -/

section
variable (s : State) (st : Stream)

theorem popTokens_curStream (q n : Nat) : (s.popTokens st q n).curStream = s.curStream := by
  induction n with
  | zero => rfl
  | succ n ih =>
    refine Eq.trans ?_ ih
    rw [State.popTokens]
    split <;> rfl

theorem takePops_curStream (w : BitVec 8) : (s.takePops st w).curStream = s.curStream :=
  VcEvents.foldl_keeps (view := State.curStream) (fun s _ => popTokens_curStream s st _ _) _ s

theorem grpNext_curStream (t : Tok) : (s.grpNext st t).curStream = s.curStream := by
  unfold State.grpNext
  split <;> rfl

theorem trace_curStream (type slot vc tag cls : Nat) : (s.trace type st slot vc tag cls).curStream = s.curStream := by
  unfold State.trace
  dsimp only
  split <;> rfl

theorem readRegs_curStream {rs : List (Nat × Nat)} {u : State} (h : s.readRegs st rs = .ok u) : u.curStream = s.curStream := by
  unfold State.readRegs at h
  split at h
  · cases h; rfl
  split at h <;> cases h
  rfl

variable {s} in
theorem curStream_of_starts {t : Tok} {u : State} (h : LsStarts t s u) : u.curStream = s.curStream := by
  obtain ⟨-, v, rfl, hu⟩ := h
  simpa only [onCur_curStream, takePops_curStream, grpNext_curStream] using readRegs_curStream _ _ hu

end

/-! ### The ends of a word -/

section
variable {t : Tok} {c : Cmd} {s u v : State}

/-- A word that starts and is refused stops its stream. -/
theorem lsWord_of_refused {f : Stream → State → LsRes} {x : Cause} {a : Nat} (h : LsStarts t s u)
    (e : f s.curStream u = .refuse x a) : lsWord t f s = .next (lsRefused s x a) := by
  obtain ⟨hgoes, v, rfl, hu⟩ := h
  simp only [lsWord, lsRun, hgoes, lsIssue, hu, e]
  simp [lsRefused]

theorem acceptCmd_of_room (h : LsRoom u) : acceptCmd c u = .ok (lsAccepted c u) := by
  have hfull : u.cur.fpFull = false := decide_eq_false (not_le.2 h)
  simp only [acceptCmd, hfull, Bool.false_eq_true, if_false]
  rfl

theorem moveCmd_of_room {total : Nat} {fp : List FpRange} (h : LsRoom u) : moveCmd t c total fp u = .ok (lsMoved t c total fp u) := by
  unfold moveCmd lsMoved
  split
  · rfl
  · exact acceptCmd_of_room h

theorem checked_of_none {x : Option Cause} {r : LsRes} (h : x = none) : checked x r = r := by rw [h]; rfl

theorem checked_of_some {x : Option Cause} {r : LsRes} {e : Cause} (h : x = some e) : checked x r = .refuse e 0 := by rw [h]; rfl

@[simp] theorem orElseC_some (e : Cause) (x : Option Cause) : orElseC (some e) x = some e := rfl

end

section
variable {t : Tok} {s u : State} {f : Stream → State → LsRes} {bad : Option Cause} {r : LsRes}

/-- A word that starts and whose checks pass enters its command, or moves nothing and completes. -/
theorem lsWord_moves {c : Cmd} {total : Nat} {fp : List FpRange} (hs : LsStarts t s u) (hroom : LsRoom u) (hbad : bad = none)
    (hf : f s.curStream u = checked bad (moveCmd t c total fp u)) : lsWord t f s = .next (lsIssued s (lsMoved t c total fp u)) :=
  lsWord_of_starts f hs (hf.trans ((checked_of_none hbad).trans (moveCmd_of_room hroom)))

/-- A word that starts and fails a check stops its stream. -/
theorem lsWord_stops {x : Cause} (hs : LsStarts t s u) (hbad : bad = some x) (hf : f s.curStream u = checked bad r) :
    lsWord t f s = .next (lsRefused s x 0) :=
  lsWord_of_refused hs (hf.trans (checked_of_some hbad))

end

/-- A check that is made only under a condition passes. -/
theorem ite_check_none {p : Prop} [Decidable p] {x : Option Cause} (h : p → x = none) : (if p then x else none) = none := by
  split
  next hp => exact h hp
  · rfl

theorem and_decide_of_imp {b : Bool} {p : Prop} [Decidable p] (h : b = true → ¬ p) : (b && p : Bool) = false := by
  cases b
  · rfl
  · exact decide_eq_false (h rfl)

/-! ### NOP, TMARK and REP (09 R234, R235; 14 R347; 15 R363) -/

/-- A word that completes as it issues: its number is taken and its signals are to be made. -/
theorem lsDone_now (t : Tok) {st : Stream} {u : State} (h : u.curStream = st) : lsDone t 0 st u =
    (u.onCur fun l => { l with nextSeq := l.nextSeq + 1 }).addDone
      { stream := u.curStream, sig := t.sig, slot := u.cur.curSlot u.curStream, op := opcodeOf (u.curWord u.curStream), vc := u.cur.vc,
        seq := u.cur.nextSeq, due := u.datum } := by
  subst h
  rfl

/-- The ring as a REP starts: its word has left, and the words after it are to be repeated. -/
theorem repWork_ring {t : Tok} {cnt len : Nat} {st : Stream} {s : State} (hst : st ≠ .ct) :
    ((repWork t cnt len st s).cur.stream st).ring =
      { (s.cur.stream st).ring with
        head := ((s.cur.stream st).ring.head + 1) % (s.cur.stream st).ring.slots, count := (s.cur.stream st).ring.count - 1,
        rep := some { first := ((s.cur.stream st).ring.head + 1) % (s.cur.stream st).ring.slots, len := len, left := cnt, pos := 0 } } := by
  simp only [repWork, State.takeSeq, onRing_cur, onStream_cur, setStream_stream_same _ _ hst, dropHead_stream_same hst]
  cases st <;> rfl

/-- The body of a REP that is to be repeated is not passed over. -/
theorem passBody_of_left {s : State} {st : Stream} {p : Rep} (hrep : (s.cur.stream st).ring.rep = some p) (hleft : p.left ≠ 0) (n : Nat) :
    s.passBody st n = s := by
  cases n with
  | zero => rfl
  | succ n => simp [State.passBody, hrep, hleft]

/-- Settles O28: NOP and TMARK by their work, REP by the ring that its work leaves. -/
theorem lsPlainWords : Obligations.LsPlainWords := by
  refine ⟨fun t tag s u h => ?_, fun t cnt len s hgoes => ?_, fun t cnt len st s hst => ⟨?_, ?_, fun hcnt => ?_⟩⟩
  · have hst := curStream_of_starts h
    exact ⟨lsWord_of_starts _ h (congrArg LsRes.ok (lsDone_now t hst)), lsWord_of_starts _ h
      (congrArg LsRes.ok (by rw [← hst]; exact lsDone_now t (trace_curStream ..)))⟩
  · simp only [exec, execLsRep, hgoes, Bool.not_true, Bool.false_eq_true, if_false]
  · rw [repWork_ring hst]
  · rw [repWork_ring hst]
  · exact passBody_of_left (congrArg Ring.rep (repWork_ring hst)) hcnt 255

/-! ### Copies (09 R220-R224) -/

theorem queueBad_of_fits {l : Lease} {h : Handle} (hfmt : fmtScaled (hFmt h) = false) (hrow : hRowBytes h ≤ l.n * 512) :
    queueBad l h = none := by
  simp [queueBad, hfmt, not_lt.2 hrow]

/-- Two walks go over the same numbers of rows, planes and elements. -/
def SameShape (d h : Handle) : Prop := hDim0 h = hDim0 d ∧ hDim1 h = hDim1 d ∧ hDim2 h = hDim2 d

theorem pairBad_of_same {d h : Handle} (hfmt : hFmt h = hFmt d) (hshape : SameShape d h) :
    pairBad d h = none := by
  obtain ⟨h0, h1, h2⟩ := hshape
  simp [pairBad, hfmt, h0, h1, h2]

theorem pairBad_of_fmt {d h : Handle} (hfmt : hFmt h ≠ hFmt d) : pairBad d h = some .formatInvalid := by
  simp [pairBad, hfmt]

theorem pairBad_of_shape {d h : Handle} (hfmt : hFmt h = hFmt d) (hshape : ¬ SameShape d h) :
    pairBad d h = some .illegalOperand := by
  simp only [pairBad, hfmt, ne_eq, not_true_eq_false, decide_false, firstBad_false]
  simp only [SameShape, not_and_or] at hshape
  obtain h | h | h := hshape <;> simp [h]

/-- What COPYP does with its record: the command that it describes is checked and moves. -/
def patternEnd (t : Tok) (dq : BitVec 1) (l : Lease) (c : Cmd) (res : Nat) (useS useD : Bool) (v : State) : LsRes :=
  let total := patN c 0 * patN c 1 * patN c 2 * patN c 3
  let src := if useS then patRange c c.src 10 4 false else []
  let dst := if useD then patRange c c.dst 11 7 true else []
  if 4 ≤ patN c 12 || res ≠ 0 || 2 ^ 40 ≤ total || (dq = 1 && l.n * 512 < patN c 0) then .refuse .patternInvalid 0
  else if total = 0 then emptyCmd t c.bit v
  else if (useS && patSideBad l c c.src 10 4) || (useD && patSideBad l c c.dst 11 7) then .refuse .scratchBounds 0
  else if fpOverlap src dst then .refuse .illegalOperand 0
  else moveCmd t c total (src ++ dst) v

/-- The command of a COPYP that starts and has read its record. -/
def patternCmd (t : Tok) (dq : BitVec 1) (sc : BitVec 2) (st : Stream) (d h : Handle) (bs : List Byte) (v : State) : Cmd :=
  let c : Cmd := { v.newCmd t (if dq = 0 then .pattern else if st = .ld then .patternIn else .patternOut) sc with
    dst := d, src := h, pat := (patRecord bs).1 }
  { c with bit := if patN c 12 % 2 = 1 then some (decide (patN c 12 / 2 % 2 = 1)) else none }

/-- A COPYP that starts with good handles reads its record. -/
theorem copyp_of_starts {t : Tok} {dh sh xh : BitVec 4} {dq : BitVec 1} {sc : BitVec 2} {s u v : State} {bs : List Byte}
    {useD useS : Bool} {d h : Handle} (hD : (dq = 0 || s.curStream = .sd : Bool) = useD) (hS : (dq = 0 || s.curStream = .ld : Bool) = useS)
    (hd' : (if useD then u.handle dh.toNat else 0) = d) (hh' : (if useS then u.handle sh.toNat else 0) = h)
    (hd : useD = true → u.cur.handleCheck d = none ∧ hSpace d ≠ spRemote) (hh : useS = true → u.cur.handleCheck h = none ∧ hSpace h ≠ spRemote)
    (hx : u.cur.handleCheck (u.handle xh.toNat) = none) (hspace : hSpace (u.handle xh.toNat) = spScratch)
    (hfmt : hFmt (u.handle xh.toNat) = 0x0C) (hget : LsGets sc (hBase (u.handle xh.toNat)) 64 u bs v) :
    ∃ f, execCopyp t dh sh xh dq sc s = lsWord t f s ∧
      f s.curStream u = patternEnd t dq u.cur (patternCmd t dq sc s.curStream d h bs v) (patRecord bs).2 useS useD v := by
  subst hD hS hd' hh'
  refine ⟨_, rfl, (checked_of_none ?_).trans (hget _)⟩
  rw [ite_check_none fun hu => (hd hu).1, ite_check_none fun hu => (hh hu).1]
  simp only [and_decide_of_imp fun hu => (hd hu).2, and_decide_of_imp fun hu => (hh hu).2, hx, hspace, hfmt]
  rfl

/-- The rows of GATH and SCAT as the statement writes them. -/
theorem gathPairs_eq (keep : Prop) [Decidable keep] (rows : Nat) (idx : List Int) : gathPairs keep rows idx =
    (idx.mapIdx fun i k => if 0 ≤ k ∧ k < (rows : Int) then [k, (i : Int)] else if keep then [] else [-1, (i : Int)]).flatten := by
  simp only [gathPairs, Bool.and_eq_true, decide_eq_true_eq]

theorem scatPairs_eq (rows have_ : Nat) (idx : List Int) : scatPairs rows have_ idx =
    (idx.mapIdx fun i k => if 0 ≤ k ∧ k < (rows : Int) then [if i < have_ then (i : Int) else -2, k] else []).flatten := by
  simp only [scatPairs, Bool.and_eq_true, decide_eq_true_eq]

/-- The checks that GATH and SCAT share. -/
theorem rowChecks_pass {d h : Handle} {a b c : Option Cause} {unfit : Bool} (ha : a = none) (hb : b = none) (hc : c = none)
    (hsh : hSpace h ≠ spRemote) (hsd : hSpace d ≠ spRemote) (hfmt : hFmt h = hFmt d) (hflat : fmtScaled (hFmt h) = false) (hfit : unfit = false) :
    orElseC a (orElseC b (orElseC c (firstBad [(hSpace h = spRemote || hSpace d = spRemote, .handleInvalid),
      (hFmt h ≠ hFmt d || fmtScaled (hFmt h), .formatInvalid), (unfit, .illegalOperand)]))) = none := by
  simp [ha, hb, hc, hsh, hsd, ← hfmt, hflat, hfit]

/-- Settles O29: each word by the checks that pass or the one that fails, COPYP by what it does with its record. -/
theorem copies : Obligations.Copies := by
  refine ⟨fun t dh sh sc s u hs hroom => ?copy, fun t dh sh sc s u hs hroom => ?queue,
    fun t dh sh xh dq sc s u hs hd hh hx hspace hfmt bs v hget hroom => ?pattern,
    fun t dh sh xh dq sc m s u hs hd hh hx hsd hsh hfmt hflat hdim hlist hrow bs v hget hroom => ?gath,
    fun t dh sh xh dq sc s u hs hd hh hx hsd hsh hfmt hflat hdim hrow bs v hget hroom => ?scat⟩
  case copy =>
    refine ⟨fun ⟨hd, hh⟩ ⟨hsh, hsd⟩ hfmt hshape hapart => lsWord_moves hs hroom ?_ rfl, fun x hd => lsWord_stops hs ?_ rfl,
      fun x hd hh => lsWord_stops hs ?_ rfl, fun ⟨hd, hh⟩ hfar => lsWord_stops hs ?_ rfl,
      fun ⟨hd, hh⟩ ⟨hsh, hsd⟩ hfmt => lsWord_stops hs ?_ rfl, fun ⟨hd, hh⟩ ⟨hsh, hsd⟩ hfmt hbad => lsWord_stops hs ?_ rfl⟩
    · simp [hd, hh, hsh, hsd, pairBad_of_same hfmt hshape, hapart]
    · simp [hd]
    · simp [hd, hh]
    · simp only [ne_eq, not_and_or, not_not] at hfar
      obtain hsh | hsd := hfar <;> simp [*]
    · simp [hd, hh, hsh, hsd, pairBad_of_fmt hfmt]
    · by_cases hshape : SameShape (u.handle dh.toNat) (u.handle sh.toNat)
      · simp [hd, hh, hsh, hsd, pairBad_of_same hfmt hshape, hbad.resolve_left (not_not_intro hshape)]
      · simp [hd, hh, hsh, hsd, pairBad_of_shape hfmt hshape]
  case queue =>
    refine ⟨fun x hh => lsWord_stops hs ?_ rfl, fun hh hsp => lsWord_stops hs ?_ rfl, fun hh hsp hfmt => lsWord_stops hs ?_ rfl,
      fun hh hsp hfmt hrow => lsWord_stops hs ?_ rfl, fun hh hsp hfmt hrow => lsWord_moves hs hroom ?_ rfl⟩
    · simp [hh]
    · simp [hh, hsp]
    · simp [hh, hsp, queueBad, hfmt]
    · simp [hh, hsp, queueBad, hfmt, hrow]
    · simp [hh, hsp, queueBad_of_fits hfmt hrow]
  case pattern =>
    obtain ⟨f, hexec, hend⟩ := copyp_of_starts (t := t) rfl rfl rfl rfl hd hh hx hspace hfmt hget
    have hrecord {p q r : Prop} {x y : Nat} [Decidable p] [Decidable q] [Decidable r] :
        (p || q || r || (dq = 1 && x < y) : Bool) = true ↔ p ∨ q ∨ r ∨ dq = 1 ∧ x < y := by simp [or_assoc]
    have hsides {x y z w : Bool} : (x && y || z && w) = true ↔ x = true ∧ y = true ∨ z = true ∧ w = true := by simp
    have hrefused {x : Cause} (h : _ = LsRes.refuse x 0) := hexec.trans (lsWord_of_refused hs (hend.trans h))
    have hissued {w : State} (h : _ = LsRes.ok w) := hexec.trans (lsWord_of_starts f hs (hend.trans h))
    refine ⟨fun hbad => hrefused (if_pos (hrecord.2 hbad)), fun hok hz => hissued ?_, fun hok hz hout => hrefused ?_,
      fun hok hz hin hmeet => hrefused ?_, fun hok hz hin hapart => hissued ?_⟩
    · exact (if_neg (hrecord.not.2 hok)).trans (if_pos hz)
    · exact (if_neg (hrecord.not.2 hok)).trans ((if_neg hz).trans (if_pos (hsides.2 hout)))
    · exact (if_neg (hrecord.not.2 hok)).trans ((if_neg hz).trans ((if_neg (hsides.not.2 hin)).trans (if_pos hmeet)))
    · exact (if_neg (hrecord.not.2 hok)).trans ((if_neg hz).trans ((if_neg (hsides.not.2 hin)).trans
        ((if_neg (Bool.eq_false_iff.1 hapart)).trans ((if_neg hz).trans (acceptCmd_of_room hroom)))))
  case gath =>
    refine lsWord_of_starts _ hs ((checked_of_none (rowChecks_pass (ite_check_none fun _ => hd) hh hx hsh hsd hfmt hflat ?_)).trans ((hget _).trans ?_))
    · rw [and_decide_of_imp fun hq => not_lt.2 (hlist (of_decide_eq_true hq)), and_decide_of_imp fun hq => not_lt.2 (hrow (of_decide_eq_true hq))]
      simp [hdim]
    · rw [← gathPairs_eq]
      exact moveCmd_of_room hroom
  case scat =>
    have hfit : (hDim0 (if dq = 0 then u.handle sh.toNat else u.handle dh.toNat) ≠ hDim0 (u.handle dh.toNat) ||
        (dq = 1 && u.cur.n * 512 < hRowBytes (u.handle dh.toNat)) : Bool) = false := by
      rw [and_decide_of_imp fun hq => not_lt.2 (hrow (of_decide_eq_true hq))]
      exact (Bool.or_false _).trans (decide_eq_false (not_not_intro hdim))
    have hpass := rowChecks_pass hd (ite_check_none (p := dq = 0) fun _ => hh) hx hsh hsd hfmt hflat hfit
    exact ⟨fun hq => lsWord_of_starts _ hs ((checked_of_none hpass).trans ((hget _).trans ((if_pos hq).trans
        (by rw [← scatPairs_eq]; exact moveCmd_of_room hroom)))),
      fun hq => lsWord_of_starts _ hs ((checked_of_none hpass).trans ((hget _).trans ((if_neg (by simp [hq])).trans
        (by rw [← scatPairs_eq]; exact acceptCmd_of_room hroom))))⟩

end Sys2Proof.Proofs.LsWords

/-! ## Remote copies, jobs and pages (09 R229-R232; 02 R41; 17 R394) -/

namespace Sys2Proof.Proofs.LsWords

open Machine Claims Laws ArrayWords

/-! ### RREAD, RWRITE and RWRITE.WIN (09 R229) -/

theorem bit_eq_one {q : BitVec 1} (h : q ≠ 0) : q = 1 := (by decide : ∀ q : BitVec 1, q ≠ 0 → q = 1) q h

/-- The check of a queue form passes. -/
theorem ite_queue_none {dq : BitVec 1} {x : Option Cause} (h : dq = 1 → x = none) : (if dq = 0 then none else x) = none := by
  split
  · rfl
  next hq => exact h (bit_eq_one hq)

/-- One side of the word, here or queue entries, and a remote handle at a place that the word may name, with the scope that it asks. -/
structure RemoteGood (d h far : Handle) (hasPair win : Bool) (scope : Nat) : Prop where
  remote : hSpace far = spRemote
  pair : hasPair = true → (hSpace d = spRemote) ≠ (hSpace h = spRemote) ∧ pairBad d h = none
  place : if win then hDp far ≠ 0 ∨ hDd far ≠ 0 else hDp far ≠ 0 ∧ hDd far = 0
  reach : (if hDp far = 0 then 1 else 3) ≤ scope

theorem remoteBad_of_good {d h far : Handle} {hasPair win : Bool} {scope : Nat} (hgood : RemoteGood d h far hasPair win scope) :
    remoteBad d h far hasPair win scope = none := by
  obtain ⟨hremote, hpair, hplace, hreach⟩ := hgood
  have hwhere : (if win then hDp far = 0 && hDd far = 0 else hDp far = 0 || hDd far ≠ 0 : Bool) = false := by
    cases win
    · simpa using hplace
    · simpa [or_iff_not_imp_left] using hplace
  rw [remoteBad, and_decide_of_imp fun hp => (hpair hp).1, ite_check_none fun hp => (hpair hp).2, hwhere]
  simp [hremote, not_lt.2 hreach]

/-- Of the checks of a good remote word only that of the way is left. -/
theorem remoteChecks_eq {d h far : Handle} {hasPair win : Bool} {scope : Nat} {a b c x : Option Cause} (ha : a = none) (hb : b = none)
    (hc : c = none) (hgood : RemoteGood d h far hasPair win scope) :
    orElseC a (orElseC b (orElseC c (orElseC (remoteBad d h far hasPair win scope) x))) = x := by
  rw [ha, hb, hc, remoteBad_of_good hgood]
  rfl

/-- No way leads to the place that RWRITE, or RWRITE.WIN, writes. -/
def wayBlocked (u : State) (d : Handle) (win : Bool) : Bool :=
  (win && (if hDp d = 0 then u.dieAt (hDd d) else u.farDie (hDd d)).isNone) || (if hDp d = 0 then false else if win then
    (match u.farPkg (hDp d) with | some x => 1 < Config.switches u.pod x.1 | none => true) else (u.farPkg (hDp d)).isNone)

theorem wayBlocked_copy {u : State} {d : Handle} (hdp : hDp d ≠ 0) : wayBlocked u d false = (u.farPkg (hDp d)).isNone := by
  simp [wayBlocked, hdp]

/-- A window stands on an existing die, joined to the writer's in this package or behind at most one switch. -/
theorem wayBlocked_window {u : State} {d : Handle} : wayBlocked u d true = false ↔ 0 ≤ (u.cur.die : Int) + hDd d ∧ (u.cur.die : Int) + hDd d < 8 ∧
    (hDp d = 0 → u.joined u.cur.die ((u.cur.die : Int) + hDd d).toNat = true) ∧
    (hDp d = 0 ∨ ∃ x, u.farPkg (hDp d) = some x ∧ Config.switches u.pod x.1 ≤ 1) := by
  have hlast (x : Int) : x ≤ 7 ↔ x < 8 := by omega
  by_cases hdp : hDp d = 0
  · simp [wayBlocked, hdp, State.dieAt, hlast, and_assoc]
  · cases hfar : u.farPkg (hDp d) <;> simp [wayBlocked, hdp, hfar, State.farDie, hlast, and_assoc]

/-- The checks of RWRITE and RWRITE.WIN with good handles leave that of the way. -/
theorem rwriteWork_of_good {t : Tok} {dh sh : BitVec 4} {dq : BitVec 1} {sc : BitVec 2} {win : Bool} {k q : CmdKind} {u : State} {d h : Handle}
    (hd' : u.handle dh.toNat = d) (hh' : (if dq = 0 then u.handle sh.toNat else d) = h)
    (hd : u.cur.handleCheck d = none) (hpair : dq = 0 → u.cur.fullCheck h = none) (hentry : dq = 1 → queueBad u.cur d = none)
    (hgood : RemoteGood d h d (dq = 0) win sc.toNat) :
    rwriteWork t dh sh dq sc win k q u = checked (firstBad [(wayBlocked u d win, .remoteUnreachable)])
      (moveCmd t { u.newCmd t (if dq = 0 then k else q) sc with dst := d, src := h }
      (if dq = 0 then hTotal h else hWalkBytes d) ((if dq = 0 then hRange h true false else []) ++ hRange d true true) u) := by
  subst hd' hh'
  exact congrArg (checked · _) (remoteChecks_eq hd (ite_check_none hpair) (ite_queue_none hentry) hgood)

/-! ### JOB (09 R231, R232) -/

/-- What JOB does with the bytes bs of its n cards in v: the scheduler of die `die` takes them. -/
def jobEnd (t : Tok) (sc : BitVec 2) (h : Handle) (n die : Nat) (bs : List Byte) (v : State) : LsRes :=
  let c := { v.newCmd t .job sc with aux := h, total := n }
  let cards := (List.range n).map fun k => cardCmd c k ((bs.drop (64 * k)).take 64)
  if cards.any Option.isNone then .refuse .patternInvalid 0
  else match acceptCmd { c with fp := [mkRange (hSpace h) (hBase h) (hBase h + 64 * n : Nat) false] } v with
    | .ok v => .ok ((v.onCur fun l => { l with nextSeq := l.nextSeq + n, cmds := l.cmds ++ cards.filterMap id }).acceptCards die 64)
    | r => r

/-- A JOB that starts takes its cards from the window or from global memory. -/
theorem job_of_starts {t : Tok} {sh : BitVec 4} {sc : BitVec 2} {n : BitVec 20} {s u v : State} {bs : List Byte} (hs : LsStarts t s u)
    (hh : u.cur.handleCheck (u.handle sh.toNat) = none) (hfmt : hFmt (u.handle sh.toNat) = 0x0C)
    (htakes : LsTakes sc (u.handle sh.toNat) (64 * n.toNat) u bs v) :
    ∃ f, execJob t sh sc n s = lsWord t f s ∧ f s.curStream u = jobEnd t sc (u.handle sh.toNat) n.toNat u.cur.die bs v := by
  rw [← curStream_of_starts hs]
  obtain ⟨hsp, hget⟩ | ⟨hsp, raw, w, x, hcards, hinput, rfl⟩ := htakes
  · exact ⟨_, rfl, (checked_of_none (by simp [hh, hsp, hfmt])).trans ((if_pos hsp).trans (hget _))⟩
  · have hne : ¬ hSpace (u.handle sh.toNat) = spScratch := by rw [hsp]; decide
    refine ⟨_, rfl, (checked_of_none (by simp [hh, hsp, hfmt])).trans ((if_neg hne).trans ((hcards _).trans ?_))⟩
    rw [hinput]
    rfl

/-! ### KVGET and KVPUT (09 R230) -/

/-- What KVGET and KVPUT do with their page list in v, their pages in the pool of partition p. -/
def kvEnd (t : Tok) (x : Handle) (sc : BitVec 2) (m : BitVec 4) (peer : BitVec 12) (get : Bool) (p : Nat) (v : State) : LsRes :=
  let rows := (List.range (hDim1 x)).flatMap fun r => ints32 (v.winBytes (hRowAt x 0 r).toNat 8)
  let locals := (List.range (hDim1 x)).map fun r => rows.getD (2 * r) 0
  let pages := locals.map fun i => v.poolPage p i.toNat
  let lo := pages.foldl Nat.min (pages.headD 0)
  let hi := pages.foldl Nat.max 0
  if locals.any fun i => i < 0 || (v.poolPages p : Int) ≤ i then .refuse .illegalOperand 0
  else acceptCmd { v.newCmd t (if get then .kvget else .kvput) sc with
    idxs := rows, total := hDim1 x, imm := peer.toNat, m := m.toNat,
    fp := [mkRange spGlobal lo (hi + 65536 : Nat) get, ⟨spRemote, 0, 1, !get⟩] } v

theorem kvOutside_iff {xs : List Int} {n : Nat} : (xs.any fun i => i < 0 || (n : Int) ≤ i) = true ↔ ¬ ∀ i ∈ xs, 0 ≤ i ∧ i < (n : Int) := by
  simp [imp_iff_not_or]

/-- The checks of a good page list leave that of the peer. -/
theorem kvIssue_of_list {t : Tok} {xh : BitVec 4} {sc : BitVec 2} {m : BitVec 4} {peer : BitVec 12} {get : Bool} {u : State}
    (hx : u.cur.handleCheck (u.handle xh.toNat) = none) (hsp : hSpace (u.handle xh.toNat) = spScratch) (hfmt : hFmt (u.handle xh.toNat) = 0x0B)
    (h0 : hDim0 (u.handle xh.toNat) = 2) (h1 : hDim1 (u.handle xh.toNat) ≠ 0) (h2 : hDim2 (u.handle xh.toNat) = 1) :
    (peerUsable (sget 0 peer.toNat (u.part u.cur.part).peers) m.toNat = false → kvIssue t xh sc m peer get u = .refuse .remoteUnreachable 0) ∧
    (peerUsable (sget 0 peer.toNat (u.part u.cur.part).peers) m.toNat = true → ∀ v, scratchCheck u.curStream (u.cur.curSlot u.curStream) sc.toNat
        (asKind .read ((List.range (hDim1 (u.handle xh.toNat))).flatMap fun r => granulesOf (hRowAt (u.handle xh.toNat) 0 r).toNat 8)) u = .ok v →
      kvIssue t xh sc m peer get u = kvEnd t (u.handle xh.toNat) sc m peer get u.cur.part v) := by
  refine ⟨fun hpeer => checked_of_some ?_, fun hpeer v hv => (checked_of_none ?_).trans ?_⟩
  · simp [hx, hsp, hfmt, h0, h1, h2, hpeer]
  · simp [hx, hsp, hfmt, h0, h1, h2, hpeer]
  · rw [hv]
    rfl

/-- Settles O30: the checks of a good word leave that of the way, or of the peer, which stops it or lets it issue; JOB and the page words go
on with the bytes they read. -/
theorem remoteCopiesAndJobs : Obligations.RemoteCopiesAndJobs := by
  refine ⟨fun t dh sh dq sc s u hs hroom => ?rread, fun t dh sh dq sc s u hs hroom => ?rwrite,
    fun t sh sc n s u hs hh hfmt bs v htakes hroom => ?job,
    fun t xh sc m peer s u v hs hx hsp hfmt h0 h1 h2 => ?kv⟩
  case rread =>
    intro h d pair entry c hh hsp hpair hentry hdp hdd hsc
    have hgood : RemoteGood d h h (dq = 0) false sc.toNat := by
      refine ⟨hsp, fun hq => ?_, ⟨hdp, hdd⟩, by simp [hdp, hsc]⟩
      obtain ⟨-, hsd, hfmt, hshape⟩ := hpair (of_decide_eq_true hq)
      exact ⟨by simp [hsd, hsp], pairBad_of_same hfmt hshape⟩
    have hfull (hq : dq = 0) := (hpair hq).1
    have hqueue (hq : dq = 1) := queueBad_of_fits (hentry hq).1 (hentry hq).2
    refine ⟨fun hno => lsWord_stops hs ((remoteChecks_eq (ite_check_none hfull) hh (ite_queue_none hqueue) hgood).trans ?_) rfl,
      fun x hx => lsWord_moves hs hroom ((remoteChecks_eq (ite_check_none hfull) hh (ite_queue_none hqueue) hgood).trans ?_) rfl⟩
    · rw [hno]; rfl
    · rw [hx]; rfl
  case rwrite =>
    intro d h pair entry cmd ends hd hsp hpair hentry
    have hfull (hq : dq = 0) := (hpair hq).1
    have hqueue (hq : dq = 1) := queueBad_of_fits (hentry hq).1 (hentry hq).2
    have hsides : decide (dq = 0) = true → (hSpace d = spRemote) ≠ (hSpace h = spRemote) ∧ pairBad d h = none := by
      intro hq
      obtain ⟨-, hsh, hfmt, hshape⟩ := hpair (of_decide_eq_true hq)
      exact ⟨by simp [hsh, hsp], pairBad_of_same hfmt hshape⟩
    refine ⟨fun hdp hdd hsc => ?_, fun hplace hsc => ?_⟩
    · have hgood : RemoteGood d h d (dq = 0) false sc.toNat := ⟨hsp, hsides, ⟨hdp, hdd⟩, by simp [hdp, hsc]⟩
      have hwork := rwriteWork_of_good (t := t) (win := false) (k := .rwrite) (q := .rwriteOut) rfl rfl hd hfull hqueue hgood
      have hway := wayBlocked_copy (u := u) hdp
      exact ⟨fun x hx => lsWord_moves hs hroom (by rw [hway, hx]; rfl) hwork, fun hno => lsWord_stops hs (by rw [hway, hno]; rfl) hwork⟩
    · have hwork := rwriteWork_of_good (t := t) (win := true) (k := .rwin) (q := .rwinOut) rfl rfl hd hfull hqueue ⟨hsp, hsides, hplace, hsc⟩
      refine ⟨fun hthere => lsWord_moves hs hroom (by rw [wayBlocked_window.2 hthere]; rfl) hwork, fun haway => lsWord_stops hs ?_ hwork⟩
      rw [Bool.eq_true_of_not_eq_false fun h => haway (wayBlocked_window.1 h)]
      rfl
  case job =>
    obtain ⟨f, hexec, hend⟩ := job_of_starts hs hh hfmt htakes
    refine ⟨fun ⟨x, hx, hnone⟩ => hexec.trans (lsWord_of_refused hs (hend.trans (if_pos ?_))),
      fun hall => hexec.trans (lsWord_of_starts f hs (hend.trans ((if_neg ?_).trans ?_)))⟩
    · exact List.any_eq_true.2 ⟨x, hx, by rw [hnone]; rfl⟩
    · simpa [Option.isNone_iff_eq_none] using hall
    · rw [acceptCmd_of_room hroom]
  case kv =>
    refine ⟨fun hpeer => ⟨lsWord_of_refused hs ((kvIssue_of_list hx hsp hfmt h0 h1 h2).1 hpeer),
      lsWord_of_refused hs ((kvIssue_of_list hx hsp hfmt h0 h1 h2).1 hpeer)⟩, fun hpeer hv hroom => ⟨fun hin => ?_, fun hout => ?_⟩⟩
    · have hno : ¬ _ = true := kvOutside_iff.not.2 (not_not_intro hin)
      have hwork (get : Bool) := ((kvIssue_of_list (t := t) (get := get) hx hsp hfmt h0 h1 h2).2 hpeer v hv).trans
        ((if_neg hno).trans (acceptCmd_of_room hroom))
      exact ⟨lsWord_of_starts _ hs (hwork true), lsWord_of_starts _ hs (hwork false)⟩
    · have hwork (get : Bool) := ((kvIssue_of_list (t := t) (get := get) hx hsp hfmt h0 h1 h2).2 hpeer v hv).trans (if_pos (kvOutside_iff.2 hout))
      exact ⟨lsWord_of_refused hs (hwork true), lsWord_of_refused hs (hwork false)⟩

end Sys2Proof.Proofs.LsWords

/-! ## Slice operations, RATOM, OUTQ and the list words (09 R225-R228; 11 R268, R270, R273-R275) -/

namespace Sys2Proof.Proofs.LsWords

open Machine Claims Laws ArrayWords

/-- The operation's format, as the statement writes it. -/
theorem atomvFmt_of {m : BitVec 4} {fmt : Nat} (h : if m.toNat < 8 then fmt = 0x0B else if m = 8 then fmt = 1 ∨ fmt = 2 else fmt = 1) :
    atomvFmt m.toNat fmt = true := by
  have h8 : m.toNat = 8 ↔ m = 8 := by rw [BitVec.toNat_eq]; rfl
  unfold atomvFmt
  simp only [h8]
  split at h
  next hm => simp [hm, h]
  next hm => split at h <;> simp_all

theorem setRefOk_of_ok {h : Handle} {u : State} {r : LsRes} (hbase : hBase h % 8 = 0) (hwin : u.cur.winOk (hBase h) (hBase h + 8 : Nat) = true) :
    setRefOk h u r = r := by
  rw [setRefOk, if_neg (not_not_intro hbase), hwin]
  rfl

theorem setRefOk_of_misaligned {h : Handle} {u : State} {r : LsRes} (hbase : hBase h % 8 ≠ 0) :
    setRefOk h u r = .refuse .misaligned (hBase h) := if_pos hbase

theorem setRefOk_of_outside {h : Handle} {u : State} {r : LsRes} (hbase : hBase h % 8 = 0)
    (hwin : u.cur.winOk (hBase h) (hBase h + 8 : Nat) = false) : setRefOk h u r = .refuse .scratchBounds 0 := by
  rw [setRefOk, if_neg (not_not_intro hbase), hwin]
  rfl

/-- A command over rows that are there, or one that has none and completes. -/
theorem rows_of_room {t : Tok} {c : Cmd} {n : Nat} {fp : List FpRange} {u : State} (hroom : LsRoom u) :
    (if n = 0 then emptyCmd t c.bit u else acceptCmd { c with total := n, fp := fp } u) = .ok (lsMoved t c n fp u) := moveCmd_of_room hroom

/-- The space of a maintenance command's handle. -/
def RangeGood (h : Handle) (view : Bool) : Prop := hSpace h = spGlobal ∨ (view = true ∧ hSpace h = spView)

section
variable {t : Tok} {sh : BitVec 4} {sc : BitVec 2} {k : CmdKind} {view : Bool} {fp : Handle → List FpRange} {u : State}
  (hh : u.cur.handleCheck (u.handle sh.toNat) = none)
include hh

theorem maintain_of_good (hroom : LsRoom u) (hsp : RangeGood (u.handle sh.toNat) view) : maintain t sh sc k view fp u =
    .ok (lsMoved t { u.newCmd t k sc with src := u.handle sh.toNat, dst := u.handle sh.toNat } (hWalkBytes (u.handle sh.toNat))
      (fp (u.handle sh.toNat)) u) := by
  refine (checked_of_none ?_).trans (moveCmd_of_room hroom)
  obtain hsp | ⟨hv, hsp⟩ := hsp
  · simp [hh, rangeBad, hsp]
  · simp [hh, rangeBad, hsp, hv]

theorem maintain_of_bad (hsp : ¬ RangeGood (u.handle sh.toNat) view) : maintain t sh sc k view fp u = .refuse .handleInvalid 0 := by
  obtain ⟨hglobal, hview⟩ := not_or.1 hsp
  refine checked_of_some ?_
  cases view
  · simp [hh, rangeBad, hglobal]
  · simp [hh, rangeBad, hglobal, not_and.1 hview rfl]

end

theorem firstBad_cons {b : Bool} {c : Cause} {cs : List (Bool × Cause)} (h : b = false) : firstBad ((b, c) :: cs) = firstBad cs := by
  rw [h]
  rfl

/-- The checks of an ATOMV with good handles leave that of the number of elements. -/
theorem atomvChecks_eq {dq : BitVec 1} {m : BitVec 4} {a b : Option Cause} {d h : Handle} (ha : a = none) (hb : b = none)
    (hsd : hSpace d = spGlobal) (hsh : dq = 0 → hSpace h = spScratch) (hfmt : hFmt h = hFmt d)
    (hop : if m.toNat < 8 then hFmt d = 0x0B else if m = 8 then hFmt d = 1 ∨ hFmt d = 2 else hFmt d = 1) :
    orElseC a (orElseC b (firstBad [(hSpace d ≠ spGlobal || (dq = 0 && hSpace h ≠ spScratch), .handleInvalid),
      (hFmt h ≠ hFmt d || !atomvFmt m.toNat (hFmt d), .formatInvalid), (hElems h < hElems d, .illegalOperand)])) =
    if hElems h < hElems d then some .illegalOperand else none := by
  rw [ha, hb, and_decide_of_imp fun hq => not_not_intro (hsh (of_decide_eq_true hq)), atomvFmt_of hop]
  simp [hsd, hfmt, firstBad]

theorem outqCheck_pass {l : Lease} {h : Handle} (hh : l.handleCheck h = none) (hsp : hSpace h = spScratch ∨ hSpace h = spGlobal) :
    orElseC (l.handleCheck h) (firstBad [(hSpace h ≠ spScratch && hSpace h ≠ spGlobal, .handleInvalid)]) = none := by
  obtain hsp | hsp := hsp <;> simp [hh, hsp]

theorem and_not_of_imp {b c : Bool} (h : b = true → c = true) : (b && !c) = false := by
  cases b
  · rfl
  · rw [h rfl]; rfl

/-- The checks of a RATOM with good handles, its results' places where it fetches, and a usable peer. -/
theorem ratomChecks_pass {u : State} {d h x : Handle} {m : BitVec 4} {fetch : BitVec 1} {size n : Nat}
    (hfetch : fetch = 1 → u.cur.handleCheck d = none ∧ hSpace d = spScratch ∧ n ≤ hElems d ∧
      ∀ i < n, u.cur.winOk (elemAt d i size) (elemAt d i size + size) = true)
    (hh : u.cur.handleCheck h = none) (hx : u.cur.handleCheck x = none) (hxs : hSpace x = spScratch)
    (hsp : hSpace h = spGlobal ∨ (hSpace h = spRemote ∧ hDp h ≠ 0 ∧ hDd h = 0 ∧ u.farPkg (hDp h) ≠ none))
    (hcas : m.toNat = 9 → hDim0 x % 2 = 0) (hn : n ≠ 0) (hwin : u.cur.winOk (hBase x) (hBase x + hDim0 x * size : Nat) = true) :
    orElseC (if fetch = 1 then u.cur.handleCheck d else none) (orElseC (u.cur.handleCheck h) (orElseC (u.cur.handleCheck x) (firstBad [
      ((!decide (hSpace h = spRemote) && hSpace h ≠ spGlobal) || hSpace x ≠ spScratch || (fetch = 1 && hSpace d ≠ spScratch), .handleInvalid),
      (hSpace h = spRemote && (hDp h = 0 || hDd h ≠ 0), .illegalOperand),
      ((m.toNat = 9 && hDim0 x % 2 = 1) || n = 0 || (fetch = 1 && hElems d < n), .illegalOperand),
      (!u.cur.winOk (hBase x) (hBase x + hDim0 x * size : Nat) ||
        (fetch = 1 && !(List.range n).all fun i => u.cur.winOk (elemAt d i size) (elemAt d i size + size)), .scratchBounds),
      (hSpace h = spRemote && (u.farPkg (hDp h)).isNone, .remoteUnreachable)]))) = none := by
  have hne : spGlobal ≠ spRemote := by decide
  rw [ite_check_none fun hf => (hfetch hf).1, hh, hx]
  refine (firstBad_cons ?_).trans ((firstBad_cons ?_).trans ((firstBad_cons ?_).trans ((firstBad_cons ?_).trans (firstBad_cons ?_))))
  · rw [and_decide_of_imp fun hf => not_not_intro (hfetch (of_decide_eq_true hf)).2.1]
    obtain hsp | ⟨hsp, -⟩ := hsp <;> simp [hsp, hxs]
  · obtain hsp | ⟨hsp, hdp, hdd, -⟩ := hsp
    · simp [hsp, hne]
    · simp [hdp, hdd]
  · rw [and_decide_of_imp fun hm => by rw [hcas (of_decide_eq_true hm)]; decide,
      and_decide_of_imp fun hf => not_lt.2 (hfetch (of_decide_eq_true hf)).2.2.1]
    simp [hn]
  · rw [and_not_of_imp fun hf => ?_, hwin]
    · rfl
    · simpa using (hfetch (of_decide_eq_true hf)).2.2.2
  · obtain hsp | ⟨-, -, -, hway⟩ := hsp
    · simp [hsp, hne]
    · obtain ⟨y, hy⟩ := Option.ne_none_iff_exists'.1 hway
      simp [hy]

/-- Settles O31: the checks of a good word pass, and its command enters the table; a word of another space or base is refused by the first
check that it fails. -/
theorem sliceAndListCommands : Obligations.SliceAndListCommands := by
  refine ⟨fun t sh sc s u hs hroom => ?maintain, fun t dh sh dq sc m s u hs hroom hd hh hsd hsh hfmt hop => ?atomv,
    fun t dh sh xh sc m same w64 fetch s u hs hroom hfetch hh hx hxs hsp hcas hn hwin => ?ratom, fun t sh sc m imm s u hs => ?outq,
    fun t dh sh sc st m max list s u hs hh hsh => ?lists⟩
  case maintain =>
    refine ⟨fun c hbad i hi => ?_, fun hh => ⟨fun hsp => ⟨?_, ?_⟩, fun hsp => ⟨?_, ?_⟩, fun hsp => ⟨?_, ?_⟩, fun hsp => ⟨?_, ?_⟩⟩⟩
    · simp only [List.mem_cons, List.not_mem_nil, or_false] at hi
      obtain rfl | rfl | rfl | rfl := hi
      all_goals exact lsWord_stops hs (by rw [hbad]; rfl) rfl
    · exact lsWord_of_starts _ hs (maintain_of_good hh hroom (hsp.imp_right fun h => ⟨rfl, h⟩))
    · exact lsWord_of_starts _ hs (maintain_of_good hh hroom (hsp.imp_right fun h => ⟨rfl, h⟩))
    · exact lsWord_of_starts _ hs (maintain_of_good hh hroom (.inl hsp))
    · exact lsWord_of_starts _ hs (maintain_of_good hh hroom (.inl hsp))
    · exact lsWord_of_refused hs (maintain_of_bad hh fun h => hsp (h.imp_right And.right))
    · exact lsWord_of_refused hs (maintain_of_bad hh fun h => hsp (h.imp_right And.right))
    · exact lsWord_of_refused hs (maintain_of_bad hh fun h => h.elim hsp nofun)
    · exact lsWord_of_refused hs (maintain_of_bad hh fun h => h.elim hsp nofun)
  case atomv =>
    have hchecks := atomvChecks_eq (b := if dq = 0 then _ else none) hd (ite_check_none fun _ => hh) hsd hsh hfmt hop
    exact ⟨fun hn => lsWord_moves hs hroom (hchecks.trans (if_neg (not_lt.2 hn))) rfl,
      fun hn => lsWord_stops hs (hchecks.trans (if_pos hn)) rfl⟩
  case ratom =>
    have hchecks : _ = none := ratomChecks_pass hfetch hh hx hxs hsp hcas hn hwin
    refine ⟨fun hbase => lsWord_of_starts _ hs ?_, fun hbase => lsWord_of_refused hs ((checked_of_none hchecks).trans (if_pos hbase))⟩
    exact (checked_of_none hchecks).trans ((if_neg (not_not_intro hbase)).trans (acceptCmd_of_room hroom))
  case outq =>
    refine ⟨fun hm => lsWord_of_starts _ hs (if_pos hm), fun hm hh hsp hroom => ⟨fun hbase => lsWord_of_refused hs ?_,
      fun hbase hwin => lsWord_of_starts _ hs ?_⟩⟩
    · exact (if_neg hm).trans ((checked_of_none (outqCheck_pass hh hsp)).trans (if_pos hbase))
    · refine (if_neg hm).trans ((checked_of_none (outqCheck_pass hh hsp)).trans ((if_neg (not_not_intro hbase)).trans ((if_neg ?_).trans
        (acceptCmd_of_room hroom))))
      rw [and_not_of_imp fun h => hwin (of_decide_eq_true h)]
      exact Bool.false_ne_true
  case lists =>
    refine ⟨fun hd hsd hfmt h0 h2 hroom => ⟨fun hbase => lsWord_of_refused hs ?_, fun ⟨hbase, hwin⟩ => lsWord_of_starts _ hs ?_⟩,
      fun hd hsd hfmt hmax h1 h2 => ⟨fun hbase => lsWord_of_refused hs ?_, fun hbase hwin => lsWord_of_refused hs ?_,
        fun ⟨hbase, hwin⟩ hroom => lsWord_of_starts _ hs ?_⟩,
      fun hbase => lsWord_of_refused hs ?_, fun ⟨hbase, hwin⟩ hroom => lsWord_of_starts _ hs ?_⟩
    · refine (checked_of_none ?_).trans (setRefOk_of_misaligned hbase)
      simp [*]
    · refine (checked_of_none ?_).trans ((setRefOk_of_ok hbase hwin).trans ?_)
      · simp [*]
      · exact rows_of_room (c := { u.newCmd t .wlapp sc with src := u.handle sh.toNat, dst := u.handle dh.toNat, m := m.toNat }) hroom
    · refine (checked_of_none ?_).trans (setRefOk_of_misaligned hbase)
      simp [*, not_le.2 hmax]
    · refine (checked_of_none ?_).trans (setRefOk_of_outside hbase hwin)
      simp [*, not_le.2 hmax]
    · refine (checked_of_none ?_).trans ((setRefOk_of_ok hbase hwin).trans (acceptCmd_of_room hroom))
      simp [*, not_le.2 hmax]
    · exact (checked_of_none (by simp [*])).trans (setRefOk_of_misaligned hbase)
    · exact (checked_of_none (by simp [*])).trans ((setRefOk_of_ok hbase hwin).trans (acceptCmd_of_room hroom))

end Sys2Proof.Proofs.LsWords

/-! ## Units of commands and cycles of the shared engines (09 R217, R225, R227; 11 R275; 12 R314)

A unit of a command may fault, halt its partition, complete the command, or write into the window of another lease of the package. What
it keeps is therefore stated of the leases in focus and out of it, and of a lease's life only whether there is one: such a write gives
the focus to the other lease for a while, and a find of an uncorrectable error halts both (`ControlFrames.unitView` forgets the life of a
lease and the leases out of focus). -/

namespace Sys2Proof.Proofs.CommandUnits

set_option Elab.async false

open Machine Claims Laws

/-! ### What the device's units keep of every lease -/

/-- What no unit of a command changes of a lease; of its life only whether there is one. -/
def leaseView (l : Lease) : Lease :=
  { id := l.id, prologue := l.prologue, st := if l.st = .free then .free else .running,
    ct := { sregs := l.ct.sregs, shadow := l.ct.shadow, handles := l.ct.handles, pc := l.ct.pc, loops := l.ct.loops,
            trapPc := l.ct.trapPc, trapCause := l.ct.trapCause } }

/-- The datum and what no unit changes of the leases, in their order. -/
def leasesView (s : State) : Nat × Lease × List Lease := (s.datum, leaseView s.cur, s.rest.map leaseView)

theorem foldl_leasesView {β : Type} {f : State → β → State} (hf : ∀ s x, leasesView (f s x) = leasesView s) (xs : List β) (s : State) :
    leasesView (xs.foldl f s) = leasesView s := by
  induction xs generalizing s with
  | nil => rfl
  | cons x r ih => exact (ih _).trans (hf s x)

section
variable (s : State)

theorem leasesView_mapLeases {f : Lease → Lease} (hf : ∀ l, leaseView (f l) = leaseView l) : leasesView (s.mapLeases f) = leasesView s := by
  simp [leasesView, State.mapLeases, hf]

theorem leasesView_victim {α : Type} (n : Nat) (xs : List α) : leasesView (s.victim n xs).2 = leasesView s := by
  grind [State.victim, State.nextFree, leasesView]

theorem leasesView_rekey (slot key : Nat) : leasesView (s.rekey slot key) = leasesView s := by
  grind [State.rekey, leasesView]

theorem leasesView_dropCopy (key : Nat) : leasesView (s.dropCopy key) = leasesView s := by
  grind [State.dropCopy, leasesView]

theorem leasesView_breakRun (key : Nat) : leasesView (s.breakRun key) = leasesView s := leasesView_dropCopy s key

theorem leasesView_flushLine (slot key : Nat) (drop : Bool) : leasesView (s.flushLine slot key drop) = leasesView s := by
  grind [State.flushLine, State.dropLine, leasesView, leasesView_dropCopy, leasesView_rekey]

theorem leasesView_sliceRoom (c : Nat) : leasesView (s.sliceRoom c) = leasesView s := by
  grind [State.sliceRoom, leasesView_victim, leasesView_flushLine, leasesView_dropCopy]

theorem leasesView_fillLine (slot key : Nat) : leasesView (s.fillLine slot key) = leasesView s := by
  grind [State.fillLine, leasesView, leasesView_sliceRoom]

theorem leasesView_placeCopy (die slot key : Nat) : leasesView (s.placeCopy die slot key) = leasesView s := by
  grind [State.placeCopy, leasesView, leasesView_sliceRoom, leasesView_dropCopy]

theorem leasesView_noteRead (p die : Nat) (t : Tr) : leasesView (s.noteRead p die t) = leasesView s := by
  grind [State.noteRead, leasesView, leasesView_placeCopy]

theorem leasesView_splitViews (t : Tr) (n : Nat) : leasesView (s.splitViews t n) = leasesView s := by
  grind [State.splitViews, State.putView, leasesView]

theorem leasesView_writePlain (t : Tr) (bs : List Byte) : leasesView (s.writePlain t bs) = leasesView s := by
  grind [State.writePlain, leasesView, leasesView_fillLine, leasesView_rekey]

theorem leasesView_writeTr (t : Tr) (bs : List Byte) (view : Bool) : leasesView (s.writeTr t bs view) = leasesView s := by
  grind [State.writeTr, State.putView, leasesView, leasesView_fillLine, leasesView_breakRun, leasesView_splitViews, leasesView_writePlain]

/-! ### Writes of units, counters and event queues -/

theorem leasesView_atsAsk (p pa : Nat) : leasesView (s.atsAsk p pa) = leasesView s := by
  grind [State.atsAsk, State.setPart, leasesView]

theorem leasesView_unitPut (p va : Nat) (bs : List Byte) : leasesView (s.unitPut p va bs) = leasesView s := by
  grind [State.unitPut, State.settle, State.setMeta, leasesView, leasesView_atsAsk, leasesView_writeTr]

theorem leasesView_hostPut (p a : Nat) (bs : List Byte) : leasesView (s.hostPut p a bs) = leasesView s := by
  grind [State.hostPut, leasesView, leasesView_atsAsk, leasesView_rekey]

theorem leasesView_busStore (p : Nat) (host : Bool) (a : Nat) (bs : List Byte) : leasesView (s.busStore p host a bs) = leasesView s := by
  unfold State.busStore
  split
  · exact foldl_leasesView (fun s _ => leasesView_hostPut s _ _ _) _ s
  · exact foldl_leasesView (fun s _ => leasesView_unitPut s _ _ _) _ s

/-- An entry is put by `put`, or there is no room and it is lost. -/
theorem leasesView_eqPutBy {put : State → Nat → Bool → Nat → List Byte → State}
    (hput : ∀ s p h a bs, leasesView (put s p h a bs) = leasesView s) (p q : Nat) (entry : Nat → List Byte) :
    leasesView ((s.eqPutBy put p q entry).getD (s.eqLose p q)) = leasesView s := by
  unfold State.eqPutBy
  dsimp only
  split
  · rfl
  · rw [Option.getD_some]
    split <;> exact hput s _ _ _ _

theorem leasesView_counterRoom (b1 : Bool) (k : Nat) : leasesView (s.counterRoom b1 k) = leasesView s := leasesView_victim s 4 _

theorem leasesView_countAccess (p va : Nat) (t : Tr) : leasesView (s.countAccess p va t) = leasesView s := by
  have room (c k : Nat) (b : Bool) : leasesView (if c = 0 then s.counterRoom b k else s) = leasesView s := by
    split
    · exact leasesView_counterRoom ..
    · rfl
  unfold State.countAccess
  dsimp only
  split
  · rfl
  split
  · rfl
  split
  · exact (leasesView_eqPutBy _ (fun s => leasesView_busStore s) _ _ _).trans (room _ _ _)
  · exact room _ _ _

theorem leasesView_touchLine (p va : Nat) (t : Tr) : leasesView (s.touchLine p va t) = leasesView s := by
  grind [State.touchLine, leasesView_fillLine, leasesView_countAccess]

theorem leasesView_countHome (die p va : Nat) (t : Tr) (k : AccKind) : leasesView (s.countHome die p va t k) = leasesView s := by
  grind [State.countHome, leasesView_noteRead, leasesView_touchLine, leasesView_countAccess, leasesView_breakRun]

/-- The halt line halts leases that run or are parked, and changes no other field that the view holds (16 R375). -/
theorem leasesView_haltLine (p : Nat) (c : Cause) (x : StopInfo) : leasesView (s.haltLine p c x) = leasesView s := by
  have life (l : Lease) : leaseView (if l.part = p && (l.st = .running || l.st = .parked) then { l with st := .halted, pre := .none } else l) =
      leaseView l := by
    grind [leaseView]
  unfold State.haltLine
  dsimp only
  split
  · rfl
  · exact leasesView_mapLeases (s.setPart p _) life

theorem leasesView_unitArrive (u : UnitId) (p va : Nat) (k : AccKind) : leasesView (s.unitArrive u p va k) = leasesView s := by
  grind [State.unitArrive, leasesView, leasesView_haltLine, leasesView_countHome]

theorem leasesView_unitWrite (p va : Nat) (bs : List Byte) : leasesView (s.unitWrite p va bs) = leasesView s :=
  foldl_leasesView (fun s _ => (leasesView_unitPut _ _ _ _).trans (leasesView_unitArrive s _ _ _ _)) _ s

theorem leasesView_eqPutOrLose (p q : Nat) (entry : Nat → List Byte) : leasesView (s.eqPutOrLose p q entry) = leasesView s := by
  have bus (s : State) (p : Nat) (host : Bool) (a : Nat) (bs : List Byte) : leasesView (s.busWrite p host a bs) = leasesView s := by
    grind [State.busWrite, leasesView_busStore, leasesView_unitWrite]
  refine Eq.trans (congrArg leasesView ?_) (leasesView_eqPutBy s bus p q entry)
  unfold State.eqPutOrLose State.eqPut
  split <;> simp_all

/-! ### Inputs of the log (15 R364) -/

theorem leasesView_askStop (bit : Nat) : leasesView (s.askStop bit) = leasesView s := rfl

theorem leasesView_replayTake (st pos len : Nat) : leasesView (s.replayTake st pos len).2 = leasesView s :=
  leasesView_mapLeases s fun l => by split <;> rfl

theorem leasesView_input {st slot : Nat} {bs : List Byte} {other : Nat → Bool} :
    ∀ x ∈ s.input st slot bs other, leasesView x.2 = leasesView s := by
  grind [State.input, State.onPart, State.setPart, leasesView, leasesView_askStop, leasesView_replayTake, leasesView_unitWrite]

end

/-! ### The frame of a unit

A unit is done with its lease in focus: a live one that runs no prologue. -/

/-- The focus of s is that of r, live and no prologue, but for what a unit may change. -/
def Kept (r s : State) : Prop :=
  (r.cur.prologue = false ∧ r.cur.st ≠ .free) ∧ s.datum = r.datum ∧ leaseView s.cur = leaseView r.cur

/-- What a checked access leaves. -/
def accKept (r : State) : AccRes → Prop
  | .ok _ s => Kept r s
  | .refuse _ _ _ s => Kept r s
  | .park _ _ _ s => Kept r s
  | .isolate s => Kept r s
  | .waits s => Kept r s

/-- What a race check leaves. -/
def raceKept {α β : Type} (r : State) : Except (α × β × State) State → Prop
  | .ok s => Kept r s
  | .error (_, _, s) => Kept r s

/-- What an operation leaves that ends with a result or with a state in which it has stopped. -/
def exceptKept {α : Type} (r : State) (good : α → State) : Except State α → Prop
  | .ok x => Kept r (good x)
  | .error s => Kept r s

theorem Kept.of_view {r s t : State} (h : Kept r s) (ht : leasesView t = leasesView s) : Kept r t := by
  grind [Kept, leasesView]

theorem Kept.prologue {r s : State} (h : Kept r s) : s.cur.prologue = false := by
  grind [Kept, leaseView]

theorem Kept.st {r s : State} (h : Kept r s) : s.cur.st ≠ .free := by
  grind [Kept, leaseView]

theorem Kept.onCur {r s : State} {f : Lease → Lease} (h : Kept r s) (hf : leaseView (f s.cur) = leaseView s.cur) : Kept r (s.onCur f) :=
  ⟨h.1, h.2.1, hf.trans h.2.2⟩

theorem foldl_kept {β : Type} {r s : State} {f : State → β → State} (hf : ∀ s x, Kept r s → Kept r (f s x)) (xs : List β) (h : Kept r s) :
    Kept r (xs.foldl f s) := by
  induction xs generalizing s with
  | nil => exact h
  | cons x _ ih => exact ih (hf s x h)

section
variable {r s : State}

/-! ### Translation and reads -/

theorem fillLine_kept {slot key : Nat} (h : Kept r s) : Kept r (s.fillLine slot key) := h.of_view (leasesView_fillLine ..)

theorem tlbPut_kept {at_ : Nat} {e : TlbEntry} (h : Kept r s) : Kept r (s.tlbPut at_ e) := by
  grind [State.tlbPut, Kept, leasesView, leasesView_victim]

theorem walkFill_kept {p die va : Nat} (h : Kept r s) : Kept r (s.walkFill p die va).2 := by
  unfold State.walkFill
  dsimp only
  split
  · exact h
  have fills (w : List Walk) (xs : List Nat) : Kept r (xs.foldl (fun s a => s.fillLine 127 (hbmKey a)) { s with walks := w }) :=
    foldl_kept (fun _ _ h => fillLine_kept h) xs h
  split
  · exact fills _ _
  · exact tlbPut_kept (tlbPut_kept (fills _ _))

theorem lookup_kept {p die va : Nat} (h : Kept r s) : Kept r (s.lookup p die va).2 := by
  grind [State.lookup, tlbPut_kept, walkFill_kept]

theorem translate_kept {p die va : Nat} {k : AccKind} {view : Bool} (h : Kept r s) : Kept r (s.translate p die va k view).2 := by
  have ats (s : State) (pa : Nat) (h : Kept r s) : Kept r (s.atsCheck p pa).2 := by
    grind [State.atsCheck, State.setPart, Kept]
  grind [State.translate, !lookup_kept]

theorem readTr_kept {t : Tr} {n : Nat} {view : Bool} (h : Kept r s) : Kept r (s.readTr t n view).2 := by
  grind [State.readTr, fillLine_kept]

theorem writeTr_kept {t : Tr} {bs : List Byte} {view : Bool} (h : Kept r s) : Kept r (s.writeTr t bs view) := h.of_view (leasesView_writeTr ..)

/-! ### Checked accesses -/

theorem fetchKnow_kept {st : Stream} {a : Nat} (h : Kept r s) : Kept r (s.fetchKnow st a) := by
  grind [State.fetchKnow, State.onCur, Kept, leaseView, leasesView, leasesView_victim]

theorem reportRace_kept {a : Access} {record : Nat → List Byte} (h : Kept r s) : Kept r (s.reportRace a record) := by
  grind [State.reportRace, State.onCur, Kept, leaseView, leasesView, leasesView_eqPutOrLose]

theorem badData_kept {a : Access} {t : Tr} (h : Kept r s) : Kept r (s.badData a t) :=
  Kept.of_view (s := { s with retiredPages := _ }) h (leasesView_haltLine ..)

theorem raceCheck_kept {a : Access} {key : Nat} (h : Kept r s) : raceKept r (s.raceCheck a key) := by
  unfold State.raceCheck
  extract_lets l
  split
  · dsimp only [raceKept]
    split <;> exact h
  split
  · exact h
  rename_i q y m fetched record _ _
  have hf : Kept r fetched := by
    dsimp only [fetched]
    split
    · exact h
    · exact foldl_kept (fun _ _ h => fetchKnow_kept h) _ h
  have hrec (s : State) (h : Kept r s) : Kept r (record s) := by
    dsimp only [record]
    split <;> exact h
  clear_value record fetched
  split
  · exact hrec _ hf
  split
  · exact (hrec _ hf).onCur rfl
  split
  · exact hrec _ hf
  · extract_lets rec_
    split
    · exact hrec _ (reportRace_kept hf)
    · exact hf

theorem accessHome_kept {a : Access} {t : Tr} (h : Kept r s) : raceKept r (s.accessHome a t) := by
  have hr := raceCheck_kept (a := a) (key := t.key) h
  cases e : s.raceCheck a t.key <;> grind [State.accessHome, Except.map, raceKept, Kept.of_view, leasesView_countHome]

theorem accessAt_kept {early : Bool} {a : Access} {view : Bool} (h : Kept r s) : accKept r (s.accessAt early a view) := by
  unfold State.accessAt
  extract_lets l refuseAt
  split
  · exact h
  have ht : Kept r (s.translate l.part l.die a.va a.kind view).2 := translate_kept h
  generalize s.translate l.part l.die a.va a.kind view = x at ht ⊢
  obtain ⟨_ | ⟨c, _, _⟩ | _, w⟩ := x
  case waits => exact ht
  case fault => cases c <;> exact ht
  case ok t =>
    dsimp only
    split
    · exact ht
    split
    · exact badData_kept ht
    split
    · exact ht
    split
    · exact ht
    · have hh : raceKept r (w.accessHome a t) := accessHome_kept ht
      generalize w.accessHome a t = y at hh ⊢
      obtain ⟨_, _, _⟩ | _ := y <;> exact hh

theorem accessGlobal_kept {a : Access} {view : Bool} (h : Kept r s) : accKept r (s.accessGlobal a view) := accessAt_kept h

theorem accessScratch_kept {a : Access} (h : Kept r s) : accKept r (s.accessScratch a) := by
  have hr := raceCheck_kept (a := { a with scr := true }) (key := s.cur.winKey a.va) h
  grind [State.accessScratch, accKept, raceKept, badData_kept]
end

section
variable {r s : State}

theorem scratchCheckOf_kept {ex : Bool} {cmd : Option Nat} {st : Stream} {slot scope : Nat} {gs : List (AccKind × Nat)} (h : Kept r s) :
    raceKept r (scratchCheckOf ex cmd st slot scope gs s) := by
  induction gs generalizing s with
  | nil => exact h
  | cons g gs ih =>
    have ha := accessScratch_kept
      (a := { st := st, kind := g.1, scope := scope, va := g.2, scr := true, late := st ≠ .cp, slot := slot, cmd := cmd, exempt := ex }) h
    rw [scratchCheckOf]
    split
    next e => rw [e] at ha; exact ih ha
    next e => rw [e] at ha; exact ha
    next => exact h

theorem cmdScratchCheck_kept {c : Cmd} {k : AccKind} {gs : List Nat} (h : Kept r s) : raceKept r (c.scratchCheck k gs s) :=
  scratchCheckOf_kept h

/-! ### Vectors, signals and windows -/

theorem release_kept {st : Stream} {slot : Nat} (h : Kept r s) : Kept r (s.release st slot).2 := by
  grind [State.release, State.setAgent, State.onPart, State.setPart, State.onCur, State.nextFree, Kept, leaseView, leasesView,
    leasesView_eqPutOrLose]

theorem addDone_kept {d : Done} (h : Kept r s) : Kept r (s.addDone d) := by
  unfold State.addDone
  dsimp only
  split
  · exact h.onCur rfl
  · exact (release_kept h).onCur rfl

theorem winWrite_kept {a : Nat} {bs : List Byte} (h : Kept r s) : Kept r (s.winWrite a bs) := by
  induction bs generalizing a s with
  | nil => exact h
  | cons b bs ih => exact ih (s := { s with mem := _ }) h

theorem cardWrite_kept {c : Cmd} {off : Nat} {bs : List Byte} (h : Kept r s) : Kept r (s.cardWrite c off bs) := by
  unfold State.cardWrite
  split
  · exact winWrite_kept h
  · exact h.of_view (leasesView_unitWrite ..)

theorem input_kept {st slot : Nat} {bs cs : List Byte} {other : Nat → Bool} {t : State} (h : Kept r s)
    (hx : s.input st slot bs other = some (cs, t)) : Kept r t := h.of_view (leasesView_input s (cs, t) hx)

/-! ### Stops, parking and halts -/

theorem haltBy_kept {c : Cause} {st : Stream} {a : Nat} (h : Kept r s) : Kept r (s.haltBy c st a) := h.of_view (leasesView_haltLine ..)

theorem park_kept {st : Stream} {c : Cause} {flags va offset slot tier : Nat} {cmd : Option Nat} (h : Kept r s) :
    Kept r (s.park st c flags va offset slot tier cmd) := by
  have hw : Kept r s.writeResumes := foldl_kept (fun _ _ h => cardWrite_kept h) _ h
  unfold State.park
  simp only [h.prologue, Bool.false_eq_true, if_false]
  refine Kept.onCur (s := s.writeResumes.onPart _ _) hw ?_
  grind [leaseView]

theorem isolation_kept {st : Stream} {va : Nat} (h : Kept r s) : Kept r (s.isolation st va) := by
  unfold State.isolation
  simp only [h.prologue, Bool.false_eq_true, if_false]
  exact haltBy_kept (h.onCur rfl)

theorem onStream_kept {st : Stream} {f : StreamState → StreamState} (h : Kept r s) : Kept r (s.onStream st f) :=
  h.onCur (by cases st <;> rfl)

/-- A stop that is found late takes no entry of the log. -/
theorem lateStop_kept {k : Nat} {cause : Cause} {i : List W64} (h : Kept r s) : Kept r (s.lateStop k cause i) := by
  unfold State.lateStop
  split
  · exact h
  dsimp only
  split
  · exact h
  · refine onStream_kept ?_
    unfold State.stopStream
    split
    · exact h
    · simp only [Bool.not_true, Bool.and_false, Bool.false_eq_true, if_false]
      exact onStream_kept h

theorem onCmd_kept {k : Nat} {f : Cmd → Cmd} (h : Kept r s) : Kept r (s.onCmd k f) := h.onCur rfl

theorem cmdStop_kept {c : Cmd} {k : AccKind} {va : Nat} {a : AccRes} (h : Kept r s) (ha : accKept r a) : Kept r (s.cmdStop c k va a) := by
  unfold State.cmdStop
  split
  · exact ha
  · exact ha
  · refine lateStop_kept ?_
    split
    · exact h
    · exact ha
  · exact onCmd_kept (park_kept ha)
  · exact isolation_kept ha

/-! ### Completion -/

theorem acquire_kept {st : Stream} {v : Vec} (h : Kept r s) : Kept r (s.acquire st v) := h

theorem releaseEdges_kept {c : Cmd} (h : Kept r s) : Kept r (s.releaseEdges c) := by
  unfold State.releaseEdges
  dsimp only
  split
  · exact h
  · exact foldl_kept (fun _ _ h => acquire_kept h) _ (release_kept h)

theorem finishCmd_kept {k : Nat} {bit : Option Bool} (h : Kept r s) : Kept r (s.finishCmd k bit) := by
  unfold State.finishCmd
  split
  · exact h
  next c _ =>
    have hf : Kept r (s.flag c.flags) := h.onCur rfl
    exact addDone_kept ((releaseEdges_kept hf).onCur rfl)

theorem finishCard_kept {c : Cmd} (h : Kept r s) : Kept r (s.finishCard c) := by
  unfold State.finishCard
  extract_lets u w
  have hu : Kept r u := by
    refine releaseEdges_kept ?_
    split
    · exact cardWrite_kept h
    · exact h
  have hw : Kept r w := hu.onCur rfl
  clear_value w
  split
  · split
    · exact finishCmd_kept hw
    · exact hw
  · exact hw

/-! ### The lease of a window in the package (09 R229) -/

theorem leasesView_holdBank (s : State) (id a : Nat) : leasesView (s.holdBank id a) = leasesView s := by
  grind [State.holdBank, State.onCur, leasesView, leaseView]

/-- A live lease that gives the focus away stands first among the others. -/
theorem focus_of_live (hs : s.cur.st ≠ .free) (l : Nat) :
    s.focus l = s ∨ ∃ x w, x.id ≠ s.cur.id ∧ s.focus l = { s with cur := x, rest := s.cur :: w } := by
  rw [State.focus]
  split
  · exact .inl rfl
  next hl =>
    split
    · exact .inl rfl
    next x hx =>
      have hxl : x.id = l := by simpa using List.find?_some hx
      exact .inr ⟨x, _, by rw [hxl]; exact Ne.symm hl, rfl⟩

/-- Another lease takes the focus for a while and gives it back. -/
theorem asLease_kept {l : Nat} {f : State → State} (hf : ∀ s, leasesView (f s) = leasesView s) (h : Kept r s) : Kept r (asLease l s f) := by
  have self (u : State) (hu : leasesView u = leasesView s) : Kept r (u.focus s.cur.id) := by
    have hid : u.cur.id = s.cur.id := congrArg (·.2.1.id) hu
    rw [State.focus, if_pos hid]
    exact h.of_view hu
  unfold asLease onLease
  dsimp only
  split
  next =>
    obtain hl | ⟨x, w, hx, hl⟩ := focus_of_live h.st l
    · rw [hl]
      exact self _ (hf s)
    · rw [hl]
      have hv := hf { s with cur := x, rest := s.cur :: w }
      generalize f { s with cur := x, rest := s.cur :: w } = u at hv ⊢
      simp only [leasesView, Prod.mk.injEq, List.map_cons, List.map_eq_cons_iff] at hv
      obtain ⟨hdatum, hcur, y, ys, hrest, hy, -⟩ := hv
      have hid : u.cur.id ≠ s.cur.id := (congrArg Lease.id hcur).trans_ne hx
      have hyid : y.id = s.cur.id := by simpa only [leaseView] using congrArg Lease.id hy
      rw [State.focus, if_neg hid, hrest, List.find?_cons_of_pos (by simpa using hyid)]
      exact ⟨h.1, hdatum.trans h.2.1, hy.trans h.2.2⟩
  · exact self s rfl
end

section
variable {r s : State}

/-- What the read of a source granule leaves. -/
def gatherKept (r : State) : Gather → Prop
  | .got _ s => Kept r s
  | .waits s => Kept r s
  | .stops s => Kept r s

theorem touchLoc_kept {c : Cmd} {k : AccKind} {loc : Loc} {fresh : Bool} (h : Kept r s) : accKept r (touchLoc c k loc fresh s) := by
  unfold touchLoc
  split
  · split
    · exact accessScratch_kept h
    · exact h
  · split
    · exact accessGlobal_kept h
    next va view _ =>
      have ht : Kept r (s.translate s.cur.part s.cur.die va k view).2 := translate_kept h
      generalize s.translate s.cur.part s.cur.die va k view = x at ht ⊢
      obtain ⟨_ | ⟨c, _, _⟩ | _, w⟩ := x
      case fault => cases c <;> exact ht
      all_goals exact ht
  · exact h

theorem holdBank_kept {id a : Nat} (h : Kept r s) : Kept r (s.holdBank id a) := h.of_view (leasesView_holdBank ..)

theorem readLoc_kept {c : Cmd} {loc : Loc} {t : Tr} {n : Nat} (h : Kept r s) : Kept r (readLoc c loc t n s).2 := by
  cases loc
  case scr => exact holdBank_kept h
  case glob => exact readTr_kept h
  all_goals exact h

theorem writeLoc_kept {c : Cmd} {loc : Loc} {t : Tr} {bs : List Byte} (h : Kept r s) : Kept r (writeLoc c loc t bs s) := by
  cases loc
  case scr => exact holdBank_kept (winWrite_kept h)
  case glob => exact writeTr_kept h
  all_goals exact h

/-! ### Queue sides and remote sides -/

theorem skipRows_kept {k : Nat} (h : Kept r s) : Kept r (s.skipRows k) := by
  unfold State.skipRows
  split
  · exact h
  dsimp only
  split
  · exact h
  · exact onCmd_kept (h.onCur rfl)

theorem dqBegin_kept {c : Cmd} {t : State} (h : Kept r s) (ht : dqBegin c s = some t) : Kept r t := by
  grind [dqBegin, State.onCmd, State.onCur, Kept, leaseView]

theorem dqEnd_kept {k : Nat} (h : Kept r s) : Kept r (dqEnd k s) := by
  unfold dqEnd
  split
  · exact h
  dsimp only
  split
  · exact onCmd_kept (h.onCur rfl)
  · exact h

theorem advanceCmd_kept {k n : Nat} (h : Kept r s) : Kept r (s.advanceCmd k n) := dqEnd_kept (onCmd_kept h)

theorem askFar_kept {c : Cmd} {to_ : Nat × Nat} {virt : Option Nat} {kind va data cmp : Nat} {bs : List Byte} (h : Kept r s) :
    Kept r (s.askFar c to_ virt kind va data cmp bs) :=
  onCmd_kept (s := s.addReq _) h

theorem sendFar_kept {c : Cmd} {kind va data cmp : Nat} {bs : List Byte} (h : Kept r s) : Kept r (s.sendFar c kind va data cmp bs) := by
  unfold State.sendFar
  split
  · exact lateStop_kept h
  · exact askFar_kept h

theorem farForget_kept {t : Tr} (h : Kept r s) : Kept r (s.farForget t) := h

theorem farAsk_kept {st : Stream} {t : Tr} {va : Nat} (h : Kept r s) : Kept r (s.farAsk st t va) := by
  unfold State.farAsk
  dsimp only
  split <;> exact h

/-- A write into a window of the package: the other lease logs it and holds its bank. -/
theorem windowWrite_kept {c : Cmd} {off : Nat} {bs : List Byte} (h : Kept r s) :
    exceptKept r id (windowWrite c off bs s) := by
  unfold windowWrite
  cases (s.dieAt (hDd c.dst)).bind s.winTarget with
  | none => exact lateStop_kept h
  | some t =>
    dsimp only
    split_ifs
    · exact lateStop_kept h
    · exact h
    · exact h
    have hr := raceCheck_kept (a := { c.access .write off with scr := true }) (key := t.winKey off) h
    generalize s.raceCheck { c.access .write off with scr := true } (t.winKey off) = x at hr ⊢
    obtain ⟨_, _, w⟩ | w := x
    · exact lateStop_kept hr
    · refine asLease_kept (s := w) (fun v => ?_) hr
      refine (leasesView_holdBank ..).trans ?_
      split
      · rfl
      · cases hx : v.input 4 (v.landSlot t off) bs fun _ => false with
        | none => rfl
        | some x => exact leasesView_input v x hx

/-! ### Moving bytes (09 R217) -/

theorem unretry_kept {c : Cmd} (h : Kept r s) : Kept r (s.unretry c) := by
  have hs : Kept r (if (s.cur.stream c.stream).retry = some c.seq then s.onStream c.stream fun x => { x with retry := none } else s) := by
    split
    · exact onStream_kept h
    · exact h
  unfold State.unretry
  dsimp only
  split
  · exact onCmd_kept hs
  · exact hs

theorem cmdStep_kept {k : Nat} {f : State → State} (hf : Kept r (f s)) : Kept r (cmdStep k f s) := by
  unfold cmdStep
  dsimp only
  split
  · exact hf
  split
  · split
    · exact hf
    · exact hf.onCur rfl
  · exact hf

theorem chunkIn_kept {c : Cmd} {i : Nat} {bs cs : List Byte} {t : State} (h : Kept r s) (hx : chunkIn c i bs s = some (cs, t)) : Kept r t := by
  unfold chunkIn at hx
  split at hx
  · exact input_kept h hx
  · cases hx
    exact h

theorem storeBytes_kept {c : Cmd} {i : Nat} {bs : List Byte} (h : Kept r s) : Kept r (storeBytes c i bs s).2 := by
  have hw (off : Nat) := windowWrite_kept (c := c) (off := off) (bs := bs) h
  have ht (d : Loc) := touchLoc_kept (c := c) (k := .write) (loc := d) (fresh := c.reaches cmdDst i) h
  grind [storeBytes, accKept, exceptKept, sendFar_kept, writeLoc_kept, askFar_kept, onCmd_kept, advanceCmd_kept, cmdStop_kept, lateStop_kept]

theorem storeSpan_kept {k n : Nat} {bs : List Byte} (h : Kept r s) : Kept r (storeSpan k n bs s).2 := by
  induction n generalizing bs s with
  | zero => exact h
  | succ n ih => grind [storeSpan, storeBytes_kept]

theorem gatherRun_kept {c : Cmd} {j : Nat} (h : Kept r s) : gatherKept r (gatherRun c j s) := by
  unfold gatherRun
  extract_lets sl n taken
  have ht : accKept r (touchLoc c .read sl (c.reaches cmdSrc j) s) := touchLoc_kept h
  clear_value taken n sl
  split
  · exact h
  split
  · grind [gatherKept, sendFar_kept, chunkIn_kept]
  split
  next e => rw [e] at ht; exact ht
  next t s' e =>
    rw [e] at ht
    extract_lets bytes
    have hb (bs : List Byte) (w : State) (hw : bytes = some (bs, w)) : Kept r w := by
      grind [accKept, readLoc_kept, farForget_kept, Option.map_eq_some_iff]
    clear_value bytes
    grind [accKept, gatherKept, farAsk_kept, chunkIn_kept]
  · exact cmdStop_kept h ht

theorem gather_kept {c : Cmd} {j n : Nat} (h : Kept r s) : gatherKept r (gather c j n s) := by
  induction n generalizing j s with
  | zero => exact gatherRun_kept h
  | succ n ih =>
    have hg := gatherRun_kept (c := c) (j := j) h
    grind [gather, gatherKept]

theorem moveChunk_kept {k budget : Nat} (h : Kept r s) : Kept r (moveChunk k budget s).2 := by
  unfold moveChunk
  split
  · exact h
  next c0 _ =>
    split
    · exact h
    split
    · exact h
    next s1 e =>
      have hb : Kept r s1 := dqBegin_kept h e
      split
      · exact hb
      next c _ =>
        extract_lets i buffered need put
        have hput (bs : List Byte) (s : State) (h : Kept r s) : Kept r (put bs s).2 := storeSpan_kept h
        have hg : gatherKept r (gather c (i + buffered) 64 s1) := gather_kept hb
        clear_value put
        grind [gatherKept, onCmd_kept]

theorem moveBytes_kept {k n m : Nat} (h : Kept r s) : Kept r (moveBytes k n m s) := by
  induction n generalizing m s with
  | zero => exact h
  | succ n ih => grind [moveBytes, moveChunk_kept]

theorem walkEnd_kept {k : Nat} (h : Kept r s) : Kept r (s.walkEnd k) := by
  grind [State.walkEnd, finishCard_kept, finishCmd_kept]

theorem copyUnit_kept {k : Nat} (h : Kept r s) : Kept r (copyUnit k s) := by
  refine cmdStep_kept ?_
  split
  · exact h
  · split
    · exact h
    · exact walkEnd_kept (skipRows_kept (moveBytes_kept (skipRows_kept (unretry_kept h))))
end

section
variable {r s : State}

/-! ### Slice operators (09 R225-R227) -/

theorem maintStep_kept {c : Cmd} {n : Nat} (h : Kept r s) : Kept r (maintStep c n s) := by
  grind [maintStep, onCmd_kept, finishCmd_kept]

theorem prefLine_kept {c : Cmd} {n : Nat} (h : Kept r s) : Kept r (prefLine c n s) := by
  have ht := translate_kept (p := s.cur.part) (die := s.cur.die) (va := maintAddr c) (k := .read) (view := hSpace c.src = spView) h
  grind [prefLine, maintStep_kept, isolation_kept, Kept.of_view, leasesView_touchLine]

theorem flushPart_kept {c : Cmd} {n : Nat} {drop : Bool} (h : Kept r s) : Kept r (flushPart c n drop s) := by
  have ht := translate_kept (p := s.cur.part) (die := s.cur.die) (va := maintAddr c) (k := .read) (view := false) h
  grind [flushPart, maintStep_kept, isolation_kept, Kept.of_view, leasesView_flushLine]

theorem leasesView_reconcile (s : State) (t : Tr) : leasesView (s.reconcile t) = leasesView s := by
  grind [State.reconcile, leasesView, leasesView_writePlain]

theorem dcmpfLine_kept {c : Cmd} {n : Nat} (h : Kept r s) : Kept r (dcmpfLine c n s) := by
  have ht := translate_kept (p := s.cur.part) (die := s.cur.die) (va := maintAddr c) (k := .write) (view := false) h
  have hc (s : State) (t : Tr) (h : Kept r s) : Kept r (s.reconcile t) := h.of_view (leasesView_reconcile s t)
  grind [dcmpfLine, maintStep_kept, isolation_kept, lateStop_kept]

theorem globalParts_kept {c : Cmd} {k : AccKind} {xs : List (Nat × Nat)} (h : Kept r s) :
    exceptKept r (·.2) (globalParts c k xs s) := by
  induction xs generalizing s with
  | nil => exact h
  | cons x xs ih =>
    have hx := accessGlobal_kept (a := c.access k x.1) (view := false) h
    unfold globalParts
    split
    next t w e =>
      rw [e] at hx
      have hr := ih hx
      revert hr
      cases globalParts c k xs w <;> exact id
    · exact cmdStop_kept h hx

theorem readParts_kept {xs : List (Tr × Nat)} (h : Kept r s) : Kept r (readParts xs s).2 := by
  induction xs generalizing s with
  | nil => exact h
  | cons x xs ih => grind [readParts, readTr_kept]

theorem writeParts_kept {xs : List (Tr × Nat)} {bs : List Byte} (h : Kept r s) : Kept r (writeParts xs bs s) := by
  induction xs generalizing bs s with
  | nil => exact h
  | cons x xs ih => exact ih (writeTr_kept h)

theorem atomvSource_kept {c : Cmd} {w : Nat} (h : Kept r s) : Kept r (atomvSource c w s).2 := by
  unfold atomvSource
  split
  · split
    · split
      · exact h
      · exact onCmd_kept (h.onCur rfl)
    · exact h
  · have hc := cmdScratchCheck_kept (c := c) (k := .read) (gs := (elemParts (elemAt c.src c.offset w).toNat w).map (·.1)) h
    grind [raceKept, lateStop_kept]

theorem farElem_kept {c : Cmd} {parts : List (Tr × Nat)} {bs : List Byte} (h : Kept r s) : Kept r (farElem c parts bs s) := by
  unfold farElem
  split
  · split
    · exact lateStop_kept h
    · exact askFar_kept h
  · exact lateStop_kept h

theorem atomvElem_kept {c : Cmd} (h : Kept r s) : Kept r (atomvElem c s) := by
  unfold atomvElem
  extract_lets w
  split
  · exact h
  have hs : Kept r (atomvSource c w s).2 := atomvSource_kept h
  generalize atomvSource c w s = x at hs ⊢
  obtain ⟨_ | bs, s1⟩ := x
  · exact hs
  have hp : exceptKept r (·.2) (globalParts c .atomic (elemParts (addr64 (elemAt c.dst c.offset w)) w) s1) := globalParts_kept hs
  dsimp only
  generalize globalParts c .atomic (elemParts (addr64 (elemAt c.dst c.offset w)) w) s1 = y at hp ⊢
  obtain s2 | ⟨parts, s2⟩ := y
  · exact hp
  dsimp only
  split
  · exact farElem_kept hp
  split
  · exact finishCmd_kept (onCmd_kept (writeParts_kept (readParts_kept hp)))
  · exact onCmd_kept (writeParts_kept (readParts_kept hp))

theorem sliceUnit_kept {k : Nat} (h : Kept r s) : Kept r (sliceUnit k s) := by
  unfold sliceUnit
  split
  · exact h
  next c _ =>
    split
    · exact h
    · refine cmdStep_kept ?_
      have hu : Kept r (s.unretry c) := unretry_kept h
      dsimp only
      split
      · exact prefLine_kept hu
      · exact flushPart_kept hu
      · exact flushPart_kept hu
      · exact dcmpfLine_kept hu
      · exact atomvElem_kept hu

/-! ### Queues of outcome bits and work lists (11 R268-R275) -/

theorem outqRead_kept {c : Cmd} (h : Kept r s) : Kept r (outqRead c s) := by
  unfold outqRead
  extract_lets loc
  have ht : accKept r (touchLoc c .read loc true s) := touchLoc_kept h
  split
  next t w e =>
    rw [e] at ht
    extract_lets other fin
    have hfin (bs : List Byte) (s : State) (h : Kept r s) : Kept r (fin bs s) := by
      dsimp only [fin]
      split
      · exact h
      next hx =>
        refine finishCmd_kept ?_
        split at hx
        · exact input_kept h hx
        · cases hx
          exact h
    clear_value fin
    split
    · split
      · exact farAsk_kept ht
      · exact hfin _ _ (farForget_kept ht)
    · exact hfin _ _ (readLoc_kept ht)
  · exact cmdStop_kept h ht

theorem handOver_kept {desc : Nat} {m : WlMsg} (h : Kept r s) : Kept r (s.handOver desc m) := h

theorem readSet_kept {c : Cmd} {hd : Handle} (h : Kept r s) : Kept r (readSet c hd s).2 := by
  have hc := cmdScratchCheck_kept (c := c) (k := .read) (gs := granulesOf (hBase hd) 8) h
  grind [readSet, raceKept, lateStop_kept]

theorem wlappRows_kept {k n : Nat} (h : Kept r s) : Kept r (wlappRows k n s) := by
  induction n generalizing s with
  | zero => exact h
  | succ n ih =>
    have hc (c : Cmd) (gs : List Nat) := cmdScratchCheck_kept (c := c) (k := .read) (gs := gs) h
    grind [wlappRows, raceKept, finishCmd_kept, lateStop_kept, handOver_kept, onCmd_kept]

theorem takeWrite_kept {c : Cmd} (h : Kept r s) : Kept r (takeWrite c s) := by
  have hc (s : State) (gs : List Nat) (h : Kept r s) := cmdScratchCheck_kept (c := c) (k := .write) (gs := gs) h
  grind [takeWrite, raceKept, input_kept, lateStop_kept, winWrite_kept, finishCmd_kept]

theorem listUnit_kept {k : Nat} (h : Kept r s) : Kept r (listUnit k s) := by
  unfold listUnit
  split
  · exact h
  next c _ =>
    extract_lets replay
    clear_value replay
    have hu : Kept r (s.unretry c) := unretry_kept h
    have hset (hd : Handle) := readSet_kept (c := c) (hd := hd) hu
    have hask (bit : Nat) : Kept r (s.askStop bit) := h
    grind [wlappTurn, outqRead_kept, wlappRows_kept, takeWrite_kept, handOver_kept, finishCmd_kept, onCmd_kept]

/-! ### RATOM (21 R414-R416) -/

theorem sendMsg_kept {d : Nat} {m : List Byte} (h : Kept r s) : Kept r (s.sendMsg d m) := by
  unfold State.sendMsg
  dsimp only
  split <;> exact h

theorem launchReq_kept {die : Nat} {q : RatomReq} (h : Kept r s) : Kept r (s.launchReq die q) := by
  have take (m : List Byte) : Kept r (s.takeMsg die m) := by
    unfold State.takeMsg
    dsimp only
    split
    · exact sendMsg_kept h
    split
    · exact h
    · exact h
    · exact h
    · split
      · exact h
      · split <;> exact h
  grind [State.launchReq, sendMsg_kept]

theorem ratomOperand_kept {c : Cmd} (h : Kept r s) : exceptKept r (·.2.2) (ratomOperand c s) := by
  have hc (gs : List Nat) := cmdScratchCheck_kept (c := c) (k := .read) (gs := gs) h
  grind [ratomOperand, raceKept, exceptKept, lateStop_kept]

theorem replayElem_kept {c : Cmd} (h : Kept r s) : Kept r (replayElem c s) := by
  grind [replayElem, input_kept, winWrite_kept, onCmd_kept, finishCmd_kept]

theorem ratomSend_kept {k : Nat} (h : Kept r s) : Kept r (ratomSend k s) := by
  refine cmdStep_kept ?_
  split
  · exact h
  next c _ =>
    extract_lets l aid u va req emit
    have hu : Kept r u := unretry_kept h
    have hemit (v cmp : Nat) (tr : Tr) (pkg : Option (Nat × Nat)) (s : State) (h : Kept r s) : Kept r (emit v cmp tr pkg s) :=
      launchReq_kept (onCmd_kept (Kept.onCur (s := { s with ratoms := _, nextRatom := _ }) h rfl))
    have ho := ratomOperand_kept (c := c) hu
    have ha (s : State) (h : Kept r s) := accessAt_kept (early := true) (a := c.access .atomic va) (view := false) h
    clear_value emit u
    grind [accKept, exceptKept, onCmd_kept, replayElem_kept, lateStop_kept, cmdStop_kept]

/-! ### KVGET and KVPUT (09 R230) -/

theorem kvFill_kept {k va n : Nat} (h : Kept r s) : Kept r (kvFill k va n s) := by
  induction n generalizing s with
  | zero => exact h
  | succ n ih =>
    rw [kvFill]
    split
    · exact h
    next c _ =>
      extract_lets a
      split
      · exact h
      rename_i more _
      have hmore (bs : List Byte) (s : State) (h : Kept r s) : Kept r (more bs s) := ih (onCmd_kept h)
      have ha : accKept r (s.accessGlobal (c.access .read a) false) := accessGlobal_kept h
      clear_value more
      split
      next t w e =>
        rw [e] at ha
        split
        · split
          · exact farAsk_kept ha
          · exact hmore _ _ (farForget_kept ha)
        · exact hmore _ _ (readTr_kept ha)
      · exact cmdStop_kept h ha

theorem kvDone_kept {k : Nat} (h : Kept r s) : Kept r (kvDone k s) := by
  grind [kvDone, finishCmd_kept]

theorem postFar_kept {c : Cmd} {t : Tr} {va : Nat} {bs : List Byte} (h : Kept r s) : Kept r (s.postFar c t va bs) := h

theorem kvStore_kept {k va n : Nat} (h : Kept r s) : Kept r (kvStore k va n s) := by
  induction n generalizing s with
  | zero => exact h
  | succ n ih =>
    have ha (a : Access) := accessGlobal_kept (a := a) (view := false) h
    grind [kvStore, kvNext, accKept, onCmd_kept, kvDone_kept, postFar_kept, writeTr_kept, cmdStop_kept]

theorem forgetRow_kept {va n : Nat} (h : Kept r s) : Kept r (s.forgetRow va n) := by
  refine foldl_kept (fun s k h => ?_) _ h
  grind [farForget_kept]

theorem kvAsk_kept {c : Cmd} {e mine theirs : Nat} {bs : List Byte} (h : Kept r s) : Kept r (kvAsk c e mine theirs bs s) := by
  unfold kvAsk
  extract_lets l req n q u w get
  have hu : Kept r u := onCmd_kept (s := s.addReq q) h
  have hw : Kept r w := hu.onCur rfl
  clear_value w
  split <;> exact hw

theorem kvUnit_kept {k : Nat} (h : Kept r s) : Kept r (kvUnit k s) := by
  unfold kvUnit
  split
  · exact h
  next c _ =>
    split
    · exact h
    extract_lets u l e mine theirs w
    have hu : Kept r u := unretry_kept h
    have hw : Kept r w := kvFill_kept hu
    clear_value w u
    split
    · exact finishCmd_kept hu
    split
    · exact kvStore_kept hu
    generalize (if c.m = 0 then u.stationUp l.die else (u.uePort l.part mine).isSome) = up
    split
    · exact lateStop_kept hu
    split
    · exact kvAsk_kept hu
    · grind [kvAsk_kept, forgetRow_kept]

/-! ### One unit of a command -/

/-- A unit acts for a lease that runs or is parked and has no prologue. -/
theorem cmdUnit_kept (s : State) (k : Nat) : cmdUnit k s = s ∨ Kept s (cmdUnit k s) := by
  unfold cmdUnit
  split
  · exact .inl rfl
  split
  · exact .inl rfl
  next hlive =>
    have h : Kept s s := by
      refine ⟨?_, rfl, rfl⟩
      grind [Lease.live]
    refine .inr ?_
    grind [copyUnit_kept, sliceUnit_kept, cmdStep_kept, listUnit_kept, ratomSend_kept, kvUnit_kept]
end

/-! ### What a unit of one kind does -/

section
variable {s : State} {c : Cmd}

/-- A lease that is not there has no unit to begin. -/
theorem exec_copySegment (s : State) (k : Nat) : exec (.copySegment s.cur.id k) s = .next (cmdUnit k s) := by
  have hfree (hf : s.cur.st = .free) : cmdUnit k s = s := by
    grind [cmdUnit, Lease.live]
  change Host.Outcome.next (onLease s.cur.id s (cmdUnit k)) = _
  grind [onLease, State.focus, State.lease?]

section
variable (hc : s.cur.cmd? c.seq = some c) (ha : s.cur.active = true)
include hc ha

theorem cmdUnit_wlseal (hk : c.kind = .wlseal) : cmdUnit c.seq s = cmdStep c.seq (listUnit c.seq) s := by
  grind [cmdUnit, Lease.active, CmdKind.moves, CmdKind.slice, CmdKind.listed]

variable (hg : s.cmdGoes c = true)
include hg

theorem cmdUnit_flush (hk : c.kind = .flush) :
    cmdUnit c.seq s = cmdStep c.seq (fun s => flushPart c (linePart c.src c.offset c.total) false (s.unretry c)) s := by
  grind [cmdUnit, sliceUnit, Lease.active, CmdKind.moves, CmdKind.slice]

theorem cmdUnit_atomv (hk : c.kind = .atomv ∨ c.kind = .atomvOut) : cmdUnit c.seq s = cmdStep c.seq (fun s => atomvElem c (s.unretry c)) s := by
  grind [cmdUnit, sliceUnit, Lease.active, CmdKind.moves, CmdKind.slice]

end

theorem unretry_cur (s : State) (c : Cmd) :
    (s.unretry c).cur.replay = s.cur.replay ∧ (s.unretry c).cur.part = s.cur.part ∧ (s.unretry c).cur.die = s.cur.die := by
  have hs (st : Stream) (l : Lease) (x : StreamState) :
      (l.setStream st x).replay = l.replay ∧ (l.setStream st x).part = l.part ∧ (l.setStream st x).die = l.die := by
    cases st <;> exact ⟨rfl, rfl, rfl⟩
  grind [State.unretry, State.onStream, State.onCmd, State.onCur]

theorem flushPart_of_ok {n : Nat} {drop : Bool} {tr : Tr} {v : State} (hr : s.cur.replay = none)
    (ht : s.translate s.cur.part s.cur.die (maintAddr c) .read false = (.ok tr, v)) :
    flushPart c n drop s = maintStep c n (v.flushLine tr.slot tr.key drop) := by
  rw [flushPart, hr, ht]
  rfl

theorem listUnit_wlseal {desc : Nat} {v : State} (hc : s.cur.cmd? c.seq = some c) (hg : s.cmdGoes c = true) (hr : s.cur.replay = none)
    (hk : c.kind = .wlseal) (hs : readSet c c.src (s.unretry c) = (some desc, v)) :
    listUnit c.seq s = (v.handOver desc (.seal v.cur.part desc (v.cur.aid + c.m))).finishCmd c.seq none := by
  grind [listUnit]

/-- The state after an element of an ATOMV has been combined at its home. -/
def atomvDone (c : Cmd) (bs : List Byte) (parts : List (Tr × Nat)) (s : State) : State :=
  let w := fmtWidth (hFmt c.dst) / 8
  let old := readParts parts s
  let new := atomvOp c.m (hFmt c.dst) (leNat old.1) (leNat bs)
  (writeParts parts (leBytes new.1 w) old.2).onCmd c.seq fun z =>
    { z with offset := z.offset + 1, buf := z.buf.drop w, flags := z.flags ||| new.2 }

theorem atomvElem_of_parts {bs : List Byte} {v x : State} {parts : List (Tr × Nat)} (hq : c.kind = .atomvOut → s.cur.dqTurn c = true)
    (hs : atomvSource c (fmtWidth (hFmt c.dst) / 8) s = (some bs, v))
    (hp : globalParts c .atomic (elemParts (addr64 (elemAt c.dst c.offset (fmtWidth (hFmt c.dst) / 8))) (fmtWidth (hFmt c.dst) / 8)) v =
      .ok (parts, x)) (hnear : ∀ y ∈ parts, y.1.tier ≠ 3) :
    atomvElem c s = if c.total ≤ c.offset + 1 then (atomvDone c bs parts x).finishCmd c.seq none else atomvDone c bs parts x := by
  have hturn : (c.kind = .atomvOut && !s.cur.dqTurn c) = false := by
    grind
  have hfar : (parts.any fun y => y.1.tier = 3) = false := by
    simpa using hnear
  rw [atomvElem, hturn, hs]
  dsimp only
  rw [hp]
  dsimp only
  rw [hfar]
  rfl
end

/-! ### A cycle of the shared engines (09 R217; 12 R314) -/

theorem mem_insertAccess {s : State} {t x : Turn} {xs : List Turn} : x ∈ s.insertAccess t xs ↔ x ∈ xs ∨ x = t := by
  induction xs with
  | nil => simp [State.insertAccess]
  | cons y ys ih => grind [State.insertAccess]

theorem mem_beginUnits {s : State} {xs : List (Nat × Nat)} {x : Turn} :
    x ∈ (s.beginUnits xs).turn ↔ x ∈ s.turn ∨ ∃ y ∈ xs, x = .event (.copySegment y.1 y.2) := by
  have begun (ts : List Turn) : x ∈ xs.foldl (fun ts x => s.insertAccess (.event (.copySegment x.1 x.2)) ts) ts ↔
      x ∈ ts ∨ ∃ y ∈ xs, x = .event (.copySegment y.1 y.2) := by
    induction xs generalizing ts with
    | nil => simp
    | cons y ys ih => simp [ih, mem_insertAccess, or_assoc]
  exact begun s.turn

theorem length_takeUnits_le (s : State) (ready : List (Nat × Nat)) (n : Nat) (ps : List Nat) : (takeUnits s ready n ps).length ≤ n := by
  induction ps generalizing n with
  | nil => exact Nat.zero_le n
  | cons p ps ih =>
    have hn := ih (n - ((ready.filter fun x => s.partOf x.1 = p).take n).length)
    have hmine := List.length_take_le n (ready.filter fun x => s.partOf x.1 = p)
    rw [takeUnits, List.length_append]
    omega

/-- What the acceptance of cards and a slot table leave: the turns to come and memory. -/
def turnView (s : State) : List Turn × Memory := (s.turn, s.mem)

theorem turnView_asLease {f : State → State} (hf : ∀ s, turnView (f s) = turnView s) (l : Nat) (s : State) :
    turnView (asLease l s f) = turnView s := by
  have focus (s : State) (l : Nat) : turnView (s.focus l) = turnView s := by
    unfold State.focus
    split
    · rfl
    · split <;> rfl
  refine (focus _ _).trans ?_
  unfold onLease
  split
  · exact (hf _).trans (focus s l)
  · rfl

theorem turnView_acceptCards (s : State) (d n : Nat) : turnView (s.acceptCards d n) = turnView s := by
  induction n generalizing s with
  | zero => rfl
  | succ n ih =>
    unfold State.acceptCards
    dsimp only
    split
    · rfl
    split
    · rfl
    · refine (ih _).trans (turnView_asLease (fun s => ?_) _ s)
      split <;> rfl

theorem turnView_swapTable (kind unit c : Nat) (s : State) : turnView (swapTable kind unit c s) = turnView s := by
  unfold swapTable
  dsimp only
  split
  · split <;> rfl
  · rfl

/-- The units that a cycle of a copy engine cluster begins are the turns that it adds. -/
theorem copyCycle_begins (d : Nat) (s : State) : ∃ ev : List (Nat × Nat), ev.length ≤ 8 ∧
    (∀ x, x ∈ (copyCycle d s).turn ↔ x ∈ s.turn ∨ ∃ y ∈ ev, x = Turn.event (.copySegment y.1 y.2)) ∧ (copyCycle d s).mem = s.mem := by
  have hview := (turnView_swapTable 0 d s.datum (s.acceptCards d 256)).trans (turnView_acceptCards s d 256)
  unfold copyCycle
  extract_lets u ready begun onDie
  obtain ⟨hturn, hmem⟩ : u.turn = s.turn ∧ u.mem = s.mem := Prod.mk.inj hview
  exact ⟨begun, length_takeUnits_le .., fun x => mem_beginUnits.trans (by rw [hturn]), hmem⟩

section
variable {kind unit c : Nat} {m : SMap Nat} {wc : Bool} {s : State}

theorem swapTable_of_due (h : (s.slotTable kind unit).staged = some (m, wc)) (hc : c % 64 = 0) :
    (swapTable kind unit c s).slotTable kind unit = { s.slotTable kind unit with slots := m, wc := wc, staged := none } := by
  unfold swapTable
  dsimp only
  rw [h]
  dsimp only
  rw [if_pos hc]
  exact sput_get ..

theorem swapTable_of_not_due (hc : c % 64 ≠ 0) : swapTable kind unit c s = s := by
  grind [swapTable]

end

theorem ct_of_leaseView {l m : Lease} (h : leaseView l = leaseView m) :
    l.ct.sregs = m.ct.sregs ∧ l.ct.shadow = m.ct.shadow ∧ l.ct.handles = m.ct.handles ∧ l.ct.pc = m.ct.pc ∧ l.ct.loops = m.ct.loops ∧
      l.ct.trapPc = m.ct.trapPc ∧ l.ct.trapCause = m.ct.trapCause := by
  grind [leaseView]

/-- Settles O32: every operation of a unit keeps what the frame holds of the lease in focus, and the outcomes are the branches of the
units. -/
theorem commandUnits : Obligations.CommandUnits := by
  refine ⟨fun s k => ⟨cmdUnit k s, exec_copySegment s k, ?frame⟩, fun s c hc ha hg hr => ⟨fun hk tr v ht => ?flush,
    fun hk desc v hs => ?wlseal, fun hk bs v parts x hs hp hnear => ?atomv⟩,
    fun s d => ⟨copyCycle d s, (copyCycle_begins d s).imp fun _ h => ⟨rfl, h⟩⟩,
    fun s kind unit c m wc h => ⟨swapTable_of_due h, swapTable_of_not_due⟩⟩
  case frame =>
    obtain h | ⟨-, hdatum, hview⟩ := cmdUnit_kept s k
    · rw [h]
      exact ⟨rfl, rfl, rfl, rfl, rfl, rfl, rfl, rfl⟩
    · obtain ⟨hsregs, hshadow, hhandles, hpc, hloops, hpcs, hcause⟩ := ct_of_leaseView hview
      exact ⟨hsregs, hshadow, hhandles, hpc, hloops, hpcs, hcause, hdatum⟩
  case flush =>
    obtain ⟨hreplay, hpart, hdie⟩ := unretry_cur s c
    rw [← hpart, ← hdie] at ht
    rw [exec_copySegment, cmdUnit_flush hc ha hg hk, ← flushPart_of_ok (hreplay.trans hr) ht]
    rfl
  case wlseal =>
    rw [exec_copySegment, cmdUnit_wlseal hc ha hk, ← listUnit_wlseal hc hg hr hk hs]
    rfl
  case atomv =>
    have hturn : c.kind = .atomvOut → (s.unretry c).cur.dqTurn c = true := by
      grind
    have helem := atomvElem_of_parts hturn hs hp hnear
    rw [exec_copySegment, cmdUnit_atomv hc ha hg (hk.imp_right And.left)]
    refine ⟨fun hlt => ?_, fun hle => ?_⟩
    · rw [if_neg hlt.not_ge] at helem
      exact congrArg (fun v => Host.Outcome.next (cmdStep c.seq (fun _ => v) s)) helem
    · rw [if_pos hle] at helem
      exact congrArg (fun v => Host.Outcome.next (cmdStep c.seq (fun _ => v) s)) helem

end Sys2Proof.Proofs.CommandUnits
